-- ==== Sys2Proof/Word.lean ====
section
/-! DEFINITION. The word types of the RH7160: bytes, 32-bit instruction words and 64-bit scalar words
(00 R9, 07 R180, 08 R209). -/

namespace Sys2Proof

/-- A byte of memory. -/
abbrev Byte := BitVec 8

/-- A scalar register's 64 bits. -/
abbrev Word := BitVec 64

/-- One 32-bit lane of a vector register (09 R241). -/
abbrev Lane := BitVec 32

end Sys2Proof
end

