-- ==== Sys2Proof/Config.lean ====
section
/-! DEFINITION. What the specification leaves to the part: values that no rule states. They have no body, so no proof
can know them (log entries 4 and 93). -/

namespace Sys2Proof.Config

/-- A doubleword that no rule states; the argument is the state's count of such values. -/
opaque freeWord : Nat → BitVec 64

/-- The fused key hash (19 R447, R450), by doubleword: its value belongs to the part. -/
opaque keyHash : Nat → BitVec 64

/-- The root secret in the fuses (19 R442). -/
opaque rootSecret : BitVec 256

/-- HKDF (19 R442) of the root secret and the nonce of a boot: the boot key. -/
opaque bootKey : BitVec 256 → BitVec 384 → BitVec 256

/-- The key that a port derives its keys from after an isolation: of the boot key, the port and the isolation count (19 R443). -/
opaque portKey : BitVec 256 → Nat → Nat → BitVec 256

/-- The key of a UCIe port: of its root key, labelled with the port, the direction and the epoch (19 R442). -/
opaque ucieKey : BitVec 256 → Nat → Nat → Nat → BitVec 256

/-- The key of a channel in a direction and an epoch, of the key agreed when it was configured (19 R441, R442). -/
opaque channelKey : BitVec 256 → Bool → Nat → BitVec 256

/-- The key of the module's LPDDR, of the boot key (19 R442). -/
opaque memoryKey : BitVec 256 → BitVec 256

/-- The certificate chain of the responder, in doublewords by slot; empty where a slot holds none (19 R446; log entry 23). -/
opaque certChain : Nat → List (BitVec 64)

/-- The signature that the responder gives over what it has sent, as the words of a P-384 signature (19 R446; log entry 23). -/
opaque signature : List (BitVec 64) → Nat → BitVec 64

/-- The responder's half of a key exchange on secp384r1, as words, by session number (19 R446; log entry 23). -/
opaque exchange : Nat → Nat → BitVec 64

end Sys2Proof.Config
end

