-- ==== Sys2Proof/Syntax.lean ====
section
/-! DEFINITION. The steps of the RH7160 as data: one constructor of `Instr` per row of
spec/opcode_table.json. Two hundred and thirty-three rows are instruction words (07 R180 to R193) and carry their
fields; the other rows are events of the module (95) and carry the data that comes with the event. -/

namespace Sys2Proof

/-- The two kinds of core that run Soista words (07 R180). -/
inductive CoreKind where
  | array | lane
  deriving DecidableEq, Repr

/-- The six cursors of an array task (01 R34). -/
inductive Cursor where
  | S | V | M | D | Q | Y
  deriving DecidableEq, Repr

/-- The floating type of a scalar floating-point word (07 R187). -/
inductive FType where
  | f32 | f64
  deriving DecidableEq, Repr

/-- The causes of faults, traps and deferred errors (07 R199). -/
inductive Cause where
  | illegalInstruction | illegalOperand | engineAbsent | fetchBound | privilege | alignment | loopStructure
  | trap | svc | brk | cancel | maskDeadlock
  | nonCanonical | translation | permission | addressRange | peerUnreachable | windowAccess | windowBusy
  | localOnly | scratchBound | copyRange | spillOverflow | remoteFailed | reductionDropped
  | headerIntegrity | unsupportedCombination | headerMismatch | slotRejection | tornTile | tileEmpty
  | handleRange | tileCapacity | queueUnbound | queueDirection | queueStopped | queueLink | chipletIsolated
  deriving DecidableEq, Repr

/-- A unit by its place: an array task by its core, a lane warp by its core and slot (18 R427). -/
structure UnitRef where
  kind : CoreKind
  core : Nat
  slot : Nat
  deriving DecidableEq, Repr

/-- The operations of atomics and reductions (12 R331). -/
inductive AmoOp where
  | add | and | or | xor | min | max | minu | maxu | swap | cas
  | fadd | fmin | fmax | fcas
  deriving DecidableEq, Repr

/-- What a request from another module asks of its home (06 R176). -/
inductive RemoteKind where
  | load | store | amo | red
  /-- A read or a write of a copy command (11 R299), and a completion flag (11 R302). -/
  | copyRead | copyWrite | flag
  deriving DecidableEq, Repr

/-- A request of a peer module as it arrives at its home (06 R176, 21 R478): the peer's data, and for a write of a copy
command its bytes, of which `size` says how many. -/
structure RemoteReq where
  kind : RemoteKind
  op : AmoOp
  world : Nat
  addr : Nat
  size : Nat
  data : BitVec 64
  comparand : BitVec 64
  bytes : List (BitVec 8)
  deriving DecidableEq, Repr

/-- The word of a unit that an engine reports an error of: its address and, on an array core, its cursor (18 R423). -/
structure WordPlace where
  pc : BitVec 64
  cur : Cursor
  deriving DecidableEq, Repr

/-- The peer's end of a binding as the link chiplets exchange it (05 R135): where it is, its direction and world, and the end
that it names as its peer. -/
structure PeerEnd where
  mod : Nat
  core : Nat
  q : Nat
  sends : Bool
  world : Nat
  namesMod : Nat
  namesCore : Nat
  namesQ : Nat
  deriving DecidableEq, Repr

/-- An image in the module's flash (19 R450): whether its signature verifies, its security version, its commit
flag and the SHA-384 measurements of the hub firmware and of the management controller's firmware in it (19 R447). -/
structure FlashImage where
  sigOk : Bool
  version : Nat
  commit : Bool
  hubDigest : BitVec 384
  mcDigest : BitVec 384
  deriving DecidableEq, Repr

/-- The algorithms that a requester of NEGOTIATE_ALGORITHMS offers (19 R446): signature, hash, key exchange and cipher, each
a set of bits. -/
structure AlgoOffer where
  sign : Nat
  hash : Nat
  dhe : Nat
  aead : Nat
  deriving DecidableEq, Repr

/-- A sync of the PTP master (21 R475): its time in ns, and its domain. -/
structure PtpTime where
  ns : Nat
  domain : Nat
  deriving DecidableEq, Repr

/-- An end of an allowance (21 R472): a channel of the sender, or a receive fibre. -/
inductive AllowEnd where
  | sender (chan : Nat)
  | receiver (fibre : Nat)
  deriving DecidableEq, Repr

/-- A frame of the fabric as it arrives (21 R466, R476, R477): the module it comes from, the receive fibre and the band, its
flits, whether it confirms a width marker, and how many frames of the channel the peer has acknowledged with it. -/
structure OpticalFrame where
  source : Nat
  fibre : Nat
  band : Nat
  flits : Nat
  confirms : Bool
  acked : Nat
  deriving DecidableEq, Repr

/-- What the boot steps of 19 R450 find on the hardware: fuse bits that verify as blown when blown, LPDDR training,
failed near-store blocks and failed lasers. -/
structure BootReport where
  lpddrOk : Bool
  badBlocks : List Nat
  badLasers : List Nat
  deriving DecidableEq, Repr

/-- The accesses of a control hart that this specification gives a meaning (06 R169). `sc` is a store-conditional that its
hart does not fail of itself; `fence` gives the reads and the writes of its predecessor set, then those of its successor
set. -/
inductive HartOp where
  | load | store | amo (op : AmoOp) (comparand : BitVec 64) (aq rl : Bool) | lr (aq rl : Bool) | sc (aq rl : Bool)
  | fence (predR predW succR succW : Bool)
  deriving DecidableEq, Repr

/-- The registers of the hub window and the link windows that software writes (16 R391, 17, 18, 19, 21 R469, 22).
An index names the port, world, queue, hart, channel, entry, binding or buffer. -/
inductive HubReg where
  | portCtl | portStat | dirStat | dirSpill | wtblRoot | sdnAddr | sdnCtl | sdnStat
  | cmbxPop | cmbxTgt | cmbxSend | topoCtl | topoEvt
  | dqBase | dqCtl | dqWptr | dqStat | selJob | selId | cancelReg | jrnlBase | jrnlCtl | jrnlAck
  | flogCtl | flogAck | flogLost | aflog | unitSel | unitCmd | unitPc | unitCtx | unitStat
  | isoCtl | isoCmd | sealErr | mcBoot | ftCtl
  | chanCtl | chanWidth | allowHeld | chanStat | reachTbl | reachCtl | rwinBase | rwinLimit
  | wbId | wbCtl | wbDir | wbGst | wbStat | trcCtl | trcLost
  deriving DecidableEq, Repr

/-- One constructor per row of the table of operations and events. -/
inductive Instr where
  /-- ADD (R215): Register add: s[d] := (s[a] + s[b]) mod 2^64. -/
  | add (d a b : BitVec 5)
  /-- SUB (R215): Register subtract, modulo 2^64. -/
  | sub (d a b : BitVec 5)
  /-- MUL (R215): Register multiply, low 64 bits. -/
  | mul (d a b : BitVec 5)
  /-- MULH (R215): High 64 bits of the signed 128-bit product. -/
  | mulh (d a b : BitVec 5)
  /-- MULHU (R215): High 64 bits of the unsigned 128-bit product. -/
  | mulhu (d a b : BitVec 5)
  /-- DIV (R217): Signed division truncated towards zero, never faulting. -/
  | div (d a b : BitVec 5)
  /-- DIVU (R217): Unsigned division, never faulting. -/
  | divu (d a b : BitVec 5)
  /-- REM (R217): Signed remainder with the sign of x. -/
  | rem (d a b : BitVec 5)
  /-- REMU (R217): Unsigned remainder. -/
  | remu (d a b : BitVec 5)
  /-- AND (R215): Bitwise and of two registers. -/
  | and (d a b : BitVec 5)
  /-- OR (R215): Bitwise or of two registers. -/
  | or (d a b : BitVec 5)
  /-- XOR (R215): Bitwise exclusive or of two registers. -/
  | xor (d a b : BitVec 5)
  /-- SHL (R215): Shift left by s[b][5:0]. -/
  | shl (d a b : BitVec 5)
  /-- SHR (R215): Logical shift right by s[b][5:0]. -/
  | shr (d a b : BitVec 5)
  /-- SAR (R215): Arithmetic shift right by s[b][5:0]. -/
  | sar (d a b : BitVec 5)
  /-- SLT (R215): Set 1 if s[a] < s[b] signed. -/
  | slt (d a b : BitVec 5)
  /-- SLTU (R215): Set 1 if s[a] < s[b] unsigned. -/
  | sltu (d a b : BitVec 5)
  /-- MIN (R215): Signed minimum. -/
  | min (d a b : BitVec 5)
  /-- MAX (R215): Signed maximum. -/
  | max (d a b : BitVec 5)
  /-- MINU (R215): Unsigned minimum. -/
  | minu (d a b : BitVec 5)
  /-- MAXU (R215): Unsigned maximum. -/
  | maxu (d a b : BitVec 5)
  /-- CLZ (R215): Count leading zero bits of s[a]. -/
  | clz (d a : BitVec 5)
  /-- POPC (R215): Count one bits of s[a]. -/
  | popc (d a : BitVec 5)
  /-- SEL (R218): Select s[a] or s[b] by predicate pN. -/
  | sel (d a b : BitVec 5) (p : BitVec 4)
  /-- ADD_IMM (R216): Add a sign-extended 12-bit immediate. -/
  | addImm (d a : BitVec 5) (imm : BitVec 12)
  /-- AND_IMM (R216): Bitwise and with an immediate. -/
  | andImm (d a : BitVec 5) (imm : BitVec 12)
  /-- OR_IMM (R216): Bitwise or with an immediate. -/
  | orImm (d a : BitVec 5) (imm : BitVec 12)
  /-- XOR_IMM (R216): Bitwise exclusive or with an immediate. -/
  | xorImm (d a : BitVec 5) (imm : BitVec 12)
  /-- SHL_IMM (R216): Shift left by an immediate 0-63. -/
  | shlImm (d a : BitVec 5) (imm : BitVec 12)
  /-- SHR_IMM (R216): Logical shift right by an immediate. -/
  | shrImm (d a : BitVec 5) (imm : BitVec 12)
  /-- SAR_IMM (R216): Arithmetic shift right by an immediate. -/
  | sarImm (d a : BitVec 5) (imm : BitVec 12)
  /-- SLT_IMM (R216): Signed compare with an immediate. -/
  | sltImm (d a : BitVec 5) (imm : BitVec 12)
  /-- SLTU_IMM (R216): Unsigned compare with a sign-extended immediate. -/
  | sltuImm (d a : BitVec 5) (imm : BitVec 12)
  /-- MIN_IMM (R216): Signed minimum with an immediate. -/
  | minImm (d a : BitVec 5) (imm : BitVec 12)
  /-- MAX_IMM (R216): Signed maximum with an immediate. -/
  | maxImm (d a : BitVec 5) (imm : BitVec 12)
  /-- MUL_IMM (R216): Multiply by an immediate. -/
  | mulImm (d a : BitVec 5) (imm : BitVec 12)
  /-- LDHI (R219): Load a shifted, sign-extended 20-bit constant. -/
  | ldhi (d : BitVec 5) (imm : BitVec 20)
  /-- ADDPC (R219): Add a shifted 20-bit constant to the word's own address. -/
  | addpc (d : BitVec 5) (imm : BitVec 20)
  /-- LD_B (R221): Load a sign-extended byte. -/
  | ldB (d a : BitVec 5) (imm : BitVec 12)
  /-- LD_BU (R221): Load a zero-extended byte. -/
  | ldBu (d a : BitVec 5) (imm : BitVec 12)
  /-- LD_H (R221): Load a sign-extended halfword. -/
  | ldH (d a : BitVec 5) (imm : BitVec 12)
  /-- LD_HU (R221): Load a zero-extended halfword. -/
  | ldHu (d a : BitVec 5) (imm : BitVec 12)
  /-- LD_W (R221): Load a sign-extended word. -/
  | ldW (d a : BitVec 5) (imm : BitVec 12)
  /-- LD_WU (R221): Load a zero-extended word. -/
  | ldWu (d a : BitVec 5) (imm : BitVec 12)
  /-- LD_D (R221): Load a doubleword. -/
  | ldD (d a : BitVec 5) (imm : BitVec 12)
  /-- LD_B_ACQ (R221): Acquire load of a sign-extended byte at scope S. -/
  | ldBAcq (d a : BitVec 5) (scope : BitVec 3) (imm : BitVec 9)
  /-- LD_BU_ACQ (R221): Acquire load of a zero-extended byte. -/
  | ldBuAcq (d a : BitVec 5) (scope : BitVec 3) (imm : BitVec 9)
  /-- LD_H_ACQ (R221): Acquire load of a sign-extended halfword. -/
  | ldHAcq (d a : BitVec 5) (scope : BitVec 3) (imm : BitVec 9)
  /-- LD_HU_ACQ (R221): Acquire load of a zero-extended halfword. -/
  | ldHuAcq (d a : BitVec 5) (scope : BitVec 3) (imm : BitVec 9)
  /-- LD_W_ACQ (R221): Acquire load of a sign-extended word. -/
  | ldWAcq (d a : BitVec 5) (scope : BitVec 3) (imm : BitVec 9)
  /-- LD_WU_ACQ (R221): Acquire load of a zero-extended word. -/
  | ldWuAcq (d a : BitVec 5) (scope : BitVec 3) (imm : BitVec 9)
  /-- LD_D_ACQ (R221): Acquire load of a doubleword. -/
  | ldDAcq (d a : BitVec 5) (scope : BitVec 3) (imm : BitVec 9)
  /-- ST_B (R221): Store the low byte. -/
  | stB (d a : BitVec 5) (imm : BitVec 12)
  /-- ST_H (R221): Store the low halfword. -/
  | stH (d a : BitVec 5) (imm : BitVec 12)
  /-- ST_W (R221): Store the low word. -/
  | stW (d a : BitVec 5) (imm : BitVec 12)
  /-- ST_D (R221): Store the doubleword. -/
  | stD (d a : BitVec 5) (imm : BitVec 12)
  /-- ST_B_REL (R221): Release store of a byte at scope S. -/
  | stBRel (d a : BitVec 5) (scope : BitVec 3) (imm : BitVec 9)
  /-- ST_H_REL (R221): Release store of a halfword. -/
  | stHRel (d a : BitVec 5) (scope : BitVec 3) (imm : BitVec 9)
  /-- ST_W_REL (R221): Release store of a word. -/
  | stWRel (d a : BitVec 5) (scope : BitVec 3) (imm : BitVec 9)
  /-- ST_D_REL (R221): Release store of a doubleword. -/
  | stDRel (d a : BitVec 5) (scope : BitVec 3) (imm : BitVec 9)
  /-- B_EQ (R227): Branch if equal. -/
  | bEq (a b : BitVec 5) (off : BitVec 12)
  /-- B_NE (R227): Branch if not equal. -/
  | bNe (a b : BitVec 5) (off : BitVec 12)
  /-- B_LT (R227): Branch if less, signed. -/
  | bLt (a b : BitVec 5) (off : BitVec 12)
  /-- B_GE (R227): Branch if greater or equal, signed. -/
  | bGe (a b : BitVec 5) (off : BitVec 12)
  /-- B_LTU (R227): Branch if less, unsigned. -/
  | bLtu (a b : BitVec 5) (off : BitVec 12)
  /-- B_GEU (R227): Branch if greater or equal, unsigned. -/
  | bGeu (a b : BitVec 5) (off : BitVec 12)
  /-- BROT (R230): Branch if not equal and decrement ROT_BASE.BASE, taken or not. -/
  | brot (a b : BitVec 5) (off : BitVec 12)
  /-- J (R228): Jump PC-relative, writing PC + 4 to the link register. -/
  | j (link : BitVec 5) (off : BitVec 20)
  /-- JR (R228): Jump to s[a] + imm, writing PC + 4 to s[d]. -/
  | jr (d a : BitVec 5) (imm : BitVec 12)
  /-- CALLW (R212): Allocate a register window of n registers, spilling older windows as needed. -/
  | callw (n : BitVec 12)
  /-- RETW (R213): Release the current window, filling a spilled caller window. -/
  | retw
  /-- FADD (R234): Scalar floating add, rounded once by FPSTAT.RM. -/
  | fadd (d a b : BitVec 5) (ft : FType)
  /-- FSUB (R234): Scalar floating subtract. -/
  | fsub (d a b : BitVec 5) (ft : FType)
  /-- FMUL (R234): Scalar floating multiply. -/
  | fmul (d a b : BitVec 5) (ft : FType)
  /-- FDIV (R234): Scalar floating divide. -/
  | fdiv (d a b : BitVec 5) (ft : FType)
  /-- FSQRT (R234): Scalar floating square root. -/
  | fsqrt (d a : BitVec 5) (ft : FType)
  /-- FMIN (R235): minimumNumber of two floats. -/
  | fmin (d a b : BitVec 5) (ft : FType)
  /-- FMAX (R235): maximumNumber of two floats. -/
  | fmax (d a b : BitVec 5) (ft : FType)
  /-- FFMA (R234): Fused multiply-add s[a] × s[b] + s[d] with one rounding. -/
  | ffma (d a b : BitVec 5) (ft : FType)
  /-- FCMP_EQ (R236): Floating compare equal. -/
  | fcmpEq (d a b : BitVec 5) (ft : FType)
  /-- FCMP_LT (R236): Floating compare less. -/
  | fcmpLt (d a b : BitVec 5) (ft : FType)
  /-- FCMP_LE (R236): Floating compare less or equal. -/
  | fcmpLe (d a b : BitVec 5) (ft : FType)
  /-- FCMP_UN (R236): Floating compare unordered. -/
  | fcmpUn (d a b : BitVec 5) (ft : FType)
  /-- FCVT_FLOAT_FLOAT (R237): Convert to the other float type. -/
  | fcvtFloatFloat (d a : BitVec 5) (ft : FType)
  /-- FCVT_F_TO_I32 (R237): Convert float to signed 32-bit integer with clamping. -/
  | fcvtFToI32 (d a : BitVec 5) (ft : FType)
  /-- FCVTU_F_TO_U32 (R237): Convert float to unsigned 32-bit integer. -/
  | fcvtuFToU32 (d a : BitVec 5) (ft : FType)
  /-- FCVT_F_TO_I64 (R237): Convert float to signed 64-bit integer. -/
  | fcvtFToI64 (d a : BitVec 5) (ft : FType)
  /-- FCVTU_F_TO_U64 (R237): Convert float to unsigned 64-bit integer. -/
  | fcvtuFToU64 (d a : BitVec 5) (ft : FType)
  /-- FCVT_I32_TO_F (R237): Convert signed 32-bit integer to float. -/
  | fcvtI32ToF (d a : BitVec 5) (ft : FType)
  /-- FCVTU_U32_TO_F (R237): Convert unsigned 32-bit integer to float. -/
  | fcvtuU32ToF (d a : BitVec 5) (ft : FType)
  /-- FCVT_I64_TO_F (R237): Convert signed 64-bit integer to float. -/
  | fcvtI64ToF (d a : BitVec 5) (ft : FType)
  /-- FCVTU_U64_TO_F (R237): Convert unsigned 64-bit integer to float. -/
  | fcvtuU64ToF (d a : BitVec 5) (ft : FType)
  /-- FCLASS (R238): Write the class mask of a float. -/
  | fclass (d a : BitVec 5) (ft : FType)
  /-- HSET (R220): Set a handle register to s[a] + imm. -/
  | hset (d a : BitVec 5) (imm : BitVec 12)
  /-- HGET (R220): Read a handle register into a scalar. -/
  | hget (d a : BitVec 5)
  /-- PSET (R220): Set a predicate from a scalar's nonzeroness. -/
  | pset (d a : BitVec 5)
  /-- PGET (R220): Read a predicate into a scalar. -/
  | pget (d a : BitVec 5)
  /-- VADD_F32 (R245): Lane-wise f32 add. -/
  | vaddF32 (d a b : BitVec 6) (m : BitVec 4)
  /-- VSUB_F32 (R245): Lane-wise f32 subtract. -/
  | vsubF32 (d a b : BitVec 6) (m : BitVec 4)
  /-- VMUL_F32 (R245): Lane-wise f32 multiply. -/
  | vmulF32 (d a b : BitVec 6) (m : BitVec 4)
  /-- VFMA_F32 (R245): Lane-wise f32 fused multiply-add into vd. -/
  | vfmaF32 (d a b : BitVec 6) (m : BitVec 4)
  /-- VMIN_F32 (R245): Lane-wise minimumNumber. -/
  | vminF32 (d a b : BitVec 6) (m : BitVec 4)
  /-- VMAX_F32 (R245): Lane-wise maximumNumber. -/
  | vmaxF32 (d a b : BitVec 6) (m : BitVec 4)
  /-- VABS_F32 (R245): Lane-wise clear of the sign bit. -/
  | vabsF32 (d a : BitVec 6) (m : BitVec 4)
  /-- VNEG_F32 (R245): Lane-wise inversion of the sign bit. -/
  | vnegF32 (d a : BitVec 6) (m : BitVec 4)
  /-- VADD_I32 (R245): Lane-wise integer add mod 2^32. -/
  | vaddI32 (d a b : BitVec 6) (m : BitVec 4)
  /-- VSUB_I32 (R245): Lane-wise integer subtract. -/
  | vsubI32 (d a b : BitVec 6) (m : BitVec 4)
  /-- VMUL_I32 (R245): Lane-wise integer multiply. -/
  | vmulI32 (d a b : BitVec 6) (m : BitVec 4)
  /-- VAND (R245): Lane-wise bitwise and. -/
  | vand (d a b : BitVec 6) (m : BitVec 4)
  /-- VOR (R245): Lane-wise bitwise or. -/
  | vor (d a b : BitVec 6) (m : BitVec 4)
  /-- VXOR (R245): Lane-wise bitwise exclusive or. -/
  | vxor (d a b : BitVec 6) (m : BitVec 4)
  /-- VSHL (R245): Lane-wise shift left by y[4:0]. -/
  | vshl (d a b : BitVec 6) (m : BitVec 4)
  /-- VSAR (R245): Lane-wise arithmetic shift right. -/
  | vsar (d a b : BitVec 6) (m : BitVec 4)
  /-- VEXP2 (R246): Lane-wise correctly rounded 2^x. -/
  | vexp2 (d a : BitVec 6) (m : BitVec 4)
  /-- VLOG2 (R246): Lane-wise correctly rounded log2. -/
  | vlog2 (d a : BitVec 6) (m : BitVec 4)
  /-- VRCP (R246): Lane-wise correctly rounded reciprocal. -/
  | vrcp (d a : BitVec 6) (m : BitVec 4)
  /-- VRSQRT (R246): Lane-wise correctly rounded reciprocal square root. -/
  | vrsqrt (d a : BitVec 6) (m : BitVec 4)
  /-- VTANH (R246): Lane-wise correctly rounded tanh. -/
  | vtanh (d a : BitVec 6) (m : BitVec 4)
  /-- VCMP_EQ_F32 (R247): Lane-wise f32 equal into a predicate. -/
  | vcmpEqF32 (d a b : BitVec 6) (m : BitVec 4)
  /-- VCMP_LT_F32 (R247): Lane-wise f32 less into a predicate. -/
  | vcmpLtF32 (d a b : BitVec 6) (m : BitVec 4)
  /-- VCMP_LE_F32 (R247): Lane-wise f32 less or equal into a predicate. -/
  | vcmpLeF32 (d a b : BitVec 6) (m : BitVec 4)
  /-- VCMP_UN_F32 (R247): Lane-wise f32 unordered into a predicate. -/
  | vcmpUnF32 (d a b : BitVec 6) (m : BitVec 4)
  /-- VCMP_EQ_I32 (R247): Lane-wise integer equal. -/
  | vcmpEqI32 (d a b : BitVec 6) (m : BitVec 4)
  /-- VCMP_LT_I32 (R247): Lane-wise signed less. -/
  | vcmpLtI32 (d a b : BitVec 6) (m : BitVec 4)
  /-- VCMP_LE_I32 (R247): Lane-wise signed less or equal. -/
  | vcmpLeI32 (d a b : BitVec 6) (m : BitVec 4)
  /-- VCMP_LTU_I32 (R247): Lane-wise unsigned less. -/
  | vcmpLtuI32 (d a b : BitVec 6) (m : BitVec 4)
  /-- VSEL (R248): Select vector lanes by predicate pm. -/
  | vsel (d a b : BitVec 6) (m : BitVec 4)
  /-- PAND (R248): Predicate and on active elements. -/
  | pand (d a b : BitVec 6) (m : BitVec 4)
  /-- POR (R248): Predicate or on active elements. -/
  | por (d a b : BitVec 6) (m : BitVec 4)
  /-- PXOR (R248): Predicate exclusive or on active elements. -/
  | pxor (d a b : BitVec 6) (m : BitVec 4)
  /-- PNOT (R248): Predicate inversion on active elements. -/
  | pnot (d a : BitVec 6) (m : BitVec 4)
  /-- VRSUM_F32 (R249): Fixed-tree f32 sum of active lanes broadcast to all lanes. -/
  | vrsumF32 (d a : BitVec 6) (m : BitVec 4)
  /-- VRMAX_F32 (R249): Fixed-tree f32 maximum. -/
  | vrmaxF32 (d a : BitVec 6) (m : BitVec 4)
  /-- VRMIN_F32 (R249): Fixed-tree f32 minimum. -/
  | vrminF32 (d a : BitVec 6) (m : BitVec 4)
  /-- VRSUM_I32 (R249): Fixed-tree integer sum. -/
  | vrsumI32 (d a : BitVec 6) (m : BitVec 4)
  /-- VRMAX_I32 (R249): Fixed-tree signed maximum. -/
  | vrmaxI32 (d a : BitVec 6) (m : BitVec 4)
  /-- VRMIN_I32 (R249): Fixed-tree signed minimum. -/
  | vrminI32 (d a : BitVec 6) (m : BitVec 4)
  /-- VPERM (R250): Permute lanes by an index vector. -/
  | vperm (d a b : BitVec 6) (m : BitVec 4)
  /-- VBCAST (R250): Broadcast s[a][31:0] to active lanes. -/
  | vbcast (d a : BitVec 6) (m : BitVec 4)
  /-- VSLUP (R250): Slide lanes up by s[b]. -/
  | vslup (d a b : BitVec 6) (m : BitVec 4)
  /-- VSLDN (R250): Slide lanes down by s[b]. -/
  | vsldn (d a b : BitVec 6) (m : BitVec 4)
  /-- VMOV (R250): Copy a vector register. -/
  | vmov (d a : BitVec 6) (m : BitVec 4)
  /-- VLANE (R250): Write each lane's index. -/
  | vlane (d : BitVec 6) (m : BitVec 4)
  /-- VTRD (R253): Read a tile row's stored bits, or an accumulator row rounded to f32, into a vector. -/
  | vtrd (td ta tb : BitVec 6)
  /-- VTWR (R253): Write a vector's bits into a tile row. -/
  | vtwr (td ta tb : BitVec 6)
  /-- VTRDC (R253): Read a tile row decoded and scaled to f32. -/
  | vtrdc (td ta tb : BitVec 6)
  /-- VTWRC (R253): Write a vector into a tile row converted through a slot. -/
  | vtwrc (td ta tb : BitVec 6) (slot : BitVec 3)
  /-- MMA (R268): Accumulate the product of two tiles into an accumulator. -/
  | mma (td ta tb : BitVec 6) (slot : BitVec 3)
  /-- MMA_Z (R268): Clear the accumulator, then accumulate the product. -/
  | mmaZ (td ta tb : BitVec 6) (slot : BitVec 3)
  /-- MOUT (R273): Read out an accumulator into a tile through a slot. -/
  | mout (td ta : BitVec 6) (slot : BitVec 3)
  /-- MCLR (R271): Clear an accumulator, its extent and poison. -/
  | mclr (td : BitVec 6)
  /-- MTR (R276): Transpose a tile. -/
  | mtr (td ta : BitVec 6)
  /-- TCVT (R275): Convert a tile into a dense tile of the slot's format. -/
  | tcvt (td ta : BitVec 6) (slot : BitVec 3)
  /-- THDR_RD (R279): Copy a tile's header to local store. -/
  | thdrRd (ta tb : BitVec 6)
  /-- THDR_WR (R280): Retype a tile entry from a header in local store. -/
  | thdrWr (td tb : BitVec 6)
  /-- CBLD (R282): Load codebook table n from local store. -/
  | cbld (ta : BitVec 6) (tbl : BitVec 3)
  /-- TZERO (R278): Produce an all-zero tile shaped like another. -/
  | tzero (td ta : BitVec 6) (slot : BitVec 3)
  /-- TLD (R294): Load a tile image from memory into an entry or send queue. -/
  | tld (td ta : BitVec 6)
  /-- TST (R295): Store a tile to memory under the version protocol. -/
  | tst (ta tb : BitVec 6)
  /-- TST_F (R295): Store a tile and free its entry. -/
  | tstF (ta tb : BitVec 6)
  /-- TGAT (R297): Gather tile rows from listed memory rows. -/
  | tgat (td ta tb : BitVec 6)
  /-- TSCT (R298): Scatter tile rows to listed memory rows. -/
  | tsct (td ta tb : BitVec 6)
  /-- DCPY (R299): Copy n bytes memory to memory. -/
  | dcpy (d a b : BitVec 5)
  /-- DFLAG (R302): Send a completion flag behind the covered writes to its module. -/
  | dflag (d a : BitVec 5) (scope : BitVec 3)
  /-- DSEAL (R304): Seal the open copy batch and return its number. -/
  | dseal (d : BitVec 5)
  /-- DWAIT (R306): Wait for a batch and all earlier batches to complete. -/
  | dwait (a : BitVec 5)
  /-- CFLUSH (R305): Write back held lines on a non-coherent chiplet. -/
  | cflush (a b : BitVec 5)
  /-- CINVAL (R305): Drop held lines on a non-coherent chiplet. -/
  | cinval (a b : BitVec 5)
  /-- QBIND_S (R310): Bind a queue name for sending from a descriptor. -/
  | qbindS (td ta : BitVec 6)
  /-- QBIND_R (R310): Bind a queue name for receiving from a descriptor. -/
  | qbindR (td ta : BitVec 6)
  /-- QUNBIND (R311): Dissolve a queue binding. -/
  | qunbind (td : BitVec 6)
  /-- QSEND (R312): Send a handle's tile through a send queue. -/
  | qsend (td ta : BitVec 6)
  /-- QSEND_F (R312): Send a tile and free its source entry. -/
  | qsendF (td ta : BitVec 6)
  /-- QRECV (R313): Move the head of a receive queue into a handle. -/
  | qrecv (td ta : BitVec 6)
  /-- QMARK_START (R314): Place a step-start drain marker. -/
  | qmarkStart (td ta : BitVec 6)
  /-- QMARK_END (R314): Place a step-end drain marker. -/
  | qmarkEnd (td ta : BitVec 6)
  /-- QWIDTH (R315): Request a stripe width for the binding's channel. -/
  | qwidth (td : BitVec 6) (width : BitVec 4)
  /-- QSTAT (R316): Read QSTATEn of a queue into a scalar. -/
  | qstat (td ta : BitVec 6)
  /-- QDROP (R317): Discard a binding's unclaimed contents. -/
  | qdrop (td : BitVec 6)
  /-- FENCE_ACQ (R322): Acquire fence at scope S. -/
  | fenceAcq (scope : BitVec 3)
  /-- FENCE_REL (R322): Release fence at scope S. -/
  | fenceRel (scope : BitVec 3)
  /-- FENCE (R322): Full fence at scope S. -/
  | fence (scope : BitVec 3)
  /-- WCNT (R323): Wait until outstanding-operation counters fall to the limits. -/
  | wcnt (ld st cp tl : BitVec 6)
  /-- BAR (R324): Workgroup barrier. -/
  | bar
  /-- ELECT (R326): Write 1 to the lowest lane of the group, 0 to others. -/
  | elect (d : BitVec 5)
  /-- MJOIN (R325): Join lane mask kN. -/
  | mjoin (k : BitVec 4)
  /-- MLEAVE (R325): Leave lane mask kN. -/
  | mleave (k : BitVec 4)
  /-- MWAIT (R325): Arrive at lane mask kN and wait for release. -/
  | mwait (k : BitVec 4)
  /-- XCH_IDX (R327): Exchange registers from an indexed lane of the group. -/
  | xchIdx (d a b : BitVec 5)
  /-- XCH_UP (R327): Exchange from lane l − n. -/
  | xchUp (d a b : BitVec 5)
  /-- XCH_DOWN (R327): Exchange from lane l + n. -/
  | xchDown (d a b : BitVec 5)
  /-- XCH_XOR (R327): Exchange from lane l xor n. -/
  | xchXor (d a b : BitVec 5)
  /-- SPAWN (R328): Create a thread in a bin of the workgroup. -/
  | spawn (d a : BitVec 5) (imm : BitVec 12)
  /-- TNEXT (R330): Take the next schedule entry or −1. -/
  | tnext (d : BitVec 5)
  /-- AMO_ADD (R333): Integer atomic add returning the old value. -/
  | amoAdd (d a b : BitVec 5) (scope : BitVec 3) (size : BitVec 2)
  /-- AMO_AND (R333): Integer atomic and. -/
  | amoAnd (d a b : BitVec 5) (scope : BitVec 3) (size : BitVec 2)
  /-- AMO_OR (R333): Integer atomic or. -/
  | amoOr (d a b : BitVec 5) (scope : BitVec 3) (size : BitVec 2)
  /-- AMO_XOR (R333): Integer atomic exclusive or. -/
  | amoXor (d a b : BitVec 5) (scope : BitVec 3) (size : BitVec 2)
  /-- AMO_MIN (R333): Integer atomic signed minimum. -/
  | amoMin (d a b : BitVec 5) (scope : BitVec 3) (size : BitVec 2)
  /-- AMO_MAX (R333): Integer atomic signed maximum. -/
  | amoMax (d a b : BitVec 5) (scope : BitVec 3) (size : BitVec 2)
  /-- AMO_MINU (R333): Integer atomic unsigned minimum. -/
  | amoMinu (d a b : BitVec 5) (scope : BitVec 3) (size : BitVec 2)
  /-- AMO_MAXU (R333): Integer atomic unsigned maximum. -/
  | amoMaxu (d a b : BitVec 5) (scope : BitVec 3) (size : BitVec 2)
  /-- AMO_SWAP (R333): Integer atomic swap. -/
  | amoSwap (d a b : BitVec 5) (scope : BitVec 3) (size : BitVec 2)
  /-- AMO_CAS (R333): Integer atomic compare-and-swap against s[d]. -/
  | amoCas (d a b : BitVec 5) (scope : BitVec 3) (size : BitVec 2)
  /-- AMO_ADD_F32 (R334): fp32 atomic add rounded RNE. -/
  | amoAddF32 (d a b : BitVec 5) (scope : BitVec 3) (size : BitVec 2)
  /-- AMO_MIN_F32 (R334): fp32 atomic minimumNumber. -/
  | amoMinF32 (d a b : BitVec 5) (scope : BitVec 3) (size : BitVec 2)
  /-- AMO_MAX_F32 (R334): fp32 atomic maximumNumber. -/
  | amoMaxF32 (d a b : BitVec 5) (scope : BitVec 3) (size : BitVec 2)
  /-- AMO_CAS_F32 (R334): fp32 bit-pattern compare-and-swap. -/
  | amoCasF32 (d a b : BitVec 5) (scope : BitVec 3) (size : BitVec 2)
  /-- RED_ADD (R336): Non-returning integer reduction add. -/
  | redAdd (a b : BitVec 5) (scope : BitVec 3) (size : BitVec 2)
  /-- RED_AND (R336): Non-returning integer reduction and. -/
  | redAnd (a b : BitVec 5) (scope : BitVec 3) (size : BitVec 2)
  /-- RED_OR (R336): Non-returning integer reduction or. -/
  | redOr (a b : BitVec 5) (scope : BitVec 3) (size : BitVec 2)
  /-- RED_XOR (R336): Non-returning integer reduction exclusive or. -/
  | redXor (a b : BitVec 5) (scope : BitVec 3) (size : BitVec 2)
  /-- RED_MIN (R336): Non-returning signed minimum reduction. -/
  | redMin (a b : BitVec 5) (scope : BitVec 3) (size : BitVec 2)
  /-- RED_MAX (R336): Non-returning signed maximum reduction. -/
  | redMax (a b : BitVec 5) (scope : BitVec 3) (size : BitVec 2)
  /-- RED_MINU (R336): Non-returning unsigned minimum reduction. -/
  | redMinu (a b : BitVec 5) (scope : BitVec 3) (size : BitVec 2)
  /-- RED_MAXU (R336): Non-returning unsigned maximum reduction. -/
  | redMaxu (a b : BitVec 5) (scope : BitVec 3) (size : BitVec 2)
  /-- RED_ADD_F32 (R336): Non-returning fp32 reduction add. -/
  | redAddF32 (a b : BitVec 5) (scope : BitVec 3) (size : BitVec 2)
  /-- MBX_SEND (R338): Append a message to a core or hart mailbox, writing a status. -/
  | mbxSend (d a b : BitVec 5)
  /-- MBX_RECV (R339): Take the oldest message from the core's mailbox. -/
  | mbxRecv (d : BitVec 5)
  /-- TRAP (R340): Stop the agent with cause trap and a code. -/
  | trap (c : BitVec 12)
  /-- SVC (R340): Stop the agent with cause svc. -/
  | svc (c : BitVec 12)
  /-- BRK (R340): Stop the agent with cause brk. -/
  | brk (c : BitVec 12)
  /-- HALT (R344): End the thread, or the cursor and then the task. -/
  | halt
  /-- ERET (R342): Return from a handler to the held stop point. -/
  | eret
  /-- SYSRD (R345): Read a system register. -/
  | sysrd (d : BitVec 5) (r : BitVec 12)
  /-- SYSWR (R345): Write a system register. -/
  | syswr (a : BitVec 5) (r : BitVec 12)
  /-- LSEQ (R255): Open a loop level with a trip count. -/
  | lseq (lvl : BitVec 3) (trip : BitVec 5) (len : BitVec 8)
  /-- LSEQ_ROT (R255): Open a rotating loop level. -/
  | lseqRot (lvl : BitVec 3) (trip : BitVec 5) (len : BitVec 8)
  /-- LEND (R256): Close an iteration: apply strides, rotate, repeat or exit. -/
  | lend (lvl : BitVec 3)
  /-- LFIRST (R258): Mark the next n words to issue only in the first iteration. -/
  | lfirst (lvl : BitVec 3) (n : BitVec 8)
  /-- LLAST (R258): Mark the next n words to issue only in the last iteration. -/
  | llast (lvl : BitVec 3) (n : BitVec 8)
  /-- LSTRIDE (R257): Set a stride slot of an inactive level. -/
  | lstride (lvl : BitVec 3) (k : BitVec 1) (r : BitVec 5) (s : BitVec 16)
  /-- LBRK (R259): Leave a loop level early when s[N] is nonzero. -/
  | lbrk (lvl : BitVec 3) (s : BitVec 5)
  /-- ISSUE_GROUP_AGED (R23): An issue group ready 4,096 cycles without issuing becomes aged. -/
  | issueGroupAged (core slot lane : Nat)
  /-- BIN_TIMER_EXPIRY (R30): BIN_TIMER cycles elapse for a non-empty bin, triggering its launch. -/
  | binTimerExpiry (core bin : Nat)
  /-- BIN_LAUNCH (R30): A bin launches its threads as a warp once a warp slot is free. -/
  | binLaunch (core bin slot : Nat)
  /-- WARP_MERGE (R33): The core merges two waiting warps of one workgroup. -/
  | warpMerge (core slotA slotB : Nat)
  /-- OUTCOME_TAKE (R36): A waiting cursor takes the oldest outcome once appended. -/
  | outcomeTake (core : Nat) (cur : Cursor)
  /-- ENTRY_SHIPMENT (R46): A victim receiving a steal request ships half its unstarted entries. -/
  | entryShipment (victim thief : Nat)
  /-- LOAD_DATA_RETURN (R50): Load or atomic data is written to its destination and LD decrements. -/
  | loadDataReturn (grp : Nat)
  /-- STORE_ACCEPT (R50): A store or reduction is accepted and ST decrements. -/
  | storeAccept (grp : Nat)
  /-- MATRIX_OP_RETIRE (R263): An M or Q operation retires, releasing readers and decrementing TO. -/
  | matrixOpRetire (u : UnitRef) (op : Nat)
  /-- COPY_COMPLETE (R301): A copy command completes, releasing pins and decrementing CP. -/
  | copyComplete (id : Nat)
  /-- UNIT_COMPLETE (R48): An ended unit's counters and batches reach zero and it completes. -/
  | unitComplete (u : UnitRef)
  /-- DEFERRED_FAULT_REPORT (R57): An asynchronous engine reports an error to the launch's fault record. -/
  | deferredFaultReport (u : UnitRef) (cause : Cause) (code : BitVec 16) (addr : BitVec 64) (place : WordPlace)
  /-- TILE_ENTRY_WINDOW_WRITE (R120): A window write to a tile-table entry stores CAP/LSOFF or HDR. -/
  | tileEntryWindowWrite (core entry off : Nat) (bytes : List (BitVec 8))
  /-- BINDING_PAIR (R135): Send and receive bindings pair and credits are granted. -/
  | bindingPair (core id : Nat) (peer : PeerEnd) (grant : Nat × Nat)
  /-- PEER_UNPAIR (R147): A peer binding learns of dissolution and takes PAIRED := 0. -/
  | peerUnpair (core id : Nat)
  /-- TILE_FIRST_FLIT (R136): A tile's first flit arrives and its pool entry goes to filling. -/
  | tileFirstFlit (core id : Nat)
  /-- TILE_LAST_FLIT (R136): A tile's last flit is written and the entry becomes ready. -/
  | tileLastFlit (core id : Nat) (image : List (BitVec 8))
  /-- CREDIT_RETURN (R136): A returned credit reaches the send end. -/
  | creditReturn (core id : Nat)
  /-- LINK_TAKE_TILE (R139): The link chiplet takes a draining tile using one credit. -/
  | linkTakeTile (core id : Nat)
  /-- SEND_RETIRE (R139): A tile's last flit leaves the link chiplet and the send retires. -/
  | sendRetire (core id : Nat)
  /-- QMARK_RX (R141): The receive end acknowledges a marker once earlier flits are delivered. -/
  | qmarkRx (core id : Nat) (stepNo : BitVec 16) (isEnd : Bool)
  /-- QMARK_ACK (R150): The acknowledgement reaches the sender and the qmark retires. -/
  | qmarkAck (core id : Nat)
  /-- WIDTH_MARKER_PLACE (R468): The sender places a width marker when the computed width changes. -/
  | widthMarkerPlace (c : Nat)
  /-- WIDTH_MARKER_CONFIRM (R468): The receiver's confirmation arrives and the new stripe starts. -/
  | widthMarkerConfirm (c : Nat)
  /-- REMOTE_REQUEST_ARRIVAL (R478): A remote request arrives at its home and is applied at most once. -/
  | remoteRequestArrival (src home seq floor : Nat) (r : RemoteReq)
  /-- MERGE_ENTRY_EVICT (R174): A merge-buffer entry is written to memory on eviction. -/
  | mergeEntryEvict (addr : Nat)
  /-- REMOTE_REPLY (R176): A reply reaches the source; later duplicates are discarded. -/
  | remoteReply (home seq : Nat)
  /-- E2E_TIMER_EXPIRY (R477): The 50 µs end-to-end timer expires and the request is resent or abandoned. -/
  | e2eTimerExpiry (home seq : Nat)
  /-- FLAG_WRITE (R302): The hub writes a dflag flag after its covered writes are applied. -/
  | flagWrite (id : Nat)
  /-- DFLAG_ACK (R301): The flag acknowledgement returns and the dflag completes. -/
  | dflagAck (id : Nat)
  /-- HOME_REQUEST (R401): A coherent request reaches its directory slice, queuing behind a busy line. -/
  | homeRequest (id : Nat)
  /-- PROBE_RESPONSE (R401): A probe answer arrives and the line is served. -/
  | probeResponse (line : Nat)
  /-- SDN_GO (R406): A write of SDN_CTL.GO queues a shootdown. -/
  | sdnGo (v : BitVec 64)
  /-- SHOOTDOWN_COMPLETE (R124): A shootdown completes once caches drop, accesses complete and pins release. -/
  | shootdownComplete
  /-- PORT_ENABLE (R394): PORT_CTL.ENABLE starts training of a port. -/
  | portEnable (p : Nat)
  /-- PORT_RUN (R394): PORT_CTL.RUN releases an assigned port to running. -/
  | portRun (p : Nat)
  /-- PORT_REENUM (R394): PORT_CTL.REENUM recalls lines and re-reads the capability table. -/
  | portReenum (p : Nat)
  /-- PORT_OFF (R394): PORT_CTL.OFF recalls lines and powers the chiplet off. -/
  | portOff (p : Nat)
  /-- PORT_LINK_UP (R394): UCIe training completes and the port moves to reading. -/
  | portLinkUp (p : Nat)
  /-- PORT_TRAINING_FAIL (R394): UCIe training fails; TERR set or isolation attempt counted. -/
  | portTrainingFail (p : Nat)
  /-- CAPABILITY_TABLE_READ (R395): The capability table read completes and is compared with the kept copy. -/
  | capabilityTableRead (p : Nat) (bytes : List (BitVec 8))
  /-- CMBX_SEND (R407): A write of CMBX_SEND sends data from a control hart's mailbox block. -/
  | cmbxSend (hart : Nat) (data : BitVec 64)
  /-- CMBX_POP (R407): A read of CMBX_POP removes and returns the oldest message. -/
  | cmbxPop (hart : Nat)
  /-- DQ_DOORBELL (R409): A write of DQ_WPTR submits packets to a dispatch queue. -/
  | dqDoorbell (w q : Nat) (v : BitVec 64)
  /-- DQ_ENABLE (R409): A write of DQ_CTL.EN enables or disables a queue and its LOCK. -/
  | dqEnable (w q : Nat) (en : Bool)
  /-- PACKET_ACCEPT (R411): The sequencer reads, checks and journals the next packet of a queue. -/
  | packetAccept (w q : Nat)
  /-- LAUNCH_ISSUE (R413): A launch whose predecessors completed issues and reads its record. -/
  | launchIssue (w job launch : Nat)
  /-- LAUNCH_COMPLETE (R414): A launch completes, its record and flag written. -/
  | launchComplete (w job launch : Nat)
  /-- CANCEL (R417): A write of CANCEL.GO cancels the selected level. -/
  | cancel (v : BitVec 64)
  /-- JRNL_ACK (R420): A write of JRNL_ACK frees records and resumes a stalled journal. -/
  | jrnlAck (v : BitVec 64)
  /-- PLACE_UNIT (R418): The sequencer places a task or workgroup on an eligible core. -/
  | placeUnit (w job launch core : Nat)
  /-- LAUNCH_AGED (R418): A launch with unplaced units places none for 1 ms and becomes aged. -/
  | launchAged (w job launch : Nat)
  /-- UNIT_RESUME (R428): UNIT_CMD RESUME continues a stopped unit. -/
  | unitResume
  /-- UNIT_REDIRECT (R428): UNIT_CMD REDIRECT restarts a stopped unit at UNIT_PC. -/
  | unitRedirect
  /-- UNIT_DISCARD (R428): UNIT_CMD DISCARD discards a stopped unit as faulted. -/
  | unitDiscard
  /-- UNIT_SAVE (R432): UNIT_CMD SAVE stops issue and drains for a context save. -/
  | unitSave
  /-- SAVE_COMPLETE (R432): Draining ends; sections and header are written and the core freed. -/
  | saveComplete (kind : CoreKind) (core : Nat)
  /-- UNIT_RESTORE (R56): A saved context is restored onto a core. -/
  | unitRestore (ctx core : Nat)
  /-- HEARTBEAT (R435): A chiplet heartbeat arrives on the sideband. -/
  | heartbeat (p : Nat)
  /-- HEARTBEAT_LAPSE (R435): No heartbeat for LAPSE µs starts isolation or sets TOPO_EVT. -/
  | heartbeatLapse (p : Nat)
  /-- REQUEST_NO_ANSWER (R435): A request unanswered for 100 µs starts isolation. -/
  | requestNoAnswer (p : Nat)
  /-- ISO_CMD (R435): A write of ISO_CMD isolates a port. -/
  | isoCmd (v : BitVec 64)
  /-- FENCE_DRAINED (R436): Nothing from the chiplet remains in flight; cleaning begins. -/
  | fenceDrained (p : Nat)
  /-- CLEAN_COMPLETE (R436): Directory cleaning finishes and reset is asserted. -/
  | cleanComplete (p : Nat)
  /-- CHIPLET_RESET_RELEASE (R436): 1 ms of reset ends and retraining begins. -/
  | chipletResetRelease (p : Nat)
  /-- REDISPATCH (R439): Lost units of replay-safe launches are placed again. -/
  | redispatch (p : Nat)
  /-- UCIE_FRAME_RECEIVE (R444): A sealed UCIe frame is received and its tag verified. -/
  | ucieFrameReceive (p : Nat) (toHub tagOk : Bool)
  /-- GET_VERSION (R446): SPDM GET_VERSION request answered. -/
  | getVersion
  /-- GET_CAPABILITIES (R446): SPDM GET_CAPABILITIES request answered. -/
  | getCapabilities
  /-- NEGOTIATE_ALGORITHMS (R446): SPDM NEGOTIATE_ALGORITHMS request answered. -/
  | negotiateAlgorithms (offered : AlgoOffer)
  /-- GET_DIGESTS (R446): SPDM GET_DIGESTS request answered. -/
  | getDigests
  /-- GET_CERTIFICATE (R446): SPDM GET_CERTIFICATE request answered. -/
  | getCertificate (slot : Nat)
  /-- CHALLENGE (R446): SPDM CHALLENGE request answered. -/
  | challenge (nonce : Nat)
  /-- GET_MEASUREMENTS (R447): SPDM GET_MEASUREMENTS answered with indexed measurements and GEN. -/
  | getMeasurements (session : Option Nat) (index : Nat)
  /-- KEY_EXCHANGE (R448): SPDM KEY_EXCHANGE opens a session recording GEN. -/
  | keyExchange (sid : Nat)
  /-- FINISH (R446): SPDM FINISH completes session setup. -/
  | finish (sid : Nat)
  /-- SPDM_HEARTBEAT (R446): SPDM HEARTBEAT on a session. -/
  | spdmHeartbeat (sid : Nat)
  /-- KEY_UPDATE (R446): SPDM KEY_UPDATE rekeys a session. -/
  | keyUpdate (sid : Nat)
  /-- END_SESSION (R446): SPDM END_SESSION closes a session. -/
  | endSession (sid : Nat)
  /-- PLDM_PLATFORM_MONITORING (R446): A PLDM monitoring request for sensors is answered. -/
  | pldmPlatformMonitoring (sensor : Nat) (reading : BitVec 64)
  /-- PLDM_FIRMWARE_UPDATE (R446): A PLDM firmware update writes the secondary image. -/
  | pldmFirmwareUpdate (img : FlashImage)
  /-- BOOT (R450): Module reset starts the management controller's boot steps. -/
  | boot (r : BootReport)
  /-- MC_BOOT_CLEAR (R451): MC_BOOT.CLEAR makes the next boot ignore skip and rate entries. -/
  | mcBootClear
  /-- CHIPLET_GATE (R452): The power governor gates an idle chiplet into state 1 or 2. -/
  | chipletGate (p st : Nat)
  /-- CHIPLET_WAKE_COMPLETE (R452): A gated chiplet finishes waking and placed units start. -/
  | chipletWakeComplete (p : Nat)
  /-- CHAN_ENABLE (R471): CHAN_CTL.EN := 1 starts tuning or is refused. -/
  | chanEnable (c : Nat) (v : BitVec 64)
  /-- CHAN_DISABLE (R471): CHAN_CTL.EN := 0 turns the channel off and stops its bindings. -/
  | chanDisable (c : Nat)
  /-- CHAN_DARK (R471): CHAN_CTL.DARK := 1 starts draining. -/
  | chanDark (c : Nat)
  /-- CHAN_UNDARK (R471): CHAN_CTL.DARK := 0 retunes a dark channel. -/
  | chanUndark (c : Nat)
  /-- CHAN_TUNED (R471): Every unparked position locks and an allowance is held; the channel comes up. -/
  | chanTuned (c : Nat)
  /-- CHAN_DRAINED (R471): Every sent flit is acknowledged and the channel goes dark. -/
  | chanDrained (c : Nat)
  /-- LINK_NAK (R477): A negative acknowledgement causes a resend, or channel failure after four. -/
  | linkNak (c frame : Nat)
  /-- CHAN_PARK (R473): Setting PARK bits takes positions out at the next width marker. -/
  | chanPark (c : Nat) (mask : BitVec 8)
  /-- CHAN_UNPARK (R473): Clearing PARK bits starts waking positions. -/
  | chanUnpark (c : Nat) (mask : BitVec 8)
  /-- POSITION_LOCKED (R473): A woken position is lit, locked and deskewed. -/
  | positionLocked (c i : Nat)
  /-- ALLOWANCE_REQUEST (R472): A receiver takes an allowance request for a receive slot. -/
  | allowanceRequest (c i sender : Nat)
  /-- ALLOWANCE_GRANT (R472): A grant reaches the sender and the position holds an allowance. -/
  | allowanceGrant (c i volume life : Nat)
  /-- ALLOWANCE_RENEW (R472): The receiver renews a grant below half its volume or lifetime. -/
  | allowanceRenew (x : AllowEnd) (i : Nat)
  /-- ALLOWANCE_EXPIRY (R472): An unheld allowance's lifetime lapses. -/
  | allowanceExpiry (x : AllowEnd) (i : Nat)
  /-- ORBIT_SLOT (R476): A 250 ns orbit slot begins and scheduled orbit bursts go out. -/
  | orbitSlot (slot : Nat)
  /-- PTP_SYNC (R475): A PTP sync disciplines fabric time and may set LOCK. -/
  | ptpSync (master : PtpTime) (offset : BitVec 32)
  /-- PTP_SYNC_TIMEOUT (R475): No sync for 2 s clears FT_STAT.LOCK. -/
  | ptpSyncTimeout
  /-- REACH_COMMIT (R480): REACH_CTL.COMMIT binds the staged table and stops removed peers. -/
  | reachCommit
  /-- RWIN_WRITE (R479): A reduction window write flushes pending entries then binds. -/
  | rwinWrite (link e : Nat) (isLimit : Bool) (v : BitVec 64)
  /-- WB_STAGE (R484): STAGE moves a free generation slot to staged with a new GEN. -/
  | wbStage (b k : Nat)
  /-- WB_MEASURE (R486): MEASURE starts checking and hashing a staged generation. -/
  | wbMeasure (b k : Nat)
  /-- WB_MEASURE_COMPLETE (R486): Hashing finishes and the slot becomes measured. -/
  | wbMeasureComplete (b k : Nat)
  /-- WB_SWITCH (R484): SWITCH makes a slot current and the old current retiring. -/
  | wbSwitch (b k : Nat)
  /-- WB_DROP (R484): DROP frees a staged or measured slot. -/
  | wbDrop (b k : Nat)
  /-- PCIE_DMA_REQUEST (R390): A DMA request from behind a root port is translated under world 0. -/
  | pcieDmaRequest (port : Nat) (write : Bool) (va : BitVec 64) (size : Nat) (data : BitVec 64)
  /-- REGISTER_WRITE (R10): A write to a register with no row of its own stores its fields. -/
  | registerWrite (r : HubReg) (idx : Nat) (v : BitVec 64)
  /-- CONTROL_CORE_ACCESS (R169): A control-core hart's RISC-V load, store, AMO or FENCE reaches memory, a window or the hub. -/
  | controlCoreAccess (hart : Nat) (sup : Bool) (op : HartOp) (addr : Nat) (size : Nat) (data : BitVec 64)
  /-- POWER_LOSS (R451): Module power is lost, possibly in the middle of a boot-record write or an anti-rollback fuse blow. -/
  | powerLoss (midRecord : Bool) (blown : Nat)
  /-- OPTICAL_FRAME_RECEIVE (R477): An optical frame arrives at a link chiplet and its flit checks and tag are verified, answered by acknowledgement or negative acknowledgement, with width markers confirmed. -/
  | opticalFrameReceive (c : Nat) (checksOk : Bool) (x : OpticalFrame)
  /-- OPTICAL_CEILING_LOWER (R474): The management controller lowers the optical ceiling when module draw nears the power envelope. -/
  | opticalCeilingLower (v : Nat)
  deriving DecidableEq, Repr

end Sys2Proof
end

