-- ==== Sys2Proof/WellFormed.lean ====
section
/-! DEFINITION. Which terms of `Instr` name an instruction: the operand rules of 07 R183 to R193 and R195, whichever
core runs the word. What one core kind alone refuses (a queue name on a lane core, ...) is checked when the word
runs. An event's indexes lie in the ranges of 00 R1 to R3. -/

namespace Sys2Proof

/-- A naturally aligned access of 1, 2, 4 or 8 bytes (06 R155). -/
def isAccess (addr size : Nat) : Bool := [1, 2, 4, 8].contains size && addr % size == 0

/-- A fence of a control hart. -/
def HartOp.isFence : HartOp → Bool
  | .fence _ _ _ _ => true
  | _ => false

/-- An atomic of the floating-point unit, which a control hart does not have. -/
def AmoOp.isFloat : AmoOp → Bool
  | .fadd => true
  | .fmin => true
  | .fmax => true
  | .fcas => true
  | _ => false

/-- An operation that a control hart has. -/
def hartOpOk : HartOp → Bool
  | .amo op _ _ _ => !op.isFloat
  | _ => true

/-- A format T field that names h0 to h31 (07 R183). -/
def isHandle (x : BitVec 6) : Bool := x.toNat < 32

/-- A format T field that names q0 to q15 (07 R183). -/
def isQueue (x : BitVec 6) : Bool := 32 ≤ x.toNat && x.toNat < 48

/-- A format T field that names a handle or a queue (07 R183). -/
def isHandleOrQueue (x : BitVec 6) : Bool := x.toNat < 48

/-- A format T field that names ac0 to ac7 (07 R183). -/
def isAcc (x : BitVec 6) : Bool := 48 ≤ x.toNat && x.toNat < 56

/-- A six-bit field that names a scalar register has bit 5 zero (07 R184). -/
def isScalar6 (x : BitVec 6) : Bool := x.toNat < 32

/-- A predicate field of majors 0x3 and 0x4 of the V engine (07 R188). -/
def isPred6 (x : BitVec 6) : Bool := x.toNat < 16

/-- A predicate field of `pset` and `pget` (08 R220). -/
def isPred5 (x : BitVec 5) : Bool := x.toNat < 16

/-- A scope code other than 6 and 7 (06 R153). -/
def isScope (x : BitVec 3) : Bool := x.toNat < 6

/-- A scope of `dflag` (07 R190). -/
def isFlagScope (x : BitVec 3) : Bool := x == 4 || x == 5

/-- A shift immediate, 0 to 63 (07 R182). -/
def isShift (x : BitVec 12) : Bool := x.toNat < 64

/-- A window size, 8 to 32 (08 R212). -/
def isWindow (x : BitVec 12) : Bool := 8 ≤ x.toNat && x.toNat ≤ 32

/-- A size code of an integer atomic (07 R192). -/
def isIntSize (x : BitVec 2) : Bool := x.toNat < 2

/-- A lane-mask index, 0 to 11 (07 R192). -/
def isMask (x : BitVec 4) : Bool := x.toNat < 12

/-- A loop level, 0 to 5 (07 R193). -/
def isLevel (x : BitVec 3) : Bool := x.toNat < 6

/-- A width that `qwidth` may name (07 R191). -/
def isWidth (x : BitVec 4) : Bool := x == 1 || x == 2 || x == 4 || x == 8

/-- A system register number that 12 R346 assigns for array cores. -/
def isArraySysReg (x : BitVec 12) : Bool :=
  let n := x.toNat
  n ≤ 0x00A || (0x010 ≤ n && n ≤ 0x013) || (0x100 ≤ n && n ≤ 0x108) || (0x110 ≤ n && n ≤ 0x11F)

/-- A system register number that 12 R346 assigns for lane cores. -/
def isLaneSysReg (x : BitVec 12) : Bool :=
  let n := x.toNat
  n ≤ 0x00A || (0x010 ≤ n && n ≤ 0x013) || (0x200 ≤ n && n ≤ 0x207)

/-- A system register number that 12 R346 assigns for some core. -/
def isSysReg (x : BitVec 12) : Bool := isArraySysReg x || isLaneSysReg x

/-- An end of an allowance exists: a position of a channel, or a band of a receive fibre (21 R465, R467). -/
def allowEndOk (x : AllowEnd) (i : Nat) : Bool :=
  match x with
  | .sender c => decide (c < 256) && decide (i < 8)
  | .receiver f => decide (f < 512) && decide (i < 4)

/-- The term names an instruction or an event of the module. The word of `add s0, s0, s0` would be 0x0000_0000, which is no
instruction (07 R195). -/
def Instr.wellFormed : Instr → Bool
  | .add d a b => !(d == 0 && a == 0 && b == 0)
  | .sub _ _ _ => true
  | .mul _ _ _ => true
  | .mulh _ _ _ => true
  | .mulhu _ _ _ => true
  | .div _ _ _ => true
  | .divu _ _ _ => true
  | .rem _ _ _ => true
  | .remu _ _ _ => true
  | .and _ _ _ => true
  | .or _ _ _ => true
  | .xor _ _ _ => true
  | .shl _ _ _ => true
  | .shr _ _ _ => true
  | .sar _ _ _ => true
  | .slt _ _ _ => true
  | .sltu _ _ _ => true
  | .min _ _ _ => true
  | .max _ _ _ => true
  | .minu _ _ _ => true
  | .maxu _ _ _ => true
  | .clz _ _ => true
  | .popc _ _ => true
  | .sel _ _ _ _ => true
  | .addImm _ _ _ => true
  | .andImm _ _ _ => true
  | .orImm _ _ _ => true
  | .xorImm _ _ _ => true
  | .shlImm _ _ imm => isShift imm
  | .shrImm _ _ imm => isShift imm
  | .sarImm _ _ imm => isShift imm
  | .sltImm _ _ _ => true
  | .sltuImm _ _ _ => true
  | .minImm _ _ _ => true
  | .maxImm _ _ _ => true
  | .mulImm _ _ _ => true
  | .ldhi _ _ => true
  | .addpc _ _ => true
  | .ldB _ _ _ => true
  | .ldBu _ _ _ => true
  | .ldH _ _ _ => true
  | .ldHu _ _ _ => true
  | .ldW _ _ _ => true
  | .ldWu _ _ _ => true
  | .ldD _ _ _ => true
  | .ldBAcq _ _ scope _ => isScope scope
  | .ldBuAcq _ _ scope _ => isScope scope
  | .ldHAcq _ _ scope _ => isScope scope
  | .ldHuAcq _ _ scope _ => isScope scope
  | .ldWAcq _ _ scope _ => isScope scope
  | .ldWuAcq _ _ scope _ => isScope scope
  | .ldDAcq _ _ scope _ => isScope scope
  | .stB _ _ _ => true
  | .stH _ _ _ => true
  | .stW _ _ _ => true
  | .stD _ _ _ => true
  | .stBRel _ _ scope _ => isScope scope
  | .stHRel _ _ scope _ => isScope scope
  | .stWRel _ _ scope _ => isScope scope
  | .stDRel _ _ scope _ => isScope scope
  | .bEq _ _ _ => true
  | .bNe _ _ _ => true
  | .bLt _ _ _ => true
  | .bGe _ _ _ => true
  | .bLtu _ _ _ => true
  | .bGeu _ _ _ => true
  | .brot _ _ _ => true
  | .j _ _ => true
  | .jr _ _ _ => true
  | .callw n => isWindow n
  | .retw => true
  | .fadd _ _ _ _ => true
  | .fsub _ _ _ _ => true
  | .fmul _ _ _ _ => true
  | .fdiv _ _ _ _ => true
  | .fsqrt _ _ _ => true
  | .fmin _ _ _ _ => true
  | .fmax _ _ _ _ => true
  | .ffma _ _ _ _ => true
  | .fcmpEq _ _ _ _ => true
  | .fcmpLt _ _ _ _ => true
  | .fcmpLe _ _ _ _ => true
  | .fcmpUn _ _ _ _ => true
  | .fcvtFloatFloat _ _ _ => true
  | .fcvtFToI32 _ _ _ => true
  | .fcvtuFToU32 _ _ _ => true
  | .fcvtFToI64 _ _ _ => true
  | .fcvtuFToU64 _ _ _ => true
  | .fcvtI32ToF _ _ _ => true
  | .fcvtuU32ToF _ _ _ => true
  | .fcvtI64ToF _ _ _ => true
  | .fcvtuU64ToF _ _ _ => true
  | .fclass _ _ _ => true
  | .hset _ _ _ => true
  | .hget _ _ => true
  | .pset d _ => isPred5 d
  | .pget _ a => isPred5 a
  | .vaddF32 _ _ _ _ => true
  | .vsubF32 _ _ _ _ => true
  | .vmulF32 _ _ _ _ => true
  | .vfmaF32 _ _ _ _ => true
  | .vminF32 _ _ _ _ => true
  | .vmaxF32 _ _ _ _ => true
  | .vabsF32 _ _ _ => true
  | .vnegF32 _ _ _ => true
  | .vaddI32 _ _ _ _ => true
  | .vsubI32 _ _ _ _ => true
  | .vmulI32 _ _ _ _ => true
  | .vand _ _ _ _ => true
  | .vor _ _ _ _ => true
  | .vxor _ _ _ _ => true
  | .vshl _ _ _ _ => true
  | .vsar _ _ _ _ => true
  | .vexp2 _ _ _ => true
  | .vlog2 _ _ _ => true
  | .vrcp _ _ _ => true
  | .vrsqrt _ _ _ => true
  | .vtanh _ _ _ => true
  | .vcmpEqF32 d _ _ _ => isPred6 d
  | .vcmpLtF32 d _ _ _ => isPred6 d
  | .vcmpLeF32 d _ _ _ => isPred6 d
  | .vcmpUnF32 d _ _ _ => isPred6 d
  | .vcmpEqI32 d _ _ _ => isPred6 d
  | .vcmpLtI32 d _ _ _ => isPred6 d
  | .vcmpLeI32 d _ _ _ => isPred6 d
  | .vcmpLtuI32 d _ _ _ => isPred6 d
  | .vsel _ _ _ m => m != 0
  | .pand d a b _ => isPred6 d && isPred6 a && isPred6 b
  | .por d a b _ => isPred6 d && isPred6 a && isPred6 b
  | .pxor d a b _ => isPred6 d && isPred6 a && isPred6 b
  | .pnot d a _ => isPred6 d && isPred6 a
  | .vrsumF32 _ _ _ => true
  | .vrmaxF32 _ _ _ => true
  | .vrminF32 _ _ _ => true
  | .vrsumI32 _ _ _ => true
  | .vrmaxI32 _ _ _ => true
  | .vrminI32 _ _ _ => true
  | .vperm _ _ _ _ => true
  | .vbcast _ a _ => isScalar6 a
  | .vslup _ _ b _ => isScalar6 b
  | .vsldn _ _ b _ => isScalar6 b
  | .vmov _ _ _ => true
  | .vlane _ _ => true
  | .vtrd _ ta tb => (isHandle ta || isAcc ta) && isScalar6 tb
  | .vtwr td _ tb => isHandle td && isScalar6 tb
  | .vtrdc _ ta tb => isHandle ta && isScalar6 tb
  | .vtwrc td _ tb _ => isHandle td && isScalar6 tb
  | .mma td ta tb _ => isAcc td && isHandleOrQueue ta && isHandleOrQueue tb
  | .mmaZ td ta tb _ => isAcc td && isHandleOrQueue ta && isHandleOrQueue tb
  | .mout td ta _ => isHandleOrQueue td && isAcc ta
  | .mclr td => isAcc td
  | .mtr td ta => isHandleOrQueue td && isHandleOrQueue ta
  | .tcvt td ta _ => isHandleOrQueue td && isHandleOrQueue ta
  | .thdrRd ta tb => isHandleOrQueue ta && isScalar6 tb
  | .thdrWr td tb => isHandle td && isScalar6 tb
  | .cbld ta tbl => isScalar6 ta && tbl != 0
  | .tzero td ta _ => isHandleOrQueue td && isHandle ta
  | .tld td ta => isHandleOrQueue td && isScalar6 ta
  | .tst ta tb => isHandleOrQueue ta && isScalar6 tb
  | .tstF ta tb => isHandleOrQueue ta && isScalar6 tb
  | .tgat td ta tb => isHandle td && isScalar6 ta && isScalar6 tb
  | .tsct td ta tb => isScalar6 td && isHandle ta && isScalar6 tb
  | .dcpy _ _ _ => true
  | .dflag _ _ scope => isFlagScope scope
  | .dseal _ => true
  | .dwait _ => true
  | .cflush _ _ => true
  | .cinval _ _ => true
  | .qbindS td ta => isQueue td && isScalar6 ta
  | .qbindR td ta => isQueue td && isScalar6 ta
  | .qunbind td => isQueue td
  | .qsend td ta => isQueue td && isHandle ta
  | .qsendF td ta => isQueue td && isHandle ta
  | .qrecv td ta => isHandle td && isQueue ta
  | .qmarkStart td ta => isQueue td && isScalar6 ta
  | .qmarkEnd td ta => isQueue td && isScalar6 ta
  | .qwidth td width => isQueue td && isWidth width
  | .qstat td ta => isScalar6 td && isQueue ta
  | .qdrop td => isQueue td
  | .fenceAcq scope => isScope scope
  | .fenceRel scope => isScope scope
  | .fence scope => isScope scope
  | .wcnt _ _ _ _ => true
  | .bar => true
  | .elect _ => true
  | .mjoin k => isMask k
  | .mleave k => isMask k
  | .mwait k => isMask k
  | .xchIdx _ _ _ => true
  | .xchUp _ _ _ => true
  | .xchDown _ _ _ => true
  | .xchXor _ _ _ => true
  | .spawn _ _ _ => true
  | .tnext _ => true
  | .amoAdd _ _ _ scope size => isScope scope && isIntSize size
  | .amoAnd _ _ _ scope size => isScope scope && isIntSize size
  | .amoOr _ _ _ scope size => isScope scope && isIntSize size
  | .amoXor _ _ _ scope size => isScope scope && isIntSize size
  | .amoMin _ _ _ scope size => isScope scope && isIntSize size
  | .amoMax _ _ _ scope size => isScope scope && isIntSize size
  | .amoMinu _ _ _ scope size => isScope scope && isIntSize size
  | .amoMaxu _ _ _ scope size => isScope scope && isIntSize size
  | .amoSwap _ _ _ scope size => isScope scope && isIntSize size
  | .amoCas _ _ _ scope size => isScope scope && isIntSize size
  | .amoAddF32 _ _ _ scope size => isScope scope && size == 0
  | .amoMinF32 _ _ _ scope size => isScope scope && size == 0
  | .amoMaxF32 _ _ _ scope size => isScope scope && size == 0
  | .amoCasF32 _ _ _ scope size => isScope scope && size == 0
  | .redAdd _ _ scope size => isScope scope && isIntSize size
  | .redAnd _ _ scope size => isScope scope && isIntSize size
  | .redOr _ _ scope size => isScope scope && isIntSize size
  | .redXor _ _ scope size => isScope scope && isIntSize size
  | .redMin _ _ scope size => isScope scope && isIntSize size
  | .redMax _ _ scope size => isScope scope && isIntSize size
  | .redMinu _ _ scope size => isScope scope && isIntSize size
  | .redMaxu _ _ scope size => isScope scope && isIntSize size
  | .redAddF32 _ _ scope size => isScope scope && size == 0
  | .mbxSend _ _ _ => true
  | .mbxRecv _ => true
  | .trap _ => true
  | .svc _ => true
  | .brk _ => true
  | .halt => true
  | .eret => true
  | .sysrd _ r => isSysReg r
  | .syswr _ r => isSysReg r
  | .lseq lvl _ _ => isLevel lvl
  | .lseqRot lvl _ _ => isLevel lvl
  | .lend lvl => isLevel lvl
  | .lfirst lvl n => isLevel lvl && n != 0
  | .llast lvl n => isLevel lvl && n != 0
  | .lstride lvl _ _ _ => isLevel lvl
  | .lbrk lvl _ => isLevel lvl
  | .issueGroupAged core slot lane => decide (core < 192) && decide (slot < 32) && decide (lane < 32)
  | .binTimerExpiry core bin => decide (core < 192) && decide (bin < 32)
  | .binLaunch core bin slot => decide (core < 192) && decide (bin < 32) && decide (slot < 32)
  | .warpMerge core slotA slotB => decide (core < 192) && decide (slotA < 32) && decide (slotB < 32)
  | .outcomeTake core _ => decide (core < 160)
  | .entryShipment victim thief => decide (victim < 160) && decide (thief < 160)
  | .loadDataReturn _ => true
  | .storeAccept _ => true
  | .matrixOpRetire _ _ => true
  | .copyComplete _ => true
  | .unitComplete _ => true
  | .deferredFaultReport _ _ _ _ _ => true
  | .tileEntryWindowWrite core _ _ _ => decide (core < 160)
  | .bindingPair core _ peer _ => decide (core < 160) && decide (peer.mod < 16384) && decide (peer.core < 160) && decide (peer.q < 16)
  | .peerUnpair core _ => decide (core < 160)
  | .tileFirstFlit core _ => decide (core < 160)
  | .tileLastFlit core _ _ => decide (core < 160)
  | .creditReturn core _ => decide (core < 160)
  | .linkTakeTile core _ => decide (core < 160)
  | .sendRetire core _ => decide (core < 160)
  | .qmarkRx core _ _ _ => decide (core < 160)
  | .qmarkAck core _ => decide (core < 160)
  | .widthMarkerPlace c => decide (c < 256)
  | .widthMarkerConfirm c => decide (c < 256)
  | .remoteRequestArrival _ _ _ _ _ => true
  | .mergeEntryEvict _ => true
  | .remoteReply _ _ => true
  | .e2eTimerExpiry _ _ => true
  | .flagWrite _ => true
  | .dflagAck _ => true
  | .homeRequest _ => true
  | .probeResponse _ => true
  | .sdnGo _ => true
  | .shootdownComplete => true
  | .portEnable p => decide (p < 24)
  | .portRun p => decide (p < 24)
  | .portReenum p => decide (p < 24)
  | .portOff p => decide (p < 24)
  | .portLinkUp p => decide (p < 24)
  | .portTrainingFail p => decide (p < 24)
  | .capabilityTableRead p _ => decide (p < 24)
  | .cmbxSend hart _ => decide (hart < 64)
  | .cmbxPop hart => decide (hart < 64)
  | .dqDoorbell w q _ => decide (w < 16) && decide (q < 64)
  | .dqEnable w q _ => decide (w < 16) && decide (q < 64)
  | .packetAccept w q => decide (w < 16) && decide (q < 64)
  | .launchIssue w _ _ => decide (w < 16)
  | .launchComplete w _ _ => decide (w < 16)
  | .cancel _ => true
  | .jrnlAck _ => true
  | .placeUnit w _ _ _ => decide (w < 16)
  | .launchAged w _ _ => decide (w < 16)
  | .unitResume => true
  | .unitRedirect => true
  | .unitDiscard => true
  | .unitSave => true
  | .saveComplete _ _ => true
  | .unitRestore _ _ => true
  | .heartbeat p => decide (p < 24)
  | .heartbeatLapse p => decide (p < 24)
  | .requestNoAnswer p => decide (p < 24)
  | .isoCmd _ => true
  | .fenceDrained p => decide (p < 24)
  | .cleanComplete p => decide (p < 24)
  | .chipletResetRelease p => decide (p < 24)
  | .redispatch p => decide (p < 24)
  | .ucieFrameReceive p _ _ => decide (p < 24)
  | .getVersion => true
  | .getCapabilities => true
  | .negotiateAlgorithms _ => true
  | .getDigests => true
  | .getCertificate _ => true
  | .challenge _ => true
  | .getMeasurements _ _ => true
  | .keyExchange _ => true
  | .finish _ => true
  | .spdmHeartbeat _ => true
  | .keyUpdate _ => true
  | .endSession _ => true
  | .pldmPlatformMonitoring _ _ => true
  | .pldmFirmwareUpdate _ => true
  | .boot _ => true
  | .mcBootClear => true
  | .chipletGate p _ => decide (p < 24)
  | .chipletWakeComplete p => decide (p < 24)
  | .chanEnable c _ => decide (c < 256)
  | .chanDisable c => decide (c < 256)
  | .chanDark c => decide (c < 256)
  | .chanUndark c => decide (c < 256)
  | .chanTuned c => decide (c < 256)
  | .chanDrained c => decide (c < 256)
  | .linkNak c _ => decide (c < 256)
  | .chanPark c _ => decide (c < 256)
  | .chanUnpark c _ => decide (c < 256)
  | .positionLocked c i => decide (c < 256) && decide (i < 8)
  | .allowanceRequest c i _ => decide (c < 512) && decide (i < 4)
  | .allowanceGrant c i _ _ => decide (c < 256) && decide (i < 8)
  | .allowanceRenew x i => allowEndOk x i
  | .allowanceExpiry x i => allowEndOk x i
  | .orbitSlot slot => decide (slot < 128)
  | .ptpSync _ _ => true
  | .ptpSyncTimeout => true
  | .reachCommit => true
  | .rwinWrite _ _ _ _ => true
  | .wbStage b k => decide (b < 64) && decide (k < 4)
  | .wbMeasure b k => decide (b < 64) && decide (k < 4)
  | .wbMeasureComplete b k => decide (b < 64) && decide (k < 4)
  | .wbSwitch b k => decide (b < 64) && decide (k < 4)
  | .wbDrop b k => decide (b < 64) && decide (k < 4)
  | .pcieDmaRequest port _ va size _ => decide (port < 2) && isAccess va.toNat size
  | .registerWrite _ _ _ => true
  | .controlCoreAccess hart _ op addr size _ => decide (hart < 64) && hartOpOk op && (op.isFence || isAccess addr size)
  | .powerLoss _ _ => true
  | .opticalFrameReceive c _ _ => decide (c < 256)
  | .opticalCeilingLower _ => true

end Sys2Proof
end

