-- ==== Sys2Proof/Decode.lean ====
section
/-! DEFINITION. Words to instructions and back (07 R180 to R195), written from the encoding tables of 07 to 12 and
spec/opcode_table.json. The decoder is total: it gives the instruction or a rejection by name. Values of an operand
field that no core takes are decoded; the word then raises illegal-operand when it runs (07 R195), so that the order
of the rows of R195 can be kept. -/

namespace Sys2Proof

/-- Why a word is no instruction (07 R195). -/
inductive Reject where
  /-- 0x0000_0000, 0xFFFF_FFFF or engine 7: illegal-instruction. -/
  | notAWord
  /-- An unassigned major, function or condition, or a nonzero bit in an unused field: illegal-instruction. -/
  | unassigned
  /-- A condition of `fcmp` above 3 or a conversion code above 8 (07 R187): illegal-operand. -/
  | operand
  /-- Fewer than four bytes. -/
  | short
  deriving DecidableEq, Repr

/-- Bits [lo + len - 1 : lo] of a word. -/
def fld (w lo len : Nat) : Nat := w / 2 ^ lo % 2 ^ len

/-- The type field of a scalar floating-point word (07 R187); codes 2 and 3 are unassigned function values. -/
def decodeFType (w : Nat) : Option FType :=
  match fld w 8 2 with
  | 0 => some .f32
  | 1 => some .f64
  | _ => none

/-- S engine, major 0x0 (07 R185). -/
def decodeS0 (w : Nat) : Except Reject Instr :=
  if fld w 0 10 = 0 then
    .ok (.add (BitVec.ofNat 5 (fld w 20 5)) (BitVec.ofNat 5 (fld w 15 5)) (BitVec.ofNat 5 (fld w 10 5)))
  else if fld w 0 10 = 1 then
    .ok (.sub (BitVec.ofNat 5 (fld w 20 5)) (BitVec.ofNat 5 (fld w 15 5)) (BitVec.ofNat 5 (fld w 10 5)))
  else if fld w 0 10 = 2 then
    .ok (.mul (BitVec.ofNat 5 (fld w 20 5)) (BitVec.ofNat 5 (fld w 15 5)) (BitVec.ofNat 5 (fld w 10 5)))
  else if fld w 0 10 = 3 then
    .ok (.mulh (BitVec.ofNat 5 (fld w 20 5)) (BitVec.ofNat 5 (fld w 15 5)) (BitVec.ofNat 5 (fld w 10 5)))
  else if fld w 0 10 = 4 then
    .ok (.mulhu (BitVec.ofNat 5 (fld w 20 5)) (BitVec.ofNat 5 (fld w 15 5)) (BitVec.ofNat 5 (fld w 10 5)))
  else if fld w 0 10 = 5 then
    .ok (.div (BitVec.ofNat 5 (fld w 20 5)) (BitVec.ofNat 5 (fld w 15 5)) (BitVec.ofNat 5 (fld w 10 5)))
  else if fld w 0 10 = 6 then
    .ok (.divu (BitVec.ofNat 5 (fld w 20 5)) (BitVec.ofNat 5 (fld w 15 5)) (BitVec.ofNat 5 (fld w 10 5)))
  else if fld w 0 10 = 7 then
    .ok (.rem (BitVec.ofNat 5 (fld w 20 5)) (BitVec.ofNat 5 (fld w 15 5)) (BitVec.ofNat 5 (fld w 10 5)))
  else if fld w 0 10 = 8 then
    .ok (.remu (BitVec.ofNat 5 (fld w 20 5)) (BitVec.ofNat 5 (fld w 15 5)) (BitVec.ofNat 5 (fld w 10 5)))
  else if fld w 0 10 = 16 then
    .ok (.and (BitVec.ofNat 5 (fld w 20 5)) (BitVec.ofNat 5 (fld w 15 5)) (BitVec.ofNat 5 (fld w 10 5)))
  else if fld w 0 10 = 17 then
    .ok (.or (BitVec.ofNat 5 (fld w 20 5)) (BitVec.ofNat 5 (fld w 15 5)) (BitVec.ofNat 5 (fld w 10 5)))
  else if fld w 0 10 = 18 then
    .ok (.xor (BitVec.ofNat 5 (fld w 20 5)) (BitVec.ofNat 5 (fld w 15 5)) (BitVec.ofNat 5 (fld w 10 5)))
  else if fld w 0 10 = 24 then
    .ok (.shl (BitVec.ofNat 5 (fld w 20 5)) (BitVec.ofNat 5 (fld w 15 5)) (BitVec.ofNat 5 (fld w 10 5)))
  else if fld w 0 10 = 25 then
    .ok (.shr (BitVec.ofNat 5 (fld w 20 5)) (BitVec.ofNat 5 (fld w 15 5)) (BitVec.ofNat 5 (fld w 10 5)))
  else if fld w 0 10 = 26 then
    .ok (.sar (BitVec.ofNat 5 (fld w 20 5)) (BitVec.ofNat 5 (fld w 15 5)) (BitVec.ofNat 5 (fld w 10 5)))
  else if fld w 0 10 = 32 then
    .ok (.slt (BitVec.ofNat 5 (fld w 20 5)) (BitVec.ofNat 5 (fld w 15 5)) (BitVec.ofNat 5 (fld w 10 5)))
  else if fld w 0 10 = 33 then
    .ok (.sltu (BitVec.ofNat 5 (fld w 20 5)) (BitVec.ofNat 5 (fld w 15 5)) (BitVec.ofNat 5 (fld w 10 5)))
  else if fld w 0 10 = 34 then
    .ok (.min (BitVec.ofNat 5 (fld w 20 5)) (BitVec.ofNat 5 (fld w 15 5)) (BitVec.ofNat 5 (fld w 10 5)))
  else if fld w 0 10 = 35 then
    .ok (.max (BitVec.ofNat 5 (fld w 20 5)) (BitVec.ofNat 5 (fld w 15 5)) (BitVec.ofNat 5 (fld w 10 5)))
  else if fld w 0 10 = 36 then
    .ok (.minu (BitVec.ofNat 5 (fld w 20 5)) (BitVec.ofNat 5 (fld w 15 5)) (BitVec.ofNat 5 (fld w 10 5)))
  else if fld w 0 10 = 37 then
    .ok (.maxu (BitVec.ofNat 5 (fld w 20 5)) (BitVec.ofNat 5 (fld w 15 5)) (BitVec.ofNat 5 (fld w 10 5)))
  else if fld w 0 15 = 40 then
    .ok (.clz (BitVec.ofNat 5 (fld w 20 5)) (BitVec.ofNat 5 (fld w 15 5)))
  else if fld w 0 15 = 41 then
    .ok (.popc (BitVec.ofNat 5 (fld w 20 5)) (BitVec.ofNat 5 (fld w 15 5)))
  else if fld w 4 6 = 4 then
    .ok (.sel (BitVec.ofNat 5 (fld w 20 5)) (BitVec.ofNat 5 (fld w 15 5)) (BitVec.ofNat 5 (fld w 10 5)) (BitVec.ofNat 4 (fld w 0 4)))
  else .error .unassigned

/-- S engine, major 0x1 (07 R185). -/
def decodeS1 (w : Nat) : Except Reject Instr :=
  if fld w 12 3 = 0 then
    .ok (.addImm (BitVec.ofNat 5 (fld w 20 5)) (BitVec.ofNat 5 (fld w 15 5)) (BitVec.ofNat 12 (fld w 0 12)))
  else if fld w 12 3 = 1 then
    .ok (.andImm (BitVec.ofNat 5 (fld w 20 5)) (BitVec.ofNat 5 (fld w 15 5)) (BitVec.ofNat 12 (fld w 0 12)))
  else if fld w 12 3 = 2 then
    .ok (.orImm (BitVec.ofNat 5 (fld w 20 5)) (BitVec.ofNat 5 (fld w 15 5)) (BitVec.ofNat 12 (fld w 0 12)))
  else if fld w 12 3 = 3 then
    .ok (.xorImm (BitVec.ofNat 5 (fld w 20 5)) (BitVec.ofNat 5 (fld w 15 5)) (BitVec.ofNat 12 (fld w 0 12)))
  else if fld w 12 3 = 4 then
    .ok (.shlImm (BitVec.ofNat 5 (fld w 20 5)) (BitVec.ofNat 5 (fld w 15 5)) (BitVec.ofNat 12 (fld w 0 12)))
  else if fld w 12 3 = 5 then
    .ok (.shrImm (BitVec.ofNat 5 (fld w 20 5)) (BitVec.ofNat 5 (fld w 15 5)) (BitVec.ofNat 12 (fld w 0 12)))
  else if fld w 12 3 = 6 then
    .ok (.sarImm (BitVec.ofNat 5 (fld w 20 5)) (BitVec.ofNat 5 (fld w 15 5)) (BitVec.ofNat 12 (fld w 0 12)))
  else if fld w 12 3 = 7 then
    .ok (.sltImm (BitVec.ofNat 5 (fld w 20 5)) (BitVec.ofNat 5 (fld w 15 5)) (BitVec.ofNat 12 (fld w 0 12)))
  else .error .unassigned

/-- S engine, major 0x2 (07 R185). -/
def decodeS2 (w : Nat) : Except Reject Instr :=
  if fld w 12 3 = 0 then
    .ok (.sltuImm (BitVec.ofNat 5 (fld w 20 5)) (BitVec.ofNat 5 (fld w 15 5)) (BitVec.ofNat 12 (fld w 0 12)))
  else if fld w 12 3 = 1 then
    .ok (.minImm (BitVec.ofNat 5 (fld w 20 5)) (BitVec.ofNat 5 (fld w 15 5)) (BitVec.ofNat 12 (fld w 0 12)))
  else if fld w 12 3 = 2 then
    .ok (.maxImm (BitVec.ofNat 5 (fld w 20 5)) (BitVec.ofNat 5 (fld w 15 5)) (BitVec.ofNat 12 (fld w 0 12)))
  else if fld w 12 3 = 3 then
    .ok (.mulImm (BitVec.ofNat 5 (fld w 20 5)) (BitVec.ofNat 5 (fld w 15 5)) (BitVec.ofNat 12 (fld w 0 12)))
  else .error .unassigned

/-- S engine, major 0x3 (07 R185). -/
def decodeS3 (w : Nat) : Except Reject Instr :=
  .ok (.ldhi (BitVec.ofNat 5 (fld w 20 5)) (BitVec.ofNat 20 (fld w 0 20)))

/-- S engine, major 0x4 (07 R185). -/
def decodeS4 (w : Nat) : Except Reject Instr :=
  .ok (.addpc (BitVec.ofNat 5 (fld w 20 5)) (BitVec.ofNat 20 (fld w 0 20)))

/-- S engine, major 0x5 (07 R185). -/
def decodeS5 (w : Nat) : Except Reject Instr :=
  if fld w 12 3 = 0 then
    .ok (.ldB (BitVec.ofNat 5 (fld w 20 5)) (BitVec.ofNat 5 (fld w 15 5)) (BitVec.ofNat 12 (fld w 0 12)))
  else if fld w 12 3 = 1 then
    .ok (.ldBu (BitVec.ofNat 5 (fld w 20 5)) (BitVec.ofNat 5 (fld w 15 5)) (BitVec.ofNat 12 (fld w 0 12)))
  else if fld w 12 3 = 2 then
    .ok (.ldH (BitVec.ofNat 5 (fld w 20 5)) (BitVec.ofNat 5 (fld w 15 5)) (BitVec.ofNat 12 (fld w 0 12)))
  else if fld w 12 3 = 3 then
    .ok (.ldHu (BitVec.ofNat 5 (fld w 20 5)) (BitVec.ofNat 5 (fld w 15 5)) (BitVec.ofNat 12 (fld w 0 12)))
  else if fld w 12 3 = 4 then
    .ok (.ldW (BitVec.ofNat 5 (fld w 20 5)) (BitVec.ofNat 5 (fld w 15 5)) (BitVec.ofNat 12 (fld w 0 12)))
  else if fld w 12 3 = 5 then
    .ok (.ldWu (BitVec.ofNat 5 (fld w 20 5)) (BitVec.ofNat 5 (fld w 15 5)) (BitVec.ofNat 12 (fld w 0 12)))
  else if fld w 12 3 = 6 then
    .ok (.ldD (BitVec.ofNat 5 (fld w 20 5)) (BitVec.ofNat 5 (fld w 15 5)) (BitVec.ofNat 12 (fld w 0 12)))
  else .error .unassigned

/-- S engine, major 0x6 (07 R185). -/
def decodeS6 (w : Nat) : Except Reject Instr :=
  if fld w 12 3 = 0 then
    .ok (.ldBAcq (BitVec.ofNat 5 (fld w 20 5)) (BitVec.ofNat 5 (fld w 15 5)) (BitVec.ofNat 3 (fld w 9 3)) (BitVec.ofNat 9 (fld w 0 9)))
  else if fld w 12 3 = 1 then
    .ok (.ldBuAcq (BitVec.ofNat 5 (fld w 20 5)) (BitVec.ofNat 5 (fld w 15 5)) (BitVec.ofNat 3 (fld w 9 3)) (BitVec.ofNat 9 (fld w 0 9)))
  else if fld w 12 3 = 2 then
    .ok (.ldHAcq (BitVec.ofNat 5 (fld w 20 5)) (BitVec.ofNat 5 (fld w 15 5)) (BitVec.ofNat 3 (fld w 9 3)) (BitVec.ofNat 9 (fld w 0 9)))
  else if fld w 12 3 = 3 then
    .ok (.ldHuAcq (BitVec.ofNat 5 (fld w 20 5)) (BitVec.ofNat 5 (fld w 15 5)) (BitVec.ofNat 3 (fld w 9 3)) (BitVec.ofNat 9 (fld w 0 9)))
  else if fld w 12 3 = 4 then
    .ok (.ldWAcq (BitVec.ofNat 5 (fld w 20 5)) (BitVec.ofNat 5 (fld w 15 5)) (BitVec.ofNat 3 (fld w 9 3)) (BitVec.ofNat 9 (fld w 0 9)))
  else if fld w 12 3 = 5 then
    .ok (.ldWuAcq (BitVec.ofNat 5 (fld w 20 5)) (BitVec.ofNat 5 (fld w 15 5)) (BitVec.ofNat 3 (fld w 9 3)) (BitVec.ofNat 9 (fld w 0 9)))
  else if fld w 12 3 = 6 then
    .ok (.ldDAcq (BitVec.ofNat 5 (fld w 20 5)) (BitVec.ofNat 5 (fld w 15 5)) (BitVec.ofNat 3 (fld w 9 3)) (BitVec.ofNat 9 (fld w 0 9)))
  else .error .unassigned

/-- S engine, major 0x7 (07 R185). -/
def decodeS7 (w : Nat) : Except Reject Instr :=
  if fld w 12 3 = 0 then
    .ok (.stB (BitVec.ofNat 5 (fld w 20 5)) (BitVec.ofNat 5 (fld w 15 5)) (BitVec.ofNat 12 (fld w 0 12)))
  else if fld w 12 3 = 1 then
    .ok (.stH (BitVec.ofNat 5 (fld w 20 5)) (BitVec.ofNat 5 (fld w 15 5)) (BitVec.ofNat 12 (fld w 0 12)))
  else if fld w 12 3 = 2 then
    .ok (.stW (BitVec.ofNat 5 (fld w 20 5)) (BitVec.ofNat 5 (fld w 15 5)) (BitVec.ofNat 12 (fld w 0 12)))
  else if fld w 12 3 = 3 then
    .ok (.stD (BitVec.ofNat 5 (fld w 20 5)) (BitVec.ofNat 5 (fld w 15 5)) (BitVec.ofNat 12 (fld w 0 12)))
  else .error .unassigned

/-- S engine, major 0x8 (07 R185). -/
def decodeS8 (w : Nat) : Except Reject Instr :=
  if fld w 12 3 = 0 then
    .ok (.stBRel (BitVec.ofNat 5 (fld w 20 5)) (BitVec.ofNat 5 (fld w 15 5)) (BitVec.ofNat 3 (fld w 9 3)) (BitVec.ofNat 9 (fld w 0 9)))
  else if fld w 12 3 = 1 then
    .ok (.stHRel (BitVec.ofNat 5 (fld w 20 5)) (BitVec.ofNat 5 (fld w 15 5)) (BitVec.ofNat 3 (fld w 9 3)) (BitVec.ofNat 9 (fld w 0 9)))
  else if fld w 12 3 = 2 then
    .ok (.stWRel (BitVec.ofNat 5 (fld w 20 5)) (BitVec.ofNat 5 (fld w 15 5)) (BitVec.ofNat 3 (fld w 9 3)) (BitVec.ofNat 9 (fld w 0 9)))
  else if fld w 12 3 = 3 then
    .ok (.stDRel (BitVec.ofNat 5 (fld w 20 5)) (BitVec.ofNat 5 (fld w 15 5)) (BitVec.ofNat 3 (fld w 9 3)) (BitVec.ofNat 9 (fld w 0 9)))
  else .error .unassigned

/-- S engine, major 0x9 (07 R185). -/
def decodeS9 (w : Nat) : Except Reject Instr :=
  if fld w 12 3 = 0 then
    .ok (.bEq (BitVec.ofNat 5 (fld w 20 5)) (BitVec.ofNat 5 (fld w 15 5)) (BitVec.ofNat 12 (fld w 0 12)))
  else if fld w 12 3 = 1 then
    .ok (.bNe (BitVec.ofNat 5 (fld w 20 5)) (BitVec.ofNat 5 (fld w 15 5)) (BitVec.ofNat 12 (fld w 0 12)))
  else if fld w 12 3 = 2 then
    .ok (.bLt (BitVec.ofNat 5 (fld w 20 5)) (BitVec.ofNat 5 (fld w 15 5)) (BitVec.ofNat 12 (fld w 0 12)))
  else if fld w 12 3 = 3 then
    .ok (.bGe (BitVec.ofNat 5 (fld w 20 5)) (BitVec.ofNat 5 (fld w 15 5)) (BitVec.ofNat 12 (fld w 0 12)))
  else if fld w 12 3 = 4 then
    .ok (.bLtu (BitVec.ofNat 5 (fld w 20 5)) (BitVec.ofNat 5 (fld w 15 5)) (BitVec.ofNat 12 (fld w 0 12)))
  else if fld w 12 3 = 5 then
    .ok (.bGeu (BitVec.ofNat 5 (fld w 20 5)) (BitVec.ofNat 5 (fld w 15 5)) (BitVec.ofNat 12 (fld w 0 12)))
  else if fld w 12 3 = 6 then
    .ok (.brot (BitVec.ofNat 5 (fld w 20 5)) (BitVec.ofNat 5 (fld w 15 5)) (BitVec.ofNat 12 (fld w 0 12)))
  else .error .unassigned

/-- S engine, major 0xA (07 R185). -/
def decodeSA (w : Nat) : Except Reject Instr :=
  .ok (.j (BitVec.ofNat 5 (fld w 20 5)) (BitVec.ofNat 20 (fld w 0 20)))

/-- S engine, major 0xB (07 R185). -/
def decodeSB (w : Nat) : Except Reject Instr :=
  if fld w 12 3 = 0 then
    .ok (.jr (BitVec.ofNat 5 (fld w 20 5)) (BitVec.ofNat 5 (fld w 15 5)) (BitVec.ofNat 12 (fld w 0 12)))
  else .error .unassigned

/-- S engine, major 0xC (07 R185). -/
def decodeSC (w : Nat) : Except Reject Instr :=
  if fld w 12 13 = 0 then
    .ok (.callw (BitVec.ofNat 12 (fld w 0 12)))
  else if fld w 0 25 = 4096 then
    .ok (.retw)
  else .error .unassigned

/-- S engine, major 0xD (07 R185). -/
def decodeSD (w : Nat) : Except Reject Instr :=
  match decodeFType w with
  | none => .error .unassigned
  | some ft =>
    if fld w 0 8 = 0 then
      .ok (.fadd (BitVec.ofNat 5 (fld w 20 5)) (BitVec.ofNat 5 (fld w 15 5)) (BitVec.ofNat 5 (fld w 10 5)) ft)
    else if fld w 0 8 = 16 then
      .ok (.fsub (BitVec.ofNat 5 (fld w 20 5)) (BitVec.ofNat 5 (fld w 15 5)) (BitVec.ofNat 5 (fld w 10 5)) ft)
    else if fld w 0 8 = 32 then
      .ok (.fmul (BitVec.ofNat 5 (fld w 20 5)) (BitVec.ofNat 5 (fld w 15 5)) (BitVec.ofNat 5 (fld w 10 5)) ft)
    else if fld w 0 8 = 48 then
      .ok (.fdiv (BitVec.ofNat 5 (fld w 20 5)) (BitVec.ofNat 5 (fld w 15 5)) (BitVec.ofNat 5 (fld w 10 5)) ft)
    else if fld w 0 8 = 64 ∧ fld w 10 5 = 0 then
      .ok (.fsqrt (BitVec.ofNat 5 (fld w 20 5)) (BitVec.ofNat 5 (fld w 15 5)) ft)
    else if fld w 0 8 = 80 then
      .ok (.fmin (BitVec.ofNat 5 (fld w 20 5)) (BitVec.ofNat 5 (fld w 15 5)) (BitVec.ofNat 5 (fld w 10 5)) ft)
    else if fld w 0 8 = 96 then
      .ok (.fmax (BitVec.ofNat 5 (fld w 20 5)) (BitVec.ofNat 5 (fld w 15 5)) (BitVec.ofNat 5 (fld w 10 5)) ft)
    else if fld w 0 8 = 112 then
      .ok (.ffma (BitVec.ofNat 5 (fld w 20 5)) (BitVec.ofNat 5 (fld w 15 5)) (BitVec.ofNat 5 (fld w 10 5)) ft)
    else if fld w 0 8 = 128 then
      .ok (.fcmpEq (BitVec.ofNat 5 (fld w 20 5)) (BitVec.ofNat 5 (fld w 15 5)) (BitVec.ofNat 5 (fld w 10 5)) ft)
    else if fld w 0 8 = 129 then
      .ok (.fcmpLt (BitVec.ofNat 5 (fld w 20 5)) (BitVec.ofNat 5 (fld w 15 5)) (BitVec.ofNat 5 (fld w 10 5)) ft)
    else if fld w 0 8 = 130 then
      .ok (.fcmpLe (BitVec.ofNat 5 (fld w 20 5)) (BitVec.ofNat 5 (fld w 15 5)) (BitVec.ofNat 5 (fld w 10 5)) ft)
    else if fld w 0 8 = 131 then
      .ok (.fcmpUn (BitVec.ofNat 5 (fld w 20 5)) (BitVec.ofNat 5 (fld w 15 5)) (BitVec.ofNat 5 (fld w 10 5)) ft)
    else if fld w 0 8 = 144 ∧ fld w 10 5 = 0 then
      .ok (.fcvtFloatFloat (BitVec.ofNat 5 (fld w 20 5)) (BitVec.ofNat 5 (fld w 15 5)) ft)
    else if fld w 0 8 = 145 ∧ fld w 10 5 = 0 then
      .ok (.fcvtFToI32 (BitVec.ofNat 5 (fld w 20 5)) (BitVec.ofNat 5 (fld w 15 5)) ft)
    else if fld w 0 8 = 146 ∧ fld w 10 5 = 0 then
      .ok (.fcvtuFToU32 (BitVec.ofNat 5 (fld w 20 5)) (BitVec.ofNat 5 (fld w 15 5)) ft)
    else if fld w 0 8 = 147 ∧ fld w 10 5 = 0 then
      .ok (.fcvtFToI64 (BitVec.ofNat 5 (fld w 20 5)) (BitVec.ofNat 5 (fld w 15 5)) ft)
    else if fld w 0 8 = 148 ∧ fld w 10 5 = 0 then
      .ok (.fcvtuFToU64 (BitVec.ofNat 5 (fld w 20 5)) (BitVec.ofNat 5 (fld w 15 5)) ft)
    else if fld w 0 8 = 149 ∧ fld w 10 5 = 0 then
      .ok (.fcvtI32ToF (BitVec.ofNat 5 (fld w 20 5)) (BitVec.ofNat 5 (fld w 15 5)) ft)
    else if fld w 0 8 = 150 ∧ fld w 10 5 = 0 then
      .ok (.fcvtuU32ToF (BitVec.ofNat 5 (fld w 20 5)) (BitVec.ofNat 5 (fld w 15 5)) ft)
    else if fld w 0 8 = 151 ∧ fld w 10 5 = 0 then
      .ok (.fcvtI64ToF (BitVec.ofNat 5 (fld w 20 5)) (BitVec.ofNat 5 (fld w 15 5)) ft)
    else if fld w 0 8 = 152 ∧ fld w 10 5 = 0 then
      .ok (.fcvtuU64ToF (BitVec.ofNat 5 (fld w 20 5)) (BitVec.ofNat 5 (fld w 15 5)) ft)
    else if fld w 0 8 = 160 ∧ fld w 10 5 = 0 then
      .ok (.fclass (BitVec.ofNat 5 (fld w 20 5)) (BitVec.ofNat 5 (fld w 15 5)) ft)
    else if fld w 4 4 = 8 ∨ fld w 4 4 = 9 ∧ fld w 0 4 > 8 ∧ fld w 10 5 = 0 then .error .operand
    else .error .unassigned

/-- S engine, major 0xE (07 R185). -/
def decodeSE (w : Nat) : Except Reject Instr :=
  if fld w 12 3 = 0 then
    .ok (.hset (BitVec.ofNat 5 (fld w 20 5)) (BitVec.ofNat 5 (fld w 15 5)) (BitVec.ofNat 12 (fld w 0 12)))
  else if fld w 0 15 = 4096 then
    .ok (.hget (BitVec.ofNat 5 (fld w 20 5)) (BitVec.ofNat 5 (fld w 15 5)))
  else if fld w 0 15 = 8192 then
    .ok (.pset (BitVec.ofNat 5 (fld w 20 5)) (BitVec.ofNat 5 (fld w 15 5)))
  else if fld w 0 15 = 12288 then
    .ok (.pget (BitVec.ofNat 5 (fld w 20 5)) (BitVec.ofNat 5 (fld w 15 5)))
  else .error .unassigned

/-- V engine, major 0x0 (07 R188). -/
def decodeV0 (w : Nat) : Except Reject Instr :=
  if fld w 0 3 = 0 then
    .ok (.vaddF32 (BitVec.ofNat 6 (32 * fld w 9 1 + fld w 20 5)) (BitVec.ofNat 6 (32 * fld w 8 1 + fld w 15 5)) (BitVec.ofNat 6 (32 * fld w 7 1 + fld w 10 5)) (BitVec.ofNat 4 (fld w 3 4)))
  else if fld w 0 3 = 1 then
    .ok (.vsubF32 (BitVec.ofNat 6 (32 * fld w 9 1 + fld w 20 5)) (BitVec.ofNat 6 (32 * fld w 8 1 + fld w 15 5)) (BitVec.ofNat 6 (32 * fld w 7 1 + fld w 10 5)) (BitVec.ofNat 4 (fld w 3 4)))
  else if fld w 0 3 = 2 then
    .ok (.vmulF32 (BitVec.ofNat 6 (32 * fld w 9 1 + fld w 20 5)) (BitVec.ofNat 6 (32 * fld w 8 1 + fld w 15 5)) (BitVec.ofNat 6 (32 * fld w 7 1 + fld w 10 5)) (BitVec.ofNat 4 (fld w 3 4)))
  else if fld w 0 3 = 3 then
    .ok (.vfmaF32 (BitVec.ofNat 6 (32 * fld w 9 1 + fld w 20 5)) (BitVec.ofNat 6 (32 * fld w 8 1 + fld w 15 5)) (BitVec.ofNat 6 (32 * fld w 7 1 + fld w 10 5)) (BitVec.ofNat 4 (fld w 3 4)))
  else if fld w 0 3 = 4 then
    .ok (.vminF32 (BitVec.ofNat 6 (32 * fld w 9 1 + fld w 20 5)) (BitVec.ofNat 6 (32 * fld w 8 1 + fld w 15 5)) (BitVec.ofNat 6 (32 * fld w 7 1 + fld w 10 5)) (BitVec.ofNat 4 (fld w 3 4)))
  else if fld w 0 3 = 5 then
    .ok (.vmaxF32 (BitVec.ofNat 6 (32 * fld w 9 1 + fld w 20 5)) (BitVec.ofNat 6 (32 * fld w 8 1 + fld w 15 5)) (BitVec.ofNat 6 (32 * fld w 7 1 + fld w 10 5)) (BitVec.ofNat 4 (fld w 3 4)))
  else if fld w 0 3 = 6 ∧ fld w 7 1 = 0 ∧ fld w 10 5 = 0 then
    .ok (.vabsF32 (BitVec.ofNat 6 (32 * fld w 9 1 + fld w 20 5)) (BitVec.ofNat 6 (32 * fld w 8 1 + fld w 15 5)) (BitVec.ofNat 4 (fld w 3 4)))
  else if fld w 0 3 = 7 ∧ fld w 7 1 = 0 ∧ fld w 10 5 = 0 then
    .ok (.vnegF32 (BitVec.ofNat 6 (32 * fld w 9 1 + fld w 20 5)) (BitVec.ofNat 6 (32 * fld w 8 1 + fld w 15 5)) (BitVec.ofNat 4 (fld w 3 4)))
  else .error .unassigned

/-- V engine, major 0x1 (07 R188). -/
def decodeV1 (w : Nat) : Except Reject Instr :=
  if fld w 0 3 = 0 then
    .ok (.vaddI32 (BitVec.ofNat 6 (32 * fld w 9 1 + fld w 20 5)) (BitVec.ofNat 6 (32 * fld w 8 1 + fld w 15 5)) (BitVec.ofNat 6 (32 * fld w 7 1 + fld w 10 5)) (BitVec.ofNat 4 (fld w 3 4)))
  else if fld w 0 3 = 1 then
    .ok (.vsubI32 (BitVec.ofNat 6 (32 * fld w 9 1 + fld w 20 5)) (BitVec.ofNat 6 (32 * fld w 8 1 + fld w 15 5)) (BitVec.ofNat 6 (32 * fld w 7 1 + fld w 10 5)) (BitVec.ofNat 4 (fld w 3 4)))
  else if fld w 0 3 = 2 then
    .ok (.vmulI32 (BitVec.ofNat 6 (32 * fld w 9 1 + fld w 20 5)) (BitVec.ofNat 6 (32 * fld w 8 1 + fld w 15 5)) (BitVec.ofNat 6 (32 * fld w 7 1 + fld w 10 5)) (BitVec.ofNat 4 (fld w 3 4)))
  else if fld w 0 3 = 3 then
    .ok (.vand (BitVec.ofNat 6 (32 * fld w 9 1 + fld w 20 5)) (BitVec.ofNat 6 (32 * fld w 8 1 + fld w 15 5)) (BitVec.ofNat 6 (32 * fld w 7 1 + fld w 10 5)) (BitVec.ofNat 4 (fld w 3 4)))
  else if fld w 0 3 = 4 then
    .ok (.vor (BitVec.ofNat 6 (32 * fld w 9 1 + fld w 20 5)) (BitVec.ofNat 6 (32 * fld w 8 1 + fld w 15 5)) (BitVec.ofNat 6 (32 * fld w 7 1 + fld w 10 5)) (BitVec.ofNat 4 (fld w 3 4)))
  else if fld w 0 3 = 5 then
    .ok (.vxor (BitVec.ofNat 6 (32 * fld w 9 1 + fld w 20 5)) (BitVec.ofNat 6 (32 * fld w 8 1 + fld w 15 5)) (BitVec.ofNat 6 (32 * fld w 7 1 + fld w 10 5)) (BitVec.ofNat 4 (fld w 3 4)))
  else if fld w 0 3 = 6 then
    .ok (.vshl (BitVec.ofNat 6 (32 * fld w 9 1 + fld w 20 5)) (BitVec.ofNat 6 (32 * fld w 8 1 + fld w 15 5)) (BitVec.ofNat 6 (32 * fld w 7 1 + fld w 10 5)) (BitVec.ofNat 4 (fld w 3 4)))
  else if fld w 0 3 = 7 then
    .ok (.vsar (BitVec.ofNat 6 (32 * fld w 9 1 + fld w 20 5)) (BitVec.ofNat 6 (32 * fld w 8 1 + fld w 15 5)) (BitVec.ofNat 6 (32 * fld w 7 1 + fld w 10 5)) (BitVec.ofNat 4 (fld w 3 4)))
  else .error .unassigned

/-- V engine, major 0x2 (07 R188). -/
def decodeV2 (w : Nat) : Except Reject Instr :=
  if fld w 0 3 = 0 ∧ fld w 7 1 = 0 ∧ fld w 10 5 = 0 then
    .ok (.vexp2 (BitVec.ofNat 6 (32 * fld w 9 1 + fld w 20 5)) (BitVec.ofNat 6 (32 * fld w 8 1 + fld w 15 5)) (BitVec.ofNat 4 (fld w 3 4)))
  else if fld w 0 3 = 1 ∧ fld w 7 1 = 0 ∧ fld w 10 5 = 0 then
    .ok (.vlog2 (BitVec.ofNat 6 (32 * fld w 9 1 + fld w 20 5)) (BitVec.ofNat 6 (32 * fld w 8 1 + fld w 15 5)) (BitVec.ofNat 4 (fld w 3 4)))
  else if fld w 0 3 = 2 ∧ fld w 7 1 = 0 ∧ fld w 10 5 = 0 then
    .ok (.vrcp (BitVec.ofNat 6 (32 * fld w 9 1 + fld w 20 5)) (BitVec.ofNat 6 (32 * fld w 8 1 + fld w 15 5)) (BitVec.ofNat 4 (fld w 3 4)))
  else if fld w 0 3 = 3 ∧ fld w 7 1 = 0 ∧ fld w 10 5 = 0 then
    .ok (.vrsqrt (BitVec.ofNat 6 (32 * fld w 9 1 + fld w 20 5)) (BitVec.ofNat 6 (32 * fld w 8 1 + fld w 15 5)) (BitVec.ofNat 4 (fld w 3 4)))
  else if fld w 0 3 = 4 ∧ fld w 7 1 = 0 ∧ fld w 10 5 = 0 then
    .ok (.vtanh (BitVec.ofNat 6 (32 * fld w 9 1 + fld w 20 5)) (BitVec.ofNat 6 (32 * fld w 8 1 + fld w 15 5)) (BitVec.ofNat 4 (fld w 3 4)))
  else .error .unassigned

/-- V engine, major 0x3 (07 R188). -/
def decodeV3 (w : Nat) : Except Reject Instr :=
  if fld w 0 3 = 0 then
    .ok (.vcmpEqF32 (BitVec.ofNat 6 (32 * fld w 9 1 + fld w 20 5)) (BitVec.ofNat 6 (32 * fld w 8 1 + fld w 15 5)) (BitVec.ofNat 6 (32 * fld w 7 1 + fld w 10 5)) (BitVec.ofNat 4 (fld w 3 4)))
  else if fld w 0 3 = 1 then
    .ok (.vcmpLtF32 (BitVec.ofNat 6 (32 * fld w 9 1 + fld w 20 5)) (BitVec.ofNat 6 (32 * fld w 8 1 + fld w 15 5)) (BitVec.ofNat 6 (32 * fld w 7 1 + fld w 10 5)) (BitVec.ofNat 4 (fld w 3 4)))
  else if fld w 0 3 = 2 then
    .ok (.vcmpLeF32 (BitVec.ofNat 6 (32 * fld w 9 1 + fld w 20 5)) (BitVec.ofNat 6 (32 * fld w 8 1 + fld w 15 5)) (BitVec.ofNat 6 (32 * fld w 7 1 + fld w 10 5)) (BitVec.ofNat 4 (fld w 3 4)))
  else if fld w 0 3 = 3 then
    .ok (.vcmpUnF32 (BitVec.ofNat 6 (32 * fld w 9 1 + fld w 20 5)) (BitVec.ofNat 6 (32 * fld w 8 1 + fld w 15 5)) (BitVec.ofNat 6 (32 * fld w 7 1 + fld w 10 5)) (BitVec.ofNat 4 (fld w 3 4)))
  else if fld w 0 3 = 4 then
    .ok (.vcmpEqI32 (BitVec.ofNat 6 (32 * fld w 9 1 + fld w 20 5)) (BitVec.ofNat 6 (32 * fld w 8 1 + fld w 15 5)) (BitVec.ofNat 6 (32 * fld w 7 1 + fld w 10 5)) (BitVec.ofNat 4 (fld w 3 4)))
  else if fld w 0 3 = 5 then
    .ok (.vcmpLtI32 (BitVec.ofNat 6 (32 * fld w 9 1 + fld w 20 5)) (BitVec.ofNat 6 (32 * fld w 8 1 + fld w 15 5)) (BitVec.ofNat 6 (32 * fld w 7 1 + fld w 10 5)) (BitVec.ofNat 4 (fld w 3 4)))
  else if fld w 0 3 = 6 then
    .ok (.vcmpLeI32 (BitVec.ofNat 6 (32 * fld w 9 1 + fld w 20 5)) (BitVec.ofNat 6 (32 * fld w 8 1 + fld w 15 5)) (BitVec.ofNat 6 (32 * fld w 7 1 + fld w 10 5)) (BitVec.ofNat 4 (fld w 3 4)))
  else if fld w 0 3 = 7 then
    .ok (.vcmpLtuI32 (BitVec.ofNat 6 (32 * fld w 9 1 + fld w 20 5)) (BitVec.ofNat 6 (32 * fld w 8 1 + fld w 15 5)) (BitVec.ofNat 6 (32 * fld w 7 1 + fld w 10 5)) (BitVec.ofNat 4 (fld w 3 4)))
  else .error .unassigned

/-- V engine, major 0x4 (07 R188). -/
def decodeV4 (w : Nat) : Except Reject Instr :=
  if fld w 0 3 = 0 then
    .ok (.vsel (BitVec.ofNat 6 (32 * fld w 9 1 + fld w 20 5)) (BitVec.ofNat 6 (32 * fld w 8 1 + fld w 15 5)) (BitVec.ofNat 6 (32 * fld w 7 1 + fld w 10 5)) (BitVec.ofNat 4 (fld w 3 4)))
  else if fld w 0 3 = 1 then
    .ok (.pand (BitVec.ofNat 6 (32 * fld w 9 1 + fld w 20 5)) (BitVec.ofNat 6 (32 * fld w 8 1 + fld w 15 5)) (BitVec.ofNat 6 (32 * fld w 7 1 + fld w 10 5)) (BitVec.ofNat 4 (fld w 3 4)))
  else if fld w 0 3 = 2 then
    .ok (.por (BitVec.ofNat 6 (32 * fld w 9 1 + fld w 20 5)) (BitVec.ofNat 6 (32 * fld w 8 1 + fld w 15 5)) (BitVec.ofNat 6 (32 * fld w 7 1 + fld w 10 5)) (BitVec.ofNat 4 (fld w 3 4)))
  else if fld w 0 3 = 3 then
    .ok (.pxor (BitVec.ofNat 6 (32 * fld w 9 1 + fld w 20 5)) (BitVec.ofNat 6 (32 * fld w 8 1 + fld w 15 5)) (BitVec.ofNat 6 (32 * fld w 7 1 + fld w 10 5)) (BitVec.ofNat 4 (fld w 3 4)))
  else if fld w 0 3 = 4 ∧ fld w 7 1 = 0 ∧ fld w 10 5 = 0 then
    .ok (.pnot (BitVec.ofNat 6 (32 * fld w 9 1 + fld w 20 5)) (BitVec.ofNat 6 (32 * fld w 8 1 + fld w 15 5)) (BitVec.ofNat 4 (fld w 3 4)))
  else .error .unassigned

/-- V engine, major 0x5 (07 R188). -/
def decodeV5 (w : Nat) : Except Reject Instr :=
  if fld w 0 3 = 0 ∧ fld w 7 1 = 0 ∧ fld w 10 5 = 0 then
    .ok (.vrsumF32 (BitVec.ofNat 6 (32 * fld w 9 1 + fld w 20 5)) (BitVec.ofNat 6 (32 * fld w 8 1 + fld w 15 5)) (BitVec.ofNat 4 (fld w 3 4)))
  else if fld w 0 3 = 1 ∧ fld w 7 1 = 0 ∧ fld w 10 5 = 0 then
    .ok (.vrmaxF32 (BitVec.ofNat 6 (32 * fld w 9 1 + fld w 20 5)) (BitVec.ofNat 6 (32 * fld w 8 1 + fld w 15 5)) (BitVec.ofNat 4 (fld w 3 4)))
  else if fld w 0 3 = 2 ∧ fld w 7 1 = 0 ∧ fld w 10 5 = 0 then
    .ok (.vrminF32 (BitVec.ofNat 6 (32 * fld w 9 1 + fld w 20 5)) (BitVec.ofNat 6 (32 * fld w 8 1 + fld w 15 5)) (BitVec.ofNat 4 (fld w 3 4)))
  else if fld w 0 3 = 3 ∧ fld w 7 1 = 0 ∧ fld w 10 5 = 0 then
    .ok (.vrsumI32 (BitVec.ofNat 6 (32 * fld w 9 1 + fld w 20 5)) (BitVec.ofNat 6 (32 * fld w 8 1 + fld w 15 5)) (BitVec.ofNat 4 (fld w 3 4)))
  else if fld w 0 3 = 4 ∧ fld w 7 1 = 0 ∧ fld w 10 5 = 0 then
    .ok (.vrmaxI32 (BitVec.ofNat 6 (32 * fld w 9 1 + fld w 20 5)) (BitVec.ofNat 6 (32 * fld w 8 1 + fld w 15 5)) (BitVec.ofNat 4 (fld w 3 4)))
  else if fld w 0 3 = 5 ∧ fld w 7 1 = 0 ∧ fld w 10 5 = 0 then
    .ok (.vrminI32 (BitVec.ofNat 6 (32 * fld w 9 1 + fld w 20 5)) (BitVec.ofNat 6 (32 * fld w 8 1 + fld w 15 5)) (BitVec.ofNat 4 (fld w 3 4)))
  else .error .unassigned

/-- V engine, major 0x6 (07 R188). -/
def decodeV6 (w : Nat) : Except Reject Instr :=
  if fld w 0 3 = 0 then
    .ok (.vperm (BitVec.ofNat 6 (32 * fld w 9 1 + fld w 20 5)) (BitVec.ofNat 6 (32 * fld w 8 1 + fld w 15 5)) (BitVec.ofNat 6 (32 * fld w 7 1 + fld w 10 5)) (BitVec.ofNat 4 (fld w 3 4)))
  else if fld w 0 3 = 1 ∧ fld w 7 1 = 0 ∧ fld w 10 5 = 0 then
    .ok (.vbcast (BitVec.ofNat 6 (32 * fld w 9 1 + fld w 20 5)) (BitVec.ofNat 6 (32 * fld w 8 1 + fld w 15 5)) (BitVec.ofNat 4 (fld w 3 4)))
  else if fld w 0 3 = 2 then
    .ok (.vslup (BitVec.ofNat 6 (32 * fld w 9 1 + fld w 20 5)) (BitVec.ofNat 6 (32 * fld w 8 1 + fld w 15 5)) (BitVec.ofNat 6 (32 * fld w 7 1 + fld w 10 5)) (BitVec.ofNat 4 (fld w 3 4)))
  else if fld w 0 3 = 3 then
    .ok (.vsldn (BitVec.ofNat 6 (32 * fld w 9 1 + fld w 20 5)) (BitVec.ofNat 6 (32 * fld w 8 1 + fld w 15 5)) (BitVec.ofNat 6 (32 * fld w 7 1 + fld w 10 5)) (BitVec.ofNat 4 (fld w 3 4)))
  else if fld w 0 3 = 4 ∧ fld w 7 1 = 0 ∧ fld w 10 5 = 0 then
    .ok (.vmov (BitVec.ofNat 6 (32 * fld w 9 1 + fld w 20 5)) (BitVec.ofNat 6 (32 * fld w 8 1 + fld w 15 5)) (BitVec.ofNat 4 (fld w 3 4)))
  else if fld w 0 3 = 5 ∧ fld w 7 2 = 0 ∧ fld w 10 10 = 0 then
    .ok (.vlane (BitVec.ofNat 6 (32 * fld w 9 1 + fld w 20 5)) (BitVec.ofNat 4 (fld w 3 4)))
  else .error .unassigned

/-- V engine, major 0x7 (07 R188). -/
def decodeV7 (w : Nat) : Except Reject Instr :=
  if fld w 0 7 = 0 then
    .ok (.vtrd (BitVec.ofNat 6 (fld w 19 6)) (BitVec.ofNat 6 (fld w 13 6)) (BitVec.ofNat 6 (fld w 7 6)))
  else if fld w 0 7 = 1 then
    .ok (.vtwr (BitVec.ofNat 6 (fld w 19 6)) (BitVec.ofNat 6 (fld w 13 6)) (BitVec.ofNat 6 (fld w 7 6)))
  else if fld w 0 7 = 2 then
    .ok (.vtrdc (BitVec.ofNat 6 (fld w 19 6)) (BitVec.ofNat 6 (fld w 13 6)) (BitVec.ofNat 6 (fld w 7 6)))
  else if fld w 0 4 = 3 then
    .ok (.vtwrc (BitVec.ofNat 6 (fld w 19 6)) (BitVec.ofNat 6 (fld w 13 6)) (BitVec.ofNat 6 (fld w 7 6)) (BitVec.ofNat 3 (fld w 4 3)))
  else .error .unassigned

/-- M engine, major 0x0 (07 R189). -/
def decodeM0 (w : Nat) : Except Reject Instr :=
  if fld w 0 4 = 0 then
    .ok (.mma (BitVec.ofNat 6 (fld w 19 6)) (BitVec.ofNat 6 (fld w 13 6)) (BitVec.ofNat 6 (fld w 7 6)) (BitVec.ofNat 3 (fld w 4 3)))
  else if fld w 0 4 = 1 then
    .ok (.mmaZ (BitVec.ofNat 6 (fld w 19 6)) (BitVec.ofNat 6 (fld w 13 6)) (BitVec.ofNat 6 (fld w 7 6)) (BitVec.ofNat 3 (fld w 4 3)))
  else .error .unassigned

/-- M engine, major 0x1 (07 R189). -/
def decodeM1 (w : Nat) : Except Reject Instr :=
  if fld w 0 4 = 0 ∧ fld w 7 6 = 0 then
    .ok (.mout (BitVec.ofNat 6 (fld w 19 6)) (BitVec.ofNat 6 (fld w 13 6)) (BitVec.ofNat 3 (fld w 4 3)))
  else .error .unassigned

/-- M engine, major 0x2 (07 R189). -/
def decodeM2 (w : Nat) : Except Reject Instr :=
  if fld w 0 19 = 0 then
    .ok (.mclr (BitVec.ofNat 6 (fld w 19 6)))
  else .error .unassigned

/-- M engine, major 0x3 (07 R189). -/
def decodeM3 (w : Nat) : Except Reject Instr :=
  if fld w 0 13 = 0 then
    .ok (.mtr (BitVec.ofNat 6 (fld w 19 6)) (BitVec.ofNat 6 (fld w 13 6)))
  else .error .unassigned

/-- M engine, major 0x4 (07 R189). -/
def decodeM4 (w : Nat) : Except Reject Instr :=
  if fld w 0 4 = 0 ∧ fld w 7 6 = 0 then
    .ok (.tcvt (BitVec.ofNat 6 (fld w 19 6)) (BitVec.ofNat 6 (fld w 13 6)) (BitVec.ofNat 3 (fld w 4 3)))
  else .error .unassigned

/-- M engine, major 0x5 (07 R189). -/
def decodeM5 (w : Nat) : Except Reject Instr :=
  if fld w 0 7 = 0 ∧ fld w 19 6 = 0 then
    .ok (.thdrRd (BitVec.ofNat 6 (fld w 13 6)) (BitVec.ofNat 6 (fld w 7 6)))
  else if fld w 0 7 = 1 ∧ fld w 13 6 = 0 then
    .ok (.thdrWr (BitVec.ofNat 6 (fld w 19 6)) (BitVec.ofNat 6 (fld w 7 6)))
  else .error .unassigned

/-- M engine, major 0x6 (07 R189). -/
def decodeM6 (w : Nat) : Except Reject Instr :=
  if fld w 0 4 = 0 ∧ fld w 7 6 = 0 ∧ fld w 19 6 = 0 then
    .ok (.cbld (BitVec.ofNat 6 (fld w 13 6)) (BitVec.ofNat 3 (fld w 4 3)))
  else .error .unassigned

/-- M engine, major 0x7 (07 R189). -/
def decodeM7 (w : Nat) : Except Reject Instr :=
  if fld w 0 4 = 0 ∧ fld w 7 6 = 0 then
    .ok (.tzero (BitVec.ofNat 6 (fld w 19 6)) (BitVec.ofNat 6 (fld w 13 6)) (BitVec.ofNat 3 (fld w 4 3)))
  else .error .unassigned

/-- D engine, major 0x0 (07 R190). -/
def decodeD0 (w : Nat) : Except Reject Instr :=
  if fld w 0 13 = 0 then
    .ok (.tld (BitVec.ofNat 6 (fld w 19 6)) (BitVec.ofNat 6 (fld w 13 6)))
  else .error .unassigned

/-- D engine, major 0x1 (07 R190). -/
def decodeD1 (w : Nat) : Except Reject Instr :=
  if fld w 0 7 = 0 ∧ fld w 19 6 = 0 then
    .ok (.tst (BitVec.ofNat 6 (fld w 13 6)) (BitVec.ofNat 6 (fld w 7 6)))
  else if fld w 0 7 = 1 ∧ fld w 19 6 = 0 then
    .ok (.tstF (BitVec.ofNat 6 (fld w 13 6)) (BitVec.ofNat 6 (fld w 7 6)))
  else .error .unassigned

/-- D engine, major 0x2 (07 R190). -/
def decodeD2 (w : Nat) : Except Reject Instr :=
  if fld w 0 7 = 0 then
    .ok (.tgat (BitVec.ofNat 6 (fld w 19 6)) (BitVec.ofNat 6 (fld w 13 6)) (BitVec.ofNat 6 (fld w 7 6)))
  else .error .unassigned

/-- D engine, major 0x3 (07 R190). -/
def decodeD3 (w : Nat) : Except Reject Instr :=
  if fld w 0 7 = 0 then
    .ok (.tsct (BitVec.ofNat 6 (fld w 19 6)) (BitVec.ofNat 6 (fld w 13 6)) (BitVec.ofNat 6 (fld w 7 6)))
  else .error .unassigned

/-- D engine, major 0x4 (07 R190). -/
def decodeD4 (w : Nat) : Except Reject Instr :=
  if fld w 0 10 = 0 then
    .ok (.dcpy (BitVec.ofNat 5 (fld w 20 5)) (BitVec.ofNat 5 (fld w 15 5)) (BitVec.ofNat 5 (fld w 10 5)))
  else .error .unassigned

/-- D engine, major 0x5 (07 R190). -/
def decodeD5 (w : Nat) : Except Reject Instr :=
  if fld w 3 12 = 0 then
    .ok (.dflag (BitVec.ofNat 5 (fld w 20 5)) (BitVec.ofNat 5 (fld w 15 5)) (BitVec.ofNat 3 (fld w 0 3)))
  else .error .unassigned

/-- D engine, major 0x6 (07 R190). -/
def decodeD6 (w : Nat) : Except Reject Instr :=
  if fld w 0 20 = 0 then
    .ok (.dseal (BitVec.ofNat 5 (fld w 20 5)))
  else if fld w 0 15 = 4096 ∧ fld w 20 5 = 0 then
    .ok (.dwait (BitVec.ofNat 5 (fld w 15 5)))
  else .error .unassigned

/-- D engine, major 0x7 (07 R190). -/
def decodeD7 (w : Nat) : Except Reject Instr :=
  if fld w 0 10 = 0 ∧ fld w 20 5 = 0 then
    .ok (.cflush (BitVec.ofNat 5 (fld w 15 5)) (BitVec.ofNat 5 (fld w 10 5)))
  else if fld w 0 10 = 1 ∧ fld w 20 5 = 0 then
    .ok (.cinval (BitVec.ofNat 5 (fld w 15 5)) (BitVec.ofNat 5 (fld w 10 5)))
  else .error .unassigned

/-- Q engine, major 0x0 (07 R191). -/
def decodeQ0 (w : Nat) : Except Reject Instr :=
  if fld w 0 13 = 0 then
    .ok (.qbindS (BitVec.ofNat 6 (fld w 19 6)) (BitVec.ofNat 6 (fld w 13 6)))
  else if fld w 0 13 = 1 then
    .ok (.qbindR (BitVec.ofNat 6 (fld w 19 6)) (BitVec.ofNat 6 (fld w 13 6)))
  else .error .unassigned

/-- Q engine, major 0x1 (07 R191). -/
def decodeQ1 (w : Nat) : Except Reject Instr :=
  if fld w 0 19 = 0 then
    .ok (.qunbind (BitVec.ofNat 6 (fld w 19 6)))
  else .error .unassigned

/-- Q engine, major 0x2 (07 R191). -/
def decodeQ2 (w : Nat) : Except Reject Instr :=
  if fld w 0 13 = 0 then
    .ok (.qsend (BitVec.ofNat 6 (fld w 19 6)) (BitVec.ofNat 6 (fld w 13 6)))
  else if fld w 0 13 = 1 then
    .ok (.qsendF (BitVec.ofNat 6 (fld w 19 6)) (BitVec.ofNat 6 (fld w 13 6)))
  else .error .unassigned

/-- Q engine, major 0x3 (07 R191). -/
def decodeQ3 (w : Nat) : Except Reject Instr :=
  if fld w 0 13 = 0 then
    .ok (.qrecv (BitVec.ofNat 6 (fld w 19 6)) (BitVec.ofNat 6 (fld w 13 6)))
  else .error .unassigned

/-- Q engine, major 0x4 (07 R191). -/
def decodeQ4 (w : Nat) : Except Reject Instr :=
  if fld w 0 13 = 0 then
    .ok (.qmarkStart (BitVec.ofNat 6 (fld w 19 6)) (BitVec.ofNat 6 (fld w 13 6)))
  else if fld w 0 13 = 1 then
    .ok (.qmarkEnd (BitVec.ofNat 6 (fld w 19 6)) (BitVec.ofNat 6 (fld w 13 6)))
  else .error .unassigned

/-- Q engine, major 0x5 (07 R191). -/
def decodeQ5 (w : Nat) : Except Reject Instr :=
  if fld w 4 15 = 0 then
    .ok (.qwidth (BitVec.ofNat 6 (fld w 19 6)) (BitVec.ofNat 4 (fld w 0 4)))
  else .error .unassigned

/-- Q engine, major 0x6 (07 R191). -/
def decodeQ6 (w : Nat) : Except Reject Instr :=
  if fld w 0 13 = 0 then
    .ok (.qstat (BitVec.ofNat 6 (fld w 19 6)) (BitVec.ofNat 6 (fld w 13 6)))
  else .error .unassigned

/-- Q engine, major 0x7 (07 R191). -/
def decodeQ7 (w : Nat) : Except Reject Instr :=
  if fld w 0 19 = 0 then
    .ok (.qdrop (BitVec.ofNat 6 (fld w 19 6)))
  else .error .unassigned

/-- Y engine, major 0x0 (07 R192). -/
def decodeY0 (w : Nat) : Except Reject Instr :=
  if fld w 3 22 = 0 then
    .ok (.fenceAcq (BitVec.ofNat 3 (fld w 0 3)))
  else if fld w 3 22 = 512 then
    .ok (.fenceRel (BitVec.ofNat 3 (fld w 0 3)))
  else if fld w 3 22 = 1024 then
    .ok (.fence (BitVec.ofNat 3 (fld w 0 3)))
  else .error .unassigned

/-- Y engine, major 0x1 (07 R192). -/
def decodeY1 (w : Nat) : Except Reject Instr :=
  if fld w 0 1 = 0 then
    .ok (.wcnt (BitVec.ofNat 6 (fld w 19 6)) (BitVec.ofNat 6 (fld w 13 6)) (BitVec.ofNat 6 (fld w 7 6)) (BitVec.ofNat 6 (fld w 1 6)))
  else .error .unassigned

/-- Y engine, major 0x2 (07 R192). -/
def decodeY2 (w : Nat) : Except Reject Instr :=
  if fld w 0 25 = 0 then
    .ok (.bar)
  else if fld w 0 20 = 4096 then
    .ok (.elect (BitVec.ofNat 5 (fld w 20 5)))
  else if fld w 4 21 = 512 then
    .ok (.mjoin (BitVec.ofNat 4 (fld w 0 4)))
  else if fld w 4 21 = 768 then
    .ok (.mleave (BitVec.ofNat 4 (fld w 0 4)))
  else if fld w 4 21 = 1024 then
    .ok (.mwait (BitVec.ofNat 4 (fld w 0 4)))
  else .error .unassigned

/-- Y engine, major 0x3 (07 R192). -/
def decodeY3 (w : Nat) : Except Reject Instr :=
  if fld w 0 10 = 0 then
    .ok (.xchIdx (BitVec.ofNat 5 (fld w 20 5)) (BitVec.ofNat 5 (fld w 15 5)) (BitVec.ofNat 5 (fld w 10 5)))
  else if fld w 0 10 = 1 then
    .ok (.xchUp (BitVec.ofNat 5 (fld w 20 5)) (BitVec.ofNat 5 (fld w 15 5)) (BitVec.ofNat 5 (fld w 10 5)))
  else if fld w 0 10 = 2 then
    .ok (.xchDown (BitVec.ofNat 5 (fld w 20 5)) (BitVec.ofNat 5 (fld w 15 5)) (BitVec.ofNat 5 (fld w 10 5)))
  else if fld w 0 10 = 3 then
    .ok (.xchXor (BitVec.ofNat 5 (fld w 20 5)) (BitVec.ofNat 5 (fld w 15 5)) (BitVec.ofNat 5 (fld w 10 5)))
  else .error .unassigned

/-- Y engine, major 0x4 (07 R192). -/
def decodeY4 (w : Nat) : Except Reject Instr :=
  if fld w 12 3 = 0 then
    .ok (.spawn (BitVec.ofNat 5 (fld w 20 5)) (BitVec.ofNat 5 (fld w 15 5)) (BitVec.ofNat 12 (fld w 0 12)))
  else .error .unassigned

/-- Y engine, major 0x5 (07 R192). -/
def decodeY5 (w : Nat) : Except Reject Instr :=
  if fld w 0 20 = 0 then
    .ok (.tnext (BitVec.ofNat 5 (fld w 20 5)))
  else .error .unassigned

/-- Y engine, major 0x6 (07 R192). -/
def decodeY6 (w : Nat) : Except Reject Instr :=
  if fld w 0 5 = 0 then
    .ok (.amoAdd (BitVec.ofNat 5 (fld w 20 5)) (BitVec.ofNat 5 (fld w 15 5)) (BitVec.ofNat 5 (fld w 10 5)) (BitVec.ofNat 3 (fld w 7 3)) (BitVec.ofNat 2 (fld w 5 2)))
  else if fld w 0 5 = 1 then
    .ok (.amoAnd (BitVec.ofNat 5 (fld w 20 5)) (BitVec.ofNat 5 (fld w 15 5)) (BitVec.ofNat 5 (fld w 10 5)) (BitVec.ofNat 3 (fld w 7 3)) (BitVec.ofNat 2 (fld w 5 2)))
  else if fld w 0 5 = 2 then
    .ok (.amoOr (BitVec.ofNat 5 (fld w 20 5)) (BitVec.ofNat 5 (fld w 15 5)) (BitVec.ofNat 5 (fld w 10 5)) (BitVec.ofNat 3 (fld w 7 3)) (BitVec.ofNat 2 (fld w 5 2)))
  else if fld w 0 5 = 3 then
    .ok (.amoXor (BitVec.ofNat 5 (fld w 20 5)) (BitVec.ofNat 5 (fld w 15 5)) (BitVec.ofNat 5 (fld w 10 5)) (BitVec.ofNat 3 (fld w 7 3)) (BitVec.ofNat 2 (fld w 5 2)))
  else if fld w 0 5 = 4 then
    .ok (.amoMin (BitVec.ofNat 5 (fld w 20 5)) (BitVec.ofNat 5 (fld w 15 5)) (BitVec.ofNat 5 (fld w 10 5)) (BitVec.ofNat 3 (fld w 7 3)) (BitVec.ofNat 2 (fld w 5 2)))
  else if fld w 0 5 = 5 then
    .ok (.amoMax (BitVec.ofNat 5 (fld w 20 5)) (BitVec.ofNat 5 (fld w 15 5)) (BitVec.ofNat 5 (fld w 10 5)) (BitVec.ofNat 3 (fld w 7 3)) (BitVec.ofNat 2 (fld w 5 2)))
  else if fld w 0 5 = 6 then
    .ok (.amoMinu (BitVec.ofNat 5 (fld w 20 5)) (BitVec.ofNat 5 (fld w 15 5)) (BitVec.ofNat 5 (fld w 10 5)) (BitVec.ofNat 3 (fld w 7 3)) (BitVec.ofNat 2 (fld w 5 2)))
  else if fld w 0 5 = 7 then
    .ok (.amoMaxu (BitVec.ofNat 5 (fld w 20 5)) (BitVec.ofNat 5 (fld w 15 5)) (BitVec.ofNat 5 (fld w 10 5)) (BitVec.ofNat 3 (fld w 7 3)) (BitVec.ofNat 2 (fld w 5 2)))
  else if fld w 0 5 = 8 then
    .ok (.amoSwap (BitVec.ofNat 5 (fld w 20 5)) (BitVec.ofNat 5 (fld w 15 5)) (BitVec.ofNat 5 (fld w 10 5)) (BitVec.ofNat 3 (fld w 7 3)) (BitVec.ofNat 2 (fld w 5 2)))
  else if fld w 0 5 = 9 then
    .ok (.amoCas (BitVec.ofNat 5 (fld w 20 5)) (BitVec.ofNat 5 (fld w 15 5)) (BitVec.ofNat 5 (fld w 10 5)) (BitVec.ofNat 3 (fld w 7 3)) (BitVec.ofNat 2 (fld w 5 2)))
  else .error .unassigned

/-- Y engine, major 0x7 (07 R192). -/
def decodeY7 (w : Nat) : Except Reject Instr :=
  if fld w 0 5 = 0 then
    .ok (.amoAddF32 (BitVec.ofNat 5 (fld w 20 5)) (BitVec.ofNat 5 (fld w 15 5)) (BitVec.ofNat 5 (fld w 10 5)) (BitVec.ofNat 3 (fld w 7 3)) (BitVec.ofNat 2 (fld w 5 2)))
  else if fld w 0 5 = 1 then
    .ok (.amoMinF32 (BitVec.ofNat 5 (fld w 20 5)) (BitVec.ofNat 5 (fld w 15 5)) (BitVec.ofNat 5 (fld w 10 5)) (BitVec.ofNat 3 (fld w 7 3)) (BitVec.ofNat 2 (fld w 5 2)))
  else if fld w 0 5 = 2 then
    .ok (.amoMaxF32 (BitVec.ofNat 5 (fld w 20 5)) (BitVec.ofNat 5 (fld w 15 5)) (BitVec.ofNat 5 (fld w 10 5)) (BitVec.ofNat 3 (fld w 7 3)) (BitVec.ofNat 2 (fld w 5 2)))
  else if fld w 0 5 = 3 then
    .ok (.amoCasF32 (BitVec.ofNat 5 (fld w 20 5)) (BitVec.ofNat 5 (fld w 15 5)) (BitVec.ofNat 5 (fld w 10 5)) (BitVec.ofNat 3 (fld w 7 3)) (BitVec.ofNat 2 (fld w 5 2)))
  else .error .unassigned

/-- Y engine, major 0x8 (07 R192). -/
def decodeY8 (w : Nat) : Except Reject Instr :=
  if fld w 0 5 = 0 ∧ fld w 20 5 = 0 then
    .ok (.redAdd (BitVec.ofNat 5 (fld w 15 5)) (BitVec.ofNat 5 (fld w 10 5)) (BitVec.ofNat 3 (fld w 7 3)) (BitVec.ofNat 2 (fld w 5 2)))
  else if fld w 0 5 = 1 ∧ fld w 20 5 = 0 then
    .ok (.redAnd (BitVec.ofNat 5 (fld w 15 5)) (BitVec.ofNat 5 (fld w 10 5)) (BitVec.ofNat 3 (fld w 7 3)) (BitVec.ofNat 2 (fld w 5 2)))
  else if fld w 0 5 = 2 ∧ fld w 20 5 = 0 then
    .ok (.redOr (BitVec.ofNat 5 (fld w 15 5)) (BitVec.ofNat 5 (fld w 10 5)) (BitVec.ofNat 3 (fld w 7 3)) (BitVec.ofNat 2 (fld w 5 2)))
  else if fld w 0 5 = 3 ∧ fld w 20 5 = 0 then
    .ok (.redXor (BitVec.ofNat 5 (fld w 15 5)) (BitVec.ofNat 5 (fld w 10 5)) (BitVec.ofNat 3 (fld w 7 3)) (BitVec.ofNat 2 (fld w 5 2)))
  else if fld w 0 5 = 4 ∧ fld w 20 5 = 0 then
    .ok (.redMin (BitVec.ofNat 5 (fld w 15 5)) (BitVec.ofNat 5 (fld w 10 5)) (BitVec.ofNat 3 (fld w 7 3)) (BitVec.ofNat 2 (fld w 5 2)))
  else if fld w 0 5 = 5 ∧ fld w 20 5 = 0 then
    .ok (.redMax (BitVec.ofNat 5 (fld w 15 5)) (BitVec.ofNat 5 (fld w 10 5)) (BitVec.ofNat 3 (fld w 7 3)) (BitVec.ofNat 2 (fld w 5 2)))
  else if fld w 0 5 = 6 ∧ fld w 20 5 = 0 then
    .ok (.redMinu (BitVec.ofNat 5 (fld w 15 5)) (BitVec.ofNat 5 (fld w 10 5)) (BitVec.ofNat 3 (fld w 7 3)) (BitVec.ofNat 2 (fld w 5 2)))
  else if fld w 0 5 = 7 ∧ fld w 20 5 = 0 then
    .ok (.redMaxu (BitVec.ofNat 5 (fld w 15 5)) (BitVec.ofNat 5 (fld w 10 5)) (BitVec.ofNat 3 (fld w 7 3)) (BitVec.ofNat 2 (fld w 5 2)))
  else .error .unassigned

/-- Y engine, major 0x9 (07 R192). -/
def decodeY9 (w : Nat) : Except Reject Instr :=
  if fld w 0 5 = 0 ∧ fld w 20 5 = 0 then
    .ok (.redAddF32 (BitVec.ofNat 5 (fld w 15 5)) (BitVec.ofNat 5 (fld w 10 5)) (BitVec.ofNat 3 (fld w 7 3)) (BitVec.ofNat 2 (fld w 5 2)))
  else .error .unassigned

/-- Y engine, major 0xA (07 R192). -/
def decodeYA (w : Nat) : Except Reject Instr :=
  if fld w 0 10 = 0 then
    .ok (.mbxSend (BitVec.ofNat 5 (fld w 20 5)) (BitVec.ofNat 5 (fld w 15 5)) (BitVec.ofNat 5 (fld w 10 5)))
  else if fld w 0 20 = 1 then
    .ok (.mbxRecv (BitVec.ofNat 5 (fld w 20 5)))
  else .error .unassigned

/-- Y engine, major 0xB (07 R192). -/
def decodeYB (w : Nat) : Except Reject Instr :=
  if fld w 12 13 = 0 then
    .ok (.trap (BitVec.ofNat 12 (fld w 0 12)))
  else if fld w 12 13 = 1 then
    .ok (.svc (BitVec.ofNat 12 (fld w 0 12)))
  else if fld w 12 13 = 2 then
    .ok (.brk (BitVec.ofNat 12 (fld w 0 12)))
  else if fld w 0 25 = 12288 then
    .ok (.halt)
  else if fld w 0 25 = 16384 then
    .ok (.eret)
  else .error .unassigned

/-- Y engine, major 0xC (07 R192). -/
def decodeYC (w : Nat) : Except Reject Instr :=
  if fld w 12 8 = 0 then
    .ok (.sysrd (BitVec.ofNat 5 (fld w 20 5)) (BitVec.ofNat 12 (fld w 0 12)))
  else if fld w 12 3 = 1 ∧ fld w 20 5 = 0 then
    .ok (.syswr (BitVec.ofNat 5 (fld w 15 5)) (BitVec.ofNat 12 (fld w 0 12)))
  else .error .unassigned

/-- L engine, major 0x0 (07 R193). -/
def decodeL0 (w : Nat) : Except Reject Instr :=
  if fld w 0 8 = 0 ∧ fld w 16 1 = 0 then
    .ok (.lseq (BitVec.ofNat 3 (fld w 22 3)) (BitVec.ofNat 5 (fld w 17 5)) (BitVec.ofNat 8 (fld w 8 8)))
  else if fld w 0 8 = 0 ∧ fld w 16 1 = 1 then
    .ok (.lseqRot (BitVec.ofNat 3 (fld w 22 3)) (BitVec.ofNat 5 (fld w 17 5)) (BitVec.ofNat 8 (fld w 8 8)))
  else .error .unassigned

/-- L engine, major 0x1 (07 R193). -/
def decodeL1 (w : Nat) : Except Reject Instr :=
  if fld w 0 22 = 0 then
    .ok (.lend (BitVec.ofNat 3 (fld w 22 3)))
  else .error .unassigned

/-- L engine, major 0x2 (07 R193). -/
def decodeL2 (w : Nat) : Except Reject Instr :=
  if fld w 8 14 = 0 then
    .ok (.lfirst (BitVec.ofNat 3 (fld w 22 3)) (BitVec.ofNat 8 (fld w 0 8)))
  else .error .unassigned

/-- L engine, major 0x3 (07 R193). -/
def decodeL3 (w : Nat) : Except Reject Instr :=
  if fld w 8 14 = 0 then
    .ok (.llast (BitVec.ofNat 3 (fld w 22 3)) (BitVec.ofNat 8 (fld w 0 8)))
  else .error .unassigned

/-- L engine, major 0x4 (07 R193). -/
def decodeL4 (w : Nat) : Except Reject Instr :=
  .ok (.lstride (BitVec.ofNat 3 (fld w 22 3)) (BitVec.ofNat 1 (fld w 21 1)) (BitVec.ofNat 5 (fld w 16 5)) (BitVec.ofNat 16 (fld w 0 16)))

/-- L engine, major 0x5 (07 R193). -/
def decodeL5 (w : Nat) : Except Reject Instr :=
  if fld w 0 17 = 0 then
    .ok (.lbrk (BitVec.ofNat 3 (fld w 22 3)) (BitVec.ofNat 5 (fld w 17 5)))
  else .error .unassigned

/-- The instruction of a 32-bit word, by its engine and major opcode (07 R180, R185 to R193). -/
def decodeWord (w : Nat) : Except Reject Instr :=
  if w = 0 then .error .notAWord
  else match w / 2 ^ 25 with
  | 0 => decodeS0 w
  | 1 => decodeS1 w
  | 2 => decodeS2 w
  | 3 => decodeS3 w
  | 4 => decodeS4 w
  | 5 => decodeS5 w
  | 6 => decodeS6 w
  | 7 => decodeS7 w
  | 8 => decodeS8 w
  | 9 => decodeS9 w
  | 10 => decodeSA w
  | 11 => decodeSB w
  | 12 => decodeSC w
  | 13 => decodeSD w
  | 14 => decodeSE w
  | 16 => decodeV0 w
  | 17 => decodeV1 w
  | 18 => decodeV2 w
  | 19 => decodeV3 w
  | 20 => decodeV4 w
  | 21 => decodeV5 w
  | 22 => decodeV6 w
  | 23 => decodeV7 w
  | 32 => decodeM0 w
  | 33 => decodeM1 w
  | 34 => decodeM2 w
  | 35 => decodeM3 w
  | 36 => decodeM4 w
  | 37 => decodeM5 w
  | 38 => decodeM6 w
  | 39 => decodeM7 w
  | 48 => decodeD0 w
  | 49 => decodeD1 w
  | 50 => decodeD2 w
  | 51 => decodeD3 w
  | 52 => decodeD4 w
  | 53 => decodeD5 w
  | 54 => decodeD6 w
  | 55 => decodeD7 w
  | 64 => decodeQ0 w
  | 65 => decodeQ1 w
  | 66 => decodeQ2 w
  | 67 => decodeQ3 w
  | 68 => decodeQ4 w
  | 69 => decodeQ5 w
  | 70 => decodeQ6 w
  | 71 => decodeQ7 w
  | 80 => decodeY0 w
  | 81 => decodeY1 w
  | 82 => decodeY2 w
  | 83 => decodeY3 w
  | 84 => decodeY4 w
  | 85 => decodeY5 w
  | 86 => decodeY6 w
  | 87 => decodeY7 w
  | 88 => decodeY8 w
  | 89 => decodeY9 w
  | 90 => decodeYA w
  | 91 => decodeYB w
  | 92 => decodeYC w
  | 96 => decodeL0 w
  | 97 => decodeL1 w
  | 98 => decodeL2 w
  | 99 => decodeL3 w
  | 100 => decodeL4 w
  | 101 => decodeL5 w
  | m => if m < 112 then .error .unassigned else .error .notAWord

/-- The word that four bytes hold, little-endian (00 R9, 07 R180). -/
def wordOfBytes (b0 b1 b2 b3 : Byte) : Nat :=
  b0.toNat + 2 ^ 8 * b1.toNat + 2 ^ 16 * b2.toNat + 2 ^ 24 * b3.toNat

/-- The bytes of a word, little-endian (00 R9). -/
def bytesOfWord (w : Nat) : List Byte :=
  [BitVec.ofNat 8 w, BitVec.ofNat 8 (w / 2 ^ 8), BitVec.ofNat 8 (w / 2 ^ 16), BitVec.ofNat 8 (w / 2 ^ 24)]

/-- The instruction at the head of a list of bytes, and the bytes after it. -/
def decode : List Byte → Except Reject (Instr × List Byte)
  | b0 :: b1 :: b2 :: b3 :: rest =>
    match decodeWord (wordOfBytes b0 b1 b2 b3) with
    | .ok i => .ok (i, rest)
    | .error r => .error r
  | _ => .error .short

/-- The decoder's answer on an instruction whose bits are numbered as spec/opcode_table.json numbers them: every word
of this machine has 32 bits, so the bits above `nbits` are zero already. -/
def decodeTableWord (_nbits w : Nat) : Option Instr :=
  match decode (bytesOfWord w) with
  | .ok (i, _) => some i
  | .error _ => none

/-- The type code of a scalar floating-point word (07 R187). -/
def ftCode : FType → Nat
  | .f32 => 0
  | .f64 => 1

/-- A word with its fixed bits and its fields, each a low bit and a value. -/
def put (fixed : Nat) : List (Nat × Nat) → Nat
  | [] => fixed
  | (lo, v) :: rest => 2 ^ lo * v + put fixed rest

/-- The word of an instruction, from the same tables; an event has none. -/
def encode : Instr → Option Nat
  | .add d a b => some (put 0x00000000 [(20, d.toNat), (15, a.toNat), (10, b.toNat)])
  | .sub d a b => some (put 0x00000001 [(20, d.toNat), (15, a.toNat), (10, b.toNat)])
  | .mul d a b => some (put 0x00000002 [(20, d.toNat), (15, a.toNat), (10, b.toNat)])
  | .mulh d a b => some (put 0x00000003 [(20, d.toNat), (15, a.toNat), (10, b.toNat)])
  | .mulhu d a b => some (put 0x00000004 [(20, d.toNat), (15, a.toNat), (10, b.toNat)])
  | .div d a b => some (put 0x00000005 [(20, d.toNat), (15, a.toNat), (10, b.toNat)])
  | .divu d a b => some (put 0x00000006 [(20, d.toNat), (15, a.toNat), (10, b.toNat)])
  | .rem d a b => some (put 0x00000007 [(20, d.toNat), (15, a.toNat), (10, b.toNat)])
  | .remu d a b => some (put 0x00000008 [(20, d.toNat), (15, a.toNat), (10, b.toNat)])
  | .and d a b => some (put 0x00000010 [(20, d.toNat), (15, a.toNat), (10, b.toNat)])
  | .or d a b => some (put 0x00000011 [(20, d.toNat), (15, a.toNat), (10, b.toNat)])
  | .xor d a b => some (put 0x00000012 [(20, d.toNat), (15, a.toNat), (10, b.toNat)])
  | .shl d a b => some (put 0x00000018 [(20, d.toNat), (15, a.toNat), (10, b.toNat)])
  | .shr d a b => some (put 0x00000019 [(20, d.toNat), (15, a.toNat), (10, b.toNat)])
  | .sar d a b => some (put 0x0000001A [(20, d.toNat), (15, a.toNat), (10, b.toNat)])
  | .slt d a b => some (put 0x00000020 [(20, d.toNat), (15, a.toNat), (10, b.toNat)])
  | .sltu d a b => some (put 0x00000021 [(20, d.toNat), (15, a.toNat), (10, b.toNat)])
  | .min d a b => some (put 0x00000022 [(20, d.toNat), (15, a.toNat), (10, b.toNat)])
  | .max d a b => some (put 0x00000023 [(20, d.toNat), (15, a.toNat), (10, b.toNat)])
  | .minu d a b => some (put 0x00000024 [(20, d.toNat), (15, a.toNat), (10, b.toNat)])
  | .maxu d a b => some (put 0x00000025 [(20, d.toNat), (15, a.toNat), (10, b.toNat)])
  | .clz d a => some (put 0x00000028 [(20, d.toNat), (15, a.toNat)])
  | .popc d a => some (put 0x00000029 [(20, d.toNat), (15, a.toNat)])
  | .sel d a b p => some (put 0x00000040 [(20, d.toNat), (15, a.toNat), (10, b.toNat), (0, p.toNat)])
  | .addImm d a imm => some (put 0x02000000 [(20, d.toNat), (15, a.toNat), (0, imm.toNat)])
  | .andImm d a imm => some (put 0x02001000 [(20, d.toNat), (15, a.toNat), (0, imm.toNat)])
  | .orImm d a imm => some (put 0x02002000 [(20, d.toNat), (15, a.toNat), (0, imm.toNat)])
  | .xorImm d a imm => some (put 0x02003000 [(20, d.toNat), (15, a.toNat), (0, imm.toNat)])
  | .shlImm d a imm => some (put 0x02004000 [(20, d.toNat), (15, a.toNat), (0, imm.toNat)])
  | .shrImm d a imm => some (put 0x02005000 [(20, d.toNat), (15, a.toNat), (0, imm.toNat)])
  | .sarImm d a imm => some (put 0x02006000 [(20, d.toNat), (15, a.toNat), (0, imm.toNat)])
  | .sltImm d a imm => some (put 0x02007000 [(20, d.toNat), (15, a.toNat), (0, imm.toNat)])
  | .sltuImm d a imm => some (put 0x04000000 [(20, d.toNat), (15, a.toNat), (0, imm.toNat)])
  | .minImm d a imm => some (put 0x04001000 [(20, d.toNat), (15, a.toNat), (0, imm.toNat)])
  | .maxImm d a imm => some (put 0x04002000 [(20, d.toNat), (15, a.toNat), (0, imm.toNat)])
  | .mulImm d a imm => some (put 0x04003000 [(20, d.toNat), (15, a.toNat), (0, imm.toNat)])
  | .ldhi d imm => some (put 0x06000000 [(20, d.toNat), (0, imm.toNat)])
  | .addpc d imm => some (put 0x08000000 [(20, d.toNat), (0, imm.toNat)])
  | .ldB d a imm => some (put 0x0A000000 [(20, d.toNat), (15, a.toNat), (0, imm.toNat)])
  | .ldBu d a imm => some (put 0x0A001000 [(20, d.toNat), (15, a.toNat), (0, imm.toNat)])
  | .ldH d a imm => some (put 0x0A002000 [(20, d.toNat), (15, a.toNat), (0, imm.toNat)])
  | .ldHu d a imm => some (put 0x0A003000 [(20, d.toNat), (15, a.toNat), (0, imm.toNat)])
  | .ldW d a imm => some (put 0x0A004000 [(20, d.toNat), (15, a.toNat), (0, imm.toNat)])
  | .ldWu d a imm => some (put 0x0A005000 [(20, d.toNat), (15, a.toNat), (0, imm.toNat)])
  | .ldD d a imm => some (put 0x0A006000 [(20, d.toNat), (15, a.toNat), (0, imm.toNat)])
  | .ldBAcq d a scope imm => some (put 0x0C000000 [(20, d.toNat), (15, a.toNat), (9, scope.toNat), (0, imm.toNat)])
  | .ldBuAcq d a scope imm => some (put 0x0C001000 [(20, d.toNat), (15, a.toNat), (9, scope.toNat), (0, imm.toNat)])
  | .ldHAcq d a scope imm => some (put 0x0C002000 [(20, d.toNat), (15, a.toNat), (9, scope.toNat), (0, imm.toNat)])
  | .ldHuAcq d a scope imm => some (put 0x0C003000 [(20, d.toNat), (15, a.toNat), (9, scope.toNat), (0, imm.toNat)])
  | .ldWAcq d a scope imm => some (put 0x0C004000 [(20, d.toNat), (15, a.toNat), (9, scope.toNat), (0, imm.toNat)])
  | .ldWuAcq d a scope imm => some (put 0x0C005000 [(20, d.toNat), (15, a.toNat), (9, scope.toNat), (0, imm.toNat)])
  | .ldDAcq d a scope imm => some (put 0x0C006000 [(20, d.toNat), (15, a.toNat), (9, scope.toNat), (0, imm.toNat)])
  | .stB d a imm => some (put 0x0E000000 [(20, d.toNat), (15, a.toNat), (0, imm.toNat)])
  | .stH d a imm => some (put 0x0E001000 [(20, d.toNat), (15, a.toNat), (0, imm.toNat)])
  | .stW d a imm => some (put 0x0E002000 [(20, d.toNat), (15, a.toNat), (0, imm.toNat)])
  | .stD d a imm => some (put 0x0E003000 [(20, d.toNat), (15, a.toNat), (0, imm.toNat)])
  | .stBRel d a scope imm => some (put 0x10000000 [(20, d.toNat), (15, a.toNat), (9, scope.toNat), (0, imm.toNat)])
  | .stHRel d a scope imm => some (put 0x10001000 [(20, d.toNat), (15, a.toNat), (9, scope.toNat), (0, imm.toNat)])
  | .stWRel d a scope imm => some (put 0x10002000 [(20, d.toNat), (15, a.toNat), (9, scope.toNat), (0, imm.toNat)])
  | .stDRel d a scope imm => some (put 0x10003000 [(20, d.toNat), (15, a.toNat), (9, scope.toNat), (0, imm.toNat)])
  | .bEq a b off => some (put 0x12000000 [(20, a.toNat), (15, b.toNat), (0, off.toNat)])
  | .bNe a b off => some (put 0x12001000 [(20, a.toNat), (15, b.toNat), (0, off.toNat)])
  | .bLt a b off => some (put 0x12002000 [(20, a.toNat), (15, b.toNat), (0, off.toNat)])
  | .bGe a b off => some (put 0x12003000 [(20, a.toNat), (15, b.toNat), (0, off.toNat)])
  | .bLtu a b off => some (put 0x12004000 [(20, a.toNat), (15, b.toNat), (0, off.toNat)])
  | .bGeu a b off => some (put 0x12005000 [(20, a.toNat), (15, b.toNat), (0, off.toNat)])
  | .brot a b off => some (put 0x12006000 [(20, a.toNat), (15, b.toNat), (0, off.toNat)])
  | .j link off => some (put 0x14000000 [(20, link.toNat), (0, off.toNat)])
  | .jr d a imm => some (put 0x16000000 [(20, d.toNat), (15, a.toNat), (0, imm.toNat)])
  | .callw n => some (put 0x18000000 [(0, n.toNat)])
  | .retw => some (put 0x18001000 [])
  | .fadd d a b ft => some (put 0x1A000000 [(20, d.toNat), (15, a.toNat), (10, b.toNat), (8, ftCode ft)])
  | .fsub d a b ft => some (put 0x1A000010 [(20, d.toNat), (15, a.toNat), (10, b.toNat), (8, ftCode ft)])
  | .fmul d a b ft => some (put 0x1A000020 [(20, d.toNat), (15, a.toNat), (10, b.toNat), (8, ftCode ft)])
  | .fdiv d a b ft => some (put 0x1A000030 [(20, d.toNat), (15, a.toNat), (10, b.toNat), (8, ftCode ft)])
  | .fsqrt d a ft => some (put 0x1A000040 [(20, d.toNat), (15, a.toNat), (8, ftCode ft)])
  | .fmin d a b ft => some (put 0x1A000050 [(20, d.toNat), (15, a.toNat), (10, b.toNat), (8, ftCode ft)])
  | .fmax d a b ft => some (put 0x1A000060 [(20, d.toNat), (15, a.toNat), (10, b.toNat), (8, ftCode ft)])
  | .ffma d a b ft => some (put 0x1A000070 [(20, d.toNat), (15, a.toNat), (10, b.toNat), (8, ftCode ft)])
  | .fcmpEq d a b ft => some (put 0x1A000080 [(20, d.toNat), (15, a.toNat), (10, b.toNat), (8, ftCode ft)])
  | .fcmpLt d a b ft => some (put 0x1A000081 [(20, d.toNat), (15, a.toNat), (10, b.toNat), (8, ftCode ft)])
  | .fcmpLe d a b ft => some (put 0x1A000082 [(20, d.toNat), (15, a.toNat), (10, b.toNat), (8, ftCode ft)])
  | .fcmpUn d a b ft => some (put 0x1A000083 [(20, d.toNat), (15, a.toNat), (10, b.toNat), (8, ftCode ft)])
  | .fcvtFloatFloat d a ft => some (put 0x1A000090 [(20, d.toNat), (15, a.toNat), (8, ftCode ft)])
  | .fcvtFToI32 d a ft => some (put 0x1A000091 [(20, d.toNat), (15, a.toNat), (8, ftCode ft)])
  | .fcvtuFToU32 d a ft => some (put 0x1A000092 [(20, d.toNat), (15, a.toNat), (8, ftCode ft)])
  | .fcvtFToI64 d a ft => some (put 0x1A000093 [(20, d.toNat), (15, a.toNat), (8, ftCode ft)])
  | .fcvtuFToU64 d a ft => some (put 0x1A000094 [(20, d.toNat), (15, a.toNat), (8, ftCode ft)])
  | .fcvtI32ToF d a ft => some (put 0x1A000095 [(20, d.toNat), (15, a.toNat), (8, ftCode ft)])
  | .fcvtuU32ToF d a ft => some (put 0x1A000096 [(20, d.toNat), (15, a.toNat), (8, ftCode ft)])
  | .fcvtI64ToF d a ft => some (put 0x1A000097 [(20, d.toNat), (15, a.toNat), (8, ftCode ft)])
  | .fcvtuU64ToF d a ft => some (put 0x1A000098 [(20, d.toNat), (15, a.toNat), (8, ftCode ft)])
  | .fclass d a ft => some (put 0x1A0000A0 [(20, d.toNat), (15, a.toNat), (8, ftCode ft)])
  | .hset d a imm => some (put 0x1C000000 [(20, d.toNat), (15, a.toNat), (0, imm.toNat)])
  | .hget d a => some (put 0x1C001000 [(20, d.toNat), (15, a.toNat)])
  | .pset d a => some (put 0x1C002000 [(20, d.toNat), (15, a.toNat)])
  | .pget d a => some (put 0x1C003000 [(20, d.toNat), (15, a.toNat)])
  | .vaddF32 d a b m => some (put 0x20000000 [(20, d.toNat % 32), (9, d.toNat / 32), (15, a.toNat % 32), (8, a.toNat / 32), (10, b.toNat % 32), (7, b.toNat / 32), (3, m.toNat)])
  | .vsubF32 d a b m => some (put 0x20000001 [(20, d.toNat % 32), (9, d.toNat / 32), (15, a.toNat % 32), (8, a.toNat / 32), (10, b.toNat % 32), (7, b.toNat / 32), (3, m.toNat)])
  | .vmulF32 d a b m => some (put 0x20000002 [(20, d.toNat % 32), (9, d.toNat / 32), (15, a.toNat % 32), (8, a.toNat / 32), (10, b.toNat % 32), (7, b.toNat / 32), (3, m.toNat)])
  | .vfmaF32 d a b m => some (put 0x20000003 [(20, d.toNat % 32), (9, d.toNat / 32), (15, a.toNat % 32), (8, a.toNat / 32), (10, b.toNat % 32), (7, b.toNat / 32), (3, m.toNat)])
  | .vminF32 d a b m => some (put 0x20000004 [(20, d.toNat % 32), (9, d.toNat / 32), (15, a.toNat % 32), (8, a.toNat / 32), (10, b.toNat % 32), (7, b.toNat / 32), (3, m.toNat)])
  | .vmaxF32 d a b m => some (put 0x20000005 [(20, d.toNat % 32), (9, d.toNat / 32), (15, a.toNat % 32), (8, a.toNat / 32), (10, b.toNat % 32), (7, b.toNat / 32), (3, m.toNat)])
  | .vabsF32 d a m => some (put 0x20000006 [(20, d.toNat % 32), (9, d.toNat / 32), (15, a.toNat % 32), (8, a.toNat / 32), (3, m.toNat)])
  | .vnegF32 d a m => some (put 0x20000007 [(20, d.toNat % 32), (9, d.toNat / 32), (15, a.toNat % 32), (8, a.toNat / 32), (3, m.toNat)])
  | .vaddI32 d a b m => some (put 0x22000000 [(20, d.toNat % 32), (9, d.toNat / 32), (15, a.toNat % 32), (8, a.toNat / 32), (10, b.toNat % 32), (7, b.toNat / 32), (3, m.toNat)])
  | .vsubI32 d a b m => some (put 0x22000001 [(20, d.toNat % 32), (9, d.toNat / 32), (15, a.toNat % 32), (8, a.toNat / 32), (10, b.toNat % 32), (7, b.toNat / 32), (3, m.toNat)])
  | .vmulI32 d a b m => some (put 0x22000002 [(20, d.toNat % 32), (9, d.toNat / 32), (15, a.toNat % 32), (8, a.toNat / 32), (10, b.toNat % 32), (7, b.toNat / 32), (3, m.toNat)])
  | .vand d a b m => some (put 0x22000003 [(20, d.toNat % 32), (9, d.toNat / 32), (15, a.toNat % 32), (8, a.toNat / 32), (10, b.toNat % 32), (7, b.toNat / 32), (3, m.toNat)])
  | .vor d a b m => some (put 0x22000004 [(20, d.toNat % 32), (9, d.toNat / 32), (15, a.toNat % 32), (8, a.toNat / 32), (10, b.toNat % 32), (7, b.toNat / 32), (3, m.toNat)])
  | .vxor d a b m => some (put 0x22000005 [(20, d.toNat % 32), (9, d.toNat / 32), (15, a.toNat % 32), (8, a.toNat / 32), (10, b.toNat % 32), (7, b.toNat / 32), (3, m.toNat)])
  | .vshl d a b m => some (put 0x22000006 [(20, d.toNat % 32), (9, d.toNat / 32), (15, a.toNat % 32), (8, a.toNat / 32), (10, b.toNat % 32), (7, b.toNat / 32), (3, m.toNat)])
  | .vsar d a b m => some (put 0x22000007 [(20, d.toNat % 32), (9, d.toNat / 32), (15, a.toNat % 32), (8, a.toNat / 32), (10, b.toNat % 32), (7, b.toNat / 32), (3, m.toNat)])
  | .vexp2 d a m => some (put 0x24000000 [(20, d.toNat % 32), (9, d.toNat / 32), (15, a.toNat % 32), (8, a.toNat / 32), (3, m.toNat)])
  | .vlog2 d a m => some (put 0x24000001 [(20, d.toNat % 32), (9, d.toNat / 32), (15, a.toNat % 32), (8, a.toNat / 32), (3, m.toNat)])
  | .vrcp d a m => some (put 0x24000002 [(20, d.toNat % 32), (9, d.toNat / 32), (15, a.toNat % 32), (8, a.toNat / 32), (3, m.toNat)])
  | .vrsqrt d a m => some (put 0x24000003 [(20, d.toNat % 32), (9, d.toNat / 32), (15, a.toNat % 32), (8, a.toNat / 32), (3, m.toNat)])
  | .vtanh d a m => some (put 0x24000004 [(20, d.toNat % 32), (9, d.toNat / 32), (15, a.toNat % 32), (8, a.toNat / 32), (3, m.toNat)])
  | .vcmpEqF32 d a b m => some (put 0x26000000 [(20, d.toNat % 32), (9, d.toNat / 32), (15, a.toNat % 32), (8, a.toNat / 32), (10, b.toNat % 32), (7, b.toNat / 32), (3, m.toNat)])
  | .vcmpLtF32 d a b m => some (put 0x26000001 [(20, d.toNat % 32), (9, d.toNat / 32), (15, a.toNat % 32), (8, a.toNat / 32), (10, b.toNat % 32), (7, b.toNat / 32), (3, m.toNat)])
  | .vcmpLeF32 d a b m => some (put 0x26000002 [(20, d.toNat % 32), (9, d.toNat / 32), (15, a.toNat % 32), (8, a.toNat / 32), (10, b.toNat % 32), (7, b.toNat / 32), (3, m.toNat)])
  | .vcmpUnF32 d a b m => some (put 0x26000003 [(20, d.toNat % 32), (9, d.toNat / 32), (15, a.toNat % 32), (8, a.toNat / 32), (10, b.toNat % 32), (7, b.toNat / 32), (3, m.toNat)])
  | .vcmpEqI32 d a b m => some (put 0x26000004 [(20, d.toNat % 32), (9, d.toNat / 32), (15, a.toNat % 32), (8, a.toNat / 32), (10, b.toNat % 32), (7, b.toNat / 32), (3, m.toNat)])
  | .vcmpLtI32 d a b m => some (put 0x26000005 [(20, d.toNat % 32), (9, d.toNat / 32), (15, a.toNat % 32), (8, a.toNat / 32), (10, b.toNat % 32), (7, b.toNat / 32), (3, m.toNat)])
  | .vcmpLeI32 d a b m => some (put 0x26000006 [(20, d.toNat % 32), (9, d.toNat / 32), (15, a.toNat % 32), (8, a.toNat / 32), (10, b.toNat % 32), (7, b.toNat / 32), (3, m.toNat)])
  | .vcmpLtuI32 d a b m => some (put 0x26000007 [(20, d.toNat % 32), (9, d.toNat / 32), (15, a.toNat % 32), (8, a.toNat / 32), (10, b.toNat % 32), (7, b.toNat / 32), (3, m.toNat)])
  | .vsel d a b m => some (put 0x28000000 [(20, d.toNat % 32), (9, d.toNat / 32), (15, a.toNat % 32), (8, a.toNat / 32), (10, b.toNat % 32), (7, b.toNat / 32), (3, m.toNat)])
  | .pand d a b m => some (put 0x28000001 [(20, d.toNat % 32), (9, d.toNat / 32), (15, a.toNat % 32), (8, a.toNat / 32), (10, b.toNat % 32), (7, b.toNat / 32), (3, m.toNat)])
  | .por d a b m => some (put 0x28000002 [(20, d.toNat % 32), (9, d.toNat / 32), (15, a.toNat % 32), (8, a.toNat / 32), (10, b.toNat % 32), (7, b.toNat / 32), (3, m.toNat)])
  | .pxor d a b m => some (put 0x28000003 [(20, d.toNat % 32), (9, d.toNat / 32), (15, a.toNat % 32), (8, a.toNat / 32), (10, b.toNat % 32), (7, b.toNat / 32), (3, m.toNat)])
  | .pnot d a m => some (put 0x28000004 [(20, d.toNat % 32), (9, d.toNat / 32), (15, a.toNat % 32), (8, a.toNat / 32), (3, m.toNat)])
  | .vrsumF32 d a m => some (put 0x2A000000 [(20, d.toNat % 32), (9, d.toNat / 32), (15, a.toNat % 32), (8, a.toNat / 32), (3, m.toNat)])
  | .vrmaxF32 d a m => some (put 0x2A000001 [(20, d.toNat % 32), (9, d.toNat / 32), (15, a.toNat % 32), (8, a.toNat / 32), (3, m.toNat)])
  | .vrminF32 d a m => some (put 0x2A000002 [(20, d.toNat % 32), (9, d.toNat / 32), (15, a.toNat % 32), (8, a.toNat / 32), (3, m.toNat)])
  | .vrsumI32 d a m => some (put 0x2A000003 [(20, d.toNat % 32), (9, d.toNat / 32), (15, a.toNat % 32), (8, a.toNat / 32), (3, m.toNat)])
  | .vrmaxI32 d a m => some (put 0x2A000004 [(20, d.toNat % 32), (9, d.toNat / 32), (15, a.toNat % 32), (8, a.toNat / 32), (3, m.toNat)])
  | .vrminI32 d a m => some (put 0x2A000005 [(20, d.toNat % 32), (9, d.toNat / 32), (15, a.toNat % 32), (8, a.toNat / 32), (3, m.toNat)])
  | .vperm d a b m => some (put 0x2C000000 [(20, d.toNat % 32), (9, d.toNat / 32), (15, a.toNat % 32), (8, a.toNat / 32), (10, b.toNat % 32), (7, b.toNat / 32), (3, m.toNat)])
  | .vbcast d a m => some (put 0x2C000001 [(20, d.toNat % 32), (9, d.toNat / 32), (15, a.toNat % 32), (8, a.toNat / 32), (3, m.toNat)])
  | .vslup d a b m => some (put 0x2C000002 [(20, d.toNat % 32), (9, d.toNat / 32), (15, a.toNat % 32), (8, a.toNat / 32), (10, b.toNat % 32), (7, b.toNat / 32), (3, m.toNat)])
  | .vsldn d a b m => some (put 0x2C000003 [(20, d.toNat % 32), (9, d.toNat / 32), (15, a.toNat % 32), (8, a.toNat / 32), (10, b.toNat % 32), (7, b.toNat / 32), (3, m.toNat)])
  | .vmov d a m => some (put 0x2C000004 [(20, d.toNat % 32), (9, d.toNat / 32), (15, a.toNat % 32), (8, a.toNat / 32), (3, m.toNat)])
  | .vlane d m => some (put 0x2C000005 [(20, d.toNat % 32), (9, d.toNat / 32), (3, m.toNat)])
  | .vtrd td ta tb => some (put 0x2E000000 [(19, td.toNat), (13, ta.toNat), (7, tb.toNat)])
  | .vtwr td ta tb => some (put 0x2E000001 [(19, td.toNat), (13, ta.toNat), (7, tb.toNat)])
  | .vtrdc td ta tb => some (put 0x2E000002 [(19, td.toNat), (13, ta.toNat), (7, tb.toNat)])
  | .vtwrc td ta tb slot => some (put 0x2E000003 [(19, td.toNat), (13, ta.toNat), (7, tb.toNat), (4, slot.toNat)])
  | .mma td ta tb slot => some (put 0x40000000 [(19, td.toNat), (13, ta.toNat), (7, tb.toNat), (4, slot.toNat)])
  | .mmaZ td ta tb slot => some (put 0x40000001 [(19, td.toNat), (13, ta.toNat), (7, tb.toNat), (4, slot.toNat)])
  | .mout td ta slot => some (put 0x42000000 [(19, td.toNat), (13, ta.toNat), (4, slot.toNat)])
  | .mclr td => some (put 0x44000000 [(19, td.toNat)])
  | .mtr td ta => some (put 0x46000000 [(19, td.toNat), (13, ta.toNat)])
  | .tcvt td ta slot => some (put 0x48000000 [(19, td.toNat), (13, ta.toNat), (4, slot.toNat)])
  | .thdrRd ta tb => some (put 0x4A000000 [(13, ta.toNat), (7, tb.toNat)])
  | .thdrWr td tb => some (put 0x4A000001 [(19, td.toNat), (7, tb.toNat)])
  | .cbld ta tbl => some (put 0x4C000000 [(13, ta.toNat), (4, tbl.toNat)])
  | .tzero td ta slot => some (put 0x4E000000 [(19, td.toNat), (13, ta.toNat), (4, slot.toNat)])
  | .tld td ta => some (put 0x60000000 [(19, td.toNat), (13, ta.toNat)])
  | .tst ta tb => some (put 0x62000000 [(13, ta.toNat), (7, tb.toNat)])
  | .tstF ta tb => some (put 0x62000001 [(13, ta.toNat), (7, tb.toNat)])
  | .tgat td ta tb => some (put 0x64000000 [(19, td.toNat), (13, ta.toNat), (7, tb.toNat)])
  | .tsct td ta tb => some (put 0x66000000 [(19, td.toNat), (13, ta.toNat), (7, tb.toNat)])
  | .dcpy d a b => some (put 0x68000000 [(20, d.toNat), (15, a.toNat), (10, b.toNat)])
  | .dflag d a scope => some (put 0x6A000000 [(20, d.toNat), (15, a.toNat), (0, scope.toNat)])
  | .dseal d => some (put 0x6C000000 [(20, d.toNat)])
  | .dwait a => some (put 0x6C001000 [(15, a.toNat)])
  | .cflush a b => some (put 0x6E000000 [(15, a.toNat), (10, b.toNat)])
  | .cinval a b => some (put 0x6E000001 [(15, a.toNat), (10, b.toNat)])
  | .qbindS td ta => some (put 0x80000000 [(19, td.toNat), (13, ta.toNat)])
  | .qbindR td ta => some (put 0x80000001 [(19, td.toNat), (13, ta.toNat)])
  | .qunbind td => some (put 0x82000000 [(19, td.toNat)])
  | .qsend td ta => some (put 0x84000000 [(19, td.toNat), (13, ta.toNat)])
  | .qsendF td ta => some (put 0x84000001 [(19, td.toNat), (13, ta.toNat)])
  | .qrecv td ta => some (put 0x86000000 [(19, td.toNat), (13, ta.toNat)])
  | .qmarkStart td ta => some (put 0x88000000 [(19, td.toNat), (13, ta.toNat)])
  | .qmarkEnd td ta => some (put 0x88000001 [(19, td.toNat), (13, ta.toNat)])
  | .qwidth td width => some (put 0x8A000000 [(19, td.toNat), (0, width.toNat)])
  | .qstat td ta => some (put 0x8C000000 [(19, td.toNat), (13, ta.toNat)])
  | .qdrop td => some (put 0x8E000000 [(19, td.toNat)])
  | .fenceAcq scope => some (put 0xA0000000 [(0, scope.toNat)])
  | .fenceRel scope => some (put 0xA0001000 [(0, scope.toNat)])
  | .fence scope => some (put 0xA0002000 [(0, scope.toNat)])
  | .wcnt ld st cp tl => some (put 0xA2000000 [(19, ld.toNat), (13, st.toNat), (7, cp.toNat), (1, tl.toNat)])
  | .bar => some (put 0xA4000000 [])
  | .elect d => some (put 0xA4001000 [(20, d.toNat)])
  | .mjoin k => some (put 0xA4002000 [(0, k.toNat)])
  | .mleave k => some (put 0xA4003000 [(0, k.toNat)])
  | .mwait k => some (put 0xA4004000 [(0, k.toNat)])
  | .xchIdx d a b => some (put 0xA6000000 [(20, d.toNat), (15, a.toNat), (10, b.toNat)])
  | .xchUp d a b => some (put 0xA6000001 [(20, d.toNat), (15, a.toNat), (10, b.toNat)])
  | .xchDown d a b => some (put 0xA6000002 [(20, d.toNat), (15, a.toNat), (10, b.toNat)])
  | .xchXor d a b => some (put 0xA6000003 [(20, d.toNat), (15, a.toNat), (10, b.toNat)])
  | .spawn d a imm => some (put 0xA8000000 [(20, d.toNat), (15, a.toNat), (0, imm.toNat)])
  | .tnext d => some (put 0xAA000000 [(20, d.toNat)])
  | .amoAdd d a b scope size => some (put 0xAC000000 [(20, d.toNat), (15, a.toNat), (10, b.toNat), (7, scope.toNat), (5, size.toNat)])
  | .amoAnd d a b scope size => some (put 0xAC000001 [(20, d.toNat), (15, a.toNat), (10, b.toNat), (7, scope.toNat), (5, size.toNat)])
  | .amoOr d a b scope size => some (put 0xAC000002 [(20, d.toNat), (15, a.toNat), (10, b.toNat), (7, scope.toNat), (5, size.toNat)])
  | .amoXor d a b scope size => some (put 0xAC000003 [(20, d.toNat), (15, a.toNat), (10, b.toNat), (7, scope.toNat), (5, size.toNat)])
  | .amoMin d a b scope size => some (put 0xAC000004 [(20, d.toNat), (15, a.toNat), (10, b.toNat), (7, scope.toNat), (5, size.toNat)])
  | .amoMax d a b scope size => some (put 0xAC000005 [(20, d.toNat), (15, a.toNat), (10, b.toNat), (7, scope.toNat), (5, size.toNat)])
  | .amoMinu d a b scope size => some (put 0xAC000006 [(20, d.toNat), (15, a.toNat), (10, b.toNat), (7, scope.toNat), (5, size.toNat)])
  | .amoMaxu d a b scope size => some (put 0xAC000007 [(20, d.toNat), (15, a.toNat), (10, b.toNat), (7, scope.toNat), (5, size.toNat)])
  | .amoSwap d a b scope size => some (put 0xAC000008 [(20, d.toNat), (15, a.toNat), (10, b.toNat), (7, scope.toNat), (5, size.toNat)])
  | .amoCas d a b scope size => some (put 0xAC000009 [(20, d.toNat), (15, a.toNat), (10, b.toNat), (7, scope.toNat), (5, size.toNat)])
  | .amoAddF32 d a b scope size => some (put 0xAE000000 [(20, d.toNat), (15, a.toNat), (10, b.toNat), (7, scope.toNat), (5, size.toNat)])
  | .amoMinF32 d a b scope size => some (put 0xAE000001 [(20, d.toNat), (15, a.toNat), (10, b.toNat), (7, scope.toNat), (5, size.toNat)])
  | .amoMaxF32 d a b scope size => some (put 0xAE000002 [(20, d.toNat), (15, a.toNat), (10, b.toNat), (7, scope.toNat), (5, size.toNat)])
  | .amoCasF32 d a b scope size => some (put 0xAE000003 [(20, d.toNat), (15, a.toNat), (10, b.toNat), (7, scope.toNat), (5, size.toNat)])
  | .redAdd a b scope size => some (put 0xB0000000 [(15, a.toNat), (10, b.toNat), (7, scope.toNat), (5, size.toNat)])
  | .redAnd a b scope size => some (put 0xB0000001 [(15, a.toNat), (10, b.toNat), (7, scope.toNat), (5, size.toNat)])
  | .redOr a b scope size => some (put 0xB0000002 [(15, a.toNat), (10, b.toNat), (7, scope.toNat), (5, size.toNat)])
  | .redXor a b scope size => some (put 0xB0000003 [(15, a.toNat), (10, b.toNat), (7, scope.toNat), (5, size.toNat)])
  | .redMin a b scope size => some (put 0xB0000004 [(15, a.toNat), (10, b.toNat), (7, scope.toNat), (5, size.toNat)])
  | .redMax a b scope size => some (put 0xB0000005 [(15, a.toNat), (10, b.toNat), (7, scope.toNat), (5, size.toNat)])
  | .redMinu a b scope size => some (put 0xB0000006 [(15, a.toNat), (10, b.toNat), (7, scope.toNat), (5, size.toNat)])
  | .redMaxu a b scope size => some (put 0xB0000007 [(15, a.toNat), (10, b.toNat), (7, scope.toNat), (5, size.toNat)])
  | .redAddF32 a b scope size => some (put 0xB2000000 [(15, a.toNat), (10, b.toNat), (7, scope.toNat), (5, size.toNat)])
  | .mbxSend d a b => some (put 0xB4000000 [(20, d.toNat), (15, a.toNat), (10, b.toNat)])
  | .mbxRecv d => some (put 0xB4000001 [(20, d.toNat)])
  | .trap c => some (put 0xB6000000 [(0, c.toNat)])
  | .svc c => some (put 0xB6001000 [(0, c.toNat)])
  | .brk c => some (put 0xB6002000 [(0, c.toNat)])
  | .halt => some (put 0xB6003000 [])
  | .eret => some (put 0xB6004000 [])
  | .sysrd d r => some (put 0xB8000000 [(20, d.toNat), (0, r.toNat)])
  | .syswr a r => some (put 0xB8001000 [(15, a.toNat), (0, r.toNat)])
  | .lseq lvl trip len => some (put 0xC0000000 [(22, lvl.toNat), (17, trip.toNat), (8, len.toNat)])
  | .lseqRot lvl trip len => some (put 0xC0010000 [(22, lvl.toNat), (17, trip.toNat), (8, len.toNat)])
  | .lend lvl => some (put 0xC2000000 [(22, lvl.toNat)])
  | .lfirst lvl n => some (put 0xC4000000 [(22, lvl.toNat), (0, n.toNat)])
  | .llast lvl n => some (put 0xC6000000 [(22, lvl.toNat), (0, n.toNat)])
  | .lstride lvl k r s => some (put 0xC8000000 [(22, lvl.toNat), (21, k.toNat), (16, r.toNat), (0, s.toNat)])
  | .lbrk lvl s => some (put 0xCA000000 [(22, lvl.toNat), (17, s.toNat)])
  | .issueGroupAged _ _ _ => none
  | .binTimerExpiry _ _ => none
  | .binLaunch _ _ _ => none
  | .warpMerge _ _ _ => none
  | .outcomeTake _ _ => none
  | .entryShipment _ _ => none
  | .loadDataReturn _ => none
  | .storeAccept _ => none
  | .matrixOpRetire _ _ => none
  | .copyComplete _ => none
  | .unitComplete _ => none
  | .deferredFaultReport _ _ _ _ _ => none
  | .tileEntryWindowWrite _ _ _ _ => none
  | .bindingPair _ _ _ _ => none
  | .peerUnpair _ _ => none
  | .tileFirstFlit _ _ => none
  | .tileLastFlit _ _ _ => none
  | .creditReturn _ _ => none
  | .linkTakeTile _ _ => none
  | .sendRetire _ _ => none
  | .qmarkRx _ _ _ _ => none
  | .qmarkAck _ _ => none
  | .widthMarkerPlace _ => none
  | .widthMarkerConfirm _ => none
  | .remoteRequestArrival _ _ _ _ _ => none
  | .mergeEntryEvict _ => none
  | .remoteReply _ _ => none
  | .e2eTimerExpiry _ _ => none
  | .flagWrite _ => none
  | .dflagAck _ => none
  | .homeRequest _ => none
  | .probeResponse _ => none
  | .sdnGo _ => none
  | .shootdownComplete => none
  | .portEnable _ => none
  | .portRun _ => none
  | .portReenum _ => none
  | .portOff _ => none
  | .portLinkUp _ => none
  | .portTrainingFail _ => none
  | .capabilityTableRead _ _ => none
  | .cmbxSend _ _ => none
  | .cmbxPop _ => none
  | .dqDoorbell _ _ _ => none
  | .dqEnable _ _ _ => none
  | .packetAccept _ _ => none
  | .launchIssue _ _ _ => none
  | .launchComplete _ _ _ => none
  | .cancel _ => none
  | .jrnlAck _ => none
  | .placeUnit _ _ _ _ => none
  | .launchAged _ _ _ => none
  | .unitResume => none
  | .unitRedirect => none
  | .unitDiscard => none
  | .unitSave => none
  | .saveComplete _ _ => none
  | .unitRestore _ _ => none
  | .heartbeat _ => none
  | .heartbeatLapse _ => none
  | .requestNoAnswer _ => none
  | .isoCmd _ => none
  | .fenceDrained _ => none
  | .cleanComplete _ => none
  | .chipletResetRelease _ => none
  | .redispatch _ => none
  | .ucieFrameReceive _ _ _ => none
  | .getVersion => none
  | .getCapabilities => none
  | .negotiateAlgorithms _ => none
  | .getDigests => none
  | .getCertificate _ => none
  | .challenge _ => none
  | .getMeasurements _ _ => none
  | .keyExchange _ => none
  | .finish _ => none
  | .spdmHeartbeat _ => none
  | .keyUpdate _ => none
  | .endSession _ => none
  | .pldmPlatformMonitoring _ _ => none
  | .pldmFirmwareUpdate _ => none
  | .boot _ => none
  | .mcBootClear => none
  | .chipletGate _ _ => none
  | .chipletWakeComplete _ => none
  | .chanEnable _ _ => none
  | .chanDisable _ => none
  | .chanDark _ => none
  | .chanUndark _ => none
  | .chanTuned _ => none
  | .chanDrained _ => none
  | .linkNak _ _ => none
  | .chanPark _ _ => none
  | .chanUnpark _ _ => none
  | .positionLocked _ _ => none
  | .allowanceRequest _ _ _ => none
  | .allowanceGrant _ _ _ _ => none
  | .allowanceRenew _ _ => none
  | .allowanceExpiry _ _ => none
  | .orbitSlot _ => none
  | .ptpSync _ _ => none
  | .ptpSyncTimeout => none
  | .reachCommit => none
  | .rwinWrite _ _ _ _ => none
  | .wbStage _ _ => none
  | .wbMeasure _ _ => none
  | .wbMeasureComplete _ _ => none
  | .wbSwitch _ _ => none
  | .wbDrop _ _ => none
  | .pcieDmaRequest _ _ _ _ _ => none
  | .registerWrite _ _ _ => none
  | .controlCoreAccess _ _ _ _ _ _ => none
  | .powerLoss _ _ => none
  | .opticalFrameReceive _ _ _ => none
  | .opticalCeilingLower _ => none

end Sys2Proof
end

