-- ==== Sys2Proof/Machine/State.lean ====
section
/-! DEFINITION. The state of one module: its cores, hub and link chiplets, and the memory of the load-store domain.
Tables keyed by a number are lists with rising keys; a key that is not listed has the default that its accessor
names. -/

namespace Sys2Proof.Machine

/-- A table of values by number, keys rising. -/
abbrev Map (α : Type) := List (Nat × α)

/-- Bytes by address, in the canonical form of `Memory.wf`. -/
abbrev Memory := List Host.Cell

/-- A byte of a copy, and whether it comes from a poisoned line (18 R431). -/
abbrev PByte := Byte × Bool

/-- What a byte that nothing has written reads as (log entry 2: DESIGN CHOICE, unsafe). -/
def Memory.blank : Byte := 0

/-- The canonical form: every address is above `lo`, addresses rise, and no entry equals an unlisted byte. -/
def Memory.wfFrom (lo : Nat) : Memory → Bool
  | [] => true
  | (a, b) :: rest => decide (lo ≤ a) && decide (b ≠ Memory.blank) && Memory.wfFrom (a + 1) rest

/-- The canonical form of a memory. -/
def Memory.wf (m : Memory) : Bool := Memory.wfFrom 0 m

/-! ### What stops the machine -/

/-- Why a step stops the model. -/
inductive Fault where
  /-- `exec` was given an instruction word while `sel` names no running unit at that place (01 R20, R34): nothing
  executes it. Raised by every word's meaning; safe, since no word issues without its agent. -/
  | noUnit
  deriving DecidableEq, Repr

/-- Why the model gives no answer. -/
inductive Refusal where
  /-- The instruction has no meaning in this model yet. Raised by the dispatch alone; safe. -/
  | notModelled (mnemonic : String)
  deriving DecidableEq, Repr

/-! ### Threads and tasks -/

/-- Whether a thread runs (01 R25, 12 R324, R343, R344). `atMask k` and `atBar` hold a thread that has arrived. -/
inductive Run where
  | ready | atMask (k : Nat) | atBar | ended
  deriving DecidableEq, Repr

/-- The window state of a thread (08 R210, R211): WINSTAT, with the sizes of the resident windows, newest first. -/
structure Windows where
  spillOff : Nat
  depth : Nat
  cur : Nat
  wbase : Nat
  resident : List Nat
  deriving DecidableEq, Repr

/-- The batches of an agent (11 R304 to R307): the latest number sealed, how many were ever sealed, the commands of
the open batch by identifier, whether each is still in flight is read from `State.copies`; `pend` lists the sealed
batches not complete, oldest first, by their place in the order of seals (from 1), with their commands. -/
structure Batches where
  last : Nat
  sealedCount : Nat
  openCount : Nat
  openCmds : List Nat
  pend : List (Nat × List Nat)
  /-- Modules at which a write of one of the agent's copy commands has failed: a later `dflag` there covers it (11 R302,
  R303). -/
  broken : List Nat
  deriving DecidableEq, Repr

/-- What a thread holds: a lane thread, or the scalar side of an array task. A register not listed is 0; a handle
not listed holds its own number (13 R369, R370). -/
structure Thread where
  pc : Word
  regs : Map Word
  handles : Map Word
  preds : BitVec 8
  fpstat : Word
  win : Windows
  batch : Batches
  estatCause : BitVec 8
  inHandler : Bool
  epc : Word
  eval : Word
  evec : Word
  timeFrac : BitVec 16
  run : Run
  /-- Stopped while another thread of the warp runs a handler (12 R343). -/
  frozen : Bool
  /-- Spill index and lane that fix the thread's spill area (04 R128); a merge keeps them. -/
  spillIndex : Nat
  spillLane : Nat
  deriving DecidableEq, Repr

/-- Why a unit is stopped (12 R340, 18 R424, R427): the word's address and, on a lane core, the lanes of its group. -/
structure Stop where
  cause : Cause
  cls : Nat
  code : BitVec 16
  pc : Word
  lanes : List Nat
  deriving DecidableEq, Repr

/-- The outstanding-operation counters (01 R50). -/
structure Counters where
  ld : Nat
  st : Nat
  cp : Nat
  tl : Nat
  deriving DecidableEq, Repr

/-- The copy of a launch record that a launch reads when it issues (13 R363, R368). -/
structure LaunchRec where
  textBase : Word
  textLimit : Word
  variants : List Word
  argPtr : Word
  gotBase : Word
  schedPtr : Word
  stackBase : Word
  spillBase : Word
  initPtr : Word
  wbind : Word
  stackSize : Nat
  spillSize : Nat
  ttCount : Nat
  binTimer : BitVec 16
  seed : BitVec 16
  qbMask : BitVec 16
  qbDir : BitVec 16
  wgThreads : Nat
  scratch : Nat
  mergeThr : Nat
  split : Nat
  replaySafe : Bool
  priv : Bool
  slots : List (BitVec 128)
  deriving DecidableEq, Repr

/-- The launch that a unit belongs to, with what placement fixes for its units (12 R348). -/
structure UnitInfo where
  world : Nat
  job : Nat
  launch : Nat
  priv : Bool
  launchId : Word
  code : Nat
  record : LaunchRec
  /-- The weight binding and generation slot that the launch pins (22 R488). -/
  pin : Option (Nat × Nat)
  deriving DecidableEq, Repr

/-- A warp (01 R17, R24, R50). Lanes not listed are absent. -/
structure Warp where
  threads : Map Thread
  masks : Map (BitVec 32)
  arrivals : Map (BitVec 32)
  cnt : Counters
  spawned : Bool
  idx : BitVec 32
  wg : Nat
  stop : Option Stop
  /-- A trap word that completed between a SAVE command and the end of issue (19 R449). -/
  pend : Option Stop
  /-- Issue groups that are aged (01 R23): when, and a lane of the group. -/
  aged : List (Nat × Nat)
  /-- The urgency predictor's mark (01 R22). -/
  urgent : Bool
  deriving DecidableEq, Repr

/-- States of a tile-table entry (03 R95, R97). -/
inductive TileSt where
  | empty | filling | ready | draining
  deriving DecidableEq, Repr

/-- An entry of a tile table (03 R95). -/
structure TileEntry where
  hdr : BitVec 256
  lsoff : BitVec 32
  cap : BitVec 32
  st : TileSt
  qheld : Bool
  qidx : Nat
  readers : Nat
  deriving DecidableEq, Repr

/-- A matrix accumulator (10 R268, R271; 03 R102): elements by 128 i + j in the A56 format, +0 when not listed, its
extent and its poison bit. -/
structure Acc where
  elems : Map (BitVec 56)
  extent : Option (Nat × Nat)
  poison : Bool
  deriving DecidableEq, Repr

/-- A workgroup on a lane core (01 R18): its unit data, scratchpad allocation, tile table, grid index, the
accumulator pair it holds (10 R286) and how many warps its bins have launched. -/
structure Workgroup where
  info : UnitInfo
  scrBase : Nat
  scrSize : Nat
  tiles : Map TileEntry
  first : Nat
  pair : Option Nat
  /-- Its scratchpad and tile table are released: every warp has ended and its bins are empty (01 R18). -/
  released : Bool
  deriving DecidableEq, Repr

/-- A bin (01 R29, R30): its key, its threads in order, when it went non-empty (`since` orders the bins), whether its
timer has fired, and the accesses of the spawners that its threads come after (12 R328). -/
structure Bin where
  wg : Nat
  entry : Word
  threads : List Thread
  since : Nat
  due : Bool
  after : List Nat
  deriving DecidableEq, Repr

/-- The word that an operation came from, as fault records name it (18 R423). `key` is where a lane core keeps the warp: its
slot, or where it stands once it has ended and freed the slot (01 R18). -/
structure Origin where
  world : Nat
  job : Nat
  launch : Nat
  kind : CoreKind
  core : Nat
  idx : Nat
  slot : Nat
  key : Nat
  lane : Nat
  pc : Word
  cursor : Nat
  deriving DecidableEq, Repr

/-- M and Q operations that have issued and not retired (10 R263, 11 R308). -/
inductive OpKind where
  /-- A word whose results wait to be stored at its retirement. -/
  | matrix
  /-- A tile on its way through send queue `q` from entry `e`. -/
  | send (q e : Nat)
  /-- A marker on queue `q` awaiting acknowledgement. -/
  | mark (q : Nat)
  /-- `qunbind` of queue `q`, waiting for taken tiles to leave (11 R311). -/
  | unbind (q : Nat)
  deriving DecidableEq, Repr

/-- One operation in flight. `reads` are entries that count it as a reader; `heads` are queue heads claimed, by queue
and entry; `fill` is the entry it fills with the header it will take; `sendQ` says that this entry is sent through a
queue; `drain` the entry that it drains and whether it is freed; `image` the bytes to store from `imageAt` of the core's
storage on. -/
structure TileOp where
  id : Nat
  kind : OpKind
  origin : Origin
  wg : Nat
  reads : List Nat
  heads : List (Nat × Nat)
  fill : Option (Nat × BitVec 256)
  sendQ : Option Nat
  drain : Option (Nat × Bool)
  imageAt : Nat
  image : List Byte
  deriving DecidableEq, Repr

/-- Lane core (01 R17 to R33; 04 R126; 12 R350 to R352). Warps stand at their slots 0 to 31; one that has ended stands at a
higher key until its operations are done (01 R18, R48). `split` is absent before any launch has set it. `shadow` lists the
registers written through the window over what hardware shows there, by cell: what it showed, and what was written (04
R119, 12 R346). -/
structure LaneCore where
  warps : Map Warp
  wgs : Map Workgroup
  scratch : Memory
  accs : Map Acc
  bins : Map Bin
  binClock : Nat
  srState : BitVec 16
  mailbox : List Word
  world : Option Nat
  split : Option Nat
  shadow : Map (Word × Word)
  ops : List TileOp
  /-- A SAVE command is at work, and issue has stopped for it (18 R432). -/
  sealing : Bool
  saving : Bool
  deriving DecidableEq, Repr

/-- A mark of `lfirst` or `llast` in force at a cursor (09 R258): its level, whether it is `llast`, and how many
words it still covers. -/
structure Mark where
  level : Nat
  last : Bool
  left : Nat
  deriving DecidableEq, Repr

/-- Iteration state of a level as an outcome carries it (09 R254): active, TRIP, ITER. -/
structure Iter where
  active : Bool
  trip : Nat
  iter : Nat
  deriving DecidableEq, Repr

/-- A cursor of a task (01 R34 to R43): where it stands, its step count, whether it has reached `halt`, how many
outcomes it has taken since the task started, the iteration state and rotating base it holds, and its marks. -/
structure CursorSt where
  pc : Word
  step : Nat
  halted : Bool
  taken : Nat
  iters : List Iter
  base : Nat
  marks : List Mark
  deriving DecidableEq, Repr

/-- The six cursors. -/
structure Cursors where
  s : CursorSt
  v : CursorSt
  m : CursorSt
  d : CursorSt
  q : CursorSt
  y : CursorSt
  deriving DecidableEq, Repr

/-- An outcome of a branch word (01 R36): where the path continues, the iteration state of every level and the
rotating base after the word. -/
structure OutcomeRec where
  addr : Word
  iters : List Iter
  base : Nat
  deriving DecidableEq, Repr

/-- A word on the path that some cursor has not yet passed (01 R34, R35): its step, address and bits, whether a mark makes
it pass without issuing (09 R258), and the rotating base in force (01 R42). -/
structure PathEntry where
  step : Nat
  pc : Word
  raw : Nat
  skip : Bool
  base : Nat
  deriving DecidableEq, Repr

/-- A level of the loop sequencer (09 R254), with its stride slots: whether a slot steps a handle, its register and
its stride. -/
structure Level where
  active : Bool
  trip : Nat
  iter : Nat
  rotate : Bool
  start : Word
  stop : Word
  slots : List (Bool × Nat × BitVec 16)
  deriving DecidableEq, Repr

/-- What a handler of an array task holds (12 R341): the cursors, the outcome queue, the path, the levels, the words of the
replay buffer and the limits of the slip window still to come. -/
structure HeldPoint where
  cursors : Cursors
  outq : List OutcomeRec
  outBase : Nat
  path : List PathEntry
  levels : List Level
  replay : Map Nat
  limits : List (Nat × Nat)
  deriving DecidableEq, Repr

/-- An array task (01 R34; 13 R369). -/
structure Task where
  info : UnitInfo
  idx : BitVec 32
  cursors : Cursors
  outq : List OutcomeRec
  outBase : Nat
  path : List PathEntry
  levels : List Level
  /-- Writes of CUR_WIN that the S cursor has not come to: the step of the word and the limit before it, oldest first (12
  R345). -/
  limits : List (Nat × Nat)
  cnt : Counters
  stop : Option Stop
  pend : Option Stop
  held : Option HeldPoint
  /-- Entries of the schedule table not started, in order (01 R45), and what a donor has shipped. -/
  entries : List Word
  shipped : List Word
  /-- A steal request outstanding: the victims still to ask, nearest first (01 R46). -/
  asking : Option (List Nat)
  ended : Bool
  /-- Words of the level-0 body fetched since its `lseq`, by address (09 R260). -/
  replay : Map Nat
  deriving DecidableEq, Repr

/-- Directions of a binding (05 R143). -/
inductive Dir where
  | unbound | send | receive
  deriving DecidableEq, Repr

/-- A queue binding (05 R134 to R149). `fifo` lists pool entries in order: for a receive binding the tiles arrived or
arriving and not claimed; for a send binding the tiles sent and not taken by the link chiplet, some of them still being
formed. `taken` are the entries that the link chiplet transmits, oldest first; `parked` those of a saved task. `marks`
are the markers awaiting acknowledgement: how many earlier tiles have not left the link chiplet, the step number, the
kind and whether the marker has been placed behind them (05 R150). `id` names the binding to the link chiplets and `core` is the array core given at binding, whatever core its task
runs on (05 R146). `lent` counts the credits of a receive end that its peer holds (05 R135, R136), `sent` the flits of the
oldest tile taken that have left (05 R139). -/
structure Binding where
  id : Nat
  core : Nat
  dir : Dir
  peerMod : Nat
  peerCore : Nat
  peerQ : Nat
  chan : Nat
  pool : Nat
  base : Nat
  cap : Nat
  credit : Nat
  paired : Bool
  xoff : Bool
  /-- A re-plan removed the peer (05 R148). -/
  unreach : Bool
  fifo : List Nat
  filling : Option Nat
  taken : List Nat
  parked : List Nat
  marks : List (Nat × BitVec 16 × Bool × Bool)
  lent : Nat
  sent : Nat
  /-- The capacity the peer granted at pairing (05 R135, R138). -/
  granted : Nat
  /-- Width requested while unpaired (11 R315). -/
  wantWidth : Option Nat
  deriving DecidableEq, Repr

/-- Array core (01 R34; 03 R95; 04 R116). Vector element l of register n stands at 128 n + l. `limit` is CUR_WIN.LIMIT (01
R39), `top` the first byte of the local store above every byte written since the task started (18 R434), `shadow` as on a
lane core. -/
structure ArrayCore where
  task : Option Task
  th : Thread
  vregs : Map (BitVec 32)
  vpoison : Map Bool
  preds : Map (BitVec 128)
  accs : Map Acc
  tiles : Map TileEntry
  books : Map Byte
  loaded : Map Bool
  queues : Map Binding
  ops : List TileOp
  srState : BitVec 16
  rotBase : Nat
  limit : Nat
  localStore : Memory
  top : Nat
  shadow : Map (Word × Word)
  mailbox : List Word
  world : Option Nat
  sealing : Bool
  saving : Bool
  deriving DecidableEq, Repr

/-! ### Memory traffic -/

/-- Who makes an access (06 R152). -/
inductive Agent where
  | lane (core slot lane : Nat)
  | task (core : Nat)
  /-- A thread or task that has left its core, saved or complete, with accesses still on their way. -/
  | gone (kind : CoreKind) (core key lane : Nat)
  | hart (h : Nat)
  | pcie (port : Nat)
  deriving DecidableEq, Repr

/-- What an access does. -/
inductive AccKind where
  | load
  | store
  | amo (op : AmoOp)
  | red (op : AmoOp)
  /-- The store of a control hart's store-conditional: it returns 0 where the reservation still stood, else 1 (06 R169). -/
  | sc
  /-- A write of a copy command on its way to another module (11 R301). -/
  | copy
  /-- A read of a copy command from another module (11 R299, R300). -/
  | copyRead
  /-- A completion flag on its way to another module (11 R302). -/
  | flag
  /-- A fence in the agent's program order: it holds later stores and copies, or all later accesses. -/
  | fence (waitAll holdAll : Bool)
  /-- A RISC-V FENCE of a control hart from writes to reads (06 R169): earlier writes come before later reads. -/
  | fenceWR
  deriving DecidableEq, Repr

/-- Where an access goes: the domain physical space, or the storage of the issuing core. -/
inductive Space where
  | domain
  | core
  deriving DecidableEq, Repr

/-- How far an access has come: issued; a store that its chiplet has taken and no home has seen (06 R159, R161); waiting at
its directory slice behind a busy line (16 R401); sent to another module with its number (06 R161, R176); applied. -/
inductive Stage where
  | issued | posted | queued | sent | applied
  deriving DecidableEq, Repr

/-- An access in flight (01 R50; 06 R157 to R167), or a fence that later accesses wait for. Identifiers rise in issue
order, lower lanes first; `grp` is the same for the accesses of one issue-group word. `dest` is the physical register
of a load or atomic; `fwd` names the store whose value a load took before that store was applied (06 R157, R161);
`counted` says that LD or ST still counts it; `seq` is the number of a request sent to another module. A store taken by
the group, core or chiplet of its agent has that scope in `upTo`; `post` orders the stores taken. Of a write of a copy command `grp` names the command, `bulk` are the bytes, `batch` is the
place of its batch in the order of seals and `waited` says that a `dwait` has returned on that batch (06 R170); a read of a
copy command has the offset of its bytes in `cmp` and takes what it reads in `bulk`. `born` is the agent as which it was
made: its core and its chiplet stay those of the access, whatever becomes of the unit (06 R161, R162). -/
structure Flight where
  id : Nat
  grp : Nat
  agent : Agent
  born : Agent
  origin : Origin
  kind : AccKind
  space : Space
  dest : Option Nat
  ext : Bool
  addr : Nat
  size : Nat
  data : Word
  cmp : Word
  scope : Nat
  acq : Bool
  rel : Bool
  stage : Stage
  value : Word
  flags : Nat
  fwd : Option Nat
  seq : Nat
  upTo : Nat
  post : Nat
  counted : Bool
  bulk : List PByte
  batch : Option Nat
  waited : Bool
  deriving DecidableEq, Repr

/-- Reading, writing or filling a piece of storage by a copy command. -/
inductive Place where
  /-- Domain physical address. -/
  | mem (a : Nat)
  /-- Offset in the storage of the issuing core. -/
  | core (a : Nat)
  /-- Nowhere: the bytes are zeros. -/
  | zero
  deriving DecidableEq, Repr

/-- A piece of a copy: `len` bytes from one place to another. -/
structure Piece where
  src : Place
  dst : Place
  len : Nat
  deriving DecidableEq, Repr

/-- Copy commands (11 R290). -/
inductive CopyKind where
  | tld (entry : Nat) (sendQ : Option Nat)
  | tst (entry : Nat) (free : Bool) (queue : Option Nat)
  | tgat (entry : Nat)
  | tsct (entry : Nat)
  | dcpy
  | dflag (value : Word) (sys : Bool) (covers : List Nat)
  | cflush
  | cinval
  deriving DecidableEq, Repr

/-- A copy command in flight (11 R290 to R305). A page it pins (04 R123) is its virtual base plus the number of its offset
bits.
`attempt` counts the reads of a `tld` (03 R108) or how far a `tst` has come (03 R106), whose VERSION is `version`;
`gen` is the binding and slot that its launch pinned (22 R490);
`got` are the units read and `wrote` the
units written, by their offset in the command's bytes (06 R155); `broken` says that a read was abandoned, `cut` names the
modules that a re-plan has removed since it issued (21 R480), `said` the errors that it has reported, each once (01 R57);
`failed` says that a write that a `dflag` covers has failed, `written` that its flag has been sent to its hub. -/
structure Copy where
  id : Nat
  agent : Agent
  origin : Origin
  wg : Nat
  kind : CopyKind
  pieces : List Piece
  pins : List Nat
  gen : Option (Nat × Nat)
  attempt : Nat
  version : Nat
  got : Map (List PByte)
  wrote : List Nat
  broken : Bool
  cut : List Nat
  said : List Cause
  failed : Bool
  written : Bool
  deriving DecidableEq, Repr

/-- A request to another module without a reply (21 R477, R478): its number and its flight, how often its timer has expired, and
when it left its link chiplet last. -/
structure Await where
  seq : Nat
  id : Nat
  tries : Nat
  since : Nat
  deriving DecidableEq, Repr

/-- The requests to one home module (06 R176; 21 R477, R478): the next number, the requests without replies, and the lowest
number still awaited. -/
structure RemoteEnd where
  next : Nat
  waiting : List Await
  floor : Nat
  deriving DecidableEq, Repr

/-- What this module keeps for a source of requests: numbers applied, replies kept, the floor (21 R478). -/
structure HomeEnd where
  applied : List Nat
  replies : List (Nat × List Word)
  floor : Nat
  deriving DecidableEq, Repr

/-- The holders of a line (16 R400, R401). -/
inductive LineSt where
  | M | O | E | S
  deriving DecidableEq, Repr

/-- A directory entry: holders by port, the bytes that the home holds while a holder's are newer (16 R397, 18 R431),
the request being served, the requests waiting behind it, and whether the line is recalled after them (16 R408). -/
structure DirLine where
  holders : Map LineSt
  stale : Option (List Byte)
  busy : Option Nat
  queue : List Nat
  recalled : Bool
  deriving DecidableEq, Repr

/-- A request at a directory slice that is no access in flight (16 R401): bytes that the hub writes, a request of a peer
(source, number, and what it asks), or the place that a unit of a copy command takes. -/
inductive SliceReq where
  | hub (addr : Nat) (bytes : List Byte)
  | peer (src seq : Nat) (r : RemoteReq)
  | copy (id : Nat)
  deriving DecidableEq, Repr

/-- A region entry of a directory slice (16 R400): the port sharer vector, the owner, and whether its mode is line. -/
structure Region where
  vector : BitVec 24
  owner : Option Nat
  line : Bool
  deriving DecidableEq, Repr

/-! ### Copies that chiplets hold -/

/-- A translation that a translation cache holds (04 R121, R124): its world, the binding and slot of a pinned launch for an
address of that binding (22 R489), the base and the number of offset bits of its page, its leaf, or that the tables gave
none (16 R405), and whether the word of the coming step uses it. -/
structure HeldPage where
  world : Nat
  pin : Option (Nat × Nat)
  base : Nat
  bits : Nat
  leaf : Option Nat
  used : Bool
  deriving DecidableEq, Repr

/-- A line copy that the chiplet at a port holds, the chiplet being of the non-coherent class (06 R172; 16 R397), and
whether it answers reads of the coming step. -/
structure HeldLine where
  port : Nat
  line : Nat
  bytes : List Byte
  used : Bool
  deriving DecidableEq, Repr

/-- A byte that a non-coherent chiplet has written and not flushed (06 R172), with the access or copy command that wrote
it, whether it was a copy command, and whose it is. -/
structure KeptByte where
  byte : Byte
  op : Nat
  copied : Bool
  agent : Agent
  origin : Origin
  deriving DecidableEq, Repr

/-- What units do of themselves between two steps: a translation is fetched, dropped or used for the coming step or
not, the same for a line copy, writes of a chiplet stay held from now on or not, and a line that a chiplet has written is
flushed; a store is taken before its home has seen it; an agent of another module writes memory of that module; a
copy command reads or writes one unit. Pages and lines are named by their place in the list. -/
inductive CacheAct where
  | fetchPage (world : Nat) (pin : Option (Nat × Nat)) (va : Nat)
  | dropPage (n : Nat)
  | usePage (n : Nat) (on : Bool)
  | fetchLine (port line : Nat)
  | dropLine (n : Nat)
  | useLine (n : Nat) (on : Bool)
  | holdWrites (port : Nat) (on : Bool)
  | flushLine (port line : Nat)
  | takeStore (id scope : Nat)
  | peerWrite (addr : Nat) (bytes : List Byte)
  | copyRead (id off : Nat)
  | copyWrite (id off : Nat)
  /-- The request of a unit of a copy command reaches the slices of its lines (16 R401). -/
  | copyAsk (id off : Nat)
  /-- A full MOESI peer writes a line back, or drops it (16 R397). -/
  | writeBack (port line : Nat) (drop : Bool)
  /-- The trace records of a chiplet are held up on their way, or reach their buffer; the next part of one is written (22
  R494). -/
  | holdTrace (buf : Nat) (on : Bool)
  | writeTrace (buf : Nat)
  /-- Bits of a 16-byte block of LPDDR are altered, which decrypts to noise from then on (19 R444). -/
  | alterBlock (block : Nat)
  deriving DecidableEq, Repr

/-! ### The hub -/

/-- Port states (16 R394, R396). -/
inductive PortSt where
  | down | training | reading | assigned | running | fenced | refused | off
  deriving DecidableEq, Repr

/-- States of the isolation agent (18 R436). -/
inductive IsoSt where
  | idle | fencing | cleaning | resetting | retraining | redispatching | out
  deriving DecidableEq, Repr

/-- A port with PORT_CTL, PORT_STAT, ISO_STAT, SEAL_ERR and the seal state of 19 R443, R444. -/
structure Port where
  cclass : Nat
  rate : Nat
  lock : Bool
  enable : Bool
  gen : Nat
  pstate : Nat
  busy : Bool
  terr : Bool
  st : PortSt
  /-- The entry into reading came from isolation (16 R394). -/
  fromIso : Bool
  table : Option (List Byte)
  /-- The first of the 64 queue identifiers that the latest assignment gave the chiplet (16 R393). -/
  queueIds : Option Nat
  iso : IsoSt
  isoLost : Nat
  isoAttempt : Nat
  isoCount : Nat
  /-- Fabric time in ns of the latest heartbeat (18 R435). -/
  beat : Nat
  sealErr : Nat
  sealRun : Nat
  /-- Epoch and counter of the sealed units from the chiplet and to it (19 R443). -/
  sealFrom : Nat × Nat
  sealTo : Nat × Nat
  /-- Units awaiting redispatch: world, job, launch and index. -/
  lost : List (Nat × Nat × Nat × Nat)
  /-- Their REDISPATCH records are written and they may be placed (18 R439). -/
  redone : Bool
  /-- A gated chiplet on its way back to state 0 (19 R452). -/
  waking : Bool
  deriving DecidableEq, Repr

/-- A dispatch queue (17 R409). -/
structure DQueue where
  base : Nat
  size : Nat
  maxPrio : Nat
  lock : Bool
  pause : Bool
  en : Bool
  wptr : Nat
  rptr : Nat
  overrun : Bool
  full : Bool
  /-- The launch records of the packets submitted and not accepted, by index: where each stood and its bytes (13 R368). -/
  records : Map (Nat × List Byte)
  deriving DecidableEq, Repr

/-- Status of a level (17 R415). -/
inductive Status where
  | inProgress | complete | error | cancelled | refused | replayRefused | skipped
  deriving DecidableEq, Repr

/-- A launch in the sequencer's table (17 R410 to R418): the packet, and once issued the record, the units it has in
all, the next task or workgroup to place, the units completed, the UNIT_IDX values of those that faulted (each once), the index for the next bin-launched warp,
the time at which it became aged, the weight generation it pins, and the tasks or workgroups lost with a chiplet
that wait to be placed again. -/
structure Launch where
  world : Nat
  queue : Nat
  job : Nat
  graph : Nat
  phase : Nat
  num : Nat
  prio : Nat
  code : Nat
  recordVa : Nat
  /-- Its record as it stood when the packet was submitted, and where (13 R368). -/
  recordWas : Option (Nat × List Byte)
  grid : Nat
  wbind : Word
  flag : Nat
  deps : List Nat
  issued : Bool
  rec? : Option LaunchRec
  units : Nat
  nextUnit : Nat
  doneUnits : Nat
  faulted : List Nat
  binIndex : Nat
  aged : Option Nat
  /-- Fabric time in ns at which it issued or placed its latest unit (17 R418). -/
  placedAt : Nat
  err : Bool
  cancelled : Bool
  replayRefused : Bool
  pin : Option (Nat × Nat)
  lost : List Nat
  deriving DecidableEq, Repr

/-- A phase of a job: PHASE_END accepted, its flag, whether it was cancelled, and its status once completed. -/
structure PhaseRec where
  num : Nat
  ended : Bool
  flag : Nat
  cancelled : Bool
  done : Option Status
  deriving DecidableEq, Repr

/-- A graph of a phase: GRAPH_END launch accepted, cancelled, and its status once completed. -/
structure GraphRec where
  phase : Nat
  num : Nat
  ended : Bool
  cancelled : Bool
  done : Option Status
  deriving DecidableEq, Repr

/-- A launch number of a job that has been accepted, with its place, and its status once completed. -/
structure LaunchNo where
  num : Nat
  phase : Nat
  graph : Nat
  done : Option Status
  deriving DecidableEq, Repr

/-- A job (17 R412 to R415). `edges` holds the predecessors that EDGE packets added to launches not yet accepted. -/
structure Job where
  world : Nat
  num : Nat
  ended : Bool
  flag : Nat
  err : Bool
  cancelled : Bool
  phases : List PhaseRec
  graphs : List GraphRec
  nums : List LaunchNo
  edges : List (Nat × Nat)
  deriving DecidableEq, Repr

/-- A journal record without its number and time (17 R419). -/
structure JRec where
  kind : Nat
  status : Nat
  world : Nat
  queue : Nat
  reason : Nat
  launch : Nat
  job : Nat
  graph : Nat
  phase : Nat
  units : Nat
  index : Nat
  flag : Nat
  deriving DecidableEq, Repr

/-- A fault log of a world with its atomic flag log (18 R425, R426). -/
structure FaultLog where
  base : Nat
  size : Nat
  en : Bool
  head : Nat
  ack : Nat
  lost : Nat
  aflog : BitVec 6
  deriving DecidableEq, Repr

/-- A saved context (18 R432 to R434), with its unit: sections are read back from here; software reads them from
memory. -/
structure Saved where
  id : Nat
  addr : Nat
  world : Nat
  task : Option ArrayCore
  lane : Option LaneCore
  from? : Nat
  done : Bool
  deriving DecidableEq, Repr

/-- A channel of a link chiplet (21 R468 to R473, R477). -/
inductive ChanSt where
  | off | tuning | up | draining | dark | failed
  deriving DecidableEq, Repr

/-- A channel (21 R467 to R474): its registers, the positions of the stripe in force and which of them takes the next
flit, the width and stripe that an outstanding marker announces, the positions on their way to a lock, allowances by
position (flits left, and the fabric time in ns at which they lapse; for a position that is not locked, the time left),
and the resends of each frame. -/
structure Channel where
  ctl : Word
  st : ChanSt
  park : BitVec 8
  locked : BitVec 8
  cur : Nat
  req : Nat
  stripe : BitVec 8
  rr : Nat
  marker : Option (Nat × BitVec 8)
  waking : BitVec 8
  hold : BitVec 8
  have_ : BitVec 8
  expired : BitVec 8
  volume : Map Nat
  life : Map Nat
  /-- Resends of the frames in the replay buffer (21 R477). -/
  frames : Map Nat
  retry : Nat
  refused : Bool
  /-- Epoch and counter of the sealed frames received (19 R443). -/
  sealFrom : Nat × Nat
  /-- The same for the frames sent, and the key agreed when the channel was configured (19 R441, R442). -/
  sealTo : Nat × Nat
  key : BitVec 256
  /-- PEER for which the allowances were granted (21 R471). -/
  tuned : Nat
  /-- Positions whose allowance request waits for an orbit slot, and those whose request has left and is not answered (21
  R472, R476). -/
  asking : BitVec 8
  asked : BitVec 8
  /-- Positions whose wake has started, and those of the wake that are locked already (21 R473, R474). -/
  started : BitVec 8
  woken : BitVec 8
  /-- PARK as it acts: a write while the channel drains or is dark acts at the next up (21 R482). -/
  parked : BitVec 8
  /-- REQ as it stood when the channel went dark, until it is up again (21 R482). -/
  oldReq : Option Nat
  /-- Frames sent, and how many of them are acknowledged: the replay buffer holds the others (21 R471, R477). -/
  sentFrames : Nat
  acked : Nat
  /-- Requests taken that wait for an allowance, by flight, and whether they have never left before (21 R471, R472). -/
  reqs : List (Nat × Bool)
  deriving DecidableEq, Repr

/-- A receive slot of this module (21 R466, R472): the sender that holds its grant, those that wait, and whether the grant
waits for the orbit slot that carries it; the module that its local oscillator is tuned to, and when it has locked; the
flits that the grant still pays for, and when it lapses. -/
structure RSlot where
  grantee : Option Nat
  queue : List Nat
  waits : Bool
  tuned : Option Nat
  ready : Nat
  volume : Nat
  lapse : Nat
  deriving DecidableEq, Repr

/-- A reduction window (21 R479). -/
structure RWin where
  base : Word
  limit : Word
  deriving DecidableEq, Repr

/-- States of a weight generation (22 R484). -/
inductive GenSt where
  | free | staged | measuring | measured | current | retiring
  deriving DecidableEq, Repr

/-- A generation slot of a weight binding (22 R483 to R487). -/
structure GenSlot where
  dir : Word
  pins : Nat
  gen : Nat
  st : GenSt
  digest : Nat
  deriving DecidableEq, Repr

/-- A weight binding (22 R483). -/
structure WBind where
  id : Word
  ctl : Word
  slots : Map GenSlot
  freed : BitVec 4
  err : Bool
  maxGen : Nat
  deriving DecidableEq, Repr

/-- A trace record on its way to its buffer (22 R492, R494): what is fixed when its event happens. -/
structure TraceRec where
  time : Nat
  unlocked : Bool
  event : Nat
  world : Nat
  core : Nat
  aux : Nat
  arg : Nat
  deriving DecidableEq, Repr

/-- A trace buffer (22 R491, R494): its registers, whether records are held up on their way to it, those that are on their way,
oldest first, and how far the oldest is written. -/
structure TraceBuf where
  base : Nat
  classes : BitVec 8
  en : Bool
  headSeq : Nat
  headOff : Nat
  tailSeq : Nat
  tailOff : Nat
  lost : Nat
  drop : Nat
  hold : Bool
  waiting : List TraceRec
  phase : Nat
  deriving DecidableEq, Repr

/-- An SPDM session (19 R446, R448). -/
structure Session where
  gen : Nat
  up : Bool
  keys : Nat
  deriving DecidableEq, Repr

/-- A copy of the boot record (19 R451). -/
structure BootCopy where
  boots : Nat
  step : Nat
  image : Nat
  rate : Nat
  ports : List Nat
  near : List Nat
  lasers : List Nat
  crcOk : Bool
  deriving DecidableEq, Repr

/-- The hub, its management controller and the link chiplets. -/
structure Hub where
  ports : Map Port
  sfull : Bool
  lfull : Bool
  qmax : Nat
  spillBase : Nat
  spillLock : Bool
  roots : Map Word
  sdnAddr : Word
  sdnSize : Nat
  sdnWorld : Nat
  /-- Shootdowns queued: number, address, SIZE, world, and the identifier of the next operation when it was queued. -/
  sdnQueue : List (Nat × Word × Nat × Nat × Nat)
  sdnDone : Nat
  sdnQueued : Nat
  sdnRefused : Bool
  cmbx : Map (List Word)
  cmbxTgt : Map Word
  cmbxLast : Map Nat
  topoCtl : BitVec 6
  topoEvt : BitVec 24
  queues : Map DQueue
  launches : List Launch
  jobs : List Job
  /-- Jobs that have completed: no later packet enters them (17 R411). -/
  closed : List Job
  /-- Jobs without an entry, by world and number, that are to start cancelled (17 R422), or else with the status error, a
  flag of a refused launch having failed (17 R416). -/
  ahead : List (Nat × Nat × Bool)
  /-- The queue that had the latest turn, by priority (17 R418). -/
  lastQueue : Map Nat
  reserved : Map Nat
  selJob : Word
  selId : Word
  jBase : Nat
  jSize : Nat
  jStall : Bool
  jLock : Bool
  jHead : Nat
  jTail : Nat
  jAck : Nat
  /-- Records withheld until the journal has room (17 R420). -/
  jPending : List JRec
  flogs : Map FaultLog
  unitSel : Word
  unitPc : Word
  unitCtx : Word
  unitErr : Bool
  saved : List Saved
  isoLapse : Nat
  isoAuto : Bool
  mgen : Nat
  fuseA : Nat
  fuseB : Nat
  bootImage : Nat
  bootStep : Nat
  bootClear : Bool
  bootRec : List BootCopy
  /-- The nonce of this boot and the boot key (19 R442). -/
  bootNonce : BitVec 384
  bootKey : BitVec 256
  sessions : Map Session
  secondary : FlashImage
  primary : FlashImage
  /-- The firmware measured at boot step 2: the hub's and the management controller's (19 R447, R450). -/
  measured : BitVec 384 × BitVec 384
  /-- The port entries that this boot goes by: those of the record, or zeros after MC_BOOT.CLEAR, as failures raise them (19
  R451). -/
  entries : List Nat
  chans : Map Channel
  slots : Map RSlot
  ceiling : Nat
  reach : Map Word
  reachStaged : Map Word
  reachGen : Nat
  rwins : Map RWin
  /-- Requests that wait for their orbit slot, and those that the end-to-end timer has it send again (21 R476, R477). -/
  orbit : List Nat
  resends : List Nat
  ftDomain : Nat
  ftLock : Bool
  ftOffset : BitVec 32
  synced : Bool
  /-- How long fabric time is still held, until the master's time passes it (21 R475), in 1/65,536 ns. -/
  ftHold : Nat
  /-- The master's time of the latest sync, in 1/65,536 ns (21 R475). -/
  lastSync : Nat
  wbinds : Map WBind
  trace : Map TraceBuf
  deriving DecidableEq, Repr

/-- The agent whose step is next: an array core's cursor, or a lane core's warp slot and lane. -/
inductive Sel where
  | array (core : Nat) (cur : Cursor)
  | lane (core slot lane : Nat)
  deriving DecidableEq, Repr

/-- The state of the machine. -/
structure State where
  module : Nat
  time : Nat
  inputs : List Instr
  sched : List Sel
  sel : Sel
  elapsed : List Nat
  free : Nat
  reply : Option (List Word)
  mem : Memory
  poison : List Nat
  arrays : Map ArrayCore
  lanes : Map LaneCore
  flight : List Flight
  /-- Requests in flight to a module that a re-plan removed (21 R480). -/
  late : List Flight
  nextId : Nat
  copies : List Copy
  remote : Map RemoteEnd
  homes : Map HomeEnd
  merge : Map (Nat × Word)
  dir : Map DirLine
  /-- Requests at the slices that are no accesses in flight, by their identifiers in the lines' lists (16 R401). -/
  sliceReqs : Map SliceReq
  /-- Region entries by region number (16 R400). -/
  regions : Map Region
  /-- What units do of themselves before each of the coming steps (the model's own field: 04 R124, 06 R155, R161, R172 leave
  it to them). -/
  acts : List (List CacheAct)
  pages : List HeldPage
  lines : List HeldLine
  /-- Bytes that a non-coherent chiplet has written and not flushed, by port and address (06 R172). -/
  kept : Map (Map KeptByte)
  /-- Ports whose chiplet keeps its writes for now (06 R172). -/
  holding : List Nat
  /-- Reservations that control harts hold, by hart: an address and a length (06 R169). -/
  reserves : Map (Nat × Nat)
  hub : Hub
  deriving DecidableEq, Repr

/-! ### Reset -/

/-- A thread before anything has set it. -/
def Thread.blank : Thread :=
  { pc := 0, regs := [], handles := [], preds := 0, fpstat := 0,
    win := { spillOff := 0, depth := 0, cur := 0, wbase := 0, resident := [] },
    batch := { last := 0, sealedCount := 0, openCount := 0, openCmds := [], pend := [], broken := [] },
    estatCause := 0, inHandler := false, epc := 0, eval := 0, evec := 0, timeFrac := 0, run := .ready,
    frozen := false, spillIndex := 0, spillLane := 0 }

/-- A core on which nothing has run: registers, accumulators and storage zero, no world (17 R418). -/
def LaneCore.blank : LaneCore :=
  { warps := [], wgs := [], scratch := [], accs := [], bins := [], binClock := 0, srState := 1, mailbox := [],
    world := none, split := none, shadow := [], ops := [], sealing := false, saving := false }

/-- An array core on which nothing has run. -/
def ArrayCore.blank : ArrayCore :=
  { task := none, th := Thread.blank, vregs := [], vpoison := [], preds := [], accs := [], tiles := [], books := [],
    loaded := [], queues := [], ops := [], srState := 1, rotBase := 0, limit := 1024,
    localStore := [], top := 0, shadow := [], mailbox := [], world := none, sealing := false, saving := false }

/-- The class a kind of chiplet takes by default (16 R397): CTL and LANE are MOESI peers, ARR and LINK
I/O-coherent. -/
def defaultClass (p : Nat) : Nat := if p < 6 then 0 else 1

/-- A port at reset (16 R396). -/
def Port.blank (p : Nat) : Port :=
  { cclass := defaultClass p, rate := 0, lock := false, enable := true, gen := 0, pstate := 0, busy := false,
    terr := false, st := .down, fromIso := false, table := none, queueIds := none, iso := .idle, isoLost := 0, isoAttempt := 0,
    isoCount := 0, beat := 0, sealErr := 0, sealRun := 0, sealFrom := (0, 0), sealTo := (0, 0),
    lost := [], redone := false, waking := false }

/-- A flash image about which the specification says nothing at reset (log entry 6). -/
def FlashImage.none : FlashImage := { sigOk := true, version := 0, commit := true, hubDigest := 0, mcDigest := 0 }

/-- The hub at reset (16 to 22). -/
def Hub.reset : Hub :=
  { ports := [], sfull := false, lfull := false, qmax := 0, spillBase := 0x100FF, spillLock := false, roots := [],
    sdnAddr := 0, sdnSize := 0, sdnWorld := 0, sdnQueue := [], sdnDone := 0, sdnQueued := 0, sdnRefused := false,
    cmbx := [], cmbxTgt := [], cmbxLast := [], topoCtl := 0, topoEvt := 0, queues := [], launches := [], jobs := [], closed := [], ahead := [],
    lastQueue := [], reserved := [], selJob := 0, selId := 0, jBase := 0, jSize := 16, jStall := false,
    jLock := false, jHead := 1, jTail := 1, jAck := 0, jPending := [], flogs := [], unitSel := 0, unitPc := 0, unitCtx := 0,
    unitErr := false, saved := [], isoLapse := 40, isoAuto := true, mgen := 1, fuseA := 0, fuseB := 0,
    bootImage := 0, bootStep := 0, bootClear := false, bootRec := [], bootNonce := 0, bootKey := 0, sessions := [],
    secondary := FlashImage.none, primary := FlashImage.none, measured := (0, 0), entries := [], chans := [], slots := [], ceiling := 2048, reach := [],
    reachStaged := [], reachGen := 0, rwins := [], orbit := [], resends := [], ftDomain := 0, ftLock := false, ftOffset := 0,
    synced := false, ftHold := 0, lastSync := 0, wbinds := [], trace := [] }

/-- The module after reset: no unit, no memory listed, the hub's registers at their reset values. -/
def State.reset : State :=
  { module := 0, time := 0, inputs := [], sched := [], sel := .array 0 .S, elapsed := [], free := 0, reply := none,
    mem := [], poison := [], arrays := [], lanes := [], flight := [], late := [], nextId := 0, copies := [], remote := [],
    homes := [], merge := [], dir := [], sliceReqs := [], regions := [], acts := [], pages := [], lines := [], kept := [], holding := [],
    reserves := [], hub := Hub.reset }

end Sys2Proof.Machine
end

