-- ==== Sys2Proof/Machine/Table.lean ====
section
/-! DEFINITION. Tables by number and memory by byte: reading, writing, removing; values of several bytes,
little-endian (00 R9). -/

namespace Sys2Proof.Machine

/-- The entry of a table at a key, if listed. -/
def mapGet? {α : Type} (k : Nat) : Map α → Option α
  | [] => none
  | (j, a) :: rest => if j = k then some a else if k < j then none else mapGet? k rest

/-- The entry of a table at a key, with a default. -/
def mapGet {α : Type} (d : α) (m : Map α) (k : Nat) : α := (mapGet? k m).getD d

/-- A table with the entry at a key replaced or added. -/
def mapSet {α : Type} (k : Nat) (a : α) : Map α → Map α
  | [] => [(k, a)]
  | (j, b) :: rest =>
    if j = k then (k, a) :: rest else if k < j then (k, a) :: (j, b) :: rest else (j, b) :: mapSet k a rest

/-- A table without a key. -/
def mapErase {α : Type} (k : Nat) : Map α → Map α
  | [] => []
  | (j, b) :: rest => if j = k then rest else if k < j then (j, b) :: rest else (j, b) :: mapErase k rest

/-- A table with the entry at a key changed, when listed. -/
def mapUpdate {α : Type} (k : Nat) (f : α → α) (m : Map α) : Map α :=
  match mapGet? k m with
  | some a => mapSet k (f a) m
  | none => m

/-- Every entry changed. -/
def mapAll {α β : Type} (f : Nat → α → β) : Map α → Map β
  | [] => []
  | (k, a) :: rest => (k, f k a) :: mapAll f rest

/-- The byte of a memory at an address. -/
def readByte : Memory → Nat → Byte
  | [], _ => Memory.blank
  | (j, b) :: rest, a => if j = a then b else if a < j then Memory.blank else readByte rest a

/-- A memory without an address. -/
def dropByte (a : Nat) : Memory → Memory
  | [] => []
  | (j, b) :: rest => if j = a then rest else if a < j then (j, b) :: rest else (j, b) :: dropByte a rest

/-- A memory with a byte that is not blank listed. -/
def putByte (a : Nat) (v : Byte) : Memory → Memory
  | [] => [(a, v)]
  | (j, b) :: rest =>
    if j = a then (a, v) :: rest else if a < j then (a, v) :: (j, b) :: rest else (j, b) :: putByte a v rest

/-- A memory with the byte at an address written; a byte that reads as an unlisted one is not listed. -/
def writeByte (m : Memory) (a : Nat) (v : Byte) : Memory :=
  if v = Memory.blank then dropByte a m else putByte a v m

/-- The `n` bytes from an address. -/
def readBytes (m : Memory) (a : Nat) : Nat → List Byte
  | 0 => []
  | n + 1 => readByte m a :: readBytes m (a + 1) n

/-- Bytes written from an address on. -/
def writeBytes (m : Memory) (a : Nat) : List Byte → Memory
  | [] => m
  | b :: rest => writeBytes (writeByte m a b) (a + 1) rest

/-- The number that bytes hold, little-endian. -/
def natOfBytes : List Byte → Nat
  | [] => 0
  | b :: rest => b.toNat + 256 * natOfBytes rest

/-- The `n` low bytes of a number, little-endian. -/
def bytesOfNat : Nat → Nat → List Byte
  | 0, _ => []
  | n + 1, v => BitVec.ofNat 8 v :: bytesOfNat n (v / 256)

/-- The number that `n` bytes from an address hold. -/
def readNat (m : Memory) (a n : Nat) : Nat := natOfBytes (readBytes m a n)

/-- The `n` low bytes of a number stored at an address. -/
def writeNat (m : Memory) (a n v : Nat) : Memory := writeBytes m a (bytesOfNat n v)

/-- The numbers from `a` up, `n` of them. -/
def upFrom (a : Nat) : Nat → List Nat
  | 0 => []
  | n + 1 => a :: upFrom (a + 1) n

/-- Element `n` of a list, with a default. -/
def nth {α : Type} (d : α) : List α → Nat → α
  | [], _ => d
  | a :: _, 0 => a
  | _ :: rest, n + 1 => nth d rest n

/-- A list with element `n` replaced. -/
def setNth {α : Type} (a : α) : List α → Nat → List α
  | [], _ => []
  | _ :: rest, 0 => a :: rest
  | b :: rest, n + 1 => b :: setNth a rest n

/-- The last `n` elements of a list. -/
def lastN {α : Type} (n : Nat) (l : List α) : List α := l.drop (l.length - n)

/-- Bits [lo + len - 1 : lo] of a number. -/
def bits (w lo len : Nat) : Nat := w / 2 ^ lo % 2 ^ len

/-- A bit of a number. -/
def bit (w n : Nat) : Bool := w / 2 ^ n % 2 == 1

/-- One for true. -/
def ofBool (b : Bool) : Nat := if b then 1 else 0

/-- The `n`-bit number as two's complement. -/
def signed (n v : Nat) : Int :=
  let u := v % 2 ^ n
  if u < 2 ^ (n - 1) then (u : Int) else (u : Int) - 2 ^ n

/-- The 64-bit word of an integer. -/
def wordOfInt (x : Int) : Word := BitVec.ofInt 64 x

/-- A word from a number. -/
def word (n : Nat) : Word := BitVec.ofNat 64 n

/-- A number with the field [lo + len - 1 : lo] replaced. -/
def setBits (w lo len v : Nat) : Nat :=
  w - 2 ^ lo * bits w lo len + 2 ^ lo * (v % 2 ^ len)

/-- CRC-32 of IEEE 802.3, reflected (16 R392). -/
def crc32Step : Nat → Nat → Nat
  | 0, c => c
  | k + 1, c => crc32Step k (if c % 2 = 1 then (c / 2) ^^^ 0xEDB88320 else c / 2)

/-- The register of the CRC after more bytes. -/
def crc32From (c : Nat) : List Byte → Nat
  | [] => c
  | b :: rest => crc32From (crc32Step 8 (c ^^^ b.toNat)) rest

/-- CRC-32 with initial value and final XOR 0xFFFF_FFFF (16 R392). -/
def crc32 (bs : List Byte) : Nat := crc32From 0xFFFFFFFF bs ^^^ 0xFFFFFFFF

/-- One byte of the CRC of 03 R88. -/
def crc16Step : Nat → Nat → Nat
  | 0, c => c
  | k + 1, c => crc16Step k (if c / 0x8000 % 2 = 1 then ((c * 2) ^^^ 0x1021) % 0x10000 else c * 2 % 0x10000)

/-- The register of the CRC after more bytes. -/
def crc16From (c : Nat) : List Byte → Nat
  | [] => c
  | b :: rest => crc16From (crc16Step 8 (c ^^^ (b.toNat * 256))) rest

/-- CRC-16 with polynomial 0x1021 and initial value 0xFFFF (03 R88). -/
def crc16 (bs : List Byte) : Nat := crc16From 0xFFFF bs

end Sys2Proof.Machine
end

