-- ==== Sys2Proof/Machine/Operands.lean ====
section
/-! DEFINITION. Register operands: scalar registers through the window of a lane thread (08 R209, R210), handles
(03 R94), predicates and vector registers under rotation (01 R42). -/

namespace Sys2Proof.Machine

/-- The ring positions of a lane thread under a split code: C − 32 with C of 04 R126. -/
def ringOf (split : Nat) : Nat := if split = 5 ∨ split = 6 then 32 else 96

/-- The split code in force on a lane core; 0 before any launch has set one (04 R126). -/
def LaneCore.code (k : LaneCore) : Nat := k.split.getD 0

/-- The physical register that a scalar name resolves to (08 R210). -/
def physReg (ring cur wbase n : Nat) : Nat :=
  if n = 0 then 0
  else if cur ≠ 0 ∧ 32 - cur ≤ n then 32 + (wbase + n - (32 - cur)) % ring
  else n

/-- The physical register of a name in a thread. -/
def Thread.phys (ring : Nat) (t : Thread) (n : BitVec 5) : Nat := physReg ring t.win.cur t.win.wbase n.toNat

/-- The value of a physical register; register 0 reads as zero. -/
def Thread.preg (t : Thread) (p : Nat) : Word := if p = 0 then 0 else mapGet 0 t.regs p

/-- A thread with a physical register written; a write to register 0 is discarded. -/
def Thread.setPreg (t : Thread) (p : Nat) (v : Word) : Thread :=
  if p = 0 then t else { t with regs := mapSet p v t.regs }

/-- The scalar register that a word names (08 R209, R210). -/
def Thread.reg (ring : Nat) (t : Thread) (n : BitVec 5) : Word := t.preg (t.phys ring n)

/-- A thread with the scalar register that a word names written. -/
def Thread.setReg (ring : Nat) (t : Thread) (n : BitVec 5) (v : Word) : Thread := t.setPreg (t.phys ring n) v

/-- A handle register (03 R94, 08 R220); it starts holding its own number. -/
def Thread.handle (t : Thread) (n : Nat) : Word := mapGet (word n) t.handles n

/-- A thread with a handle register written. -/
def Thread.setHandle (t : Thread) (n : Nat) (v : Word) : Thread := { t with handles := mapSet n v t.handles }

/-- The tile-table entry that a handle names: bits [11:0] (03 R94). -/
def Thread.entryOf (t : Thread) (n : Nat) : Nat := (t.handle n).toNat % 4096

/-- The physical vector register of a name (01 R42). -/
def rotV (base n : Nat) : Nat := if n < 32 then n else 32 + (n - 32 + base) % 32

/-- The physical predicate register of a name (01 R42). -/
def rotP (base n : Nat) : Nat := if n < 8 then n else 8 + (n - 8 + base) % 8

/-- Lane `l` of physical vector register `p`. -/
def ArrayCore.vlane (c : ArrayCore) (p l : Nat) : BitVec 32 := mapGet 0 c.vregs (128 * p + l)

/-- The elements of a physical predicate register. -/
def ArrayCore.pred (c : ArrayCore) (p : Nat) : BitVec 128 := mapGet 0 c.preds p

/-- The scalar field of a six-bit operand (07 R184). -/
def low5 (x : BitVec 6) : BitVec 5 := x.setWidth 5

end Sys2Proof.Machine
end

