-- ==== Sys2Proof/Machine/Home.lean ====
section
/-! DEFINITION. The home of memory: the bytes that it gives and takes (06 R160, R174), the holders of its lines (16 R397)
and the region entries of the directory slices (16 R399, R400). -/

namespace Sys2Proof.Machine

/-! ### Bytes -/

/-- The number of a 128-byte line (00 R3). -/
def lineOf (a : Nat) : Nat := a / 128

/-- The merge-buffer entries written that lie in the lines of a range (06 R174). -/
def flushMerge (s : State) (a n : Nat) : State :=
  let hit := s.merge.filter fun e => decide (lineOf a ≤ lineOf e.1) && decide (lineOf e.1 ≤ lineOf (a + n - 1))
  let keep := s.merge.filter fun e => !(decide (lineOf a ≤ lineOf e.1) && decide (lineOf e.1 ≤ lineOf (a + n - 1)))
  { s with merge := keep, mem := hit.foldl (fun m e => writeNat m e.1 e.2.1 e.2.2.toNat) s.mem }

/-- The lines of a range. -/
def linesOf (a n : Nat) : List Nat := if n = 0 then [] else upFrom (lineOf a) (lineOf (a + n - 1) - lineOf a + 1)

/-! ### Lines -/

/-- No holder, not busy. -/
def DirLine.blank : DirLine := { holders := [], stale := none, busy := none, queue := [], recalled := false }

/-- The directory entry of a line. -/
def State.dirLine (s : State) (line : Nat) : DirLine := mapGet DirLine.blank s.dir line

/-- The state with a directory entry replaced; an entry that says nothing is not kept. -/
def State.setDir (s : State) (line : Nat) (d : DirLine) : State :=
  if d = DirLine.blank then { s with dir := mapErase line s.dir } else { s with dir := mapSet line d s.dir }

/-- The slice of a line (16 R399). -/
def sliceOf (line : Nat) : Nat :=
  let a := line * 128
  bits a 12 5 ^^^ bits a 17 5 ^^^ bits a 22 5 ^^^ bits a 27 5 ^^^ bits a 32 5 ^^^ bits a 37 5

/-- A state from which a holder must answer a reader. -/
def LineSt.owns : LineSt → Bool
  | .M => true
  | .O => true
  | .E => true
  | .S => false

/-- What a holder keeps when another agent reads (16 R397). -/
def LineSt.shared : LineSt → LineSt
  | .M => .O
  | .O => .O
  | _ => .S

/-- A holder's bytes are newer than the home's. -/
def holdsNewer (hs : Map LineSt) : Bool := hs.any fun h => h.2 == LineSt.M || h.2 == LineSt.O

/-- No request is being served for a line or waits for it. -/
def DirLine.idle (d : DirLine) : Bool := d.busy.isNone && d.queue.isEmpty

/-! ### Lines of fenced ports (18 R437) -/

/-- Port `p`. -/
def State.port (s : State) (p : Nat) : Port := mapGet (Port.blank p) s.hub.ports p

/-- A port that the hub keeps fenced: refused at enumeration (16 R394), or in isolation until it runs again (18 R436,
R437). -/
def Port.isolated (x : Port) : Bool :=
  x.st == PortSt.fenced || x.st == PortSt.refused || (match x.iso with
    | .fencing => true
    | .cleaning => true
    | .resetting => true
    | .retraining => true
    | .out => true
    | .idle => false
    | .redispatching => false)

/-- One directory entry cleaned of a port (18 R437): a line held in M or O is poisoned at its home, whose bytes stand; a
line in E or S is dropped. -/
def cleanLine (p : Nat) (s : State) (e : Nat × DirLine) : State :=
  match mapGet? p e.2.holders with
  | none => s
  | some st =>
    let hs := mapErase p e.2.holders
    let dirty := st == LineSt.M || st == LineSt.O
    let s1 := s.setDir e.1 { e.2 with holders := hs, stale := if holdsNewer hs then e.2.stale else none }
    if dirty && !holdsNewer hs then
      let mem := match e.2.stale with
        | some bs => writeBytes s1.mem (128 * e.1) bs
        | none => s1.mem
      { s1 with mem := mem, poison := if s1.poison.contains e.1 then s1.poison else e.1 :: s1.poison }
    else s1

/-- One line cleaned of every fenced port. -/
def cleanFenced (s : State) (line : Nat) : State :=
  ((s.dirLine line).holders.filter fun h => (s.port h.1).isolated).foldl
    (fun s h => cleanLine h.1 s (line, s.dirLine line)) s

/-- The lines of a range cleaned of fenced ports before an agent that holds no line reads or writes them (18 R437): the
order of the clean-up is left open. -/
def cleanRange (s : State) (a n : Nat) : State :=
  ((s.dir.filter fun e => decide (lineOf a ≤ e.1) && decide (e.1 ≤ lineOf (a + n - 1))).map (·.1)).foldl cleanFenced s

/-! ### Bytes at their home -/

/-- The `n` bytes at a domain physical address as their home gives them; what a fenced port holds of their lines counts as
cleaned already (18 R437). -/
def peek (s : State) (a n : Nat) : List Byte := readBytes (flushMerge (cleanRange s a n) a n).mem a n

/-- The number at a domain physical address. -/
def peekNat (s : State) (a n : Nat) : Nat := natOfBytes (peek s a n)

/-- The reservations that a write ends: those of control harts that it shares a byte with (06 R169). -/
def dropReserves (s : State) (a n : Nat) : State :=
  { s with reserves := s.reserves.filter fun r => !(decide (r.2.1 < a + n) && decide (a < r.2.1 + r.2.2)) }

/-- Bytes written at a domain physical address at their home. -/
def poke (s : State) (a : Nat) (bs : List Byte) : State :=
  let s1 := dropReserves (flushMerge s a bs.length) a bs.length
  { s1 with mem := writeBytes s1.mem a bs }

/-! ### Regions (16 R400) -/

/-- The 4 KiB region of a line. -/
def regionOf (line : Nat) : Nat := line / 32

/-- The slice of a region. -/
def sliceOfRegion (r : Nat) : Nat := sliceOf (32 * r)

/-- The directory entries of a region's lines. -/
def regionLines (s : State) (r : Nat) : List (Nat × DirLine) := s.dir.filter fun e => regionOf e.1 == r

/-- The ports of a sharer vector. -/
def vectorPorts (v : BitVec 24) : List Nat := (upFrom 0 24).filter fun p => v.getLsbD p

/-- A port added to a sharer vector. -/
def withPort (v : BitVec 24) (p : Nat) : BitVec 24 := v ||| BitVec.ofNat 24 (2 ^ p)

/-- A port taken out of a sharer vector. -/
def withoutPort (v : BitVec 24) (p : Nat) : BitVec 24 := v &&& ~~~BitVec.ofNat 24 (2 ^ p)

/-- Line entries in use in a slice (16 R400): the held lines of its regions in line mode. -/
def lineEntries (s : State) (slice : Nat) : Nat :=
  (s.dir.filter fun e => sliceOf e.1 == slice && !e.2.holders.isEmpty && (match mapGet? (regionOf e.1) s.regions with
    | some r => r.line
    | none => false)).length

/-- A region after lines have been given up (16 R400): without an entry when no line is held; in region mode again when
every line is idle and one port at most shares them. -/
def tidyRegion (s : State) (r : Nat) : State :=
  match mapGet? r s.regions with
  | none => s
  | some e =>
    let lines := regionLines s r
    match (lines.flatMap fun d => d.2.holders.map (·.1)).eraseDups with
    | [] => { s with regions := mapErase r s.regions }
    | [p] =>
      if e.line && lines.all fun d => d.2.idle then
        let owned := lines.any fun d => d.2.holders.any fun h => h.2.owns
        { s with regions :=
            mapSet r { vector := withPort 0 p, owner := if owned then some p else none, line := false } s.regions }
      else s
    | _ => s

/-- Every held line of a region recalled, its entry gone (16 R400): M and O are written back, the rest dropped; a line that
is being served is recalled after its queue (16 R408). -/
def evictRegion (s : State) (r : Nat) : State :=
  { s with
    regions := mapErase r s.regions
    dir := s.dir.filterMap fun e =>
      if regionOf e.1 ≠ r then some e
      else if e.2.idle then none
      else some (e.1, { e.2 with recalled := true }) }

/-- Room for one more region entry in the slice of a region: one of its 131,072 is evicted when all are taken; which one
is left open (16 R400). -/
def makeRoom (s : State) (r : Nat) : State :=
  let mine := s.regions.filter fun e => sliceOfRegion e.1 == sliceOfRegion r
  if mine.length < 131072 then s
  else
    let victim := nth (0, { vector := 0, owner := none, line := false }) mine
      ((Config.freeWord s.free).toNat % mine.length)
    evictRegion { s with free := s.free + 1 } victim.1

/-- A port that has taken a line recorded in its region's entry (16 R400): an owner together with any other sharer makes
it line mode, while line entries are free. -/
def recordPort (s : State) (line p : Nat) (st : LineSt) : State :=
  let r := regionOf line
  match mapGet? r s.regions with
  | none =>
    let s1 := makeRoom s r
    { s1 with regions := mapSet r { vector := withPort 0 p, owner := if st.owns then some p else none, line := false }
                          s1.regions }
  | some e =>
    let owner := if st.owns then some p else e.owner
    let v := withPort e.vector p
    let keep := { s with regions := mapSet r { vector := v, owner := owner, line := e.line } s.regions }
    let full := { s with regions := mapSet r { vector := v, owner := owner, line := false } s.regions,
                         hub := { s.hub with lfull := true } }
    if e.line then (if lineEntries s (sliceOf line) ≤ 65536 then keep else full)
    else if owner.isNone || v == withPort 0 p then keep
    else if lineEntries s (sliceOf line) + (regionLines s r).length ≤ 65536 then
      { s with regions := mapSet r { vector := v, owner := none, line := true } s.regions }
    else full

/-- A port alone holds lines of a region, as far as its slice knows: it may take a line in E (16 R400, R402). -/
def aloneIn (s : State) (line p : Nat) : Bool :=
  match mapGet? (regionOf line) s.regions with
  | none => true
  | some e => !e.line && withPort e.vector p == withPort 0 p

/-- The ports that a request must probe (16 R400): those whose holding of the line it changes, and in region mode for a
write every port of the vector, for a read the owner. -/
def probed (s : State) (line p : Nat) (write : Bool) : List Nat :=
  let held := ((s.dirLine line).holders.filter fun h => write || h.2.owns).map (·.1)
  let named := match mapGet? (regionOf line) s.regions with
    | none => []
    | some e => if e.line then [] else if write then vectorPorts e.vector else e.owner.toList
  (held ++ named).eraseDups.filter fun q => q != p

/-! ### Accesses by agents that hold no line (16 R397, R399) -/

/-- A line in the range is being served (16 R401). -/
def busyRange (s : State) (a n : Nat) : Bool :=
  s.dir.any fun e => e.2.busy.isSome && decide (lineOf a ≤ e.1) && decide (e.1 ≤ lineOf (a + n - 1))

/-- Every other copy of the lines of a range dropped (16 R397). -/
def dropCopies (s0 : State) (a n : Nat) : State :=
  let s := cleanRange s0 a n
  let dir := s.dir.filterMap fun e =>
    if lineOf a ≤ e.1 ∧ e.1 ≤ lineOf (a + n - 1) then
      (if e.2.idle then none else some (e.1, { e.2 with holders := [], stale := none }))
    else some e
  let s1 := { s with dir := dir }
  ((s.dir.filter fun e => decide (lineOf a ≤ e.1) && decide (e.1 ≤ lineOf (a + n - 1))).map
    fun e => regionOf e.1).eraseDups.foldl tidyRegion s1

/-- Owners of the lines of a range read by an agent that holds no line (16 R397). -/
def readCopies (s0 : State) (a n : Nat) : State :=
  let s := cleanRange s0 a n
  { s with dir := s.dir.map fun e =>
      if lineOf a ≤ e.1 ∧ e.1 ≤ lineOf (a + n - 1) then
        (e.1, { e.2 with holders := mapAll (fun _ x => x.shared) e.2.holders })
      else e }

/-- Bytes written by an agent that holds no line: the hub, a copy engine, a peer (16 R397, R399). -/
def writeHome (s : State) (a : Nat) (bs : List Byte) : State := poke (dropCopies s a bs.length) a bs

/-- A request that joins the list of a line that is being served (16 R401). -/
def joinQueue (s : State) (line id : Nat) : State :=
  let d := s.dirLine line
  let q := d.queue ++ [id]
  { s with hub := { s.hub with qmax := min 65535 (max s.hub.qmax q.length) } }.setDir line { d with queue := q }

/-- A request that is no access in flight joins the list of a line (16 R401). -/
def joinSlice (s : State) (line : Nat) (r : SliceReq) : State :=
  joinQueue { s with sliceReqs := mapSet s.nextId r s.sliceReqs, nextId := s.nextId + 1 } line s.nextId

/-- The part of a write that lies in one line: made at its home, or in the list of a line that is being served. -/
def hubWriteLine (a : Nat) (bs : List Byte) (s : State) (line : Nat) : State :=
  let lo := max a (128 * line)
  let part := (bs.drop (lo - a)).take (128 * (line + 1) - lo)
  if (s.dirLine line).busy.isSome then joinSlice s line (.hub lo part) else writeHome s lo part

/-- A range of this module's addresses meets the spill area while it is locked: a reserved range (16 R402, R408). -/
def meetsSpill (s : State) (a n : Nat) : Bool :=
  s.hub.spillLock && decide (a % 2 ^ 42 < (s.hub.spillBase + 1) * 2 ^ 25) && decide (s.hub.spillBase * 2 ^ 25 < a % 2 ^ 42 + n)

/-- Bytes that the hub writes: behind the requests that have come before for a line that is being served (16 R399, R401), and
not into the locked spill area (R408). -/
def hubWrite (s : State) (a : Nat) (bs : List Byte) : State :=
  if meetsSpill s a bs.length then s
  else if busyRange s a bs.length then (linesOf a bs.length).foldl (hubWriteLine a bs) s else writeHome s a bs

end Sys2Proof.Machine
end

