-- ==== Sys2Proof/Machine/Ops.lean ====
section
/-! DEFINITION. The named operations that meanings share: cores and their parts, issue groups, the path of an array
task, fault records, taking an exception and returning from one (12 R340 to R343), and running a scalar word. -/

namespace Sys2Proof.Machine

/-- What a step answers. -/
abbrev Answer := Host.Outcome State Fault Refusal

/-! ### Cores -/

/-- Lane core `c`. -/
def State.lane (s : State) (c : Nat) : LaneCore := mapGet LaneCore.blank s.lanes c

/-- The state with lane core `c` replaced. -/
def State.setLane (s : State) (c : Nat) (x : LaneCore) : State := { s with lanes := mapSet c x s.lanes }

/-- Array core `c`. -/
def State.array (s : State) (c : Nat) : ArrayCore := mapGet ArrayCore.blank s.arrays c

/-- The state with array core `c` replaced. -/
def State.setArray (s : State) (c : Nat) (x : ArrayCore) : State := { s with arrays := mapSet c x s.arrays }

/-- The state with the hub changed. -/
def State.onHub (s : State) (f : Hub → Hub) : State := { s with hub := f s.hub }

/-- The state with port `p` replaced. -/
def State.setPort (s : State) (p : Nat) (x : Port) : State :=
  s.onHub fun h => { h with ports := mapSet p x h.ports }

/-- The port of the chiplet that holds a core (00 R1, R2). -/
def portOfCore : CoreKind → Nat → Nat
  | .array, c => 6 + c / 16
  | .lane, c => 2 + c / 48

/-- A thread may join an issue group: it is neither waiting, ended nor stopped (01 R20, 12 R343). -/
def Thread.canIssue (t : Thread) : Bool := t.run == Run.ready && !t.frozen

/-- The lanes of the issue group of the thread in a lane, lowest first (01 R20). -/
def groupOf (w : Warp) (lane : Nat) : List Nat :=
  match mapGet? lane w.threads with
  | none => []
  | some t =>
    if t.canIssue then
      (w.threads.filter fun x => x.2.canIssue && x.2.pc == t.pc).map (·.1)
    else []

/-- The warp in a slot, its workgroup and the issue group of a lane, when the warp runs. -/
def runningGroup (s : State) (c slot lane : Nat) : Option (LaneCore × Warp × Workgroup × List Nat) :=
  let k := s.lane c
  match mapGet? slot k.warps with
  | none => none
  | some w =>
    match mapGet? w.wg k.wgs, groupOf w lane with
    | some g, a :: l => if w.stop.isNone && w.pend.isNone && !k.saving then some (k, w, g, a :: l) else none
    | _, _ => none

/-- A cursor of a task. -/
def Cursors.get (x : Cursors) : Cursor → CursorSt
  | .S => x.s
  | .V => x.v
  | .M => x.m
  | .D => x.d
  | .Q => x.q
  | .Y => x.y

/-- The cursors with one replaced. -/
def Cursors.set (x : Cursors) (c : Cursor) (y : CursorSt) : Cursors :=
  match c with
  | .S => { x with s := y }
  | .V => { x with v := y }
  | .M => { x with m := y }
  | .D => { x with d := y }
  | .Q => { x with q := y }
  | .Y => { x with y := y }

/-- Every cursor changed. -/
def Cursors.all (x : Cursors) (f : CursorSt → CursorSt) : Cursors :=
  { s := f x.s, v := f x.v, m := f x.m, d := f x.d, q := f x.q, y := f x.y }

/-- The six cursors in the order of 18 R423. -/
def Cursors.list (x : Cursors) : List CursorSt := [x.s, x.v, x.m, x.d, x.q, x.y]

/-- The smallest step count of the cursors. -/
def Cursors.least (x : Cursors) : Nat := x.list.foldl (fun n c => min n c.step) x.s.step

/-- The task of an array core when its cursor `cur` may execute. -/
def runningTask (s : State) (c : Nat) (cur : Cursor) : Option (ArrayCore × Task) :=
  let k := s.array c
  match k.task with
  | none => none
  | some t =>
    if t.stop.isNone && t.pend.isNone && !t.ended && !k.saving && !(t.cursors.get cur).halted then some (k, t) else none

/-- The marks in force after one more word has been passed (09 R258). -/
def ageMarks (ms : List Mark) : List Mark :=
  (ms.filter fun m => decide (1 < m.left)).map fun m => { m with left := m.left - 1 }

/-- The task with entries of the path dropped that every cursor has passed. -/
def Task.trimPath (t : Task) : Task :=
  let n := t.cursors.least
  { t with path := t.path.filter fun e => decide (n ≤ e.step) }

/-- The task after its cursor has passed the word where it stands, continuing at `next` (01 R34). -/
def Task.pass (t : Task) (cur : Cursor) (next : Word) : Task :=
  let x := t.cursors.get cur
  let y := { x with pc := next, step := x.step + 1, marks := ageMarks x.marks }
  ({ t with cursors := t.cursors.set cur y } : Task).trimPath

/-- The iteration state of the levels as an outcome carries it (01 R36, 09 R254). -/
def itersOf (ls : List Level) : List Iter :=
  ls.map fun l => { active := l.active, trip := if l.active then l.trip else 0, iter := if l.active then l.iter else 0 }

/-- The outcomes freed that every other cursor has taken (01 R37). -/
def Task.freeOutcomes (t : Task) : Task :=
  let c := t.cursors
  let n := min c.v.taken (min c.m.taken (min c.d.taken (min c.q.taken c.y.taken)))
  { t with outq := t.outq.drop (n - t.outBase), outBase := max t.outBase n }

/-- The S cursor evaluates a branch word: one outcome is appended and the cursor continues at its address
(01 R36). -/
def Task.branch (t : Task) (base : Nat) (addr : Word) : Task :=
  let o : OutcomeRec := { addr := addr, iters := itersOf t.levels, base := base }
  let t1 := t.pass .S addr
  let x := { t1.cursors.s with taken := t1.cursors.s.taken + 1, iters := o.iters, base := base }
  { t1 with outq := t1.outq ++ [o], cursors := { t1.cursors with s := x } }

/-- A cursor other than S takes the oldest outcome it has not taken and continues at its address (01 R36). -/
def Task.take (t : Task) (cur : Cursor) : Task :=
  let x := t.cursors.get cur
  match t.outq.drop (x.taken - t.outBase) with
  | [] => t
  | o :: _ =>
    let t1 := t.pass cur o.addr
    let y := { t1.cursors.get cur with taken := x.taken + 1, iters := o.iters, base := o.base }
    ({ t1 with cursors := t1.cursors.set cur y } : Task).freeOutcomes

/-! ### Fault records (18 R423 to R425) -/

/-- The cause codes of 07 R199. -/
def causeCode : Cause → Nat
  | .illegalInstruction => 0x01
  | .illegalOperand => 0x02
  | .engineAbsent => 0x03
  | .fetchBound => 0x04
  | .privilege => 0x05
  | .alignment => 0x06
  | .loopStructure => 0x07
  | .trap => 0x08
  | .svc => 0x09
  | .brk => 0x0A
  | .cancel => 0x0B
  | .maskDeadlock => 0x0C
  | .nonCanonical => 0x10
  | .translation => 0x11
  | .permission => 0x12
  | .addressRange => 0x13
  | .peerUnreachable => 0x14
  | .windowAccess => 0x15
  | .windowBusy => 0x16
  | .localOnly => 0x17
  | .scratchBound => 0x18
  | .copyRange => 0x19
  | .spillOverflow => 0x1A
  | .remoteFailed => 0x1B
  | .reductionDropped => 0x1C
  | .headerIntegrity => 0x20
  | .unsupportedCombination => 0x21
  | .headerMismatch => 0x22
  | .slotRejection => 0x23
  | .tornTile => 0x24
  | .tileEmpty => 0x25
  | .handleRange => 0x26
  | .tileCapacity => 0x27
  | .queueUnbound => 0x28
  | .queueDirection => 0x29
  | .queueStopped => 0x2A
  | .queueLink => 0x2B
  | .chipletIsolated => 0x30

/-- What a fault record says (18 R423). -/
structure Report where
  cause : Cause
  cls : Nat
  world : Nat
  jobLevel : Bool
  more : Bool
  kind : Nat
  core : Nat
  launch : Nat
  job : Nat
  unit : Nat
  slot : Nat
  lane : Nat
  code : Nat
  addr : Nat
  pc : Nat
  cursor : Nat
  cpos : List Nat
  step : Nat
  deriving DecidableEq, Repr

/-- The bytes of a fault record (18 R423). -/
def Report.bytes (r : Report) (seq time : Nat) : List Byte :=
  let body :=
    bytesOfNat 8 seq ++ bytesOfNat 8 (time / 65536) ++ bytesOfNat 2 (time % 65536) ++ bytesOfNat 1 (causeCode r.cause)
      ++ bytesOfNat 1 r.cls ++ bytesOfNat 1 (r.world % 16 + 16 * ofBool r.jobLevel + 32 * ofBool r.more)
      ++ bytesOfNat 1 r.kind ++ bytesOfNat 2 r.core ++ bytesOfNat 4 r.launch ++ bytesOfNat 4 r.job
      ++ bytesOfNat 4 r.unit ++ bytesOfNat 1 r.slot ++ bytesOfNat 1 r.lane ++ bytesOfNat 2 r.code
      ++ bytesOfNat 8 r.addr ++ bytesOfNat 8 r.pc ++ bytesOfNat 1 r.cursor ++ bytesOfNat 7 0
      ++ (upFrom 0 6).flatMap (fun n => bytesOfNat 8 (nth 0 r.cpos n)) ++ bytesOfNat 8 r.step ++ bytesOfNat 4 0
  body ++ bytesOfNat 4 (crc32 body)

/-- A fault log at reset (18 R425). -/
def FaultLog.blank : FaultLog := { base := 0, size := 10, en := false, head := 1, ack := 0, lost := 0, aflog := 0 }

/-- The fault log of a world. -/
def State.flog (s : State) (w : Nat) : FaultLog := mapGet FaultLog.blank s.hub.flogs w

/-- The state with the fault log of a world replaced. -/
def State.setFlog (s : State) (w : Nat) (l : FaultLog) : State :=
  s.onHub fun h => { h with flogs := mapSet w l h.flogs }

/-- The domain physical address of a local address of this module (04 R113). -/
def State.home (s : State) (l : Nat) : Nat := s.module * 2 ^ 42 + l

/-- One record in the world's fault log, or one more count in FLOG_LOST (18 R425). -/
def writeReport (s : State) (r : Report) : State :=
  let l := s.flog r.world
  if !l.en || decide (2 ^ l.size < l.head - l.ack) then s.setFlog r.world { l with lost := min (l.lost + 1) (2 ^ 64 - 1) }
  else
    let a := s.home (l.base + 128 * (l.head % 2 ^ l.size))
    (hubWrite s a (r.bytes l.head s.time)).setFlog r.world { l with head := l.head + 1 }

/-- The launches with one changed. -/
def onLaunch (ls : List Launch) (w job num : Nat) (f : Launch → Launch) : List Launch :=
  ls.map fun l => if l.world = w ∧ l.job = job ∧ l.num = num then f l else l

/-- The state with a launch changed. -/
def State.onLaunch (s : State) (w job num : Nat) (f : Launch → Launch) : State :=
  s.onHub fun h => { h with launches := Machine.onLaunch h.launches w job num f }

/-- The state with a job changed. -/
def State.onJob (s : State) (w job : Nat) (f : Job → Job) : State :=
  s.onHub fun h => { h with jobs := h.jobs.map fun j => if j.world = w ∧ j.num = job then f j else j }

/-- A unit of the launch counts as faulted, once (01 R48, 17 R415, R419). -/
def Launch.fault (l : Launch) (unit : Nat) : Launch :=
  { l with err := true, faulted := if l.faulted.contains unit then l.faulted else unit :: l.faulted }

/-- The record written, with the status that its class sets (18 R424): classes 0 to 3 the launch's, whose unit counts
as faulted, class 4 the job's. -/
def report (s : State) (r : Report) : State :=
  let s1 := writeReport s r
  if r.cls ≤ 3 then s1.onLaunch r.world r.job r.launch fun l => l.fault r.unit
  else if r.cls = 4 then s1.onJob r.world r.job fun j => { j with err := true }
  else s1

/-- The report of a unit, with the places of its task filled in. -/
def unitReport (i : UnitInfo) (kind : CoreKind) (core idx slot lane : Nat) (cause : Cause) (cls code addr pc : Nat) :
    Report :=
  { cause := cause, cls := cls, world := i.world, jobLevel := false, more := false,
    kind := (match kind with | .array => 0 | .lane => 1), core := core, launch := i.launch, job := i.job, unit := idx,
    slot := slot, lane := lane, code := code, addr := addr, pc := pc, cursor := 0xFF, cpos := [], step := 0 }

/-! ### Taking an exception and returning (12 R340 to R343; 01 R57) -/

/-- The class of a stop: a trap word, a double fault, or a precise fault (12 R341, 18 R423). -/
def stopClass (cause : Cause) (inHandler : Bool) : Nat :=
  match cause with
  | .trap | .svc | .brk => 1
  | _ => if inHandler then 2 else 0

/-- The thread enters its handler: cause, value and resume address saved, IN set, the pc at EVEC (12 R341). -/
def Thread.enter (t : Thread) (cause : Cause) (value resume : Word) : Thread :=
  { t with estatCause := BitVec.ofNat 8 (causeCode cause), eval := value, epc := resume, inHandler := true,
           pc := t.evec }

/-- Where a handler may be entered (12 R341): a privileged unit, EVEC not zero, no handler running. -/
def mayEnter (priv : Bool) (t : Thread) : Bool := priv && t.evec != 0 && !t.inHandler

/-- One fault of a lane: the lane, the cause, the code or address that EVAL takes, the trap code of the record and
the address of the record. -/
structure LaneFault where
  lane : Nat
  cause : Cause
  value : Word
  code : Nat
  addr : Nat
  deriving DecidableEq, Repr

/-- The warp with every thread but one stopped at its boundary (12 R343). -/
def freezeOthers (w : Warp) (lane : Nat) : Warp :=
  { w with threads := mapAll (fun l t => if l = lane then t else { t with frozen := true }) w.threads }

/-- Every other thread released (12 R343). -/
def thawOthers (w : Warp) : Warp :=
  { w with threads := mapAll (fun _ t => { t with frozen := false }) w.threads }

/-- The records of a warp's stop, in ascending lane order, MORE on all but the last (18 R424). -/
def reportLanes (s : State) (i : UnitInfo) (core idx slot cls : Nat) (pc : Word) : List LaneFault → State
  | [] => s
  | [f] =>
    report s (unitReport i .lane core idx slot f.lane f.cause cls f.code f.addr pc.toNat)
  | f :: rest =>
    reportLanes
      (report s { unitReport i .lane core idx slot f.lane f.cause cls f.code f.addr pc.toNat with more := true })
      i core idx slot cls pc rest

/-- The causes that name an address, which every faulting thread of a group reports (04 R122; 08 R223). -/
def isAddressCause : Cause → Bool
  | .alignment => true
  | .nonCanonical => true
  | .translation => true
  | .permission => true
  | .addressRange => true
  | .peerUnreachable => true
  | .windowAccess => true
  | .windowBusy => true
  | .localOnly => true
  | .scratchBound => true
  | _ => false

/-- The faults that a warp's stop records: every address fault of the group, or the one of its lowest lane. -/
def recorded : List LaneFault → List LaneFault
  | [] => []
  | f :: rest => if isAddressCause f.cause then f :: rest.filter fun g => isAddressCause g.cause else [f]

/-- A warp takes the exceptions of an issue group (01 R57; 12 R340, R341, R343): the lowest faulting lane enters the
handler, or the warp stops and its records are written. `pc` is the word's address and `resume` the address at which
the group goes on. -/
def laneException (s : State) (c slot : Nat) (group : List Nat) (pc resume : Word) (faults : List LaneFault) : State :=
  let k := s.lane c
  match mapGet? slot k.warps, faults with
  | some w, f :: _ =>
    match mapGet? w.wg k.wgs, mapGet? f.lane w.threads with
    | some g, some t =>
      if mayEnter g.info.priv t then
        let w1 := { w with threads := mapSet f.lane (t.enter f.cause f.value resume) w.threads }
        s.setLane c { k with warps := mapSet slot (freezeOthers w1 f.lane) k.warps }
      else
        let cls := stopClass f.cause t.inHandler
        let stop : Stop := { cause := f.cause, cls := cls, code := BitVec.ofNat 16 f.code, pc := pc, lanes := group }
        let s1 := s.setLane c { k with warps := mapSet slot { w with stop := some stop } k.warps }
        reportLanes s1 g.info c w.idx.toNat slot cls pc (recorded faults)
    | _, _ => s
  | _, _ => s

/-- The number of a cursor in a fault record (18 R423). -/
def cursorNo : Cursor → Nat
  | .S => 0
  | .V => 1
  | .M => 2
  | .D => 3
  | .Q => 4
  | .Y => 5

/-- A cursor at the start of a path. -/
def CursorSt.at (pc : Word) (base : Nat) (iters : List Iter) : CursorSt :=
  { pc := pc, step := 0, halted := false, taken := 0, iters := iters, base := base, marks := [] }

/-- Six cursors at one address. -/
def Cursors.at (pc : Word) (base : Nat) (iters : List Iter) : Cursors :=
  let x := CursorSt.at pc base iters
  { s := x, v := x, m := x, d := x, q := x, y := x }

/-- A level that is not active and has no slots. -/
def Level.blank : Level := { active := false, trip := 0, iter := 0, rotate := false, start := 0, stop := 0, slots := [] }

/-- The level cleared; its stride slots stay (09 R257). -/
def Level.close (l : Level) : Level := { l with active := false, trip := 0, iter := 0 }

/-- The rotating base in force where a cursor stands. -/
def Task.baseAt (t : Task) (cur : Cursor) : Nat := (t.cursors.get cur).base

/-- The resume address of a task's exception: the S cursor's (12 R341). The word of the Y cursor that traps has been
passed; a faulting word has not. -/
def Task.resume (t : Task) : Word := t.cursors.s.pc

/-- An array task takes an exception raised at a cursor (01 R57; 12 R340, R341): it enters its handler with the stop
point held, its loop levels closed and its stride registers in force (log entry 106), or stops with its record written. -/
def arrayException (s : State) (c : Nat) (cur : Cursor) (cause : Cause) (value : Word) (code addr : Nat) (pc : Word) :
    State :=
  let k := s.array c
  match k.task with
  | none => s
  | some t =>
    if mayEnter t.info.priv k.th then
      let h : HeldPoint :=
        { cursors := t.cursors, outq := t.outq, outBase := t.outBase, path := t.path, levels := t.levels,
          replay := t.replay, limits := t.limits }
      let ls := t.levels.map Level.close
      let t1 := { t with cursors := Cursors.at k.th.evec (t.baseAt .S) (itersOf ls), outq := [], outBase := 0, path := [],
                         levels := ls, replay := [], limits := [], held := some h }
      s.setArray c { k with task := some t1, th := k.th.enter cause value t.resume }
    else
      let cls := stopClass cause k.th.inHandler
      let stop : Stop := { cause := cause, cls := cls, code := BitVec.ofNat 16 code, pc := pc, lanes := [] }
      let r := { unitReport t.info .array c t.idx.toNat 0xFF 0xFF cause cls code addr pc.toNat with
                   cursor := cursorNo cur, cpos := t.cursors.list.map (fun x => x.pc.toNat),
                   step := (t.cursors.get cur).step }
      report (s.setArray c { k with task := some { t with stop := some stop } }) r

/-- Return from a handler of a lane thread (12 R342, R343): the thread goes on at EPC, IN is cleared and the other
threads of the warp are released. -/
def laneReturn (w : Warp) (lane : Nat) : Warp :=
  thawOthers { w with threads := mapUpdate lane (fun t => { t with pc := t.epc, inHandler := false }) w.threads }

/-- Return from a handler of an array task (12 R342): the held stop point is resumed, with EPC in place of the S
cursor's resume address; the handler's outcomes are discarded. -/
def arrayReturn (k : ArrayCore) (t : Task) : ArrayCore :=
  match t.held with
  | none => k
  | some h =>
    let cs := { h.cursors with s := { h.cursors.s with pc := k.th.epc } }
    let t1 := { t with cursors := cs, outq := h.outq, outBase := h.outBase, path := h.path, levels := h.levels,
                       replay := h.replay, limits := h.limits, held := none }
    { k with task := some t1, th := { k.th with inHandler := false } }

/-- An error that an engine reports after issue (01 R57, 18 R424): a class 3 record and the error status of the
launch; the unit does not stop. -/
def deferred (s : State) (i : UnitInfo) (kind : CoreKind) (core idx slot : Nat) (cause : Cause) (code addr pc cursor : Nat) :
    State :=
  report s { unitReport i kind core idx slot 0xFF cause 3 code addr pc with cursor := cursor }

/-- The first active level whose body does not hold an address. -/
def leftLevel (target : Nat) : List Level → Option Nat
  | [] => none
  | l :: rest =>
    if l.active && (decide (target < l.start.toNat) || decide (l.stop.toNat < target)) then some 0
    else (leftLevel target rest).map (· + 1)

/-- Levels `k` and deeper made inactive (09 R259). -/
def closeFrom (k : Nat) (ls : List Level) : List Level := ls.take k ++ (ls.drop k).map Level.close

/-- The levels after a taken branch or jump: a level that the target leaves, and every level inside it, becomes
inactive (09 R259). -/
def Task.leave (t : Task) (target : Option Word) : Task :=
  match target with
  | none => t
  | some x =>
    match leftLevel x.toNat t.levels with
    | none => t
    | some k => { t with levels := closeFrom k t.levels }

/-! ### Running a word -/

/-- What a word sees of the unit that runs it. -/
structure Ctx where
  isArray : Bool
  core : Nat
  slot : Nat
  lane : Nat
  ring : Nat
  info : UnitInfo
  base : Nat
  /-- The predicate registers of an array task. -/
  apreds : Map (BitVec 128)
  deriving DecidableEq, Repr

/-- What a word sees of a lane thread. -/
def laneCtx (k : LaneCore) (c slot lane : Nat) (g : Workgroup) : Ctx :=
  { isArray := false, core := c, slot := slot, lane := lane, ring := ringOf k.code, info := g.info, base := 0, apreds := [] }

/-- What a word sees of an array task at a cursor. -/
def taskCtx (k : ArrayCore) (c : Nat) (t : Task) (cur : Cursor) : Ctx :=
  { isArray := true, core := c, slot := 0xFF, lane := 0xFF, ring := 96, info := t.info, base := t.baseAt cur,
    apreds := k.preds }

/-- How a word ends for one thread. -/
inductive ThreadOut where
  /-- The thread after the word, which continues at the next word or at a target. -/
  | done (t : Thread) (target : Option Word)
  /-- The word does not issue: a precise fault, with the address of an address fault or 0. -/
  | fault (c : Cause) (addr : Word)
  /-- The word does not issue yet. -/
  | wait
  deriving DecidableEq, Repr

/-- The threads of a group run a word one by one: the warp with the results, the faults, and whether some thread
waits. -/
def runLanes (f : Ctx → Thread → ThreadOut) (x : Ctx) (w : Warp) : List Nat → Warp × List LaneFault × Bool
  | [] => (w, [], false)
  | l :: rest =>
    match mapGet? l w.threads with
    | none => runLanes f x w rest
    | some t =>
      match f { x with lane := l } t with
      | .done t1 target =>
        let t2 := { t1 with pc := target.getD (t.pc + 4) }
        runLanes f x { w with threads := mapSet l t2 w.threads } rest
      | .fault c a =>
        let (w1, fs, b) := runLanes f x w rest
        (w1, { lane := l, cause := c, value := a, code := 0, addr := a.toNat } :: fs, b)
      | .wait => let (w1, fs, _) := runLanes f x w rest; (w1, fs, true)

/-- The address of the word that a group stands at. -/
def groupPc (w : Warp) (group : List Nat) : Word :=
  match group with
  | [] => 0
  | l :: _ => ((mapGet? l w.threads).map (·.pc)).getD 0

/-- A word that each thread runs on its own registers, or the task's cursor `cur` on the task's (01 R20, R34). When
one thread of a group faults, none completes (04 R122, 01 R57). `branch` marks a branch word, which appends an
outcome on an array core (01 R36). -/
def scalarWord (s : State) (cur : Cursor) (branch : Bool) (f : Ctx → Thread → ThreadOut) : Answer :=
  match s.sel with
  | .lane c slot lane =>
    match runningGroup s c slot lane with
    | none => .fault .noUnit
    | some (k, w, g, group) =>
      match runLanes f (laneCtx k c slot lane g) w group with
      | (_, f :: fs, _) => let pc := groupPc w group; .next (laneException s c slot group pc pc (f :: fs))
      | (_, [], true) => .next s
      | (w1, [], false) => .next (s.setLane c { k with warps := mapSet slot w1 k.warps })
  | .array c cur' =>
    if cur' = cur then
      match runningTask s c cur with
      | none => .fault .noUnit
      | some (k, t) =>
        let pc := (t.cursors.get cur).pc
        match f (taskCtx k c t cur) { k.th with pc := pc } with
        | .done th target =>
          let next := target.getD (pc + 4)
          let t1 := if branch then (t.leave target).branch (t.baseAt cur) next else t.pass cur next
          .next (s.setArray c { k with th := { th with pc := k.th.pc }, task := some t1 })
        | .fault cause a => .next (arrayException s c cur cause a 0 a.toNat pc)
        | .wait => .next s
    else .fault .noUnit

/-- A scalar word that writes s[d] and goes on (08 R209): the value is computed from the thread. -/
def writesReg (s : State) (d : BitVec 5) (v : Ctx → Thread → Word) : Answer :=
  scalarWord s .S false fun x t => .done (t.setReg x.ring d (v x t)) none

end Sys2Proof.Machine
end

