-- ==== Sys2Proof/Machine/Trace.lean ====
section
/-! DEFINITION. Trace buffers (22 R491 to R495): records on their way to a buffer, and how they are written there. -/

namespace Sys2Proof.Machine

/-- A trace buffer at reset (22 R491). -/
def TraceBuf.blank : TraceBuf :=
  { base := 0, classes := 0xFF, en := false, headSeq := 1, headOff := 0, tailSeq := 1, tailOff := 0, lost := 0,
    drop := 0, hold := false, waiting := [], phase := 0 }

/-- The trace buffer of a port, or of the hub at 24. -/
def State.traceBuf (s : State) (i : Nat) : TraceBuf := mapGet TraceBuf.blank s.hub.trace i

/-- The state with a trace buffer replaced. -/
def State.setTrace (s : State) (i : Nat) (b : TraceBuf) : State :=
  s.onHub fun h => { h with trace := mapSet i b h.trace }

/-- The number after a record number: 0 is skipped (22 R494). -/
def nextSeq (n : Nat) : Nat := if n + 1 = 2 ^ 32 then 1 else n + 1

/-- Records lost, and counted (22 R494). -/
def TraceBuf.lose (b : TraceBuf) (n : Nat) : TraceBuf :=
  { b with lost := min (b.lost + n) (2 ^ 32 - 1), drop := b.drop + n }

/-- A full buffer loses its oldest record to the next one (22 R494). -/
def TraceBuf.makeRoom (b : TraceBuf) : TraceBuf :=
  if b.headSeq != b.tailSeq && b.headOff == b.tailOff then
    { b.lose 1 with tailSeq := nextSeq b.tailSeq, tailOff := (b.tailOff + 32) % 2 ^ 24 }
  else b

/-- The bytes of a record other than SEQ, before it and after it (22 R492). -/
def TraceRec.bytes (r : TraceRec) (drop module : Nat) : List Byte × List Byte :=
  (bytesOfNat 8 (r.time / 65536) ++ bytesOfNat 2 (r.time % 65536) ++ bytesOfNat 1 r.event
    ++ bytesOfNat 1 (r.world % 16 + 16 * ofBool r.unlocked),
   bytesOfNat 2 drop ++ bytesOfNat 2 module ++ bytesOfNat 2 r.core ++ bytesOfNat 2 r.aux ++ bytesOfNat 8 r.arg)

/-- The next part of the oldest waiting record is written: SEQ zero, then its other bytes, then SEQ (22 R494). -/
def traceStep (s : State) (buf : Nat) : State :=
  let b := s.traceBuf buf
  match b.waiting with
  | [] => s
  | r :: rest =>
    let a := s.home (b.base + b.headOff)
    if b.phase = 0 then (hubWrite s (a + 12) (bytesOfNat 4 0)).setTrace buf { b.makeRoom with phase := 1 }
    else if b.phase = 1 then
      let bs := r.bytes b.drop s.module
      (hubWrite (hubWrite s a bs.1) (a + 16) bs.2).setTrace buf { b with phase := 2 }
    else
      (hubWrite s (a + 12) (bytesOfNat 4 b.headSeq)).setTrace buf
        { b with headSeq := nextSeq b.headSeq, headOff := (b.headOff + 32) % 2 ^ 24, waiting := rest, phase := 0 }

/-- So many parts of waiting records written. -/
def traceSteps : Nat → Nat → State → State
  | 0, _, s => s
  | n + 1, buf, s => traceSteps n buf (traceStep s buf)

/-- A trace record (22 R491 to R494): the hub's buffer is 24, a port's its number. It joins the records of its chiplet that are
on their way, of which there are 64 at most, and reaches the buffer with them unless they are held up. -/
def trace (s : State) (buf event cls core aux arg world : Nat) : State :=
  let b := s.traceBuf buf
  if !b.en || !b.classes.getLsbD cls then s
  else if 64 ≤ b.waiting.length then s.setTrace buf (b.lose 1)
  else
    let r : TraceRec := { time := s.time, unlocked := !s.hub.ftLock, event := event, world := world, core := core,
                          aux := aux, arg := arg }
    let s1 := s.setTrace buf { b with waiting := b.waiting ++ [r] }
    if b.hold then s1 else traceSteps 3 buf s1

/-- The hub's own record (22 R493). -/
def hubTrace (s : State) (event cls arg world : Nat) : State := trace s 24 event cls 0xFFFF 0 arg world

/-- The records of a chiplet are held up on their way, or all of them reach its buffer (22 R494). The hub's are not held. -/
def holdTrace (s : State) (buf : Nat) (on : Bool) : State :=
  let b := s.traceBuf buf
  if on then (if buf < 24 then s.setTrace buf { b with hold := true } else s)
  else (traceSteps (3 * b.waiting.length) buf s).setTrace buf
    { (traceSteps (3 * b.waiting.length) buf s).traceBuf buf with hold := false }

/-- The records that wait at an isolated chiplet are lost and counted (22 R495). -/
def loseTrace (s : State) (buf : Nat) : State :=
  let b := s.traceBuf buf
  s.setTrace buf { b.lose b.waiting.length with waiting := [], phase := 0, hold := false }

end Sys2Proof.Machine
end

