-- ==== Sys2Proof/Machine/Channel.lean ====
section
/-! DEFINITION. Channels of the fabric as what leaves over them sees them (21 R467, R468, R471, R472; 19 R441): positions,
stripe and allowances, sealed frames and the replay buffer, and the requests that wait to leave. -/

namespace Sys2Proof.Machine

/-! ### Positions, allowances and frames -/

/-- A channel at reset (21 R470). -/
def Channel.blank : Channel :=
  { ctl := 0, st := .off, park := 0, locked := 0, cur := 0, req := 8, stripe := 0, rr := 0, marker := none,
    waking := 0, hold := 0, have_ := 0, expired := 0, volume := [], life := [], frames := [], retry := 0, refused := false,
    sealFrom := (0, 0), sealTo := (0, 0), key := 0, tuned := 0, asking := 0, asked := 0, started := 0, woken := 0, parked := 0, oldReq := none, sentFrames := 0,
    acked := 0, reqs := [] }

/-- Channel `c`. -/
def State.chan (s : State) (c : Nat) : Channel := mapGet Channel.blank s.hub.chans c

/-- The state with channel `c` replaced. -/
def State.setChan (s : State) (c : Nat) (x : Channel) : State :=
  s.onHub fun h => { h with chans := mapSet c x h.chans }

/-- The wavelength positions that exist (21 R467, R470). -/
def Channel.assigned (x : Channel) : BitVec 8 :=
  let n := x.ctl.toNat
  BitVec.ofNat 8 (bits n 32 4 + 16 * (if bit n 41 then bits n 36 4 else 0))

/-- Positions assigned, not parked, locked and holding an allowance (21 R468). -/
def Channel.usable (x : Channel) : List Nat :=
  let m := x.assigned &&& ~~~x.parked &&& x.locked &&& x.have_
  (upFrom 0 8).filter fun i => m.getLsbD i

/-- The largest of 1, 2, 4 and 8 that is at most both numbers, or 0 (21 R468). -/
def widthFor (req n : Nat) : Nat :=
  let m := min req n
  if m = 0 then 0 else if m < 2 then 1 else if m < 4 then 2 else if m < 8 then 4 else 8

/-- The width that 21 R468 computes. -/
def Channel.computed (x : Channel) : Nat := widthFor x.req x.usable.length

/-- Positions of a mask, ascending. -/
def positions (m : BitVec 8) : List Nat := (upFrom 0 8).filter fun i => m.getLsbD i

/-- A position without an allowance stalls the stripe (21 R472); a channel that is up or draining sends what it has taken, while
its width is not 0 (R468, R471). -/
def Channel.sends (x : Channel) : Bool :=
  (x.st == ChanSt.up || x.st == ChanSt.draining) && decide (0 < x.cur) && x.stripe &&& ~~~x.have_ == 0

/-- Flits that the replay buffer of 64 frames has room for (21 R477). -/
def Channel.room (x : Channel) : Nat := 16 * (64 - (x.sentFrames - x.acked))

/-- One flit sent over the next position of the stripe (21 R467, 23 R499): it uses a flit of that position's allowance, and
an allowance whose volume is used up is gone, and the position asks for the next (21 R472). -/
def Channel.sendFlit (x : Channel) : Channel :=
  let i := (positions x.stripe).getD x.rr 0
  let left := mapGet 0 x.volume i - 1
  let m : BitVec 8 := BitVec.ofNat 8 (2 ^ i)
  { x with volume := mapSet i left x.volume, rr := (x.rr + 1) % x.cur,
           have_ := if left = 0 then x.have_ &&& ~~~m else x.have_,
           asking := if left = 0 then x.asking ||| m else x.asking }

/-- Up to `n` flits sent: as many as the allowances pay for (05 R139), and how many. -/
def Channel.spend : Nat → Channel → Channel × Nat
  | 0, x => (x, 0)
  | n + 1, x =>
    if x.sends then
      let r := Channel.spend n x.sendFlit
      (r.1, r.2 + 1)
    else (x, 0)

/-- Quotient rounded up. -/
def ceilDiv (n m : Nat) : Nat := (n + m - 1) / m

/-- Epoch and counter after one more sealed unit (19 R443). -/
def nextSeal (x : Nat × Nat) : Nat × Nat := if x.2 + 1 = 2 ^ 63 then (x.1 + 1, 0) else (x.1, x.2 + 1)

/-- Flits sealed in frames of 16 (19 R441), none of them shared with what is sent later (log entry 92). -/
def Channel.sealSent (x : Channel) (flits : Nat) : Channel :=
  { x with sealTo := (upFrom 0 (ceilDiv flits 16)).foldl (fun e _ => nextSeal e) x.sealTo,
           sentFrames := x.sentFrames + ceilDiv flits 16 }

/-- Up to `n` flits sent and sealed, as the allowances and the replay buffer allow, and how many. -/
def Channel.charge (n : Nat) (x : Channel) : Channel × Nat :=
  let r := Channel.spend (min n x.room) x
  (r.1.sealSent r.2, r.2)

/-- Fabric time in ns. -/
def State.now (s : State) : Nat := s.time / 65536

/-- CHAN_CTL.PEER (21 R470). -/
def Channel.peer (c : Channel) : Nat := bits c.ctl.toNat 50 14

/-- A channel is up: it takes tiles, markers and requests (21 R471). -/
def State.chanUp (s : State) (c : Nat) : Bool := (s.chan c).st == ChanSt.up

/-- The channels to a module that are up (21 R476), the lowest first. -/
def chansTo (s : State) (m : Nat) : List Nat := (s.hub.chans.filter fun c => c.2.st == ChanSt.up && c.2.peer == m).map (·.1)

/-- A channel to a module is up (21 R476). The peer of a channel stands in CHAN_CTL. -/
def channelTo (s : State) (m : Nat) : Bool := !(chansTo s m).isEmpty

/-- A channel sends one flit now. -/
def Channel.paysOne (x : Channel) : Bool := x.sends && decide (1 ≤ x.room)

/-- The channel to a module over which a message leaves now. -/
def payer (s : State) (m : Nat) : Option Nat := (chansTo s m).find? fun c => (s.chan c).paysOne

/-- A message of one flit sent over a channel that is up, sealed in a frame of its own (19 R441; log entry 92). -/
def payFlit (s : State) (c : Nat) : State := s.setChan c ((s.chan c).charge 1).1

/-- A message of one flit to a module, over a channel to it where one sends. -/
def payTo (s : State) (m : Nat) : State := match payer s m with
  | some c => payFlit s c
  | none => s

/-! ### Requests that leave (21 R471, R476, R477) -/

/-- The timer of a request starts when it leaves its link chiplet (21 R477). -/
def leftNow (s : State) (id : Nat) : State :=
  { s with remote := mapAll (fun _ r => { r with
      waiting := r.waiting.map fun w => if w.id = id then { w with since := s.now } else w }) s.remote }

/-- A request leaves over a channel to its module that is up, or waits on it for an allowance; with none up it waits for its
orbit slot. `first` says that it has not left before. -/
def leaveFor (s : State) (m id : Nat) (first : Bool) : State :=
  match payer s m with
  | some c => leftNow (payFlit s c) id
  | none =>
    match chansTo s m with
    | c :: _ => s.setChan c { s.chan c with reqs := (s.chan c).reqs ++ [(id, first)] }
    | [] => s.onHub fun h => if first then { h with orbit := h.orbit ++ [id] } else { h with resends := h.resends ++ [id] }

/-- A request has not left yet: it waits on a channel or for its orbit slot. -/
def unleft (s : State) (id : Nat) : Bool :=
  s.hub.orbit.contains id || s.hub.chans.any fun c => c.2.reqs.contains (id, true)

/-- A request waits to leave, for the first time or again. -/
def waitsToLeave (s : State) (id : Nat) : Bool :=
  s.hub.orbit.contains id || s.hub.resends.contains id || s.hub.chans.any fun c => c.2.reqs.any fun r => r.1 == id

/-- A request that waits no more. -/
def forgetLeaving (s : State) (id : Nat) : State :=
  s.onHub fun h => { h with orbit := h.orbit.filter (· != id), resends := h.resends.filter (· != id),
                            chans := mapAll (fun _ c => { c with reqs := c.reqs.filter fun r => r.1 != id }) h.chans }

/-- The requests that wait on a channel leave while it sends. -/
def flushReqs (c : Nat) : List (Nat × Bool) → State → State
  | [], s => s
  | r :: rest, s =>
    let x := s.chan c
    if x.paysOne then flushReqs c rest (leftNow (s.setChan c { (x.charge 1).1 with reqs := rest }) r.1) else s

/-- A channel changed, and what waits on it sent as far as it may be now. -/
def setSending (s : State) (c : Nat) (x : Channel) : State := flushReqs c x.reqs (s.setChan c x)

/-- Requests that wait on a channel move to the orbit lane (21 R471). -/
def moveToOrbit (s : State) (c : Nat) : State :=
  let rs := (s.chan c).reqs
  (s.setChan c { s.chan c with reqs := [] }).onHub fun h => { h with
    orbit := h.orbit ++ (rs.filter (·.2)).map (·.1), resends := h.resends ++ (rs.filter fun r => !r.2).map (·.1) }

end Sys2Proof.Machine
end

