-- ==== Sys2Proof/Machine/Flags.lean ====
section
/-! DEFINITION. FPSTAT (02 R79) and the flags that words raise in it. -/

namespace Sys2Proof.Machine

/-- A set of flags, at their places in FPSTAT (02 R79). -/
abbrev Flag := Nat

/-- No flag. -/
def noFlag : Flag := 0
/-- Invalid. -/
def flagNV : Flag := 0x100
/-- Division by zero. -/
def flagDZ : Flag := 0x200
/-- Overflow. -/
def flagOF : Flag := 0x400
/-- Underflow. -/
def flagUF : Flag := 0x800
/-- Inexact. -/
def flagNX : Flag := 0x1000
/-- Clamped. -/
def flagSAT : Flag := 0x2000

/-- A flag raised when a condition holds. -/
def flagIf (b : Bool) (f : Flag) : Flag := if b then f else noFlag

/-- FPSTAT.RM, with mode 4 acting as RNE (02 R75): the mode of scalar and vector arithmetic. -/
def rmOf (fpstat : Word) : Nat := if fpstat.toNat % 8 = 4 then 0 else fpstat.toNat % 8

/-- The mode of the row moves, mode 4 included (02 R75). -/
def rmFull (fpstat : Word) : Nat := fpstat.toNat % 8

/-- FPSTAT with flags raised; they are sticky (02 R79). -/
def raiseFlags (fpstat : Word) (f : Flag) : Word := fpstat ||| word f

/-- A thread with flags raised. -/
def Thread.raise (t : Thread) (f : Flag) : Thread := { t with fpstat := raiseFlags t.fpstat f }

/-- FPSTAT after software writes it: a written 1 clears a flag, a reserved mode stores 0 (02 R75, R79). -/
def writeFpstat (old v : Word) : Word :=
  let rm := if v.toNat % 8 < 5 then v.toNat % 8 else 0
  (old &&& ~~~(v &&& 0x3F00) &&& 0x3F00) ||| word rm

end Sys2Proof.Machine
end

