-- ==== Sys2Proof/Machine/Float.lean ====
section
/-! DEFINITION. The floating formats, rounding and the exact arithmetic of 02 R59 to R77. A finite value is a sign, a
fraction of natural numbers and a power of two, exact until it is rounded (00 R13). -/

namespace Sys2Proof.Machine

/-- The parameters of a binary floating format (02 R61). `inf` tells whether all-ones exponents are infinities and
NaNs; `top` is the largest finite encoding without its sign. -/
structure Fmt where
  e : Nat
  m : Nat
  bias : Nat
  inf : Bool
  top : Nat
  deriving DecidableEq, Repr

/-- fp32. -/
def fp32 : Fmt := { e := 8, m := 23, bias := 127, inf := true, top := 0x7F7FFFFF }
/-- fp64 (02 R63). -/
def fp64 : Fmt := { e := 11, m := 52, bias := 1023, inf := true, top := 0x7FEFFFFFFFFFFFFF }
/-- bf16. -/
def bf16 : Fmt := { e := 8, m := 7, bias := 127, inf := true, top := 0x7F7F }
/-- fp16. -/
def fp16 : Fmt := { e := 5, m := 10, bias := 15, inf := true, top := 0x7BFF }
/-- fp8e5m2. -/
def fp8e5m2 : Fmt := { e := 5, m := 2, bias := 15, inf := true, top := 0x7B }
/-- fp8e4m3: one NaN pattern per sign. -/
def fp8e4m3 : Fmt := { e := 4, m := 3, bias := 7, inf := false, top := 0x7E }
/-- fp6e3m2. -/
def fp6e3m2 : Fmt := { e := 3, m := 2, bias := 3, inf := false, top := 0x1F }
/-- fp6e2m3. -/
def fp6e2m3 : Fmt := { e := 2, m := 3, bias := 1, inf := false, top := 0x1F }
/-- fp4e2m1. -/
def fp4e2m1 : Fmt := { e := 2, m := 1, bias := 1, inf := false, top := 0x7 }
/-- a56. -/
def a56 : Fmt := { e := 10, m := 45, bias := 511, inf := true, top := 0x7FDFFFFFFFFFFF }

/-- A decoded value: a NaN with its quiet bit and cause (02 R71), an infinity, or (−1)^neg × num / den × 2^ex. -/
inductive FVal where
  | nan (signalling : Bool) (cause : Nat)
  | inf (neg : Bool)
  | fin (neg : Bool) (num den : Nat) (ex : Int)
  deriving DecidableEq, Repr

/-- The value of an encoding (02 R62). A NaN's cause is its low three fraction bits when the format keeps causes. -/
def decodeF (f : Fmt) (w : Nat) : FVal :=
  let frac := bits w 0 f.m
  let ex := bits w f.m f.e
  let neg := bit w (f.m + f.e)
  if f.inf ∧ ex = 2 ^ f.e - 1 then
    if frac = 0 then .inf neg
    else .nan (!bit w (f.m - 1)) (if 3 < f.m then frac % 8 else 0)
  else if ¬ f.inf ∧ f.top < bits w 0 (f.m + f.e) then .nan false 0
  else if ex = 0 then .fin neg frac 1 (1 - (f.bias : Int) - f.m)
  else .fin neg (2 ^ f.m + frac) 1 ((ex : Int) - f.bias - f.m)

/-- The generated NaN of a format with a cause (02 R71). -/
def genNaN (f : Fmt) (cause : Nat) : Nat :=
  if f.inf then (2 ^ f.e - 1) * 2 ^ f.m + 2 ^ (f.m - 1) + (if 3 < f.m then cause else 0)
  else 2 ^ (f.m + f.e) - 1

/-- An encoding with a sign bit. -/
def withSign (f : Fmt) (neg : Bool) (w : Nat) : Nat := w + ofBool neg * 2 ^ (f.m + f.e)

/-- Infinity. -/
def encInf (f : Fmt) (neg : Bool) : Nat := withSign f neg ((2 ^ f.e - 1) * 2 ^ f.m)

/-- Rounding of the exact fraction N / D between n := N / D and n + 1 (02 R75, R77): whether the magnitude goes up.
`st` is the generator's state after its step. -/
def roundsUp (rm : Nat) (neg : Bool) (n r d st : Nat) : Bool :=
  if r = 0 then false
  else match rm with
    | 1 => false
    | 2 => neg
    | 3 => !neg
    | 4 => if neg then !decide (st ≤ 65536 * (d - r) / d) else decide (st ≤ 65536 * r / d)
    | _ => decide (d < 2 * r) || (decide (2 * r = d) && n % 2 == 1)

/-- floor(log2(num / den)) for nonzero numbers. -/
def ratLog (num den : Nat) : Int :=
  let k : Int := (num.log2 : Int) - den.log2
  let ge : Bool := if 0 ≤ k then decide (den * 2 ^ k.toNat ≤ num) else decide (den ≤ num * 2 ^ (-k).toNat)
  if ge then k else k - 1

/-- What rounding gives: the encoding and the flags. -/
structure Rounded where
  bits : Nat
  flags : Flag
  deriving DecidableEq, Repr

/-- The outcome of overflow (02 R76): whether the largest finite value is given, and not infinity or NaN. -/
def overflowClamps (f : Fmt) (rm : Nat) (sat neg : Bool) : Bool :=
  if sat then true
  else if f.inf then (match rm with | 1 => true | 2 => !neg | 3 => neg | _ => false)
  else f.top ≠ 0x7E

/-- round_fmt of an exact finite value (00 R14; 02 R75 to R77). -/
def roundFin (f : Fmt) (rm : Nat) (sat : Bool) (st : Nat) (neg : Bool) (num den : Nat) (ex : Int) : Rounded :=
  if num = 0 then { bits := withSign f neg 0, flags := noFlag }
  else
    let qmin : Int := 1 - (f.bias : Int) - f.m
    let q : Int := max (ratLog num den + ex - f.m) qmin
    let up : Int := ex - q
    let n' := if 0 ≤ up then num * 2 ^ up.toNat else num
    let d := if 0 ≤ up then den else den * 2 ^ (-up).toNat
    let n := n' / d
    let r := n' % d
    let c := n + ofBool (roundsUp rm neg n r d st)
    let enc := (q - qmin).toNat * 2 ^ f.m + c
    if f.top < enc then
      if overflowClamps f rm sat neg then
        { bits := withSign f neg f.top, flags := flagOF ||| flagNX ||| flagSAT }
      else if f.inf then { bits := encInf f neg, flags := flagOF ||| flagNX }
      else { bits := genNaN f 0, flags := flagOF ||| flagNX }
    else
      { bits := withSign f neg enc,
        flags := flagIf (decide (r ≠ 0)) flagNX
                   ||| flagIf (decide (r ≠ 0) && decide (0 < enc) && decide (enc < 2 ^ f.m)) flagUF }

/-- The cause that a conversion gives a NaN (02 R74). -/
def convCause (signalling : Bool) (cause : Nat) : Nat :=
  if signalling then 5 else if cause = 0 ∨ cause = 7 then 1 else cause

/-- A conversion of a value to a floating format (02 R74 to R77). -/
def roundVal (f : Fmt) (rm : Nat) (sat : Bool) (st : Nat) : FVal → Rounded
  | .fin neg n d e => roundFin f rm sat st neg n d e
  | .inf neg =>
    if f.inf then { bits := encInf f neg, flags := noFlag }
    else if f.top = 0x7E ∧ ¬ sat then { bits := 0x7F, flags := noFlag }
    else { bits := withSign f neg f.top, flags := flagSAT }
  | .nan s c =>
    if f.inf then { bits := genNaN f (convCause s c), flags := flagIf s flagNV }
    else if f.top = 0x7E then { bits := 0x7F, flags := flagIf s flagNV }
    else { bits := 0, flags := flagNV }

/-- An arithmetic result: a value, or a generated NaN with its cause, with flags raised before rounding. -/
structure FRes where
  val : FVal
  flags : Flag
  deriving DecidableEq, Repr

/-- A generated NaN with a cause and NV (02 R73). -/
def invalid (cause : Nat) : FRes := { val := .nan false cause, flags := flagNV }

/-- An operand that is NaN. -/
def FVal.isNaN : FVal → Bool
  | .nan .. => true
  | _ => false

/-- An operand that is a signalling NaN. -/
def FVal.isSNaN : FVal → Bool
  | .nan s _ => s
  | _ => false

/-- An infinity. -/
def FVal.isInf : FVal → Bool
  | .inf _ => true
  | _ => false

/-- A zero. -/
def FVal.isZero : FVal → Bool
  | .fin _ n _ _ => decide (n = 0)
  | _ => false

/-- The sign of a value. -/
def FVal.neg : FVal → Bool
  | .nan .. => false
  | .inf s => s
  | .fin s .. => s

/-- A value with its sign inverted. -/
def FVal.negate : FVal → FVal
  | .nan s c => .nan s c
  | .inf s => .inf (!s)
  | .fin s n d e => .fin (!s) n d e

/-- A value with its sign cleared. -/
def FVal.abs : FVal → FVal
  | .nan s c => .nan s c
  | .inf _ => .inf false
  | .fin _ n d e => .fin false n d e

/-- The exact sum of finite values; an exact zero takes the sign that the mode gives (08 R234). -/
def addFin (rm : Nat) (s1 : Bool) (n1 d1 : Nat) (e1 : Int) (s2 : Bool) (n2 d2 : Nat) (e2 : Int) : FVal :=
  let e := min e1 e2
  let a : Int := ((n1 * d2 * 2 ^ (e1 - e).toNat : Nat) : Int) * (if s1 then -1 else 1)
  let b : Int := ((n2 * d1 * 2 ^ (e2 - e).toNat : Nat) : Int) * (if s2 then -1 else 1)
  let c := a + b
  if c = 0 then
    let z := if n1 = 0 ∧ n2 = 0 ∧ s1 = s2 then s1 else decide (rm = 2)
    .fin z 0 1 e
  else .fin (decide (c < 0)) c.natAbs (d1 * d2) e

/-- x + y (08 R234). -/
def addF (rm : Nat) (x y : FVal) : FRes :=
  if x.isNaN || y.isNaN then { val := .nan false 1, flags := flagIf (x.isSNaN || y.isSNaN) flagNV }
  else match x, y with
    | .inf a, .inf b => if a = b then { val := .inf a, flags := noFlag } else invalid 3
    | .inf a, _ => { val := .inf a, flags := noFlag }
    | _, .inf b => { val := .inf b, flags := noFlag }
    | .fin s1 n1 d1 e1, .fin s2 n2 d2 e2 => { val := addFin rm s1 n1 d1 e1 s2 n2 d2 e2, flags := noFlag }
    | _, _ => invalid 1

/-- x − y (08 R234). -/
def subF (rm : Nat) (x y : FVal) : FRes := addF rm x y.negate

/-- x × y (08 R234). -/
def mulF (x y : FVal) : FRes :=
  if x.isNaN || y.isNaN then { val := .nan false 1, flags := flagIf (x.isSNaN || y.isSNaN) flagNV }
  else if (x.isZero && y.isInf) || (x.isInf && y.isZero) then invalid 4
  else if x.isInf || y.isInf then { val := .inf (x.neg != y.neg), flags := noFlag }
  else match x, y with
    | .fin s1 n1 d1 e1, .fin s2 n2 d2 e2 =>
      { val := .fin (s1 != s2) (n1 * n2) (d1 * d2) (e1 + e2), flags := noFlag }
    | _, _ => invalid 1

/-- x / y (08 R234). -/
def divF (x y : FVal) : FRes :=
  if x.isNaN || y.isNaN then { val := .nan false 1, flags := flagIf (x.isSNaN || y.isSNaN) flagNV }
  else if x.isZero && y.isZero then invalid 4
  else if x.isInf && y.isInf then invalid 3
  else if x.isInf then { val := .inf (x.neg != y.neg), flags := noFlag }
  else if y.isInf then { val := .fin (x.neg != y.neg) 0 1 0, flags := noFlag }
  else if y.isZero then { val := .inf (x.neg != y.neg), flags := flagDZ }
  else match x, y with
    | .fin s1 n1 d1 e1, .fin s2 n2 d2 e2 =>
      { val := .fin (s1 != s2) (n1 * d2) (d1 * n2) (e1 - e2), flags := noFlag }
    | _, _ => invalid 1

/-- x × y + z with one rounding (08 R234, 02 R73): the lowest cause applies. -/
def fmaF (rm : Nat) (x y z : FVal) : FRes :=
  let nan := x.isNaN || y.isNaN || z.isNaN
  let snan := x.isSNaN || y.isSNaN || z.isSNaN
  let zi := (x.isZero && y.isInf) || (x.isInf && y.isZero)
  if nan then { val := .nan false 1, flags := flagIf (snan || zi) flagNV }
  else
    let p := mulF x y
    if zi then invalid 4 else addF rm p.val z

/-- One step of the integer square root: the bit `b` of the root. -/
def isqrtFrom (x : Nat) : Nat → Nat → Nat
  | 0, r => r
  | b + 1, r => let c := r + 2 ^ b; isqrtFrom x b (if c * c ≤ x then c else r)

/-- floor of the square root. -/
def isqrt (x : Nat) : Nat := isqrtFrom x (x.log2 / 2 + 1) 0

/-- The square root of a nonzero num × 2^ex, to 128 bits beyond, with a last bit that tells an inexact root. -/
def sqrtFin (num : Nat) (ex : Int) : FVal :=
  let odd : Bool := ex % 2 != 0
  let n := (if odd then 2 * num else num) * 2 ^ 256
  let e := ((if odd then ex - 1 else ex) - 256) / 2
  let r := isqrt n
  if r * r = n then .fin false r 1 e else .fin false (2 * r + 1) 1 (e - 1)

/-- The square root (08 R234). -/
def sqrtF (x : FVal) : FRes :=
  match x with
  | .nan s _ => { val := .nan false 1, flags := flagIf s flagNV }
  | .inf true => invalid 6
  | .inf false => { val := .inf false, flags := noFlag }
  | .fin neg n _ e =>
    if n = 0 then { val := x, flags := noFlag } else if neg then invalid 6 else { val := sqrtFin n e, flags := noFlag }

/-- The finite value or infinity as an order: x < y (08 R236), for operands that are not NaN. -/
def ltF (x y : FVal) : Bool :=
  match x, y with
  | .inf a, .inf b => a && !b
  | .inf a, _ => a
  | _, .inf b => !b
  | .fin s1 n1 d1 e1, .fin s2 n2 d2 e2 =>
    match addFin 0 s1 n1 d1 e1 (!s2) n2 d2 e2 with
    | .fin s n _ _ => s && decide (n ≠ 0)
    | _ => false
  | _, _ => false

/-- Equal as numbers: −0 = +0 (08 R236). -/
def eqF (x y : FVal) : Bool := !x.isNaN && !y.isNaN && !ltF x y && !ltF y x

/-- x below y with −0 below +0 (02 R84). -/
def ltZ (x y : FVal) : Bool := ltF x y || (x.isZero && y.isZero && x.neg && !y.neg)

/-- minimumNumber and maximumNumber (02 R84, 08 R235) of two encodings, as the encoding of the result. -/
def minMaxF (f : Fmt) (isMax : Bool) (a b : Nat) : Rounded :=
  let x := decodeF f a
  let y := decodeF f b
  let fl := flagIf (x.isSNaN || y.isSNaN) flagNV
  if x.isNaN && y.isNaN then { bits := genNaN f 1, flags := fl }
  else if x.isNaN then { bits := b, flags := fl }
  else if y.isNaN then { bits := a, flags := fl }
  else if (if isMax then ltZ x y else ltZ y x) then { bits := b, flags := fl }
  else { bits := a, flags := fl }

/-- Rounding of an arithmetic result in a format, saturation off (08 R234). -/
def finishF (f : Fmt) (rm : Nat) (r : FRes) : Rounded :=
  match r.val with
  | .nan _ c => { bits := genNaN f c, flags := r.flags }
  | v => let o := roundVal f rm false 0 v; { bits := o.bits, flags := r.flags ||| o.flags }

/-- The integer that a finite value rounds to, and whether it is inexact (02 R75). -/
def roundInt (rm st : Nat) (neg : Bool) (num den : Nat) (ex : Int) : Int × Bool :=
  let n' := if 0 ≤ ex then num * 2 ^ ex.toNat else num
  let d := if 0 ≤ ex then den else den * 2 ^ (-ex).toNat
  let n := n' / d
  let r := n' % d
  let c : Int := ((n + ofBool (roundsUp rm neg n r d st) : Nat) : Int)
  (if neg then -c else c, decide (r ≠ 0))

/-- A value converted to an integer range (08 R237, 02 R76): the integer and the flags. `nx` tells whether a clamped
result is inexact too. -/
def toRange (rm st : Nat) (nx : Bool) (lo hi : Int) : FVal → Int × Flag
  | .nan .. => (0, flagNV)
  | .inf neg => (if neg then lo else hi, flagSAT ||| flagIf nx flagNX)
  | .fin neg n d e =>
    let (v, inexact) := roundInt rm st neg n d e
    if v < lo then (lo, flagSAT ||| flagNX)
    else if hi < v then (hi, flagSAT ||| flagNX)
    else (v, flagIf inexact flagNX)

/-- An integer as an exact value. -/
def ofInt (v : Int) : FVal := .fin (decide (v < 0)) v.natAbs 1 0

/-- fcmp (08 R236): conditions 0 to 3. -/
def cmpF (cond : Nat) (x y : FVal) : Bool × Flag :=
  let nan := x.isNaN || y.isNaN
  let snan := x.isSNaN || y.isSNaN
  match cond with
  | 0 => (eqF x y, flagIf snan flagNV)
  | 1 => (!nan && ltF x y, flagIf nan flagNV)
  | 2 => (!nan && !ltF y x, flagIf nan flagNV)
  | _ => (nan, flagIf snan flagNV)

/-- The class mask of an encoding (08 R238). -/
def classF (f : Fmt) (w : Nat) : Nat :=
  match decodeF f w with
  | .inf neg => if neg then 1 else 0x80
  | .nan s c => if s then 0x100 else 0x200 + 0x10000 * c
  | .fin neg n _ _ =>
    if n = 0 then (if neg then 0x8 else 0x10)
    else if bits w f.m f.e = 0 then (if neg then 0x4 else 0x20)
    else (if neg then 0x2 else 0x40)

/-! ### The functions of 02 R82, in fixed point with `prec` bits

Each is computed far beyond the 24 bits of fp32 and its last bit tells an inexact value, so that one rounding follows
(log entry 10). -/

/-- Fraction bits of the fixed point. -/
def prec : Nat := 384

/-- One in fixed point. -/
def fone : Nat := 2 ^ prec

/-- The product of fixed-point numbers. -/
def fmulx (a b : Nat) : Nat := a * b / fone

/-- The Taylor series of exp, `k` terms from the term with divisor `i`. -/
def expSeries (x : Nat) : Nat → Nat → Nat → Nat
  | 0, _, _ => 0
  | k + 1, i, term => term + expSeries x k (i + 1) (fmulx term x / i)

/-- exp of a fixed-point number below one. -/
def expFix (x : Nat) : Nat := expSeries x 100 1 fone

/-- The series of atanh: the sum of z^(2 i + 1) / (2 i + 1). -/
def atanhSeries (z2 : Nat) : Nat → Nat → Nat → Nat
  | 0, _, _ => 0
  | k + 1, i, p => p / (2 * i + 1) + atanhSeries z2 k (i + 1) (fmulx p z2)

/-- atanh of num / den, at most 1/3. -/
def atanhFix (num den : Nat) : Nat :=
  let z := num * fone / den
  atanhSeries (fmulx z z) 130 0 z

/-- ln 2. -/
def ln2Fix : Nat := 2 * atanhFix 1 3

/-- A fixed-point number that is not exact. -/
def inexactFix (neg : Bool) (v : Nat) : FVal := .fin neg (2 * v + 1) 1 (-(prec : Int) - 1)

/-- 2^x of a finite x. -/
def exp2Fin (neg : Bool) (n : Nat) (e : Int) : FVal :=
  if n = 0 then .fin false 1 1 0
  else if 0 ≤ e + n.log2 - 8 then
    if neg then .fin false 1 1 (-100000) else .fin false 1 1 100000
  else
    let mag := if 0 ≤ e then n * 2 ^ e.toNat * fone else n * fone / 2 ^ (-e).toNat
    let k : Int := if neg then -(((mag + fone - 1) / fone : Nat) : Int) else ((mag / fone : Nat) : Int)
    let fr := if neg then (fone - mag % fone) % fone else mag % fone
    if fr = 0 then .fin false 1 1 k
    else
      match inexactFix false (expFix (fmulx fr ln2Fix)) with
      | .fin s a d x => .fin s a d (x + k)
      | v => v

/-- log2 of a positive finite x. -/
def log2Fin (n : Nat) (e : Int) : FVal :=
  let l := n.log2
  let k : Int := e + l
  let p := 2 ^ l
  if n = p then ofInt k
  else
    let f := 2 * atanhFix (n - p) (n + p) * fone / ln2Fix
    if 0 ≤ k then inexactFix false (k.toNat * fone + f) else inexactFix true ((-k).toNat * fone - f - 1)

/-- Squaring `k` times. -/
def squares : Nat → Nat → Nat
  | 0, x => x
  | k + 1, x => squares k (fmulx x x)

/-- tanh of a nonzero finite x. -/
def tanhFin (neg : Bool) (n : Nat) (e : Int) : FVal :=
  if 5 ≤ e + n.log2 then inexactFix neg (fone - 1)
  else
    let mag := if 0 ≤ e then n * 2 ^ e.toNat * fone else n * fone / 2 ^ (-e).toNat
    let x := squares 8 (expFix (mag / 128))
    inexactFix neg ((x - fone) * fone / (x + fone))

/-- 1 / √x of a positive finite x. -/
def rsqrtFin (n : Nat) (e : Int) : FVal :=
  let odd : Bool := e % 2 != 0
  let m := if odd then 2 * n else n
  let h := (if odd then e - 1 else e) / 2
  let r := isqrt (2 ^ 512 / m)
  if r * r * m = 2 ^ 512 then .fin false r 1 (-256 - h) else .fin false (2 * r + 1) 1 (-257 - h)

/-- The functions of 02 R82. -/
inductive VFun where
  | exp2 | log2 | rcp | rsqrt | tanh
  deriving DecidableEq, Repr

/-- A function of 02 R82 on a value. -/
def vfunF (g : VFun) (x : FVal) : FRes :=
  match x with
  | .nan s _ => { val := .nan false 1, flags := flagIf s flagNV }
  | .inf neg =>
    match g with
    | .exp2 => { val := if neg then .fin false 0 1 0 else .inf false, flags := noFlag }
    | .log2 => if neg then invalid 6 else { val := .inf false, flags := noFlag }
    | .rcp => { val := .fin neg 0 1 0, flags := noFlag }
    | .rsqrt => if neg then invalid 6 else { val := .fin false 0 1 0, flags := noFlag }
    | .tanh => { val := .fin neg 1 1 0, flags := noFlag }
  | .fin neg n d e =>
    match g with
    | .exp2 => { val := exp2Fin neg n e, flags := noFlag }
    | .log2 =>
      if n = 0 then { val := .inf true, flags := flagDZ } else if neg then invalid 6
      else { val := log2Fin n e, flags := noFlag }
    | .rcp =>
      if n = 0 then { val := .inf neg, flags := flagDZ } else { val := .fin neg d n (-e), flags := noFlag }
    | .rsqrt =>
      if n = 0 then { val := .inf neg, flags := flagDZ } else if neg then invalid 6
      else { val := rsqrtFin n e, flags := noFlag }
    | .tanh => { val := if n = 0 then x else tanhFin neg n e, flags := noFlag }

end Sys2Proof.Machine
end

