-- ==== Sys2Proof/Machine/RegMap.lean ====
section
/-! DEFINITION. Where the registers of the hub window and of the link windows stand (16 R391, R407; 17 R409, R417,
R420; 18 R425 to R427, R435; 19 R448; 21 R469, R475; 22 R483, R491). A block whose rule gives no offsets has its
registers in the order of its table, 8 bytes each (log entry 21: DEDUCED). -/

namespace Sys2Proof.Machine

/-- A register of a window: one that `HubReg` names, or one that is read only. -/
inductive RegName where
  | rw (r : HubReg)
  | hubId | capTable | cmbxStat | dqRptr | cntStat | jrnlHead | jrnlTail | flogHead | isoStat | mcMgen | mcArb | ftStat
  | trcHead | trcTail
  deriving DecidableEq, Repr

/-- A register with the number of its block. -/
abbrev RegAt := Option (RegName × Nat)

/-- Blocks of a stride from an offset on, each with the registers of a list at 8 bytes each. -/
def blockAt (o stride : Nat) (rs : List RegName) : RegAt := (rs[o % stride / 8]?).map fun r => (r, o / stride)

/-- The registers of a weight binding (22 R483); the index of a generation slot's is 4 b + k. -/
def wbindAt (o : Nat) : RegAt :=
  let b := o / 0x80
  let j := o % 0x80 / 8
  if j = 0 then some (.rw .wbId, b)
  else if j = 1 then some (.rw .wbCtl, b)
  else if j < 10 then some (.rw (if j % 2 = 0 then .wbDir else .wbGst), 4 * b + (j - 2) / 2)
  else if j = 10 then some (.rw .wbStat, b)
  else none

/-- The register at an offset of the hub window; none where it is reserved (16 R391). -/
def hubAt (o : Nat) : RegAt :=
  if o < 8 then some (.hubId, 0)
  else if 0x10000 ≤ o ∧ o < 0x11800 then blockAt (o - 0x10000) 0x100 [.rw .portCtl, .rw .portStat]
  else if 0x100000 ≤ o ∧ o < 0x118000 then some (.capTable, (o - 0x100000) / 8)
  else if 0x300000 ≤ o ∧ o < 0x300010 then blockAt (o - 0x300000) 0x10 [.rw .dirStat, .rw .dirSpill]
  else if 0x400000 ≤ o ∧ o < 0x400080 then some (.rw .wtblRoot, (o - 0x400000) / 8)
  else if 0x400080 ≤ o ∧ o < 0x400098 then blockAt (o - 0x400080) 0x18 [.rw .sdnAddr, .rw .sdnCtl, .rw .sdnStat]
  else if 0x500000 ≤ o ∧ o < 0x500800 then
    blockAt (o - 0x500000) 0x20 [.cmbxStat, .rw .cmbxPop, .rw .cmbxSend, .rw .cmbxTgt]
  else if 0x600000 ≤ o ∧ o < 0x600010 then blockAt (o - 0x600000) 0x10 [.rw .topoCtl, .rw .topoEvt]
  else if 0x1000000 ≤ o ∧ o < 0x1010000 then
    blockAt (o - 0x1000000) 0x40 [.rw .dqBase, .rw .dqCtl, .rw .dqWptr, .dqRptr, .rw .dqStat]
  else if 0x1020000 ≤ o ∧ o < 0x1020020 then
    blockAt (o - 0x1020000) 0x20 [.rw .selJob, .rw .selId, .cntStat, .rw .cancelReg]
  else if 0x1030000 ≤ o ∧ o < 0x1030028 then
    blockAt (o - 0x1030000) 0x28 [.rw .jrnlBase, .rw .jrnlCtl, .jrnlHead, .jrnlTail, .rw .jrnlAck]
  else if 0x1040000 ≤ o ∧ o < 0x1042000 then wbindAt (o - 0x1040000)
  else if 0x2000000 ≤ o ∧ o < 0x2000200 then
    blockAt (o - 0x2000000) 0x20 [.rw .flogCtl, .flogHead, .rw .flogAck, .rw .flogLost]
  else if 0x2000400 ≤ o ∧ o < 0x2000480 then some (.rw .aflog, (o - 0x2000400) / 8)
  else if 0x2001000 ≤ o ∧ o < 0x2001028 then
    blockAt (o - 0x2001000) 0x28 [.rw .unitSel, .rw .unitCmd, .rw .unitPc, .rw .unitCtx, .rw .unitStat]
  else if 0x2002000 ≤ o ∧ o < 0x2002010 then blockAt (o - 0x2002000) 0x10 [.rw .isoCtl, .rw .isoCmd]
  else if 0x2002100 ≤ o ∧ o < 0x20021C0 then some (.isoStat, (o - 0x2002100) / 8)
  else if 0x3000000 ≤ o ∧ o < 0x3000018 then blockAt (o - 0x3000000) 0x18 [.mcMgen, .mcArb, .rw .mcBoot]
  else if 0x3000100 ≤ o ∧ o < 0x30001C0 then some (.rw .sealErr, (o - 0x3000100) / 8)
  else if 0x3000200 ≤ o ∧ o < 0x3000210 then blockAt (o - 0x3000200) 0x10 [.rw .ftCtl, .ftStat]
  else if 0x3001000 ≤ o ∧ o < 0x3001320 then
    blockAt (o - 0x3001000) 0x20 [.rw .trcCtl, .trcHead, .trcTail, .rw .trcLost]
  else none

/-- The register at an offset of the window of link chiplet `n`; none where it is reserved (21 R469). -/
def linkAt (n o : Nat) : RegAt :=
  if 0x10000 ≤ o ∧ o < 0x10800 then
    (blockAt (o - 0x10000) 0x40 [.rw .chanCtl, .rw .chanWidth, .rw .allowHeld, .rw .chanStat]).map fun r =>
      (r.1, 32 * n + r.2)
  else if 0x20000 ≤ o ∧ o < 0x20800 then some (.rw .reachTbl, (o - 0x20000) / 8)
  else if 0x20800 ≤ o ∧ o < 0x20808 then some (.rw .reachCtl, 0)
  else if 0x30000 ≤ o ∧ o < 0x30800 then
    (blockAt (o - 0x30000) 0x10 [.rw .rwinBase, .rw .rwinLimit]).map fun r => (r.1, 128 * n + r.2)
  else none

end Sys2Proof.Machine
end

