-- ==== Sys2Proof/Machine/Translate.lean ====
section
/-! DEFINITION. Addresses: the local map and the window map (04 R113 to R120), translation (04 R121; 16 R403 to R405),
weight bindings (22 R489), and the checks of an access in the order of 08 R223. -/

namespace Sys2Proof.Machine

/-- The module number of a domain physical address (04 R113). -/
def moduleOf (a : Nat) : Nat := a / 2 ^ 42 % 2 ^ 14

/-- The local address of a domain physical address. -/
def localOf (a : Nat) : Nat := a % 2 ^ 42

/-- LPDDR 5X or near store (04 R114). -/
def isCoherent (l : Nat) : Bool := decide (l < 2 ^ 40) || (decide (0x20000000000 ≤ l) && decide (l < 0x20200000000))

/-- Near store (04 R114). -/
def isNear (l : Nat) : Bool := decide (0x20000000000 ≤ l) && decide (l < 0x20200000000)

/-- The window map (04 R115). -/
def isWindowMap (l : Nat) : Bool := decide (0x30000000000 ≤ l) && decide (l < 0x40000000000)

/-- A part of a window (04 R115 to R117). -/
inductive WinPart where
  | arrayStore (c off : Nat)
  | arrayTile (c entry off : Nat)
  | arrayAcc (c off : Nat)
  | arrayVec (c off : Nat)
  | arrayScalar (c off : Nat)
  | arrayPred (c off : Nat)
  | arrayHandle (c off : Nat)
  | arraySys (c off : Nat)
  | laneStack (c off : Nat)
  | laneScratch (c off : Nat)
  | laneWarp (c w off : Nat)
  | laneSys (c off : Nat)
  | laneHandle (c off : Nat)
  | hub (off : Nat)
  | link (n off : Nat)
  deriving DecidableEq, Repr

/-- The part of an array core's window at an offset (04 R116). -/
def arrayPart (c o : Nat) : Option WinPart :=
  if o < 0x8000000 then some (.arrayStore c o)
  else if o < 0x8040000 then some (.arrayTile c ((o - 0x8000000) / 64) ((o - 0x8000000) % 64))
  else if o < 0x8140000 then some (.arrayAcc c (o - 0x8040000))
  else if o < 0x8148000 then some (.arrayVec c (o - 0x8140000))
  else if o < 0x8148100 then some (.arrayScalar c (o - 0x8148000))
  else if o < 0x8148200 then some (.arrayPred c (o - 0x8148100))
  else if o < 0x8148300 then some (.arrayHandle c (o - 0x8148200))
  else if 0x8150000 ≤ o ∧ o < 0x8160000 then some (.arraySys c (o - 0x8150000))
  else none

/-- The part of a lane core's window at an offset (04 R117). -/
def lanePart (c o : Nat) : Option WinPart :=
  if o < 0x100000 then some (.laneStack c o)
  else if o < 0x180000 then some (.laneScratch c (o - 0x100000))
  else if o < 0x1A0000 then some (.laneWarp c ((o - 0x180000) / 0x1000) ((o - 0x180000) % 0x1000))
  else if o < 0x1B0000 then some (.laneSys c (o - 0x1A0000))
  else if o < 0x1F0000 then some (.laneHandle c (o - 0x1B0000))
  else none

/-- The part of the window map at a local address; none where it is reserved (04 R115). -/
def winPart (l : Nat) : Option WinPart :=
  if l < 0x30000000000 + 160 * 0x10000000 then arrayPart ((l - 0x30000000000) / 0x10000000) ((l - 0x30000000000) % 0x10000000)
  else if 0x31000000000 ≤ l ∧ l < 0x31000000000 + 192 * 0x400000 then
    lanePart ((l - 0x31000000000) / 0x400000) ((l - 0x31000000000) % 0x400000)
  else if 0x32000000000 ≤ l ∧ l < 0x32000000000 + 0x4000000 then
    (hubAt (l - 0x32000000000)).map fun _ => .hub (l - 0x32000000000)
  else if 0x33000000000 ≤ l ∧ l < 0x33000000000 + 8 * 0x1000000 then
    (linkAt ((l - 0x33000000000) / 0x1000000) ((l - 0x33000000000) % 0x1000000)).map fun _ =>
      .link ((l - 0x33000000000) / 0x1000000) ((l - 0x33000000000) % 0x1000000)
  else none

/-- The boot record in force, if a copy is sound (19 R451). -/
def bootInForce (s : State) : Option BootCopy :=
  match s.hub.bootRec.filter (·.crcOk) with
  | [] => none
  | c :: rest => some (rest.foldl (fun b d => if b.boots < d.boots then d else b) c)

/-- The failed near-store blocks that the boot record in force lists (19 R450, R451). -/
def badBlocks (s : State) : List Nat := ((bootInForce s).map (·.near)).getD []

/-- A local address of this module in a reserved range: no memory there, the locked spill area (16 R402), or a
failed near-store block (19 R450). -/
def isReserved (s : State) (l : Nat) : Bool :=
  if isCoherent l then
    (s.hub.spillLock && decide (s.hub.spillBase * 2 ^ 25 ≤ l) && decide (l < (s.hub.spillBase + 1) * 2 ^ 25))
      || (isNear l && (badBlocks s).contains ((l - 0x20000000000) / 0x200000))
  else if isWindowMap l then (winPart l).isNone
  else true

/-- A module that REACH_TBL in force admits (21 R480); the module's own bit is ignored. -/
def reachable (s : State) (m : Nat) : Bool := (mapGet (0 : Word) s.hub.reach (m / 64)).getLsbD (m % 64)

/-- What an access needs of a leaf. -/
inductive Need where
  | read | write | both | exec
  deriving DecidableEq, Repr

/-- A table entry raises translation at a level (16 R404). -/
def badEntry (s : State) (level e : Nat) : Bool :=
  let r := bit e 1
  let w := bit e 2
  let x := bit e 3
  let leaf := r || w || x
  let pa := e / 4096 % 2 ^ 44
  !bit e 0 || bits e 56 8 != 0 || bits e 8 4 != 0 || bit e 4
    || (w && !r) || (level == 4 && !leaf) || (decide (level ≤ 1) && leaf)
    || (leaf && level == 2 && pa % 2 ^ 18 != 0) || (leaf && level == 3 && pa % 2 ^ 9 != 0)
    || (leaf && bit e 7 && level != 4) || (leaf && bit e 7 && level == 4 && pa % 16 != 0)
    || (!leaf && moduleOf (pa * 4096) != s.module)

/-- Where a walk ends: the leaf and its level, or the translation fault. -/
def walk (s : State) (va : Nat) (dir : Option Nat) : Nat → Nat → Nat → Option (Nat × Nat)
  | 0, _, _ => none
  | fuel + 1, level, table =>
    let plain := table + 8 * bits va (48 - 9 * level) 9
    let a := if level = 2 then dir.getD plain else plain
    let e := peekNat s a 8
    if badEntry s level e then none
    else if bit e 1 || bit e 2 || bit e 3 then some (e, level)
    else walk s va dir fuel (level + 1) (e / 4096 % 2 ^ 44 * 4096)

/-- The bits of an address that a leaf at a level passes through: the page size (04 R121). -/
def pageBits (e level : Nat) : Nat := if level = 2 then 30 else if level = 3 then 21 else if bit e 7 then 16 else 12

/-- The directory entry that replaces the level-2 entry of an address for a pinned launch (22 R489), and whether the
binding maps the address. -/
def pinnedDir (s : State) (pin : Option (Nat × Nat)) (va : Nat) : Option Nat :=
  match pin with
  | none => none
  | some (b, k) =>
    match mapGet? b s.hub.wbinds with
    | none => none
    | some x =>
      let vb := bits x.ctl.toNat 30 27
      let n := bits va 30 27
      if vb ≤ n ∧ n ≤ vb + bits x.ctl.toNat 16 6 then
        match mapGet? k x.slots with
        | some g => some (g.dir.toNat / 4096 % 2 ^ 44 * 4096 + 8 * (n - vb))
        | none => none
      else none

/-- A held translation serves an address. -/
def HeldPage.serves (h : HeldPage) (world : Nat) (pin : Option (Nat × Nat)) (va : Nat) : Bool :=
  h.used && h.world == world && h.pin == pin && va / 2 ^ h.bits * 2 ^ h.bits == h.base

/-- The leaf that the tables give for an address, and the number of offset bits of its page (16 R404, R405; 22 R489). -/
def tableLeaf (s : State) (world : Nat) (dir : Option Nat) (va : Nat) : Option (Nat × Nat) :=
  let root := (mapGet (0 : Word) s.hub.roots world).toNat
  if !bit root 0 || moduleOf (root / 4096 * 4096) != s.module then none
  else (walk s va dir 5 0 (root / 4096 % 2 ^ 44 * 4096)).map fun x => (x.1, pageBits x.1 x.2)

/-- The binding and slot under which a translation of an address is held (22 R489). -/
def pinOf (s : State) (pin : Option (Nat × Nat)) (va : Nat) : Option (Nat × Nat) :=
  if (pinnedDir s pin va).isSome then pin else none

/-- The leaf of an address: one that a translation cache holds, which may be old until a shootdown completes (04 R124), or
the tables'. -/
def leafOf (s : State) (world : Nat) (pin : Option (Nat × Nat)) (va : Nat) : Option (Nat × Nat) :=
  match s.pages.find? fun h => h.serves world (pinOf s pin va) va with
  | some h => h.leaf.map fun e => (e, h.bits)
  | none => tableLeaf s world (pinnedDir s pin va) va

/-- Bits [63:57] equal bit 56 (04 R121). -/
def isCanonical (va : Nat) : Bool := va / 2 ^ 56 == 0 || va / 2 ^ 56 == 0xFF

/-- The offset in the local aperture (04 R125). -/
def apertureOff (va : Nat) : Option Nat :=
  if 0xFFFFFFFFF8000000 ≤ va then some (va - 0xFFFFFFFFF8000000) else none

/-- An address lies in the range of a weight binding with a generation in service (22 R483, R484). -/
def inBinding (s : State) (va : Nat) : Bool :=
  s.hub.wbinds.any fun x =>
    decide (bits x.2.ctl.toNat 30 27 ≤ bits va 30 27)
      && decide (bits va 30 27 ≤ bits x.2.ctl.toNat 30 27 + bits x.2.ctl.toNat 16 6)
      && x.2.slots.any fun g => g.2.st == GenSt.current || g.2.st == GenSt.retiring

/-- A virtual address to a domain physical address with a permission (04 R121; 16 R403, R404): translation, then
permission. The local aperture is never translated (04 R125): no leaf maps it. The range of a weight binding is written in no
world (04 R130; 22 R487), by whatever tables it is translated (log entry 104). -/
def translate (s : State) (world : Nat) (priv : Bool) (pin : Option (Nat × Nat)) (need : Need) (va : Nat) :
    Except Cause Nat :=
  let own := (pinnedDir s pin va).isNone && !inBinding s va
  match (if (apertureOff va).isSome then none else leafOf s world pin va) with
  | none => .error .translation
  | some (e, n) =>
    let allowed := match need with
      | .read => bit e 1
      | .write => bit e 2 && own
      | .both => bit e 1 && bit e 2 && own
      | .exec => bit e 3
    if !allowed || (bit e 6 && !priv) then .error .permission
    else .ok (e / 4096 % 2 ^ 44 * 4096 / 2 ^ n * 2 ^ n + va % 2 ^ n)

/-- The chiplet of a core is fenced (18 R437). -/
def isFenced (s : State) (kind : CoreKind) (c : Nat) : Bool := (s.port (portOfCore kind c)).isolated

/-- A running task stands in the way of register accesses (04 R119). -/
def arrayBusy (s : State) (c : Nat) : Bool :=
  match (s.array c).task with
  | none => false
  | some t => t.stop.isNone && !(s.array c).saving

/-- A running warp stands in the way of accesses to its registers (04 R119; log entry 80: DESIGN CHOICE, each register is
judged by the warp that it belongs to). -/
def warpBusy (s : State) (c w : Nat) : Bool :=
  match mapGet? w (s.lane c).warps with
  | none => false
  | some x => x.stop.isNone && !(s.lane c).saving

/-- The window access raises window-busy (04 R119, 18 R437). -/
def windowBusy (s : State) : WinPart → Bool
  | .arrayStore c _ => isFenced s .array c
  | .arrayTile c _ _ => isFenced s .array c
  | .arrayAcc c _ => isFenced s .array c || arrayBusy s c
  | .arrayVec c _ => isFenced s .array c || arrayBusy s c
  | .arrayScalar c _ => isFenced s .array c || arrayBusy s c
  | .arrayPred c _ => isFenced s .array c || arrayBusy s c
  | .arrayHandle c _ => isFenced s .array c || arrayBusy s c
  | .arraySys c _ => isFenced s .array c || arrayBusy s c
  | .laneStack c o => isFenced s .lane c || warpBusy s c (o / 1024 / 32)
  | .laneScratch c _ => isFenced s .lane c
  | .laneWarp c w _ => isFenced s .lane c || warpBusy s c w
  | .laneSys c _ => isFenced s .lane c || (s.lane c).warps.any (fun x => decide (x.1 < 32) && warpBusy s c x.1)
  | .laneHandle c o => isFenced s .lane c || warpBusy s c (o / 256 / 32)
  | .hub _ => false
  | .link _ _ => false

/-- The core whose window a part belongs to. -/
def WinPart.owner : WinPart → Option (CoreKind × Nat)
  | .arrayStore c _ => some (.array, c)
  | .arrayTile c _ _ => some (.array, c)
  | .arrayAcc c _ => some (.array, c)
  | .arrayVec c _ => some (.array, c)
  | .arrayScalar c _ => some (.array, c)
  | .arrayPred c _ => some (.array, c)
  | .arrayHandle c _ => some (.array, c)
  | .arraySys c _ => some (.array, c)
  | .laneStack c _ => some (.lane, c)
  | .laneScratch c _ => some (.lane, c)
  | .laneWarp c _ _ => some (.lane, c)
  | .laneSys c _ => some (.lane, c)
  | .laneHandle c _ => some (.lane, c)
  | .hub _ => none
  | .link _ _ => none

/-- A privileged agent of a world may access a window: world 0 any window, another world that of a core serving it
(04 R118). -/
def windowAllowed (s : State) (world : Nat) (priv : Bool) (p : WinPart) : Bool :=
  priv && (world == 0 || (match p.owner with
    | some (.array, c) => (s.array c).world == some world
    | some (.lane, c) => (s.lane c).world == some world
    | none => false))

/-- Where an access goes. -/
inductive Target where
  | core (off : Nat)
  | mem (a : Nat)
  | window (p : WinPart)
  deriving DecidableEq, Repr

/-- Checks 5 to 7 of 08 R223 on a domain physical address, but for window-busy. -/
def physPlace (s : State) (world : Nat) (priv : Bool) (a : Nat) : Except Cause Target :=
  let l := localOf a
  if moduleOf a = s.module then
    if isReserved s l then .error .addressRange
    else match (if isWindowMap l then winPart l else none) with
      | none => .ok (.mem a)
      | some p => if windowAllowed s world priv p then .ok (.window p) else .error .windowAccess
  else if isWindowMap l then (if (winPart l).isNone then .error .addressRange else .error .windowAccess)
  else if !isCoherent l then .error .addressRange
  else if !reachable s (moduleOf a) then .error .peerUnreachable
  else .ok (.mem a)

/-- Checks 5 to 7 of 08 R223 on a domain physical address. -/
def physTarget (s : State) (world : Nat) (priv : Bool) (a : Nat) : Except Cause Target :=
  match physPlace s world priv a with
  | .ok (.window p) => if windowBusy s p then .error .windowBusy else .ok (.window p)
  | r => r

/-- Checks 2 to 7 of 08 R223 on an address of a lane thread: its scratchpad has `scr` bytes. -/
def laneTarget (s : State) (i : UnitInfo) (scr : Nat) (need : Need) (va size : Nat) : Except Cause Target :=
  if !isCanonical va then .error .nonCanonical
  else match apertureOff va with
    | some o => if o + size ≤ scr then .ok (.core o) else .error .scratchBound
    | none =>
      match translate s i.world i.priv i.pin need va with
      | .error c => .error c
      | .ok a => physTarget s i.world i.priv a

/-- Checks 2 to 4 of 08 R223 on an address of the S engine of an array core: only local store is reached. -/
def arrayTarget (va : Nat) : Except Cause Target :=
  if !isCanonical va then .error .nonCanonical
  else match apertureOff va with
    | some o => .ok (.core o)
    | none => .error .localOnly

/-- Fetch (07 R196): the text range, then translation with execute permission. A window holds no text (log entry 88). -/
def fetchAddr (s : State) (i : UnitInfo) (pc : Word) : Except Cause Nat :=
  if pc.toNat < i.record.textBase.toNat ∨ i.record.textLimit.toNat ≤ pc.toNat then .error .fetchBound
  else if !isCanonical pc.toNat then .error .nonCanonical
  else match translate s i.world i.priv i.pin .exec pc.toNat with
    | .error c => .error c
    | .ok a =>
      match physTarget s i.world i.priv a with
      | .error c => .error c
      | .ok (.mem b) => .ok b
      | .ok _ => .error .windowAccess

end Sys2Proof.Machine
end

