-- ==== Sys2Proof/Machine/Traffic.lean ====
section
/-! DEFINITION. Accesses in flight (01 R50; 06 R155 to R167): their order, their application to memory or to the
storage of a core, poisoned lines (18 R431), reduction windows (06 R174), the return of load data and the acceptance
of stores. -/

namespace Sys2Proof.Machine

/-! ### Who -/

/-- The core of an agent. -/
def Agent.home : Agent → Option (CoreKind × Nat)
  | .lane c _ _ => some (.lane, c)
  | .task c => some (.array, c)
  | .gone k c _ _ => some (k, c)
  | .hart _ => none
  | .pcie _ => none

/-- The port of an agent's chiplet (16 R388). -/
def Agent.port : Agent → Nat
  | .lane c _ _ => portOfCore .lane c
  | .task c => portOfCore .array c
  | .gone k c _ _ => portOfCore k c
  | .hart h => h / 32
  | .pcie p => p

/-- The port of the chiplet that an access was made on. -/
def Flight.chip (f : Flight) : Nat := f.born.port

/-- The record of an event at an operation's origin (18 R423). -/
def originReport (o : Origin) (cause : Cause) (cls code addr : Nat) : Report :=
  { cause := cause, cls := cls, world := o.world, jobLevel := false, more := false,
    kind := (match o.kind with | .array => 0 | .lane => 1), core := o.core, launch := o.launch, job := o.job,
    unit := o.idx, slot := o.slot, lane := o.lane, code := code, addr := addr, pc := o.pc.toNat, cursor := o.cursor,
    cpos := [], step := 0 }

/-- Ranges of bytes share a byte. -/
def overlaps (a n b m : Nat) : Bool := decide (a < b + m) && decide (b < a + n)

/-- The bytes [a, a + n) lie within [b, b + m). -/
def covered (a n b m : Nat) : Bool := decide (b ≤ a) && decide (a + n ≤ b + m)

/-! ### Lines of a non-coherent chiplet (06 R172; 16 R397) -/

/-- The chiplet at a port is of the non-coherent class, which array chiplets alone may have (16 R397). -/
def isNonCoherent (s : State) (p : Nat) : Bool := decide (6 ≤ p) && decide (p < 16) && (s.port p).cclass == 2

/-- The byte that a chiplet itself has for an address: one that it wrote and has not flushed, or one of a line copy. -/
def ownByte (s : State) (p a : Nat) : Option Byte :=
  match mapGet? a (mapGet [] s.kept p) with
  | some b => some b.byte
  | none => (s.lines.find? fun x => x.used && x.port == p && x.line == lineOf a).bind fun x => x.bytes[a % 128]?

/-- What a chiplet itself has for the bytes at an address. -/
def ownBytes (s : State) (p a n : Nat) : List (Option Byte) :=
  (upFrom a n).map fun x => if isNonCoherent s p then ownByte s p x else none

/-- Bytes with those that the chiplet itself has in their place. -/
def overlay {α : Type} (own : List (Option α)) (bs : List α) : List α := (own.zip bs).map fun x => x.1.getD x.2

/-- Bytes as a chiplet reads them. -/
def viewBytes (s : State) (p a : Nat) (bs : List Byte) : List Byte := overlay (ownBytes s p a bs.length) bs

/-- A value of `n` bytes as a chiplet reads it. -/
def viewWord (s : State) (p a n : Nat) (v : Word) : Word := word (natOfBytes (viewBytes s p a (bytesOfNat n v.toNat)))

/-- The line copies of a chiplet take the bytes that it writes. -/
def patchLines (s : State) (p a : Nat) (bs : List Byte) : State :=
  { s with lines := s.lines.map fun x =>
      if x.port = p then
        { x with bytes := (x.bytes.zip (upFrom (128 * x.line) 128)).map fun y =>
            if a ≤ y.2 then (bs[y.2 - a]?).getD y.1 else y.1 }
      else x }

/-- A chiplet's write that goes to its home: its line copies take it, and what it kept there is written no more. -/
def passWrite (s : State) (p a : Nat) (bs : List Byte) : State :=
  let s1 := patchLines s p a bs
  if isNonCoherent s p then
    { s1 with kept := mapSet p ((mapGet [] s.kept p).filter fun x => !overlaps x.1 1 a bs.length) s1.kept }
  else s1

/-- A chiplet's write that stays with it until it is flushed; `op` is the access or copy command that makes it, `by_` its
agent, and `copied` says that it is a copy command. -/
def keepWrite (s : State) (p a : Nat) (bs : List Byte) (o : Origin) (op : Nat) (by_ : Agent) (copied : Bool) : State :=
  let m := (bs.zip (upFrom a bs.length)).foldl (fun m x =>
    mapSet x.2 ({ byte := x.1, op := op, copied := copied, agent := by_, origin := o } : KeptByte) m)
    (mapGet [] s.kept p)
  { patchLines s p a bs with kept := mapSet p m s.kept }

/-- A chiplet of the non-coherent class keeps its writes to coherent memory for now. -/
def keepsWrites (s : State) (p : Nat) : Bool := isNonCoherent s p && s.holding.contains p

/-- The line is poisoned (18 R431); one that a fenced port holds in M or O counts as cleaned already (R437). -/
def isPoisoned (s : State) (a : Nat) : Bool := (cleanRange s a 1).poison.contains (lineOf a)

/-- Bytes that are not poisoned. -/
def clean (bs : List Byte) : List PByte := bs.map fun b => (b, false)

/-- The poisoned lines after a copy write at an address (18 R431; 11 R299): poison is carried, and a whole line written
clean is clean. -/
def poisonAfter (poison : List Nat) (a : Nat) (bs : List PByte) : List Nat :=
  (linesOf a bs.length).foldl (fun ps line =>
    let lo := max a (128 * line)
    let part := (bs.drop (lo - a)).take (128 * (line + 1) - lo)
    if part.any (·.2) then (if ps.contains line then ps else line :: ps)
    else if part.length = 128 then ps.filter fun x => x != line
    else ps) poison

/-- A copy write applied at the home of coherent memory. -/
def putHome (s : State) (a : Nat) (bs : List PByte) : State :=
  let s1 := writeHome s a (bs.map (·.1))
  { s1 with poison := poisonAfter s1.poison a bs }

/-- A reduction window of a world holds a local address (21 R479). -/
def inWindow (s : State) (world l : Nat) : Nat → Bool
  | 0 => false
  | i + 1 =>
    let e := 128 * (i / 8) + 8 * world + i % 8
    let w := mapGet { base := 0, limit := 0 } s.hub.rwins e
    (w.base.getLsbD 0 && decide (w.base.toNat / 4096 ≤ l / 4096) && decide (l / 4096 ≤ w.limit.toNat / 4096))
      || inWindow s world l i

/-- What an atomic stores, and its flags (12 R333, R334; 02 R83, R84): N bits, the old value, the operand and the
comparand. -/
def amoNew (op : AmoOp) (n old v cmp : Nat) : Nat × Flag :=
  let o := old % 2 ^ n
  let x := v % 2 ^ n
  match op with
  | .add => ((o + x) % 2 ^ n, noFlag)
  | .and => (o &&& x, noFlag)
  | .or => (o ||| x, noFlag)
  | .xor => (o ^^^ x, noFlag)
  | .min => (if signed n x < signed n o then x else o, noFlag)
  | .max => (if signed n o < signed n x then x else o, noFlag)
  | .minu => (if x < o then x else o, noFlag)
  | .maxu => (if o < x then x else o, noFlag)
  | .swap => (x, noFlag)
  | .cas => (if o = cmp % 2 ^ n then x else o, noFlag)
  | .fcas => (if o = cmp % 2 ^ n then x else o, noFlag)
  | .fadd => let r := finishF fp32 0 (addF 0 (decodeF fp32 o) (decodeF fp32 x)); (r.bits, r.flags)
  | .fmin => let r := minMaxF fp32 false o x; (r.bits, r.flags)
  | .fmax => let r := minMaxF fp32 true o x; (r.bits, r.flags)

/-- Flags of a reduction raised in the atomic flag log of its world (02 R85, 18 R426). -/
def raiseAflog (s : State) (world : Nat) (fl : Flag) : State :=
  let l := s.flog world
  if fl = 0 then s else s.setFlog world { l with aflog := l.aflog ||| BitVec.ofNat 6 (fl / 256) }

/-- A reduction that a merge buffer takes (06 R174): the entry is loaded when there is none, entries that overlap it in
part are written first, and the reduction applies itself to it. -/
def mergeRed (s : State) (op : AmoOp) (world a size : Nat) (v : Word) : State :=
  let exact := match mapGet? a s.merge with
    | some e => e.1 == size
    | none => false
  let s1 := dropReserves (if exact then s else flushMerge s a size) a size
  let old := match mapGet? a s1.merge with
    | some e => e.2.toNat
    | none => readNat s1.mem a size
  let r := amoNew op (8 * size) old v.toNat 0
  raiseAflog { s1 with merge := mapSet a (size, word r.1) s1.merge } world r.2

/-- A load, store, atomic or reduction applied at its home, indivisibly (06 R155, R166, R174; 18 R431): the memory
after it, the value read and the flags of an atomic. A poisoned line reads as zero and stays poisoned. -/
def applyAt (s : State) (kind : AccKind) (world a size : Nat) (data cmp : Word) : State × Word × Flag :=
  let old := if isPoisoned s a then 0 else peekNat s a size
  match kind with
  | .load => (flushMerge s a size, word old, noFlag)
  | .store => (poke s a (bytesOfNat size data.toNat), 0, noFlag)
  | .amo op =>
    let r := amoNew op (8 * size) old data.toNat cmp.toNat
    (poke s a (bytesOfNat size r.1), word old, r.2)
  | .red op =>
    if !isPoisoned s a && decide (moduleOf a = s.module) && inWindow s world (localOf a) 64 then
      (mergeRed s op world a size data, 0, noFlag)
    else
      let r := amoNew op (8 * size) old data.toNat 0
      let s1 := poke s a (bytesOfNat size r.1)
      (if moduleOf a = s.module then raiseAflog s1 world r.2 else s1, 0, noFlag)
  | .sc => (s, 0, noFlag)
  | .copy => (s, 0, noFlag)
  | .copyRead => (s, 0, noFlag)
  | .flag => (s, 0, noFlag)
  | .fence _ _ => (s, 0, noFlag)
  | .fenceWR => (s, 0, noFlag)

/-- The class 6 record of an access that meets a poisoned line (18 R424, R431); a store writes none. -/
def poisonReport (s : State) (o : Origin) (kind : AccKind) (a : Nat) : State :=
  if isPoisoned s a && kind != AccKind.store then report s (originReport o .chipletIsolated 6 0 a) else s

/-! ### Storage of a core -/

/-- The storage of a core: local store or scratchpad. -/
def storage (s : State) : CoreKind → Nat → Memory
  | .array, c => (s.array c).localStore
  | .lane, c => (s.lane c).scratch

/-- Bytes written to the storage of a core. The first byte above those written stays known of a local store (18 R434). -/
def writeStorage (s : State) (kind : CoreKind) (c a : Nat) (bs : List Byte) : State :=
  match kind with
  | .array =>
    let k := s.array c
    s.setArray c { k with localStore := writeBytes k.localStore a bs, top := if bs = [] then k.top else max k.top (a + bs.length) }
  | .lane =>
    let k := s.lane c
    s.setLane c { k with scratch := writeBytes k.scratch a bs }

/-- An access to the storage of its core (12 R337), for a world: the storage is the home of a reduction there, whose flags
go to the atomic flag log (02 R85). -/
def applyCore (s : State) (kind : AccKind) (world : Nat) (k : CoreKind) (c a size : Nat) (data cmp : Word) :
    State × Word × Flag :=
  let old := readNat (storage s k c) a size
  match kind with
  | .load => (s, word old, noFlag)
  | .store => (writeStorage s k c a (bytesOfNat size data.toNat), 0, noFlag)
  | .amo op =>
    let r := amoNew op (8 * size) old data.toNat cmp.toNat
    (writeStorage s k c a (bytesOfNat size r.1), word old, r.2)
  | .red op =>
    let r := amoNew op (8 * size) old data.toNat 0
    (raiseAflog (writeStorage s k c a (bytesOfNat size r.1)) world r.2, 0, noFlag)
  | .sc => (s, 0, noFlag)
  | .copy => (s, 0, noFlag)
  | .copyRead => (s, 0, noFlag)
  | .flag => (s, 0, noFlag)
  | .fence _ _ => (s, 0, noFlag)
  | .fenceWR => (s, 0, noFlag)

/-! ### Order (06 R157 to R167) -/

/-- An access that reads: a load or a returning atomic. -/
def AccKind.reads : AccKind → Bool
  | .load => true
  | .amo _ => true
  | .sc => true
  | _ => false

/-- An access that writes. -/
def AccKind.writes : AccKind → Bool
  | .store => true
  | .amo _ => true
  | .red _ => true
  | .sc => true
  | .copy => true
  | .flag => true
  | _ => false

/-- A request of a copy command to another module. -/
def AccKind.copies : AccKind → Bool
  | .copy => true
  | .copyRead => true
  | .flag => true
  | _ => false

/-- A fence. -/
def AccKind.isFence : AccKind → Bool
  | .fence _ _ => true
  | .fenceWR => true
  | _ => false

/-- An access is to memory of another module. -/
def Flight.remote (s : State) (f : Flight) : Bool := f.space == Space.domain && moduleOf f.addr != s.module

/-- The access has been applied, or has the value that it returns. -/
def Flight.applied (f : Flight) : Bool := f.stage == Stage.applied

/-- The flight with an identifier. -/
def findFlight (fs : List Flight) (id : Nat) : Option Flight := fs.find? fun f => f.id == id

/-- The agent is an array task. -/
def Agent.isTask : Agent → Bool
  | .task _ => true
  | .gone .array _ _ _ => true
  | _ => false

/-- A write is performed at a scope (06 R159 to R161): once applied at every scope; a store sent to another module at
thread to chiplet scope; a store taken by its group, core or chiplet at scopes up to that one, past which no agent there
reads any more; a lane thread's store to memory at thread scope at once, since its own loads and copies take it (06 R157,
R158). On an array core thread scope holds every engine of the task (12 R322). -/
def writePerformed (scope : Nat) (f : Flight) : Bool :=
  f.applied || (f.kind == AccKind.store
    && ((f.stage == Stage.posted && decide (scope ≤ f.upTo)) || (f.stage == Stage.sent && decide (scope ≤ 3))
      || (decide (scope = 0) && !f.agent.isTask && f.space == Space.domain)))

/-- An access is performed at a scope (06 R159): a load when its value comes from a write performed there. The writes of a
copy command take part once a `dwait` has returned on its batch (06 R170). -/
def performedAt (fs : List Flight) (scope : Nat) (f : Flight) : Bool :=
  match f.kind with
  | .load =>
    f.applied && (match f.fwd with
      | none => true
      | some i => match findFlight fs i with
        | none => true
        | some g => writePerformed scope g)
  | .store => writePerformed scope f
  | .amo _ => f.applied && !f.counted
  | .sc => f.applied && !f.counted
  | .red _ => f.applied
  | .copy => !f.waited || f.applied || decide (scope = 0)
  | .copyRead => true
  | .flag => true
  | .fence _ _ => true
  | .fenceWR => true

/-- Earlier accesses of the same agent. -/
def earlier (fs : List Flight) (agent : Agent) (id : Nat) : List Flight :=
  fs.filter fun f => f.agent == agent && decide (f.id < id)

/-- Every access that a fence waits for is performed at its scope (06 R163). -/
def fenceDone (fs : List Flight) (g : Flight) : Bool :=
  match g.kind with
  | .fence waitAll _ =>
    (earlier fs g.agent g.id).all fun f => (!waitAll && !f.kind.reads) || performedAt fs g.scope f
  | .fenceWR => (earlier fs g.agent g.id).all fun f => !f.kind.writes || performedAt fs g.scope f
  | _ => true

/-- An earlier fence holds an access of this kind (06 R163). -/
def fenceHolds (write : Bool) (g : Flight) : Bool :=
  match g.kind with
  | .fence _ holdAll => holdAll || write
  | _ => false

/-- No fence from writes to reads earlier in the agent's order holds a read back (06 R169). -/
def readsFree (fs : List Flight) (agent : Agent) (id : Nat) : Bool :=
  (earlier fs agent id).all fun g => g.kind != AccKind.fenceWR || fenceDone fs g

/-- What acquire loads and fences earlier in the agent's order hold back is not held (06 R163). -/
def notHeld (fs : List Flight) (agent : Agent) (id : Nat) (write : Bool) : Bool :=
  (earlier fs agent id).all fun g =>
    if g.kind.isFence then !fenceHolds write g || fenceDone fs g
    else !g.acq || performedAt fs g.scope g

/-- Every M operation that the agent issued before an access has retired. -/
def matrixDone (s : State) (f : Flight) : Bool :=
  match f.agent with
  | .task c => (s.array c).ops.all fun o => o.kind != OpKind.matrix || decide (f.id < o.id)
  | .lane c w l => (s.lane c).ops.all fun o =>
    o.kind != OpKind.matrix || o.origin.key != w || o.origin.lane != l || decide (f.id < o.id)
  | _ => true

/-- An acquire of a control hart comes after its earlier releases (06 R169): the aq and rl of RVWMO are of the kind RCsc. -/
def afterReleases (s : State) (f : Flight) : Bool :=
  match f.agent with
  | .hart _ => !f.acq || (earlier s.flight f.agent f.id).all fun e => !e.rel || performedAt s.flight f.scope e
  | _ => true

/-- The orders other than those of one location and of one core's writes to a module (06 R157, R163). A release waits for
every engine of an array task. -/
def ordered (s : State) (f : Flight) : Bool :=
  afterReleases s f && notHeld s.flight f.agent f.id f.kind.writes && (!f.kind.reads || readsFree s.flight f.agent f.id)
    && (!f.kind.writes || (earlier s.flight f.agent f.id).all fun e => !e.kind.reads || e.applied)
    && (!f.rel || (matrixDone s f && (earlier s.flight f.agent f.id).all fun e => performedAt s.flight f.scope e))

/-- Two agents send their requests as one core: they work on it, or they are one hart or one device (06 R162). -/
def Agent.sameCore (a b : Agent) : Bool := a == b || (a.home.isSome && a.home == b.home)

/-- The writes that a core issued before one to the same module have gone before it: they are sent, or for a store that its
chiplet only takes they are taken (06 R162). -/
def inTurn (s : State) (taking : Bool) (f : Flight) : Bool :=
  !(f.remote s && f.kind.writes) || s.flight.all fun e =>
    !(decide (e.id < f.id) && e.born.sameCore f.born && e.remote s && e.kind.writes && !e.kind.copies
        && moduleOf e.addr == moduleOf f.addr)
      || e.applied || e.stage == Stage.sent || (taking && e.stage == Stage.posted)

/-- Accesses that come before one at its location: earlier ones of the agent, and writes of lower lanes of the same
word (06 R158; 08 R226; 12 R335). A copy command's write comes before once a `dwait` has returned on it (06 R170). -/
def sameLocation (fs : List Flight) (f : Flight) : List Flight :=
  fs.filter fun e =>
    decide (e.id < f.id) && e.space == f.space && !e.kind.isFence && overlaps e.addr e.size f.addr f.size
      && (!e.kind.copies || e.waited)
      && (e.agent == f.agent || (e.grp == f.grp && e.kind.writes && f.kind.writes))

/-- Agent `b` belongs to the scope of agent `a` (06 R153): thread, group, core, or else chiplet. -/
def Agent.within (scope : Nat) (a b : Agent) : Bool :=
  match scope with
  | 0 => a == b
  | 1 => a == b || (match a, b with
    | .lane c w _, .lane d v _ => c == d && w == v
    | _, _ => false)
  | 2 => a == b || (a.home.isSome && a.home == b.home)
  | _ => a.port == b.port

/-- An agent, as it now is and as it was when it made an access, sees a store that has been taken: for its thread or group what
they now are counts, for its core or chiplet where the two were made (06 R159, R161). -/
def Flight.shows (e : Flight) (now born : Agent) : Bool :=
  if e.upTo ≤ 1 then e.agent.within e.upTo now else e.born.within e.upTo born

/-- A store that has been taken stands before an access of its scope: no agent there reads or writes past it (06 R159,
R161). -/
def behindPosted (s : State) (f : Flight) : Bool :=
  f.space == Space.domain && s.flight.any fun e =>
    e.stage == Stage.posted && e.id != f.id && e.shows f.agent f.born && overlaps e.addr e.size f.addr f.size
      && (f.stage != Stage.posted || decide (e.post < f.post))

/-- The access may be applied, or sent to its home. -/
def mayPerform (s : State) (f : Flight) : Bool :=
  ordered s f && inTurn s false f && (sameLocation s.flight f).all Flight.applied

/-- A store is taken before its home has seen it, by its group, its core or its chiplet; one to another module by its
chiplet, which forwards it (06 R159, R161). -/
def takeStore (s : State) (id scope : Nat) : State :=
  match findFlight s.flight id with
  | none => s
  | some f =>
    if f.stage == Stage.issued && f.kind == AccKind.store && f.space == Space.domain
        && (scope == 3 || (decide (1 ≤ scope) && decide (scope ≤ 2) && !f.remote s)) && ordered s f && inTurn s true f
        && (sameLocation s.flight f).all Flight.applied then
      { s with flight := s.flight.map (fun g =>
                 if g.id = id then { g with stage := .posted, upTo := scope, post := s.nextId } else g),
               nextId := s.nextId + 1 }
    else s

/-- The latest of a list of flights that is not applied. -/
def lastOpen : List Flight → Option Flight
  | [] => none
  | f :: rest => match lastOpen rest with
    | some g => some g
    | none => if f.applied then none else some f

/-- Bytes of a store that a load takes (06 R157, R161). -/
def takeFrom (g : Flight) (f : Flight) : Word := word (g.data.toNat / 2 ^ (8 * (f.addr - g.addr)) % 2 ^ (8 * f.size))

/-- A store of another agent that was taken or sent after one of this agent's, and that this agent sees: it is the later one
(06 R158, R161, R164). A store that nothing has taken is later than every store taken. -/
def overtaken (s : State) (f g : Flight) : Bool :=
  g.stage != Stage.issued && s.flight.any fun e =>
    (e.stage == Stage.sent || e.stage == Stage.posted) && e.kind == AccKind.store && e.shows f.agent f.born && e.space == f.space
      && overlaps e.addr e.size f.addr f.size && decide (g.post < e.post)

/-- The agent's own store that a load may take its value from (06 R157). -/
def ownStore (s : State) (f : Flight) : Option Flight :=
  match f.kind with
  | .load =>
    match lastOpen (sameLocation s.flight f) with
    | some g =>
      if g.kind == AccKind.store && covered f.addr f.size g.addr g.size && ordered s f && !overtaken s f g then some g else none
    | none => none
  | _ => none

/-- The stores to another module that the chiplet has taken or sent, that share a byte with a load and are not yet
applied (06 R161). -/
def sentStores (s : State) (f : Flight) : List Flight :=
  s.flight.filter fun e =>
    (e.stage == Stage.sent || e.stage == Stage.posted) && e.kind == AccKind.store && e.chip == f.chip
      && e.space == f.space && overlaps e.addr e.size f.addr f.size

/-- The store that the chiplet took last. -/
def lastTaken : List Flight → Option Flight
  | [] => none
  | f :: rest => match lastTaken rest with
    | none => some f
    | some g => if g.post < f.post then some f else some g

/-! ### The list of flights -/

/-- The flights with one changed. -/
def State.onFlight (s : State) (id : Nat) (g : Flight → Flight) : State :=
  { s with flight := s.flight.map fun f => if f.id = id then g f else f }

/-- What is done with leaves the list: accesses applied and counted out, loads whose store is applied, fences that
wait for nothing. Ordered by identifier, earlier accesses come first; `keep` are requests that await replies. -/
def sweepFrom (keep : List Nat) (fs : List Flight) : List Flight → List Flight
  | [] => []
  | f :: rest =>
    let done := match f.kind with
      | .fence _ _ => fenceDone fs f
      | .fenceWR => fenceDone fs f
      | _ => f.applied && !f.counted && performedAt fs 5 f && !keep.contains f.id
    if done then sweepFrom keep fs rest else f :: sweepFrom keep fs rest

/-- The list without what is done. -/
def State.sweep (s : State) : State :=
  { s with flight := sweepFrom (s.remote.flatMap fun r => r.2.waiting.map (·.id)) s.flight s.flight }

/-- The hart's reservation covers a range (06 R169). -/
def reserved (s : State) (a : Agent) (addr size : Nat) : Bool :=
  match a with
  | .hart h => (match mapGet? h s.reserves with
    | some r => covered addr size r.1 r.2
    | none => false)
  | _ => false

/-- A store-conditional at its home (06 R169): with its reservation it stores and returns 0, without it returns 1. Either way
the reservation is over. -/
def applySc (s : State) (f : Flight) : State :=
  let s1 := if reserved s f.agent f.addr f.size then poke s f.addr (bytesOfNat f.size f.data.toNat) else s
  let s2 := match f.agent with
    | .hart h => { s1 with reserves := mapErase h s1.reserves }
    | _ => s1
  s2.onFlight f.id fun g => { g with stage := .applied, value := if reserved s f.agent f.addr f.size then 0 else 1 }

/-- The bytes of coherent memory as a copy reads them: a poisoned line reads as zero (18 R431). -/
def homeBytes (s : State) (a n : Nat) : List PByte :=
  (peek s a n).zip (upFrom a n) |>.map fun x => if isPoisoned s x.2 then (0, true) else (x.1, false)

/-- A load, store, atomic or reduction applied at its home. -/
def applyScalar (s : State) (f : Flight) : State :=
  let s0 := poisonReport s f.origin f.kind f.addr
  let (s1, v0, fl) := applyAt s0 f.kind f.origin.world f.addr f.size f.data f.cmp
  let p := f.chip
  let v := if f.kind == AccKind.load then viewWord s p f.addr f.size v0 else v0
  let s2 := if f.kind == AccKind.store then passWrite s1 p f.addr (bytesOfNat f.size f.data.toNat) else s1
  s2.onFlight f.id fun g => { g with stage := .applied, value := v, flags := fl }

/-- An access applied at its home or its core: the value and flags kept with it (06 R159). A control hart or a device
that would read a poisoned line gets the cause instead (18 R431). -/
def applyFlight (s : State) (f : Flight) : State :=
  match f.space with
  | .domain =>
    match f.kind with
    | .copy => (putHome s f.addr f.bulk).onFlight f.id fun g => { g with stage := .applied }
    | .flag => (putHome s f.addr f.bulk).onFlight f.id fun g => { g with stage := .applied }
    | .copyRead => s.onFlight f.id fun g => { g with stage := .applied, bulk := homeBytes s f.addr f.size }
    | .sc => applySc s f
    | _ =>
      if f.agent.home.isNone && f.kind.reads && isPoisoned s f.addr then
        s.onFlight f.id fun g => { g with stage := .applied, value := 0, flags := causeCode .chipletIsolated }
      else applyScalar s f
  | .core =>
    match f.agent.home with
    | some (k, c) =>
      let (s1, v, fl) := applyCore s f.kind f.origin.world k c f.addr f.size f.data f.cmp
      s1.onFlight f.id fun g => { g with stage := .applied, value := v, flags := fl }
    | none => s

/-! ### Counters (01 R50) -/

/-- Which counter. -/
inductive CounterName where
  | ld | st | cp | tl
  deriving DecidableEq, Repr

/-- A counter by its name. -/
def Counters.get (c : Counters) : CounterName → Nat
  | .ld => c.ld
  | .st => c.st
  | .cp => c.cp
  | .tl => c.tl

/-- The counters with one replaced. -/
def Counters.set (c : Counters) (n : CounterName) (v : Nat) : Counters :=
  match n with
  | .ld => { c with ld := v }
  | .st => { c with st := v }
  | .cp => { c with cp := v }
  | .tl => { c with tl := v }

/-- A unit's counters changed: the warp at a key of a lane core, or the task of an array core. -/
def onCounters (s : State) (kind : CoreKind) (c key : Nat) (f : Counters → Counters) : State :=
  match kind with
  | .array =>
    let k := s.array c
    s.setArray c { k with task := k.task.map fun t => { t with cnt := f t.cnt } }
  | .lane =>
    let k := s.lane c
    s.setLane c { k with warps := mapUpdate key (fun w => { w with cnt := f w.cnt }) k.warps }

/-- One operation counted. -/
def countUp (s : State) (kind : CoreKind) (c slot : Nat) (n : CounterName) : State :=
  onCounters s kind c slot fun x => x.set n (x.get n + 1)

/-- One operation counted out. -/
def countDown (s : State) (kind : CoreKind) (c slot : Nat) (n : CounterName) : State :=
  onCounters s kind c slot fun x => x.set n (x.get n - 1)

/-- The place of an agent's unit. -/
def Agent.unit : Agent → Option (CoreKind × Nat × Nat)
  | .lane c w _ => some (.lane, c, w)
  | .task c => some (.array, c, 0)
  | _ => none

/-! ### Data return and acceptance -/

/-- A warp of a lane core belongs to a launch's unit. -/
def isWarpOf (s : State) (o : Origin) : Bool :=
  match mapGet? o.key (s.lane o.core).warps with
  | none => false
  | some w => w.idx.toNat == o.idx && (match mapGet? w.wg (s.lane o.core).wgs with
      | none => false
      | some g => g.info.world == o.world && g.info.job == o.job && g.info.launch == o.launch)

/-- The unit that issued an operation is still there. -/
def unitThere (s : State) (o : Origin) : Bool :=
  match o.kind with
  | .lane => isWarpOf s o
  | .array => match (s.array o.core).task with
    | none => false
    | some t => t.idx.toNat == o.idx && t.info.world == o.world && t.info.job == o.job && t.info.launch == o.launch

/-- A lane core holds a warp of a launch's unit. -/
def LaneCore.holds (k : LaneCore) (o : Origin) : Bool :=
  k.warps.any fun w => w.2.idx.toNat == o.idx && (match mapGet? w.2.wg k.wgs with
    | none => false
    | some g => g.info.world == o.world && g.info.job == o.job && g.info.launch == o.launch)

/-- An array core holds the task of a launch's unit. -/
def ArrayCore.holds (k : ArrayCore) (o : Origin) : Bool :=
  match k.task with
  | none => false
  | some t => t.idx.toNat == o.idx && t.info.world == o.world && t.info.job == o.job && t.info.launch == o.launch

/-- The unit that issued an operation has not completed: it is on some core, or saved (18 R424, R430). -/
def unitOpen (s : State) (o : Origin) : Bool :=
  match o.kind with
  | .lane => s.lanes.any (fun k => k.2.holds o) || s.hub.saved.any fun v => v.lane.any fun k => k.holds o
  | .array => s.arrays.any (fun k => k.2.holds o) || s.hub.saved.any fun v => v.task.any fun k => k.holds o

/-- The thread of an agent changed. -/
def onThread (s : State) (a : Agent) (f : Thread → Thread) : State :=
  match a with
  | .lane c w l =>
    let k := s.lane c
    s.setLane c { k with warps := mapUpdate w (fun x => { x with threads := mapUpdate l f x.threads }) k.warps }
  | .task c => let k := s.array c; s.setArray c { k with th := f k.th }
  | _ => s

/-- The value that a load or atomic writes to its register (08 R221; 12 R333, R334). -/
def extended (f : Flight) : Word :=
  if f.ext then wordOfInt (signed (8 * f.size) f.value.toNat) else word (f.value.toNat % 2 ^ (8 * f.size))

/-- A request to another module awaits its reply (06 R176). -/
def awaitsReply (s : State) (f : Flight) : Bool :=
  match mapGet? (moduleOf f.addr) s.remote with
  | none => false
  | some r => r.waiting.any fun x => x.id == f.id

/-- One access of a returning word made ready to return: an access of its core's storage is applied, a load takes its
agent's own store; none where it must wait. -/
def readyOne (s : State) (id : Nat) : Option State :=
  match findFlight s.flight id with
  | none => some s
  | some f =>
    if f.applied then (if awaitsReply s f then none else some s)
    else if f.space == Space.core && mayPerform s f then some (applyFlight s f)
    else if f.stage != Stage.issued then none
    else match ownStore s f with
      | some g => some (s.onFlight id fun x => { x with stage := .applied, value := takeFrom g x, fwd := some g.id })
      | none => none

/-- Every access of a word made ready, in their order. -/
def readyAll (s : State) : List Nat → Option State
  | [] => some s
  | i :: rest => match readyOne s i with
    | some s1 => readyAll s1 rest
    | none => none

/-- The accesses of a word that a counter still counts. -/
def groupOfWord (s : State) (grp : Nat) : List Flight :=
  s.flight.filter fun f => f.grp == grp && f.counted && !f.kind.copies

/-- A returned value written to its register, with the flags of an atomic (02 R85), unless its unit was discarded (08 R240),
or given to the control hart or the
device that asked for it, after the cause of an error (0: none). -/
def writeBack (s : State) (f : Flight) : State :=
  if f.agent.home.isNone then { s with reply := some [word f.flags, extended f] }
  else match f.dest with
    | none => s
    | some p =>
      if unitThere s f.origin then onThread s f.agent fun t => (t.setPreg p (extended f)).raise f.flags else s

/-- An operation counted out of its unit's counter, while the unit is there (01 R50). -/
def countOut (s : State) (o : Origin) (n : CounterName) : State :=
  if unitThere s o then countDown s o.kind o.core o.key n else s

/-- The group's accesses no longer counted. -/
def State.uncount (s : State) (grp : Nat) : State :=
  { s with flight := s.flight.map fun f => if f.grp = grp then { f with counted := false } else f }

/-- LOAD_DATA_RETURN (01 R50, 08 R222): the data of a word is written to its destinations and LD falls. -/
def execLoadDataReturn (grp : Nat) (s : State) : Answer :=
  match groupOfWord s grp with
  | [] => .next s
  | f :: fs =>
    if !f.kind.reads then .next s
    else match readyAll s ((f :: fs).map (·.id)) with
      | none => .next s
      | some s1 =>
        let s2 := (groupOfWord s1 grp).foldl writeBack s1
        .next (countOut (s2.uncount grp).sweep f.origin .ld)

/-- One access of an accepted word: an access of its core's storage is applied; none where it must wait. -/
def acceptOne (s : State) (id : Nat) : Option State :=
  match findFlight s.flight id with
  | none => some s
  | some f =>
    if f.applied || f.space == Space.domain then some s
    else if mayPerform s f then some (applyFlight s f) else none

/-- Every access of a word accepted, in their order. -/
def acceptAll (s : State) : List Nat → Option State
  | [] => some s
  | i :: rest => match acceptOne s i with
    | some s1 => acceptAll s1 rest
    | none => none

/-- STORE_ACCEPT (01 R50, 08 R222, 06 R167): a store or reduction is accepted and ST falls. -/
def execStoreAccept (grp : Nat) (s : State) : Answer :=
  match groupOfWord s grp with
  | [] => .next s
  | f :: fs =>
    if f.kind.reads then .next s
    else match acceptAll s ((f :: fs).map (·.id)) with
      | none => .next s
      | some s1 => .next (countOut (s1.uncount grp).sweep f.origin .st)

/-- MERGE_ENTRY_EVICT (06 R174): the merge-buffer entry of a location is written to memory. -/
def execMergeEntryEvict (addr : Nat) (s : State) : Answer :=
  match mapGet? addr s.merge with
  | none => .next s
  | some e => .next { s with merge := mapErase addr s.merge, mem := writeNat s.mem addr e.1 e.2.toNat }

end Sys2Proof.Machine
end

