-- ==== Sys2Proof/Machine/Directory.lean ====
section
/-! DEFINITION. The directory (16 R397 to R401): holders of lines, requests that reach their home, probes and their
answers, recalls. -/

namespace Sys2Proof.Machine

/-- A port caches lines: it is a full MOESI peer (16 R397) that is not fenced. -/
def isMoesi (s : State) (p : Nat) : Bool := (s.port p).cclass == 0 && !(s.port p).isolated

/-- The holders after a request of port `p` is served (16 R397, R400; 06 R166). `keeps` says that a peer may keep the
line in M, `alone` that the slice knows of no other port in the region. -/
def served (moesi keeps write alone : Bool) (p : Nat) (hs : Map LineSt) : Map LineSt :=
  if write then (if moesi && keeps then [(p, LineSt.M)] else [])
  else
    let others := mapAll (fun q x => if q = p then x else x.shared) hs
    if !moesi then others
    else match mapGet? p hs with
      | some _ => others
      | none => mapSet p (if hs.isEmpty && alone then LineSt.E else LineSt.S) others

/-- Whether a peer's write leaves it the line: a store does; an atomic at core scope or less when the line is held in M
or E (06 R166). -/
def keepsLine (d : DirLine) (f : Flight) : Bool :=
  match f.kind with
  | .store => true
  | .sc => true
  | .amo _ =>
    decide (f.scope ≤ 2) && (match mapGet? f.chip d.holders with
      | some .M => true
      | some .E => true
      | _ => false)
  | _ => false

/-- A request served at its home: applied, the holders changed and the region's entry with them. -/
def serveFlight (s : State) (f : Flight) : State :=
  let line := lineOf f.addr
  let p := f.chip
  let d := s.dirLine line
  let hs := served (isMoesi s p) (keepsLine d f) f.kind.writes (aloneIn s line p) p d.holders
  let old := if holdsNewer hs then some (d.stale.getD (peek s (128 * line) 128)) else none
  let s1 := applyFlight s f
  let s2 := s1.setDir line { s1.dirLine line with holders := hs, stale := old }
  tidyRegion (match mapGet? p hs with
    | some st => recordPort s2 line p st
    | none => s2) (regionOf line)

/-- A line is idle again; one of an evicted region is recalled now (16 R408). -/
def freeLine (s : State) (line : Nat) : State :=
  let d := s.dirLine line
  let hs := if d.recalled then [] else d.holders
  tidyRegion (s.setDir line { holders := hs, stale := if d.recalled then none else d.stale, busy := none, queue := [], recalled := false })
    (regionOf line)

/-- The access that a peer's request asks for. -/
def remoteAccess (r : RemoteReq) : AccKind :=
  match r.kind with
  | .load => .load
  | .store => .store
  | .amo => .amo r.op
  | .red => .red r.op
  | .copyRead => .copyRead
  | .copyWrite => .copy
  | .flag => .flag

/-- A peer's request applied at this home (06 R166; 11 R299, R302; 16 R397, R399): the values that it returns. The hub of a
completion flag's module traces it (22 R493). -/
def serveRemote (s : State) (r : RemoteReq) : State × List Word :=
  let s1 := if (remoteAccess r).writes then dropCopies s r.addr r.size else readCopies s r.addr r.size
  match r.kind with
  | .copyRead => (s1, ((homeBytes s1 r.addr r.size).map fun b => word b.1.toNat))
  | .copyWrite => (putHome s1 r.addr (clean (r.bytes.take r.size)), [0])
  | .flag => (hubTrace (putHome s1 r.addr (clean (bytesOfNat 8 r.data.toNat))) 0x04 1 r.data.toNat r.world, [0])
  | _ =>
    let (s2, v, _) := applyAt s1 (remoteAccess r) r.world r.addr r.size r.data r.comparand
    (s2, [v])

/-- Nothing has come from a source. -/
def HomeEnd.blank : HomeEnd := { applied := [], replies := [], floor := 0 }

/-- A reply that the home keeps until the source acknowledges it (21 R478). -/
def remoteReturns (r : RemoteReq) : Bool := (remoteAccess r).reads || r.kind == RemoteKind.copyRead

/-- A peer's request applied under its number, which no later one is (06 R176; 21 R478). -/
def servePeer (s : State) (src seq : Nat) (r : RemoteReq) : State :=
  let x := serveRemote s r
  let h := mapGet HomeEnd.blank x.1.homes src
  { x.1 with homes := mapSet src { h with applied := h.applied ++ [seq],
                                          replies := if remoteReturns r then h.replies ++ [(seq, x.2)] else h.replies } x.1.homes }

/-- The requests behind a line served in their order, up to one that must probe (16 R401), or to the place of a copy command,
for which the line stands by. -/
def serveQueue (line : Nat) : List Nat → State → State
  | [], s => freeLine s line
  | id :: rest, s =>
    match mapGet? id s.sliceReqs with
    | some r =>
      let s1 := { s with sliceReqs := mapErase id s.sliceReqs }
      (match r with
        | .hub a bs => serveQueue line rest (writeHome s1 a bs)
        | .peer src seq r => serveQueue line rest (servePeer s1 src seq r)
        | .copy c =>
          if s.copies.any fun x => x.id == c then
            let d := s.dirLine line; s.setDir line { d with busy := some id, queue := rest }
          else serveQueue line rest s1)
    | none =>
      match findFlight s.flight id with
      | none => serveQueue line rest s
      | some f =>
        if (probed s line f.chip f.kind.writes).isEmpty then serveQueue line rest (serveFlight s f)
        else let d := s.dirLine line; s.setDir line { d with busy := some id, queue := rest }

/-- Requests waiting in a slice (16 R401); the one being served is not among them (log entry 110). -/
def waitingIn (s : State) (slice : Nat) : Nat :=
  (s.dir.filter fun e => sliceOf e.1 == slice).foldl (fun n e => n + e.2.queue.length) 0

/-- An access that its non-coherent chiplet answers itself (06 R172): a load of bytes that it has, a store that it keeps. -/
def chipletServes (s : State) (f : Flight) : Option State :=
  let p := f.chip
  match f.kind with
  | .load =>
    if (ownBytes s p f.addr f.size).all (·.isSome) then
      some (s.onFlight f.id fun g => { g with stage := .applied, value := viewWord s p f.addr f.size 0 })
    else none
  | .store =>
    if keepsWrites s p then
      some ((keepWrite s p f.addr (bytesOfNat f.size f.data.toNat) f.origin f.id f.agent false).onFlight f.id fun g =>
        { g with stage := .applied })
    else none
  | _ => none

/-- A request for a line of this module reaches its slice (16 R401): served, or the cause of a probe, or queued behind
a busy line. A slice whose request slots and spill area are full accepts nothing. -/
def reachHome (s : State) (f : Flight) : State :=
  let line := lineOf f.addr
  let d := s.dirLine line
  if 2048 + 16384 ≤ waitingIn s (sliceOf line) then s.onHub fun h => { h with sfull := true }
  else match d.busy with
    | some _ => joinQueue (s.onFlight f.id fun g => { g with stage := .queued }) line f.id
    | none =>
      if (probed s line f.chip f.kind.writes).isEmpty then (serveFlight s f).sweep
      else (s.onFlight f.id fun g => { g with stage := .queued }).setDir line { d with busy := some f.id }

/-- The hub takes requests from a port: it is not fenced (18 R437), and three seal failures in a row have not silenced it
(19 R444). -/
def hubHears (s : State) (p : Nat) : Bool := !(s.port p).isolated && decide ((s.port p).sealRun < 3)

/-- A port answers a probe: the hub does it for a fenced one (18 R437); one that is silenced does not answer (19 R444). -/
def answersProbe (s : State) (p : Nat) : Bool := (s.port p).isolated || hubHears s p

/-- PROBE_RESPONSE (16 R401): the probed ports answer, the request that waits is served, then those behind it. For a
fenced port the hub answers: the line is cleaned of it first (18 R437). A copy command that has not used its turn gives it
up. -/
def execProbeResponse (line : Nat) (s : State) : Answer :=
  let d := s.dirLine line
  match d.busy with
  | none => .next s
  | some id =>
    match findFlight s.flight id with
    | none => .next (serveQueue line d.queue { s with sliceReqs := mapErase id s.sliceReqs }).sweep
    | some f =>
      if (probed s line f.chip f.kind.writes).all (answersProbe s) then
        .next (serveQueue line d.queue (serveFlight (cleanFenced s line) f)).sweep
      else .next s

/-- A request to another module may leave: at most 1,024 without replies (21 R478). -/
def mayLeave (s : State) (m : Nat) : Bool :=
  match mapGet? m s.remote with
  | none => true
  | some r => decide (r.waiting.length < 1024)

/-- No request to a module yet. -/
def RemoteEnd.blank : RemoteEnd := { next := 0, waiting := [], floor := 0 }

/-- A request sent to another module (06 R161; 21 R476 to R478): it takes the next number and leaves over a channel, or waits
to leave. -/
def sendRemote (s : State) (f : Flight) : State :=
  let m := moduleOf f.addr
  let r := mapGet RemoteEnd.blank s.remote m
  let r1 := { r with next := (r.next + 1) % 2 ^ 32,
                     waiting := r.waiting ++ [{ seq := r.next, id := f.id, tries := 0, since := s.now }] }
  let post := if f.stage == Stage.posted then f.post else s.nextId
  let s1 := { s with remote := mapSet m r1 s.remote, nextId := s.nextId + 1 }.onFlight f.id fun g =>
    { g with stage := .sent, seq := r.next, upTo := 3, post := post }
  leaveFor s1 m f.id true

/-- A request for a location of another module: a load takes the store that its chiplet took last, or waits for one that
covers it in part; anything else leaves (06 R161). -/
def leaveHere (s : State) (f : Flight) : State :=
  match lastTaken (sentStores s f), f.kind with
  | some g, .load =>
    if covered f.addr f.size g.addr g.size then
      (s.onFlight f.id fun x => { x with stage := .applied, value := takeFrom g x, fwd := some g.id }).sweep
    else s
  | _, _ => if mayLeave s (moduleOf f.addr) then sendRemote s f else s

/-- HOME_REQUEST (16 R401; 06 R161, R166): an access reaches the directory slice of its line, or leaves for another
module; a non-coherent chiplet may answer it itself (06 R172). -/
def execHomeRequest (id : Nat) (s : State) : Answer :=
  match findFlight s.flight id with
  | none => .next s
  | some f =>
    if !(f.stage == Stage.issued || f.stage == Stage.posted) || f.space != Space.domain || f.kind.isFence
        || !mayPerform s f || !hubHears s f.chip then .next s
    else match chipletServes s f with
      | some t => .next t.sweep
      | none =>
        if f.remote s then
          (if f.kind.writes && behindPosted s f then .next s else .next (leaveHere s f))
        else if behindPosted s f then .next s
        else .next (reachHome s f)

/-! ### Recalls -/

/-- What a non-coherent chiplet holds is dropped, what it has not flushed is lost (16 R398, 18 R438). -/
def dropHeld (s : State) (p : Nat) : State :=
  { s with lines := s.lines.filter fun x => x.port != p, kept := mapErase p s.kept }

/-- A port taken out of the region entries of every slice. -/
def dropRegions (s : State) (p : Nat) : State :=
  let drop (e : Region) : Region :=
    { e with vector := withoutPort e.vector p, owner := if e.owner == some p then none else e.owner }
  let s1 := { s with regions := mapAll (fun _ e => drop e) s.regions }
  (s1.regions.map (·.1)).foldl tidyRegion s1

/-- Every line that a port holds recalled (16 R398): written back, not poisoned; every other copy dropped. -/
def recallPort (s : State) (p : Nat) : State :=
  let dir := s.dir.filterMap fun e =>
    let hs := mapErase p e.2.holders
    let d := { e.2 with holders := hs, stale := if holdsNewer hs then e.2.stale else none }
    if d = DirLine.blank then none else some (e.1, d)
  dropRegions { dropHeld s p with dir := dir } p

/-- A full MOESI peer writes back a line that it holds in M or O, and keeps it in S, or drops a line (16 R397). -/
def giveUpLine (s : State) (p line : Nat) (drop : Bool) : State :=
  let d := s.dirLine line
  match mapGet? p d.holders with
  | none => s
  | some _ =>
    if d.busy.isSome || !hubHears s p then s
    else
      let hs := if drop then mapErase p d.holders else mapSet p LineSt.S d.holders
      let s1 := s.setDir line { d with holders := hs, stale := if holdsNewer hs then d.stale else none }
      let r := regionOf line
      let owns := (regionLines s1 r).any fun e => e.2.holders.any fun h => h.1 == p && h.2.owns
      let s2 := { s1 with regions := mapUpdate r (fun e =>
        { e with owner := if e.owner == some p && !owns then none else e.owner }) s1.regions }
      tidyRegion s2 r

/-- DIR_STAT (16 R402). -/
def dirStat (s : State) : Word :=
  let spilled := (upFrom 0 32).foldl (fun n k => n + (waitingIn s k - 2048)) 0
  word (ofBool s.hub.sfull * 2 ^ 33 + ofBool s.hub.lfull * 2 ^ 32 + s.hub.qmax * 2 ^ 16 + min spilled 65535)

end Sys2Proof.Machine
end

