-- ==== Sys2Proof/Machine/Journal.lean ====
section
/-! DEFINITION. The records that the hub keeps: trace buffers (22 R491 to R494), the journal (17 R419, R420), topology
events (16 R407), completion flags (17 R415, R416) and late faults (18 R430). -/

namespace Sys2Proof.Machine

/-! ### Traces -/

/-- The trace of a unit's start or end (22 R493). -/
def traceUnit (s : State) (start : Bool) (kind : CoreKind) (core world idx launch : Nat) : State :=
  trace s (portOfCore kind core) (if start then 0x08 else 0x09) 2 core 0 (idx + 2 ^ 32 * launch) world

/-! ### Topology events -/

/-- Mailbox of a control hart: its messages (16 R407). -/
def hartBox (s : State) (h : Nat) : List Word := mapGet [] s.hub.cmbx h

/-- TOPO_EVT bit p set, and a message to the hart that TOPO_CTL names, when its mailbox has room (16 R407). -/
def topoEvent (s : State) (p : Nat) : State :=
  let t := s.hub.topoCtl.toNat
  let box := hartBox s t
  let s1 := s.onHub fun h => { h with topoEvt := h.topoEvt ||| BitVec.ofNat 24 (2 ^ p) }
  if box.length < 16 then
    s1.onHub fun h => { h with cmbx := mapSet t (box ++ [word (0x01 * 2 ^ 56 + p)]) h.cmbx }
  else s1

/-! ### The journal -/

/-- The codes of statuses (17 R415). -/
def statusCode : Status → Nat
  | .inProgress => 0
  | .complete => 1
  | .error => 2
  | .cancelled => 3
  | .refused => 4
  | .replayRefused => 5
  | .skipped => 6

/-- A record with nothing in it. -/
def JRec.blank : JRec :=
  { kind := 0, status := 0, world := 0, queue := 0, reason := 0, launch := 0, job := 0, graph := 0, phase := 0, units := 0,
    index := 0, flag := 0 }

/-- The bytes of a journal record (17 R419). -/
def JRec.bytes (r : JRec) (seq time : Nat) : List Byte :=
  let body := bytesOfNat 8 seq ++ bytesOfNat 8 (time / 65536) ++ bytesOfNat 1 r.kind ++ bytesOfNat 1 r.status
    ++ bytesOfNat 1 r.world ++ bytesOfNat 1 r.queue ++ bytesOfNat 2 (time % 65536) ++ bytesOfNat 2 r.reason
    ++ bytesOfNat 4 r.launch ++ bytesOfNat 4 r.job ++ bytesOfNat 2 r.graph ++ bytesOfNat 2 r.phase
    ++ bytesOfNat 4 r.units ++ bytesOfNat 8 r.index ++ bytesOfNat 8 r.flag ++ bytesOfNat 4 0
  body ++ bytesOfNat 4 (crc32 body)

/-- The journal has a ring and room for a record, and none is withheld (17 R420). -/
def journalOpen (s : State) : Bool :=
  s.hub.jBase != 0 && s.hub.jPending.isEmpty
    && (decide (s.hub.jHead - s.hub.jTail < 2 ^ s.hub.jSize) || !s.hub.jStall || decide (s.hub.jTail ≤ s.hub.jAck))

/-- A record written as number JRNL_HEAD (17 R419, R420); it locks the ring, and takes the oldest record's slot when
the ring is full. -/
def journalWrite (s : State) (r : JRec) : State :=
  let h := s.hub
  let full := decide (2 ^ h.jSize ≤ h.jHead - h.jTail)
  let a := s.home (h.jBase + 64 * (h.jHead % 2 ^ h.jSize))
  (hubWrite s a (r.bytes h.jHead s.time)).onHub fun h =>
    { h with jHead := h.jHead + 1, jLock := true, jTail := if full then h.jTail + 1 else h.jTail }

/-- A record written, or withheld until there is room; without a ring nothing is recorded (17 R420). -/
def journal (s : State) (r : JRec) : State :=
  if s.hub.jBase = 0 then s
  else if journalOpen s then journalWrite s r
  else s.onHub fun h => { h with jPending := h.jPending ++ [r] }

/-- Withheld records written in order while there is room. -/
def journalDrain : List JRec → State → State
  | [], s => s
  | r :: rest, s =>
    let s0 := s.onHub fun h => { h with jPending := [] }
    if journalOpen s0 then journalDrain rest (journalWrite s0 r)
    else s.onHub fun h => { h with jPending := r :: rest }

/-! ### Completion flags and late faults -/

/-- A record of the hub about a job (17 R416, 18 R423). -/
def jobReport (world job launch : Nat) (cause : Cause) (cls code addr pc : Nat) : Report :=
  { cause := cause, cls := cls, world := world, jobLevel := true, more := false, kind := 2, core := 0xFFFF,
    launch := launch, job := job, unit := 0, slot := 0xFF, lane := 0xFF, code := code, addr := addr, pc := pc,
    cursor := 0xFF, cpos := [], step := 0 }

/-- The graph and phase of a launch that its job has accepted (17 R419). -/
def placeOfLaunch (s : State) (world job launch : Nat) : Nat × Nat :=
  match s.hub.jobs.find? fun j => j.world == world && j.num == job with
  | none => (0, 0)
  | some j => match j.nums.find? fun n => n.num == launch with
    | none => (0, 0)
    | some n => (n.graph, n.phase)

/-- A LATE_FAULT record of the journal, with the graph and phase that it belongs to (17 R419). -/
def lateRecord (place : Nat × Nat) (world job launch reason : Nat) : JRec :=
  { JRec.blank with kind := 10, world := world, job := job, launch := launch, graph := place.1, phase := place.2,
                    reason := reason }

/-- Where a completion flag is written: memory that the world's translation, as it stands, gives a privileged agent (17
R416). A reserved range, a window or a module that is not reachable takes no flag (log entry 81: DESIGN CHOICE). -/
def flagAt (s : State) (world va : Nat) : Except Cause Nat :=
  if !isCanonical va then .error .translation
  else match translate s world true none .write va with
    | .error c => .error c
    | .ok a => match physPlace s world true a with
      | .error c => .error c
      | .ok (.mem b) => .ok b
      | .ok _ => .error .windowAccess

/-- The status of a job becomes error (17 R416); one that has no entry yet starts so. -/
def jobError (s : State) (world job : Nat) : State :=
  if s.hub.jobs.any fun j => j.world == world && j.num == job then s.onJob world job fun j => { j with err := true }
  else if s.hub.closed.any fun j => j.world == world && j.num == job then s
  else s.onHub fun h => { h with ahead := h.ahead ++ [(world, job, false)] }

/-- A completion flag written (17 R415, R416), or the records of its failure, with the graph and phase of its level.
`fixed` says that the job's status no longer changes. -/
def writeFlag (s : State) (place : Nat × Nat) (world job launch va value : Nat) (fixed : Bool) : State :=
  if va = 0 then s
  else match flagAt s world va with
    | .ok a => hubWrite s a (bytesOfNat 8 value)
    | .error c =>
      let s1 := writeReport s (jobReport world job launch c 4 (causeCode c) va 0)
      let s2 := if fixed then s1 else jobError s1 world job
      journal s2 (lateRecord place world job launch (causeCode c))

/-- An error of an operation after issue (18 R424, R430): class 3 while its unit has not completed; after that class 4,
journaled and counted on the job. A reduction is dropped then. -/
def asyncReport (s : State) (o : Origin) (red : Bool) (cause : Cause) (code addr : Nat) : State :=
  if unitOpen s o then report s (originReport o cause 3 code addr)
  else
    let c : Cause := if red then .reductionDropped else cause
    journal (report s { originReport o c 4 (causeCode cause) addr with jobLevel := true })
      (lateRecord (placeOfLaunch s o.world o.job o.launch) o.world o.job o.launch (causeCode c))

end Sys2Proof.Machine
end

