-- ==== Sys2Proof/Machine/Tile.lean ====
section
/-! DEFINITION. Tiles: headers (03 R86 to R88), the layout of elements, scales and sparsity metadata (R89 to R93), the
values of elements (02 R59 to R70), header checks (R104), building result tiles (R102, R103; 10 R272), tile-table
entries and their window writes (R95 to R98, 04 R120). -/

namespace Sys2Proof.Machine

/-! ### Headers -/

/-- The fields of a header (03 R87). -/
structure Hdr where
  fmt : Nat
  order : Nat
  slayout : Nat
  sfmt : Nat
  sparse : Nat
  cbook : Nat
  kaxis : Nat
  aon : Bool
  poison : Bool
  sat : Bool
  nans : Bool
  rows : Nat
  cols : Nat
  version : Nat
  soff : Nat
  moff : Nat
  tscale : Nat
  tlen : Nat
  deriving DecidableEq, Repr

/-- The fields of 32 header bytes taken as a number. -/
def hdrOf (w : Nat) : Hdr :=
  { fmt := bits w 0 6, order := bits w 6 2, slayout := bits w 8 4, sfmt := bits w 12 3, sparse := bits w 16 3,
    cbook := bits w 19 3, kaxis := bits w 22 1, aon := bit w 24, poison := bit w 25, sat := bit w 26,
    nans := bit w 27, rows := bits w 32 16, cols := bits w 48 16, version := bits w 64 16, soff := bits w 96 32,
    moff := bits w 128 32, tscale := bits w 160 32, tlen := bits w 192 32 }

/-- Bytes 0 to 29 of a header from its fields. -/
def Hdr.body (h : Hdr) : List Byte :=
  bytesOfNat 2 (h.fmt + 2 ^ 6 * h.order + 2 ^ 8 * h.slayout + 2 ^ 12 * h.sfmt)
    ++ bytesOfNat 2 (h.sparse + 2 ^ 3 * h.cbook + 2 ^ 6 * h.kaxis + 2 ^ 8 * ofBool h.aon + 2 ^ 9 * ofBool h.poison
        + 2 ^ 10 * ofBool h.sat + 2 ^ 11 * ofBool h.nans)
    ++ bytesOfNat 2 h.rows ++ bytesOfNat 2 h.cols ++ bytesOfNat 2 h.version ++ bytesOfNat 2 0
    ++ bytesOfNat 4 h.soff ++ bytesOfNat 4 h.moff ++ bytesOfNat 4 h.tscale ++ bytesOfNat 4 h.tlen ++ bytesOfNat 2 0

/-- The 32 bytes of a header, CHECK computed (03 R88). -/
def Hdr.bytes (h : Hdr) : List Byte := h.body ++ bytesOfNat 2 (crc16 h.body)

/-- The header as a number. -/
def Hdr.word (h : Hdr) : BitVec 256 := BitVec.ofNat 256 (natOfBytes h.bytes)

/-- Reserved header bits are zero (03 R87). -/
def reservedZero (w : Nat) : Bool :=
  !bit w 15 && !bit w 23 && bits w 28 4 == 0 && bits w 80 16 == 0 && bits w 224 16 == 0

/-- Check 1 of 03 R104: CHECK and reserved bits. -/
def check1 (w : Nat) : Bool := bits w 240 16 == crc16 (bytesOfNat 30 w) && reservedZero w

/-- Bits of an element, elements of a storage group, bytes of a storage group (02 R59, R60); a code that names no format has
one byte for each element (log entry 107). -/
def fmtInfo (fmt : Nat) : Nat × Nat × Nat :=
  match fmt with
  | 1 => (32, 1, 4)
  | 2 => (16, 1, 2)
  | 3 => (16, 1, 2)
  | 4 => (8, 1, 1)
  | 5 => (8, 1, 1)
  | 6 => (6, 4, 3)
  | 7 => (6, 4, 3)
  | 8 => (4, 2, 1)
  | 9 => (8, 1, 1)
  | 10 => (4, 2, 1)
  | 11 => (8, 1, 1)
  | 12 => (2, 8, 2)
  | 13 => (56, 1, 8)
  | 14 => (32, 1, 4)
  | _ => (8, 1, 1)

/-- The codebook format. -/
def fmtCb2 : Nat := 12
/-- The accumulator format. -/
def fmtA56 : Nat := 13

/-- An integer format (02 R64). -/
def isIntFmt (fmt : Nat) : Bool := fmt == 9 || fmt == 10 || fmt == 11 || fmt == 14

/-- Extent along K (03 R87). -/
def Hdr.kx (h : Hdr) : Nat := if h.kaxis = 0 then h.cols else h.rows

/-- The other extent. -/
def Hdr.nx (h : Hdr) : Nat := if h.kaxis = 0 then h.rows else h.cols

/-- Rounded up to a multiple. -/
def roundUp (n m : Nat) : Nat := (n + m - 1) / m * m

/-- Runs and their length in a storage order (03 R89). -/
def runsOf (order rows cols kaxis : Nat) : Nat × Nat :=
  match order with
  | 0 => (rows, cols)
  | 1 => (cols, rows)
  | _ => ((if kaxis = 0 then rows else cols) * ceilDiv (if kaxis = 0 then cols else rows) 32, 32)

/-- The bytes of a run. -/
def runBytes (fmt len : Nat) : Nat := ceilDiv len (fmtInfo fmt).2.1 * (fmtInfo fmt).2.2

/-- The payload length of a dense tile (03 R89). -/
def denseBytes (fmt order rows cols kaxis : Nat) : Nat :=
  (runsOf order rows cols kaxis).1 * runBytes fmt (runsOf order rows cols kaxis).2

/-- Rows and columns of the stored places: under 2:4 the K extent is halved (03 R92). -/
def Hdr.storedRows (h : Hdr) : Nat := if h.sparse = 1 ∧ h.kaxis = 1 then h.rows / 2 else h.rows
/-- Columns of the stored places. -/
def Hdr.storedCols (h : Hdr) : Nat := if h.sparse = 1 ∧ h.kaxis = 0 then h.cols / 2 else h.cols

/-- The payload length P (03 R89, R92). -/
def Hdr.payload (h : Hdr) : Nat := denseBytes h.fmt h.order h.storedRows h.storedCols h.kaxis

/-- Bytes of a scale (03 R91). -/
def scaleSize (sfmt : Nat) : Nat := if sfmt = 1 then 4 else 1

/-- Scales of the scale block (03 R91). -/
def Hdr.scales (h : Hdr) : Nat :=
  match h.slayout with
  | 2 => h.rows
  | 3 => h.cols
  | 4 => h.nx * ceilDiv h.kx 32
  | 5 => h.nx * ceilDiv h.kx 16
  | _ => 0

/-- Bytes of the padded scale block. -/
def Hdr.scaleBytes (h : Hdr) : Nat := roundUp (h.scales * scaleSize h.sfmt) 32

/-- Bytes of the padded metadata (03 R92). -/
def Hdr.metaBytes (h : Hdr) : Nat :=
  match h.sparse with
  | 1 => roundUp (ceilDiv (h.nx * (h.kx / 4)) 2) 32
  | 2 => roundUp (ceilDiv (h.rows / 32 * (h.cols / 32)) 8) 32
  | _ => 0

/-- Scale layout and format pairs that 03 R91 allows. -/
def scalePair (slayout sfmt : Nat) : Bool :=
  match slayout with
  | 0 => sfmt == 0
  | 1 => sfmt == 1
  | 2 => sfmt == 1 || sfmt == 2 || sfmt == 3
  | 3 => sfmt == 1 || sfmt == 2 || sfmt == 3
  | 4 => sfmt == 2
  | 5 => sfmt == 3
  | _ => false

/-- K stays contiguous within runs (03 R90). -/
def kContiguous (order kaxis : Nat) : Bool := order == 2 || order == kaxis

/-- Check 2 of 03 R104 apart from the word's own support: assigned values in allowed combinations (R90 to R92). -/
def Hdr.check2 (h : Hdr) : Bool :=
  decide (1 ≤ h.fmt) && decide (h.fmt ≤ 14) && decide (h.order < 3) && decide (h.sparse < 3)
    && scalePair h.slayout h.sfmt && (h.fmt == fmtCb2 || h.cbook == 0)
    && (!(h.fmt == fmtCb2) || (h.sparse == 0 && h.slayout == 4 && kContiguous h.order h.kaxis))
    && (!(h.fmt == fmtA56) || h.sparse == 0)
    && (!(h.sparse == 1) || kContiguous h.order h.kaxis)

/-- Check 3 of 03 R104 apart from the shapes a word requires: ranges, K and size rules (R90 to R93). -/
def Hdr.check3 (h : Hdr) : Bool :=
  let endP := roundUp (32 + h.payload) 32
  let endS := if h.scales = 0 then endP else h.soff + h.scaleBytes
  let endM := if h.sparse = 0 then endS else h.moff + h.metaBytes
  decide (1 ≤ h.rows) && decide (h.rows ≤ 256) && decide (1 ≤ h.cols) && decide (h.cols ≤ 1024)
    && (!(h.fmt == fmtCb2 || h.sparse == 1) || h.kx % 32 == 0)
    && (!(h.sparse == 2) || (h.rows % 32 == 0 && h.cols % 32 == 0))
    && (if h.scales = 0 then h.soff == 0 else h.soff % 32 == 0 && decide (endP ≤ h.soff))
    && (if h.sparse = 0 then h.moff == 0 else h.moff % 32 == 0 && decide (endS ≤ h.moff))
    && h.tlen % 32 == 0 && decide (endM ≤ h.tlen)

/-- The header with canonical offsets and length (03 R93, R103). -/
def Hdr.canonical (h : Hdr) : Hdr :=
  let endP := roundUp (32 + h.payload) 32
  let soff := if h.scales = 0 then 0 else endP
  let endS := endP + h.scaleBytes
  let moff := if h.sparse = 0 then 0 else endS
  { h with version := 0, soff := soff, moff := moff, tlen := endS + h.metaBytes }

/-! ### Where elements lie -/

/-- An image: its byte at an offset. -/
abbrev Image := Nat → Byte

/-- The number in `n` bytes of an image. -/
def imgNat (img : Image) (o : Nat) : Nat → Nat
  | 0 => 0
  | n + 1 => (img o).toNat + 256 * imgNat img (o + 1) n

/-- Run and place of element (i, j) in a storage order (03 R89). -/
def placeOf (order rows cols kaxis i j : Nat) : Nat × Nat :=
  match order with
  | 0 => (i, j)
  | 1 => (j, i)
  | _ =>
    let k := if kaxis = 0 then j else i
    let n := if kaxis = 0 then i else j
    (k / 32 * (if kaxis = 0 then rows else cols) + n, k % 32)

/-- Offset of a storage group in a payload, and the element's place in the group. -/
def groupAt (fmt len run place : Nat) : Nat × Nat :=
  let (_, g, gb) := fmtInfo fmt
  (run * runBytes fmt len + place / g * gb, place % g)

/-- One bits of the metadata below bit `b`. -/
def rankBelow (img : Image) (moff : Nat) : Nat → Nat
  | 0 => 0
  | b + 1 => ofBool (bit (img (moff + b / 8)).toNat (b % 8)) + rankBelow img moff b

/-- Offset in the image of the storage group that holds element (i, j), and its place in the group; none where sparsity
omits the element (03 R89, R92). -/
def Hdr.locate (h : Hdr) (img : Image) (i j : Nat) : Option (Nat × Nat) :=
  let k := if h.kaxis = 0 then j else i
  let n := if h.kaxis = 0 then i else j
  let at_ (order rows cols i' j' base : Nat) : Nat × Nat :=
    let len := (runsOf order rows cols h.kaxis).2
    let (run, place) := placeOf order rows cols h.kaxis i' j'
    let (o, x) := groupAt h.fmt len run place
    (32 + base + o, x)
  match h.sparse with
  | 0 => some (at_ h.order h.rows h.cols i j 0)
  | 1 =>
    let m := n * (h.kx / 4) + k / 4
    let nib := bits (img (h.moff + m / 2)).toNat (4 * (m % 2)) 4
    let stored := if k % 4 = nib % 4 then some (2 * (k / 4))
      else if k % 4 = nib / 4 then some (2 * (k / 4) + 1) else none
    stored.map fun k' =>
      at_ h.order h.storedRows h.storedCols (if h.kaxis = 0 then n else k') (if h.kaxis = 0 then k' else n) 0
  | _ =>
    let b := i / 32 * (h.cols / 32) + j / 32
    if bit (img (h.moff + b / 8)).toNat (b % 8) then
      some (at_ h.order 32 32 (i % 32) (j % 32) (rankBelow img h.moff b * denseBytes h.fmt h.order 32 32 h.kaxis))
    else none

/-- The stored bits of element (i, j): for cb2 the index and the weight's place in it. -/
def Hdr.rawAt (h : Hdr) (img : Image) (i j : Nat) : Option (Nat × Nat) :=
  (h.locate img i j).map fun (o, x) =>
    let (w, _, gb) := fmtInfo h.fmt
    let v := imgNat img o gb
    if h.fmt = fmtCb2 then (v, x) else (bits v (w * x) w, 0)

/-! ### Values -/

/-- The magnitude of a codebook weight in quarters (02 R68, R69). -/
def cbMag (books : Map Byte) (table coset row j : Nat) : Nat :=
  if table = 0 then (if coset = 0 then 2 + 4 * bits row j 1 else 4 * bits row j 1)
  else
    let m := bits (mapGet 0 books (1024 * table + 4 * row + j / 2)).toNat (4 * (j % 2)) 4
    if coset = 0 then m else m - 1

/-- A codebook weight (02 R67). -/
def cbWeight (books : Map Byte) (table idx j : Nat) : FVal :=
  let mag := cbMag books table (bits idx 15 1) (bits idx 0 8) j
  let parity := (upFrom 8 7).foldl (fun p n => p + bits idx n 1) 0 % 2
  let neg := if j = 7 then parity == 1 else bit idx (8 + j)
  if mag = 0 then .fin false 0 1 0 else .fin neg mag 4 0

/-- A stored element as a value (02 R61 to R64). -/
def decodeElem (books : Map Byte) (fmt table raw x : Nat) : FVal :=
  match fmt with
  | 1 => decodeF fp32 raw
  | 2 => decodeF bf16 raw
  | 3 => decodeF fp16 raw
  | 4 => decodeF fp8e4m3 raw
  | 5 => decodeF fp8e5m2 raw
  | 6 => decodeF fp6e3m2 raw
  | 7 => decodeF fp6e2m3 raw
  | 8 => decodeF fp4e2m1 raw
  | 9 => ofInt (signed 8 raw)
  | 10 => ofInt (signed 4 raw)
  | 11 => ofInt (raw : Int)
  | 12 => cbWeight books table raw x
  | 13 => decodeF a56 raw
  | 14 => ofInt (signed 32 raw)
  | _ => .fin false 0 1 0

/-- A scale as a value (02 R65). -/
def scaleVal (sfmt raw : Nat) : FVal :=
  match sfmt with
  | 1 => decodeF fp32 raw
  | 2 => if raw = 0xFF then .nan false 0 else .fin false 1 1 ((raw : Int) - 127)
  | 3 => decodeF fp8e4m3 raw
  | _ => .fin false 1 1 0

/-- The scale of the block that covers element (i, j) (03 R91). -/
def Hdr.scaleIndex (h : Hdr) (i j : Nat) : Nat :=
  let k := if h.kaxis = 0 then j else i
  let n := if h.kaxis = 0 then i else j
  match h.slayout with
  | 2 => i
  | 3 => j
  | 4 => n * ceilDiv h.kx 32 + k / 32
  | _ => n * ceilDiv h.kx 16 + k / 16

/-- The scales that cover element (i, j) (03 R91, 02 R66). -/
def Hdr.scalesAt (h : Hdr) (img : Image) (i j : Nat) : List FVal :=
  if h.slayout = 0 then []
  else
    let t := decodeF fp32 h.tscale
    if h.slayout = 1 then [t]
    else
      let sz := scaleSize h.sfmt
      [t, scaleVal h.sfmt (imgNat img (h.soff + sz * h.scaleIndex i j) sz)]

/-- An element with the scales that cover it; none where sparsity omits it. -/
structure Elem where
  val : FVal
  scales : List FVal
  deriving DecidableEq, Repr

/-- Element (i, j) of a tile (10 R269). -/
def Hdr.elem (h : Hdr) (books : Map Byte) (img : Image) (i j : Nat) : Option Elem :=
  (h.rawAt img i j).map fun (raw, x) =>
    { val := decodeElem books h.fmt h.cbook raw x, scales := h.scalesAt img i j }

/-- The exact product of finite values. -/
def mulExact (x y : FVal) : FVal :=
  match x, y with
  | .fin a n d e, .fin b m f g => .fin (a != b) (n * m) (d * f) (e + g)
  | .inf a, y => .inf (a != y.neg)
  | x, .inf b => .inf (x.neg != b)
  | x, _ => x

/-- The product of factors none of which is NaN and no zero of which meets an infinity. -/
def mulAll : List FVal → FVal
  | [] => .fin false 1 1 0
  | x :: rest => mulExact x (mulAll rest)

/-- What happens in a product: the lowest cause of a NaN (0 for none) and the flags (02 R66, R72, R73). -/
def productCause (elems scales : List FVal) : Nat × Flag :=
  let c1 := elems.any FVal.isNaN
  let sn := elems.any FVal.isSNaN
  let c2 := scales.any FVal.isNaN
  let all := elems ++ scales
  let c4 := all.any FVal.isZero && all.any FVal.isInf
  (if c1 then 1 else if c2 then 2 else if c4 then 4 else 0, flagIf (sn || c2 || c4) flagNV)

/-- The scaled value of an element that a word converts (02 R66, R74). A NaN element under scales that are not NaN
stays what it is; its conversion decides the result. -/
def Elem.scaled (e : Elem) : FRes :=
  let (c, fl) := productCause [e.val] e.scales
  if c = 0 then { val := mulAll (e.val :: e.scales), flags := fl }
  else if c = 1 ∧ ¬ e.scales.any FVal.isNaN then { val := e.val, flags := fl }
  else { val := .nan false c, flags := fl }

/-! ### The order of sums (02 R81) -/

/-- One term of a chunk: the operands' elements, or an omitted position. -/
abbrev Term := Option (Elem × Elem)

/-- What a chunk has gathered: the lowest cause, flags, infinities met, the exact sum, and whether every product so far
is −0. -/
structure ChunkSum where
  cause : Nat
  flags : Flag
  pos : Bool
  neg : Bool
  sum : FVal
  allNegZero : Bool
  deriving DecidableEq, Repr

/-- Lowest of two causes, 0 for none. -/
def lowest (a b : Nat) : Nat := if a = 0 then b else if b = 0 then a else min a b

/-- A term added to a chunk. -/
def ChunkSum.add (c : ChunkSum) (t : Term) : ChunkSum :=
  match t with
  | none => { c with sum := (addF 0 c.sum (.fin false 0 1 0)).val, allNegZero := false }
  | some (a, b) =>
    let (k, fl) := productCause [a.val, b.val] (a.scales ++ b.scales)
    if k ≠ 0 then { c with cause := lowest c.cause k, flags := c.flags ||| fl, allNegZero := false }
    else
      let p := mulAll (a.val :: b.val :: a.scales ++ b.scales)
      match p with
      | .inf true => { c with neg := true, flags := c.flags ||| fl, allNegZero := false }
      | .inf false => { c with pos := true, flags := c.flags ||| fl, allNegZero := false }
      | p => { c with sum := (addF 0 c.sum p).val, flags := c.flags ||| fl,
                      allNegZero := c.allNegZero && p.isZero && p.neg }

/-- The value and flags of a chunk. -/
def chunkVal (ts : List Term) : FRes :=
  let z : ChunkSum := { cause := 0, flags := noFlag, pos := false, neg := false, sum := .fin false 0 1 0, allNegZero := true }
  let c := ts.foldl ChunkSum.add z
  let c3 := c.pos && c.neg
  let cause := if c3 then lowest c.cause 3 else c.cause
  if cause ≠ 0 then { val := .nan false cause, flags := c.flags ||| flagIf c3 flagNV }
  else if c.pos then { val := .inf false, flags := c.flags }
  else if c.neg then { val := .inf true, flags := c.flags }
  else { val := if c.sum.isZero then .fin (c.allNegZero && !ts.isEmpty) 0 1 0 else c.sum, flags := c.flags }

/-- p + s rounded to A56 by RNE; a NaN chunk gives its NaN. -/
def accumulate (p : Nat) (s : FRes) : Rounded :=
  match s.val with
  | .nan _ c => { bits := genNaN a56 c, flags := s.flags }
  | v => let r := finishF a56 0 (addF 0 (decodeF a56 p) v); { bits := r.bits, flags := s.flags ||| r.flags }

/-- The chunks of a sum in ascending K, `t` terms each, up to a NaN (02 R81). -/
def sumChunks (term : Nat → Term) (t kx : Nat) : Nat → Nat → Nat → Flag → Nat × Flag
  | 0, _, p, fl => (p, fl)
  | c + 1, k, p, fl =>
    if (decodeF a56 p).isNaN then (p, fl)
    else
      let r := accumulate p (chunkVal ((upFrom k (min t (kx - k))).map term))
      sumChunks term t kx c (k + t) r.bits (fl ||| r.flags)

/-! ### Rounding through a slot (03 R99, 10 R272) -/

/-- A format slot (03 R99). -/
structure Slot where
  fmt : Nat
  order : Nat
  slayout : Nat
  sfmt : Nat
  kaxis : Nat
  aon : Bool
  rm : Nat
  saten : Bool
  accept : Nat
  tscale : Nat
  deriving DecidableEq, Repr

/-- The fields of a slot's 16 bytes. -/
def slotOf (w : BitVec 128) : Slot :=
  let n := w.toNat
  { fmt := bits n 0 6, order := bits n 6 2, slayout := bits n 8 4, sfmt := bits n 12 3, kaxis := bits n 16 1,
    aon := bit n 17, rm := bits n 18 3, saten := bit n 21, accept := bits n 32 64, tscale := bits n 96 32 }

/-- Formats that the layouts 4 and 5 of a slot may take (03 R100). -/
def blockFmt (fmt : Nat) : Bool := fmt == 4 || fmt == 5 || fmt == 6 || fmt == 7 || fmt == 8 || fmt == 10

/-- A launch record may hold the slot (03 R100); an unused slot always may. -/
def slotAllowed (w : BitVec 128) : Bool :=
  let n := w.toNat
  let x := slotOf w
  x.fmt == 0
    || (decide (x.fmt ≤ 14) && x.fmt != fmtCb2 && decide (x.order < 3) && decide (x.rm < 5) && !bit n 15
        && bits n 22 10 == 0 && scalePair x.slayout x.sfmt
        && (!(x.slayout == 4 || x.slayout == 5) || blockFmt x.fmt)
        && (x.slayout == 0 || (match decodeF fp32 x.tscale with
            | .fin _ k _ _ => decide (k ≠ 0)
            | _ => false)))

/-- One step of the generator (02 R78). -/
def srStep (st : BitVec 16) : BitVec 16 :=
  let fb := st.getLsbD 15 != (st.getLsbD 13 != (st.getLsbD 12 != st.getLsbD 10))
  (st <<< 1) ||| BitVec.ofNat 16 (ofBool fb)

/-- The seeded state: 0 becomes 1 (02 R78). -/
def srSeed (v : BitVec 16) : BitVec 16 := if v = 0 then 1 else v

/-- The floating format of an element code. -/
def fmtFloat (fmt : Nat) : Fmt :=
  match fmt with
  | 1 => fp32
  | 2 => bf16
  | 3 => fp16
  | 4 => fp8e4m3
  | 5 => fp8e5m2
  | 6 => fp6e3m2
  | 7 => fp6e2m3
  | 8 => fp4e2m1
  | _ => a56

/-- The ends of an integer format's range (02 R64). -/
def intRange (fmt : Nat) : Int × Int :=
  match fmt with
  | 9 => (-128, 127)
  | 10 => (-8, 7)
  | 11 => (0, 255)
  | _ => (-(2 ^ 31), 2 ^ 31 - 1)

/-- round_fmt into an element format (02 R75 to R77). -/
def roundElem (fmt rm : Nat) (sat : Bool) (st : Nat) (v : FVal) : Rounded :=
  if isIntFmt fmt then
    let (lo, hi) := intRange fmt
    let (x, fl) := toRange rm st false lo hi v
    { bits := (x % (2 ^ (fmtInfo fmt).1 : Nat)).toNat, flags := fl }
  else roundVal (fmtFloat fmt) rm sat st v

/-- Largest finite value of a format as a fraction of exponent (02 R61, R64). -/
def maxFinite (fmt : Nat) : FVal :=
  match fmt with
  | 9 => ofInt 127
  | 10 => ofInt 7
  | 11 => ofInt 255
  | 14 => ofInt (2 ^ 31 - 1)
  | f => decodeF (fmtFloat f) (fmtFloat f).top

/-- x / y of finite values, y not zero. -/
def divExact (x y : FVal) : FVal :=
  match x, y with
  | .fin a n d e, .fin b m f g => .fin (a != b) (n * f) (d * m) (e - g)
  | .inf a, y => .inf (a != y.neg)
  | x, _ => x

/-- floor(log2) of a finite nonzero magnitude. -/
def logOf : FVal → Int
  | .fin _ n d e => ratLog n d + e
  | _ => 0

/-- The largest magnitude of finite values; zero for none (10 R272). -/
def amaxOf : List FVal → FVal
  | [] => .fin false 0 1 0
  | .fin s n d e :: rest =>
    let m := amaxOf rest
    if ltF m (FVal.fin s n d e).abs then (FVal.fin s n d e).abs else m
  | _ :: rest => amaxOf rest

/-- The scale of a group: its encoding (10 R272). -/
def scaleFor (sfmt fmt : Nat) (amax : FVal) : Nat :=
  match sfmt with
  | 1 =>
    if amax.isZero then 0x3F800000
    else let r := (roundVal fp32 0 true 0 (divExact amax (maxFinite fmt))).bits; if r = 0 then 1 else r
  | 2 =>
    if amax.isZero then 0x7F
    else
      let x := logOf amax - logOf (maxFinite fmt) + 127
      if x < 0 then 0 else if 254 < x then 254 else x.toNat
  | 3 =>
    if amax.isZero then 0x38
    else let r := (roundVal fp8e4m3 0 true 0 (divExact amax (maxFinite fmt))).bits; if r = 0 then 1 else r
  | _ => 0

/-- A result tile: its elements in rows, its scale encodings, the flags raised and the generator after. -/
structure Conv where
  rows : List (List Nat)
  scales : List Nat
  flags : Flag
  state : BitVec 16
  deriving DecidableEq, Repr

/-- The elements of a row rounded one by one, the generator stepping once per element in mode 4 (02 R78). -/
def roundRow (f : Slot) (scale : Nat → FVal) : List FVal → Nat → BitVec 16 → List Nat × Flag × BitVec 16
  | [], _, st => ([], noFlag, st)
  | y :: rest, j, st =>
    let st1 := if f.rm = 4 ∧ f.fmt ≠ fmtA56 then srStep st else st
    let r := roundElem f.fmt f.rm f.saten st1.toNat (divExact y (scale j))
    let (bs, fl, st2) := roundRow f scale rest (j + 1) st1
    (r.bits :: bs, r.flags ||| fl, st2)

/-- Rows rounded in ascending order. -/
def roundRows (f : Slot) (scale : Nat → Nat → FVal) : List (List FVal) → Nat → BitVec 16 →
    List (List Nat) × Flag × BitVec 16
  | [], _, st => ([], noFlag, st)
  | r :: rest, i, st =>
    let (bs, fl, st1) := roundRow f (scale i) r 0 st
    let (bss, fl2, st2) := roundRows f scale rest (i + 1) st1
    (bs :: bss, fl ||| fl2, st2)

/-- The members of scale group `g`: the elements that a scale covers (03 R91). -/
def groupOfScale (h : Hdr) (ys : List (List FVal)) (g : Nat) : List FVal :=
  (upFrom 0 h.rows).flatMap fun i =>
    (upFrom 0 h.cols).filterMap fun j =>
      if h.scaleIndex i j = g then some (nth (.fin false 0 1 0) (nth [] ys i) j) else none

/-- The header of a result through a slot, before the derived fields (03 R102). -/
def slotHdr (f : Slot) (rows cols : Nat) (poison : Bool) : Hdr :=
  ({ fmt := f.fmt, order := f.order, slayout := f.slayout, sfmt := f.sfmt, sparse := 0, cbook := 0, kaxis := f.kaxis,
     aon := f.aon, poison := poison, sat := false, nans := false, rows := rows, cols := cols, version := 0, soff := 0,
     moff := 0, tscale := f.tscale, tlen := 0 } : Hdr).canonical

/-- Exact values stored through a slot (10 R272). -/
def convert (f : Slot) (h : Hdr) (xs : List (List FVal)) (st : BitVec 16) : Conv :=
  let t := if f.slayout = 0 then .fin false 1 1 0 else decodeF fp32 f.tscale
  let ys := xs.map fun r => r.map fun x => divExact x t
  let scales := (upFrom 0 h.scales).map fun g => scaleFor f.sfmt f.fmt (amaxOf (groupOfScale h ys g))
  let one : FVal := .fin false 1 1 0
  let scale (i j : Nat) : FVal := if h.scales = 0 then one else scaleVal f.sfmt (nth 0 scales (h.scaleIndex i j))
  let (rows, fl, st1) := roundRows f scale ys 0 st
  { rows := rows, scales := scales, flags := fl, state := st1 }

/-- An element's encoding is NaN. -/
def rawIsNaN (fmt raw : Nat) : Bool :=
  !isIntFmt fmt && fmt != fmtCb2 && (decodeF (fmtFloat fmt) raw).isNaN

/-! ### Images -/

/-- The element at a run's place; none for padding (03 R89). -/
def unplace (order rows cols kaxis run place : Nat) : Option (Nat × Nat) :=
  match order with
  | 0 => if place < cols then some (run, place) else none
  | 1 => if place < rows then some (place, run) else none
  | _ =>
    let nx := if kaxis = 0 then rows else cols
    let kx := if kaxis = 0 then cols else rows
    let k := run / nx * 32 + place
    let n := run % nx
    if k < kx then some (if kaxis = 0 then (n, k) else (k, n)) else none

/-- The bytes of storage group `g` of a run. -/
def groupBytes (fmt order rows cols kaxis : Nat) (raw : Nat → Nat → Nat) (run g : Nat) : List Byte :=
  let (w, n, gb) := fmtInfo fmt
  let v := (upFrom 0 n).foldl (fun acc x =>
    match unplace order rows cols kaxis run (g * n + x) with
    | some (i, j) => acc + raw i j % 2 ^ w * 2 ^ (w * x)
    | none => acc) 0
  bytesOfNat gb v

/-- The payload of a dense tile whose elements are given by their bits. -/
def packDense (fmt order rows cols kaxis : Nat) (raw : Nat → Nat → Nat) : List Byte :=
  let (runs, len) := runsOf order rows cols kaxis
  (upFrom 0 runs).flatMap fun r =>
    (upFrom 0 (ceilDiv len (fmtInfo fmt).2.1)).flatMap fun g => groupBytes fmt order rows cols kaxis raw r g

/-- Bytes followed by zeros up to a length. -/
def padTo (n : Nat) (bs : List Byte) : List Byte := bs ++ List.replicate (n - bs.length) 0

/-- A whole image: header, payload, scale block, metadata, each from a multiple of 32 (03 R93). -/
def imageOf (h : Hdr) (payload scales meta_ : List Byte) : List Byte :=
  h.bytes ++ padTo (roundUp (32 + h.payload) 32 - 32) payload ++ padTo h.scaleBytes scales ++ padTo h.metaBytes meta_

/-- The image of a converted tile. -/
def convImage (h : Hdr) (c : Conv) : List Byte :=
  imageOf h (packDense h.fmt h.order h.rows h.cols h.kaxis fun i j => nth 0 (nth [] c.rows i) j)
    (c.scales.flatMap fun s => bytesOfNat (scaleSize h.sfmt) s) []

/-! ### Tile tables -/

/-- An empty entry: every field zero (03 R95). -/
def TileEntry.blank : TileEntry :=
  { hdr := 0, lsoff := 0, cap := 0, st := .empty, qheld := false, qidx := 0, readers := 0 }

/-- The tiles that a word reaches: the table, the storage that holds images with its size, the lowest offset an image
may take (03 R96), the entries of the table, and the codebook tables. -/
structure TEnv where
  tiles : Map TileEntry
  store : Memory
  base : Nat
  size : Nat
  low : Nat
  count : Nat
  books : Map Byte
  deriving DecidableEq, Repr

/-- The tiles of array core `c` (03 R94). -/
def arrayTiles (s : State) (c : Nat) : TEnv :=
  let k := s.array c
  { tiles := k.tiles, store := k.localStore, base := 0, size := 0x8000000, low := 0, count := 4096, books := k.books }

/-- The tiles of a workgroup (03 R94). -/
def groupTiles (s : State) (c : Nat) (g : Workgroup) : TEnv :=
  { tiles := g.tiles, store := (s.lane c).scratch, base := g.scrBase, size := g.scrSize, low := 4096, count := 64, books := [] }

/-- An entry of a table. -/
def TEnv.entry (e : TEnv) (n : Nat) : TileEntry := mapGet TileEntry.blank e.tiles n

/-- The image of an entry. -/
def TEnv.image (e : TEnv) (x : TileEntry) : Image := fun o => readByte e.store (e.base + x.lsoff.toNat + o)

/-- The entry's range lies within its storage (03 R96). -/
def TEnv.inRange (e : TEnv) (x : TileEntry) : Bool :=
  decide (e.low ≤ x.lsoff.toNat) && decide (x.lsoff.toNat + x.cap.toNat ≤ e.size)

/-- An image of a length fits an entry (03 R95, R96). -/
def TEnv.fits (e : TEnv) (x : TileEntry) (tlen : Nat) : Bool := decide (tlen ≤ x.cap.toNat) && e.inRange x

/-- The header of an entry. -/
def TileEntry.header (x : TileEntry) : Hdr := hdrOf x.hdr.toNat

/-- The number of a state (03 R95). -/
def stateNo : TileSt → Nat
  | .empty => 0
  | .filling => 1
  | .ready => 2
  | .draining => 3

/-- The 64 bytes of an entry (03 R95). -/
def TileEntry.bytes (x : TileEntry) : List Byte :=
  bytesOfNat 32 x.hdr.toNat ++ bytesOfNat 4 x.lsoff.toNat ++ bytesOfNat 4 x.cap.toNat
    ++ bytesOfNat 1 (stateNo x.st + 4 * ofBool x.qheld + 8 * x.qidx) ++ bytesOfNat 1 0 ++ bytesOfNat 1 x.readers
    ++ bytesOfNat 21 0

/-- What a write to an entry comes to (04 R120): the entry after it and the fault it raises, or a wait. -/
inductive EntryOut where
  | done (x : TileEntry) (fault : Option Cause)
  | wait
  deriving DecidableEq, Repr

/-- Bytes of a field replaced by the bytes of a write at entry offset `off`. -/
def patch (old : Nat) (n start off : Nat) (bs : List Byte) : Nat :=
  natOfBytes ((upFrom 0 n).map fun i =>
    if off ≤ start + i ∧ start + i < off + bs.length then nth 0 bs (start + i - off)
    else BitVec.ofNat 8 (old / 256 ^ i))

/-- A field multiple of 128 (03 R96). -/
def align128 (v : Nat) : BitVec 32 := BitVec.ofNat 32 (v % 2 ^ 32 / 128 * 128)

/-- The header part of a write to an entry (04 R120). -/
def judgeHdr (e : TEnv) (x : TileEntry) (w : Nat) : TileEntry × Option Cause :=
  let h := hdrOf w
  let cleared := { x with hdr := 0, st := .empty }
  if w = 0 then (cleared, none)
  else if !check1 w then (cleared, some .headerIntegrity)
  else if !h.check2 then (cleared, some .unsupportedCombination)
  else if !h.check3 then (cleared, some .headerMismatch)
  else if !e.fits x h.tlen then (cleared, some .tileCapacity)
  else ({ x with hdr := BitVec.ofNat 256 w, st := .ready }, none)

/-- A write of bytes at an offset of an entry (04 R120). -/
def judgeEntry (e : TEnv) (x : TileEntry) (off : Nat) (bs : List Byte) : EntryOut :=
  let last := off + bs.length
  let coversHdr := decide (off < 32)
  let coversGeo := decide (off < 40) && decide (32 < last)
  if x.st == TileSt.filling || x.st == TileSt.draining || (x.st == TileSt.ready && decide (0 < x.readers)) then .wait
  else if coversHdr && !(off == 0 && decide (32 ≤ last)) then .done x (some .windowBusy)
  else if coversGeo && x.st == TileSt.ready then .done x (some .windowBusy)
  else
    let x1 := if coversGeo then
        { x with lsoff := align128 (patch x.lsoff.toNat 4 32 off bs), cap := align128 (patch x.cap.toNat 4 36 off bs) }
      else x
    if coversHdr then
      let (x2, f) := judgeHdr e x1 (natOfBytes (bs.take 32))
      .done x2 f
    else .done x1 none

end Sys2Proof.Machine
end

