-- ==== Sys2Proof/Machine/Uniform.lean ====
section
/-! DEFINITION. Words that one agent issues for its unit: the warp-uniform words of a lane core, which the elected
thread issues (01 R21), and the words of an array core's cursors. Tile operands (05 R132 to R138; 10 R264) and the
operations that words of the M, D and Q engines leave in flight. -/

namespace Sys2Proof.Machine

/-- The agent of a word: the elected thread of an issue group, or an array task. -/
structure Issuer where
  kind : CoreKind
  core : Nat
  slot : Nat
  lane : Nat
  group : List Nat
  wg : Nat
  ring : Nat
  info : UnitInfo
  idx : Nat
  th : Thread
  base : Nat
  pc : Word
  /-- The cursor as fault records number it (18 R423). -/
  cursor : Nat
  deriving DecidableEq, Repr

/-- How a word issues: the state with its effects, the same with the program counters as the word set them, a precise
fault with the address and code of its record, or not yet. -/
inductive Issue where
  | done (s : State)
  | stay (s : State)
  | fault (c : Cause) (addr code : Nat)
  | wait
  deriving DecidableEq, Repr

/-- The threads of a group at the next word. -/
def advanceGroup (w : Warp) (pc : Word) (group : List Nat) : Warp :=
  { w with threads := mapAll (fun l t => if group.contains l then { t with pc := pc + 4 } else t) w.threads }

/-- The issuer of a lane core's word. -/
def laneIssuer (k : LaneCore) (c slot : Nat) (w : Warp) (g : Workgroup) (group : List Nat) : Issuer :=
  let lane := group.headD 0
  let th := (mapGet? lane w.threads).getD Thread.blank
  { kind := .lane, core := c, slot := slot, lane := lane, group := group, wg := w.wg, ring := ringOf k.code,
    info := g.info, idx := w.idx.toNat, th := th, base := 0, pc := th.pc, cursor := 0xFF }

/-- The issuer of an array core's word at a cursor. -/
def arrayIssuer (k : ArrayCore) (c : Nat) (t : Task) (cur : Cursor) : Issuer :=
  { kind := .array, core := c, slot := 0xFF, lane := 0xFF, group := [], wg := 0, ring := 96, info := t.info,
    idx := t.idx.toNat, th := k.th, base := t.baseAt cur, pc := (t.cursors.get cur).pc,
    cursor := cursorNo cur }

/-- A word that is issued once for its issue group or cursor (01 R21, R34). -/
def unitWord (s : State) (cur : Cursor) (f : Issuer → State → Issue) : Answer :=
  match s.sel with
  | .lane c slot lane =>
    match runningGroup s c slot lane with
    | none => .fault .noUnit
    | some (k, w, g, group) =>
      let x := laneIssuer k c slot w g group
      match f x s with
      | .done s1 =>
        let k1 := s1.lane c
        .next (s1.setLane c { k1 with warps := mapUpdate slot (fun w => advanceGroup w x.pc group) k1.warps })
      | .fault cause a code =>
        .next (laneException s c slot group x.pc x.pc
          [{ lane := x.lane, cause := cause, value := word a, code := code, addr := a }])
      | .stay s1 => .next s1
      | .wait => .next s
  | .array c cur' =>
    if cur' = cur then
      match runningTask s c cur with
      | none => .fault .noUnit
      | some (k, t) =>
        let x := arrayIssuer k c t cur
        match f x s with
        | .done s1 =>
          let k1 := s1.array c
          .next (s1.setArray c { k1 with task := k1.task.map fun t => t.pass cur (x.pc + 4) })
        | .fault cause a code => .next (arrayException s c cur cause (word a) code a x.pc)
        | .stay s1 => .next s1
        | .wait => .next s
    else .fault .noUnit

/-- A precise fault without an address. -/
def Issue.no (c : Cause) : Issue := .fault c 0 0

/-- A scalar register of the issuer. -/
def Issuer.reg (x : Issuer) (n : BitVec 5) : Word := x.th.reg x.ring n

/-- A scalar register named by a format T field. -/
def Issuer.reg6 (x : Issuer) (n : BitVec 6) : Word := x.reg (low5 n)

/-- The agent of the issuer (06 R152). -/
def Issuer.agent (x : Issuer) : Agent :=
  match x.kind with
  | .lane => .lane x.core x.slot x.lane
  | .array => .task x.core

/-- Where an operation of the issuer comes from (18 R423). -/
def Issuer.origin (x : Issuer) : Origin :=
  { world := x.info.world, job := x.info.job, launch := x.info.launch, kind := x.kind, core := x.core, idx := x.idx,
    slot := x.slot, key := x.slot, lane := x.lane, pc := x.pc, cursor := x.cursor }

/-- The threads that a scalar result of a word reaches (01 R21). -/
def Issuer.onThreads (x : Issuer) (s : State) (f : Thread → Thread) : State :=
  match x.kind with
  | .lane => x.group.foldl (fun s l => onThread s (.lane x.core x.slot l) f) s
  | .array => onThread s (.task x.core) f

/-- A scalar result written (01 R21, 11 R290). -/
def Issuer.setReg (x : Issuer) (s : State) (d : BitVec 5) (v : Word) : State :=
  x.onThreads s fun t => t.setReg x.ring d v

/-- Flags raised in the issuer's FPSTAT (02 R80). -/
def Issuer.raise (x : Issuer) (s : State) (fl : Flag) : State := onThread s x.agent fun t => t.raise fl

/-- The issuer's counter goes up by one (01 R50). -/
def Issuer.count (x : Issuer) (s : State) (n : CounterName) : State := countUp s x.kind x.core x.slot n

/-- A format slot of the launch (03 R99). -/
def Issuer.fslot (x : Issuer) (n : BitVec 3) : Slot := slotOf (nth 0 x.info.record.slots n.toNat)

/-! ### Tile tables of a unit -/

/-- The tiles that a unit's words reach: of an array core, or of workgroup `wg` of a lane core. -/
def tilesOf (s : State) (kind : CoreKind) (c wg : Nat) : TEnv :=
  match kind with
  | .array => arrayTiles s c
  | .lane => match mapGet? wg (s.lane c).wgs with
    | some g => groupTiles s c g
    | none => { tiles := [], store := [], base := 0, size := 0, low := 0, count := 64, books := [] }

/-- An entry of a unit's table changed; a workgroup that has released its scratchpad has none (01 R18). -/
def onTile (s : State) (kind : CoreKind) (c wg n : Nat) (f : TileEntry → TileEntry) : State :=
  match kind with
  | .array => let k := s.array c; s.setArray c { k with tiles := mapSet n (f (mapGet TileEntry.blank k.tiles n)) k.tiles }
  | .lane =>
    let k := s.lane c
    let put (g : Workgroup) : Workgroup := if g.released then g else { g with tiles := mapSet n (f (mapGet TileEntry.blank g.tiles n)) g.tiles }
    s.setLane c { k with wgs := mapUpdate wg put k.wgs }

/-- The tiles of the issuer. -/
def Issuer.tiles (x : Issuer) (s : State) : TEnv := tilesOf s x.kind x.core x.wg

/-- An entry of the issuer's table. -/
def Issuer.entry (x : Issuer) (s : State) (n : Nat) : TileEntry := (x.tiles s).entry n

/-- An entry of the issuer's table changed. -/
def Issuer.onTile (x : Issuer) (s : State) (n : Nat) (f : TileEntry → TileEntry) : State :=
  Machine.onTile s x.kind x.core x.wg n f

/-! ### Bytes of core storage -/

/-- The workgroup whose tile table holds an offset of a lane core's scratchpad, and the offset in the table (03 R94). -/
def tableAt (s : State) (kind : CoreKind) (c off : Nat) : Option (Nat × Nat) :=
  match kind with
  | .array => none
  | .lane =>
    match (s.lane c).wgs.find? fun g => !g.2.released && decide (g.2.scrBase ≤ off) && decide (off < g.2.scrBase + 4096) with
    | some (n, g) => some (n, off - g.scrBase)
    | none => none

/-- Byte `o` of a tile table. -/
def tableByte (e : TEnv) (o : Nat) : Byte := nth 0 (e.entry (o / 64)).bytes (o % 64)

/-- The `n` bytes of core storage from an offset; a tile table reads as its entries (03 R94, R95). -/
def readCore (s : State) (kind : CoreKind) (c off n : Nat) : List Byte :=
  let plain := readBytes (storage s kind c) off n
  match tableAt s kind c off with
  | none => plain
  | some (wg, o) =>
    let e := tilesOf s kind c wg
    (upFrom o (min n (4096 - o))).map (tableByte e) ++ plain.drop (4096 - o)

/-- What a write of core storage comes to: the state, the faults it raises, and whether it must wait (04 R120). -/
structure CoreWrite where
  state : State
  faults : List Cause
  waits : Bool
  deriving DecidableEq, Repr

/-- Bytes written into entries of a tile table, each judged by 04 R120: `n` entries from entry `e` on. -/
def writeEntries (kind : CoreKind) (c wg : Nat) (o : Nat) (bs : List Byte) : Nat → Nat → CoreWrite → CoreWrite
  | 0, _, r => r
  | n + 1, e, r =>
    let lo := max o (64 * e)
    let piece := (bs.drop (lo - o)).take (64 * (e + 1) - lo)
    let t := tilesOf r.state kind c wg
    match judgeEntry t (t.entry e) (lo - 64 * e) piece with
    | .wait => writeEntries kind c wg o bs n (e + 1) { r with waits := true }
    | .done x f =>
      let r1 := { r with state := onTile r.state kind c wg e fun _ => x, faults := r.faults ++ f.toList }
      writeEntries kind c wg o bs n (e + 1) r1

/-- Bytes written to core storage; bytes of a lane workgroup's tile table are judged as entries (03 R94, 04 R120). -/
def writeCore (s : State) (kind : CoreKind) (c off : Nat) (bs : List Byte) : CoreWrite :=
  match tableAt s kind c off with
  | none => { state := writeStorage s kind c off bs, faults := [], waits := false }
  | some (wg, o) =>
    let inTable := bs.take (4096 - o)
    let rest := bs.drop (4096 - o)
    let s1 := if rest = [] then s
      else writeStorage s kind c (off + (4096 - o)) rest
    if inTable = [] then { state := s1, faults := [], waits := false }
    else writeEntries kind c wg o inTable ((o + inTable.length - 1) / 64 + 1 - o / 64) (o / 64)
      { state := s1, faults := [], waits := false }

/-! ### Queues of an array core -/

/-- An unbound name (05 R143). -/
def Binding.blank : Binding :=
  { id := 0, core := 0, dir := .unbound, peerMod := 0, peerCore := 0, peerQ := 0, chan := 0, pool := 0, base := 0, cap := 0, credit := 0,
    paired := false, xoff := false, unreach := false, fifo := [], filling := none, taken := [], parked := [], marks := [], lent := 0, sent := 0,
    granted := 0, wantWidth := none }

/-- Queue name `q` of an array core. -/
def ArrayCore.queue (k : ArrayCore) (q : Nat) : Binding := mapGet Binding.blank k.queues q

/-- Queue name `q` of an array core changed. -/
def onQueue (s : State) (c q : Nat) (f : Binding → Binding) : State :=
  let k := s.array c
  s.setArray c { k with queues := mapSet q (f (k.queue q)) k.queues }

/-- An entry lies in the pool of a bound name. -/
def inPool (k : ArrayCore) (n : Nat) : Bool :=
  k.queues.any fun b => b.2.dir != Dir.unbound && decide (b.2.base ≤ n) && decide (n < b.2.base + b.2.pool)

/-- A `qunbind` of the name has not retired (11 R311). -/
def unbinding (k : ArrayCore) (q : Nat) : Bool := k.ops.any fun o => o.kind == OpKind.unbind q

/-- The fault of a stopped binding (05 R133, R148). -/
def stopCause (b : Binding) : Cause := if b.unreach then .peerUnreachable else .queueStopped

/-- The checks of 05 R133 on a queue that a word sends through. -/
def sendCheck (b : Binding) : Option Cause :=
  match b.dir with
  | .unbound => some .queueUnbound
  | .receive => some .queueDirection
  | .send => if b.xoff then some (stopCause b) else none

/-- The head of a receive queue: the oldest tile that no word has claimed, when it has wholly arrived (05 R136). -/
def readyHead (k : ArrayCore) (b : Binding) : Option Nat :=
  match b.fifo with
  | [] => none
  | e :: _ => if (mapGet TileEntry.blank k.tiles e).st == TileSt.ready then some e else none

/-- The checks of 05 R133 on a queue that a word consumes from; a stopped one first yields what had arrived whole. -/
def receiveCheck (k : ArrayCore) (b : Binding) : Option Cause :=
  match b.dir with
  | .unbound => some .queueUnbound
  | .send => some .queueDirection
  | .receive => if b.xoff && (readyHead k b).isNone then some (stopCause b) else none

/-- The free send entry with the lowest number (05 R138). -/
def freeEntry (k : ArrayCore) (b : Binding) : Option Nat :=
  (upFrom b.base b.pool).find? fun n => (mapGet TileEntry.blank k.tiles n).st == TileSt.empty

/-- One more tile at the end of the order of a queue (05 R140). -/
def Binding.push (b : Binding) (e : Nat) : Binding := { b with fifo := b.fifo ++ [e] }

/-! ### Operands -/

/-- What a tile operand field names (07 R183). -/
inductive TileName where
  | handle (h : Nat)
  | queue (q : Nat)
  | acc (a : Nat)
  | none
  deriving DecidableEq, Repr

/-- The name in a field, on a core kind: lane cores have no queues and two accumulators (07 R183). -/
def tileName (kind : CoreKind) (f : BitVec 6) : TileName :=
  let n := f.toNat
  if n < 32 then .handle n
  else if n < 48 then (if kind = .array then .queue (n - 32) else .none)
  else if n < 50 then .acc (n - 48)
  else if n < 56 ∧ kind = .array then .acc (n - 48)
  else .none

/-- Step 2 of 10 R264 for one operand: the entry, a fault with its code, or a wait. -/
inductive Pick where
  | ok (entry : Nat)
  | fault (c : Cause) (code : Nat)
  | wait
  deriving DecidableEq, Repr

/-- Naming an entry of a bound pool by handle (05 R134). -/
def poolPick (s : State) (x : Issuer) (n : Nat) : Option Pick :=
  match x.kind with
  | .lane => none
  | .array =>
    let e := x.entry s n
    if inPool (s.array x.core) n then
      (if e.st == TileSt.empty then some (.fault .tileEmpty 0) else if e.qheld then some .wait else none)
    else none

/-- On a lane core a queued M word has still to store bytes of an entry's image: its words execute one at a time (10
R287). -/
def imagePending (s : State) (x : Issuer) (e : TileEntry) : Bool :=
  match x.kind with
  | .array => false
  | .lane => (s.lane x.core).ops.any fun o =>
    !o.image.isEmpty && overlaps o.imageAt o.image.length ((x.tiles s).base + e.lsoff.toNat) e.cap.toNat

/-- A handle read as a source (10 R264; 03 R97). -/
def pickHandle (s : State) (x : Issuer) (h : Nat) : Pick :=
  let n := x.th.entryOf h
  let e := x.entry s n
  if (x.tiles s).count ≤ n then .fault .handleRange 0
  else match poolPick s x n with
    | some p => p
    | none => match e.st with
      | .empty => .fault .tileEmpty 0
      | .ready => if imagePending s x e then .wait else .ok n
      | _ => .wait

/-- The head of a receive queue as a source (05 R133, R136). -/
def pickHead (s : State) (x : Issuer) (q : Nat) : Pick :=
  let k := s.array x.core
  let b := k.queue q
  if unbinding k q then .wait
  else match receiveCheck k b with
    | some c => .fault c q
    | none => match readyHead k b with
      | some e => .ok e
      | none => .wait

/-- A source operand: a handle or a receive queue. -/
def pickSource (s : State) (x : Issuer) : TileName → Pick
  | .handle h => pickHandle s x h
  | .queue q => pickHead s x q
  | _ => .fault .illegalOperand 0

/-- A handle as a destination (10 R264; 03 R97, R98). -/
def pickFill (s : State) (x : Issuer) (h : Nat) : Pick :=
  let n := x.th.entryOf h
  let e := x.entry s n
  if (x.tiles s).count ≤ n then .fault .handleRange 0
  else match poolPick s x n with
    | some p => p
    | none => match e.st with
      | .empty => .ok n
      | .ready => if e.readers = 0 then .ok n else .wait
      | _ => .wait

/-- A send queue as a destination (05 R133, R138). -/
def pickSend (s : State) (x : Issuer) (q : Nat) : Pick :=
  let k := s.array x.core
  let b := k.queue q
  if unbinding k q then .wait
  else match sendCheck b with
    | some c => .fault c q
    | none => match freeEntry k b with
      | some e => .ok e
      | none => .wait

/-- A destination operand: a handle or a send queue. -/
def pickDest (s : State) (x : Issuer) : TileName → Pick
  | .handle h => pickFill s x h
  | .queue q => pickSend s x q
  | _ => .fault .illegalOperand 0

/-- A word goes on with the entry of an operand. -/
def Pick.bind (p : Pick) (f : Nat → Issue) : Issue :=
  match p with
  | .ok n => f n
  | .fault c code => .fault c 0 code
  | .wait => .wait

/-! ### Checks -/

/-- A check with its cause and the code of its record. -/
structure Check where
  ok : Bool
  cause : Cause
  code : Nat
  deriving DecidableEq, Repr

/-- The first check that fails decides (03 R104). -/
def checked : List Check → Issue → Issue
  | [], r => r
  | k :: rest, r => if k.ok then checked rest r else .fault k.cause 0 k.code

/-- The code of a record about an operand: the queue index where it is a queue head (03 R105). -/
def TileName.code : TileName → Nat
  | .queue q => q
  | _ => 0

/-- The capacity that a result of a word must fit: of the destination entry within its storage, or what the peer of a
paired send queue granted (03 R95, R96; 05 R138; 11 R312). -/
def fitsDest (s : State) (x : Issuer) (d : TileName) (n tlen : Nat) : Bool :=
  let e := x.entry s n
  (x.tiles s).fits e tlen
    && (match d with
      | .queue q => let b := (s.array x.core).queue q; !b.paired || decide (tlen ≤ b.granted)
      | _ => true)

/-! ### Issue of an operation -/

/-- The queue heads that source operands claim: each queue once (05 R136). -/
def headsOf : List (TileName × Nat) → List (Nat × Nat)
  | [] => []
  | (.queue q, e) :: rest => let r := headsOf rest; if r.any (fun h => h.1 == q) then r else (q, e) :: r
  | _ :: rest => headsOf rest

/-- The entries that handle sources read, but for the destination entry itself (03 R98). -/
def readsOf (dest : Option Nat) : List (TileName × Nat) → List Nat
  | [] => []
  | (.handle _, e) :: rest => if dest = some e then readsOf dest rest else e :: readsOf dest rest
  | _ :: rest => readsOf dest rest

/-- A head claimed: it leaves the queue and counts a reader (05 R136). -/
def claimHead (s : State) (x : Issuer) (h : Nat × Nat) : State :=
  x.onTile (onQueue s x.core h.1 fun b => { b with fifo := b.fifo.drop 1 }) h.2 fun e => { e with readers := e.readers + 1 }

/-- An operation with nothing but its kind. -/
def TileOp.blank (x : Issuer) (id : Nat) (k : OpKind) : TileOp :=
  { id := id, kind := k, origin := x.origin, wg := x.wg, reads := [], heads := [], fill := none, sendQ := none,
    drain := none, imageAt := 0, image := [] }

/-- The operations of a core with one appended. -/
def pushOp (s : State) (x : Issuer) (o : TileOp) : State :=
  match x.kind with
  | .array => let k := s.array x.core; s.setArray x.core { k with ops := k.ops ++ [o] }
  | .lane => let k := s.lane x.core; s.setLane x.core { k with ops := k.ops ++ [o] }

/-- An operation issues (10 R264 step 5; 03 R97; 05 R136, R138): sources gain a reader, heads are claimed, the
destination goes to filling, a drained entry to draining, and TO counts it. -/
def issueOp (s : State) (x : Issuer) (o : TileOp) : State :=
  let s1 := o.reads.foldl (fun s n => x.onTile s n fun e => { e with readers := e.readers + 1 }) s
  let s2 := o.heads.foldl (fun s h => claimHead s x h) s1
  let s3 := match o.fill with
    | some (n, _) => x.onTile s2 n fun e => { e with st := .filling }
    | none => s2
  let s4 := match o.sendQ, o.fill with
    | some q, some (n, _) => onQueue s3 x.core q fun b => b.push n
    | _, _ => s3
  let s5 := match o.drain with
    | some (n, _) => x.onTile s4 n fun e => { e with st := .draining }
    | none => s4
  x.count { pushOp s5 x o with nextId := s.nextId + 1 } .tl

/-- The queue that a destination sends through. -/
def TileName.sendQ : TileName → Option Nat
  | .queue q => some q
  | _ => Option.none

/-- An operation that stores a tile of a header in entry `n`, reading `srcs`. -/
def resultOp (s : State) (x : Issuer) (d : TileName) (n : Nat) (srcs : List (TileName × Nat)) (h : BitVec 256)
    (image : List Byte) : TileOp :=
  { TileOp.blank x s.nextId .matrix with
      reads := readsOf (some n) srcs, heads := headsOf srcs, fill := some (n, h), sendQ := d.sendQ,
      imageAt := (x.tiles s).base + (x.entry s n).lsoff.toNat, image := image }

/-! ### Addresses of a word's operands in core storage -/

/-- The offset in core storage of `n` bytes at an address: alignment, the aperture, the scratchpad (10 R283). -/
def localAt (s : State) (x : Issuer) (align n : Nat) (a : Word) : Except Cause Nat :=
  if a.toNat % align ≠ 0 then .error .alignment
  else match apertureOff a.toNat with
    | none => .error .localOnly
    | some o =>
      if x.kind = .lane ∧ (x.tiles s).size < o + n then .error .scratchBound
      else if 0x8000000 < o + n then .error .localOnly
      else .ok ((x.tiles s).base + o)

end Sys2Proof.Machine
end

