-- ==== Sys2Proof/Machine/Queue.lean ====
section
/-! DEFINITION. Link tile queues (05): pairing, credits, arrival and departure of tiles, markers, dissolution, the Q
words (11 R308 to R318), and the retirement of M and Q operations (10 R263). -/

namespace Sys2Proof.Machine

/-! ### Tiles and markers -/

/-- Entries of a pool that are not empty (05 R143 HELD). -/
def heldCount (k : ArrayCore) (b : Binding) : Nat :=
  ((upFrom b.base b.pool).filter fun n => (mapGet TileEntry.blank k.tiles n).st != TileSt.empty).length

/-- QSTATEn (05 R143). -/
def qstate (s : State) (c q : Nat) : Word :=
  let k := s.array c
  let b := k.queue q
  match b.dir with
  | .unbound => 0
  | _ =>
    word (b.peerMod * 2 ^ 50 + b.peerCore * 2 ^ 42 + b.peerQ * 2 ^ 38 + b.chan * 2 ^ 30 + b.pool * 2 ^ 23
      + (if b.dir = .send then b.credit else 0) * 2 ^ 16 + heldCount k b * 2 ^ 9
      + (if b.paired then (s.chan b.chan).cur else 0) * 2 ^ 5 + ofBool (b.dir == Dir.send && !b.marks.isEmpty) * 16
      + ofBool b.xoff * 8 + ofBool b.paired * 4 + (if b.dir = .send then 1 else 2))

/-- A register as it reads after a write through the window over fields that hardware shows: those fields read as written
while hardware would still show what it showed then (04 R119; 12 R346; log entry 89). -/
def shadowed (sh : Map (Word × Word)) (key mask : Nat) (v : Word) : Word :=
  match mapGet? key sh with
  | none => v
  | some x => if (x.1 ^^^ v) &&& word mask = 0 then (v &&& ~~~word mask) ||| (x.2 &&& word mask) else v

/-- The fields of QSTATE that show something else than the binding's own data: HELD, WIDTH and MARK; CREDIT of a receive
binding; all of an unbound name. -/
def qstateMask (b : Binding) : Nat :=
  match b.dir with
  | .unbound => 0xFFFFFFFFFFFFFFFF
  | .send => 0xFFF0
  | .receive => 0x7FFFF0

/-- QSTATEn as it reads. -/
def qstateShown (s : State) (c q : Nat) : Word :=
  shadowed (s.array c).shadow (0x110 + q) (qstateMask ((s.array c).queue q)) (qstate s c q)

/-- ARG of the marker events (22 R493). -/
def markArg (b : Binding) (stepNo : BitVec 16) (isEnd : Bool) : Nat :=
  stepNo.toNat + ofBool isEnd * 2 ^ 16 + b.peerCore * 2 ^ 24 + b.peerMod * 2 ^ 32 + b.peerQ * 2 ^ 46

/-- The world of a core's task. -/
def ArrayCore.taskWorld (k : ArrayCore) : Nat :=
  match k.task with
  | some t => t.info.world
  | none => 0

/-- A marker event in the buffer of the channel's link chiplet (05 R150; 22 R493), with the core that the binding was made
on (log entry 83). -/
def traceMark (s : State) (event world q : Nat) (b : Binding) (stepNo : BitVec 16) (isEnd : Bool) : State :=
  trace s (16 + b.chan / 32) event 0 b.core q (markArg b stepNo isEnd) world

/-- A marker stands behind every earlier tile once the binding is paired, the link chiplet has taken those tiles and the
channel is up (05 R150; 21 R481; log entry 82). -/
def Binding.due (up : Bool) (b : Binding) (m : Nat × BitVec 16 × Bool × Bool) : Bool :=
  up && b.paired && !b.xoff && !m.2.2.2 && decide (m.1 ≤ b.taken.length)

/-- The binding with its due markers placed. -/
def Binding.placed (up : Bool) (b : Binding) : Binding :=
  { b with marks := b.marks.map fun m => if b.due up m then (m.1, m.2.1, m.2.2.1, true) else m }

/-- The events of the markers that are placed now. -/
def traceDue (s : State) (world q : Nat) (b : Binding) : State :=
  (b.marks.filter (b.due (s.chanUp b.chan))).foldl (fun s m => traceMark s 1 world q b m.2.1 m.2.2.1) s

/-- An entry of an array core's table changed. -/
def ArrayCore.onTile (k : ArrayCore) (n : Nat) (f : TileEntry → TileEntry) : ArrayCore :=
  { k with tiles := mapSet n (f (mapGet TileEntry.blank k.tiles n)) k.tiles }

/-- A queue name of an array core changed. -/
def ArrayCore.onQueue (k : ArrayCore) (q : Nat) (f : Binding → Binding) : ArrayCore :=
  { k with queues := mapSet q (f (k.queue q)) k.queues }

/-- The due markers of a resident binding placed, with their events (05 R141, R150). -/
def placeMarks (s : State) (c q : Nat) : State :=
  let k := s.array c
  let b := k.queue q
  (traceDue s k.taskWorld q b).setArray c (k.onQueue q (Binding.placed (s.chanUp b.chan)))

/-- `n` entries of a receive pool are empty again: their credits go back to the peer (05 R136; 11 R317). -/
def Binding.giveBack (b : Binding) (n : Nat) : Binding :=
  if b.dir == Dir.receive && b.paired then { b with lent := b.lent + n } else b

/-- The readers of an operation released and its heads freed (03 R97; 05 R136). -/
def releaseTiles (s : State) (kind : CoreKind) (c : Nat) (o : TileOp) : State :=
  let s1 := o.reads.foldl (fun s n => onTile s kind c o.wg n fun e => { e with readers := e.readers - 1 }) s
  o.heads.foldl (fun s h => onTile s kind c o.wg h.2 fun e => { e with st := .empty, readers := 0, qheld := false }) s1

/-- The task of a core issued an operation. -/
def isTaskOf (k : ArrayCore) (o : Origin) : Bool :=
  match k.task with
  | none => false
  | some t => t.idx.toNat == o.idx && t.info.world == o.world && t.info.job == o.job && t.info.launch == o.launch

/-- An operation of an array core retires: its readers are released, its heads freed, and TO falls (01 R50; 03 R97; 05
R136; 10 R263). -/
def ArrayCore.retire (k : ArrayCore) (o : TileOp) : ArrayCore :=
  let k1 := { k with ops := k.ops.filter fun x => x.id != o.id }
  let k2 := o.reads.foldl (fun (k : ArrayCore) n => k.onTile n fun e => { e with readers := e.readers - 1 }) k1
  let k3 := o.heads.foldl
    (fun (k : ArrayCore) (h : Nat × Nat) =>
      (k.onTile h.2 fun e => { e with st := .empty, readers := 0, qheld := false }).onQueue h.1 fun b => b.giveBack 1) k2
  if isTaskOf k o.origin then
    { k3 with task := k3.task.map fun t => { t with cnt := { t.cnt with tl := t.cnt.tl - 1 } } }
  else k3

/-- An operation of a core's task retires. -/
def retireArray (s : State) (c : Nat) (o : TileOp) : State := s.setArray c ((s.array c).retire o)

/-- The operations that wait on markers of a queue retire unacknowledged (05 R141). -/
def ArrayCore.dropMarks (k : ArrayCore) (q : Nat) : ArrayCore :=
  let ops := k.ops.filter fun o => o.kind == OpKind.mark q
  (ops.foldl ArrayCore.retire k).onQueue q fun b => { b with marks := [] }

/-- The markers of a core's queue dropped. -/
def dropMarks (s : State) (c q : Nat) : State := s.setArray c ((s.array c).dropMarks q)

/-- A send entry that leaves its queue: it becomes empty and its sending word retires (05 R139; 11 R311, R317). -/
def ArrayCore.discardSend (k : ArrayCore) (q e : Nat) : ArrayCore :=
  let k1 := k.onTile e fun x => { x with st := .empty }
  match k.ops.find? fun o => o.kind == OpKind.send q e with
  | some o => k1.retire o
  | none => k1

/-- Every send entry that the link chiplet has not taken discarded (11 R311, R317). -/
def discardUntaken (s : State) (c q : Nat) : State :=
  let k := s.array c
  let b := k.queue q
  s.setArray c (((b.parked ++ b.fifo).foldl (fun (k : ArrayCore) e => k.discardSend q e) k).onQueue q fun b =>
    { b with fifo := [], parked := [], marks := b.marks.map fun m => (min m.1 b.taken.length, m.2) })

/-- A tile of the queue is still being formed in its send entry. -/
def forming (k : ArrayCore) (b : Binding) : Bool :=
  b.dir == Dir.send && b.fifo.any fun e => (mapGet TileEntry.blank k.tiles e).st == TileSt.filling

/-- A word has claimed a head of the queue and has not retired; `qunbind` waits for it (log entry 84). -/
def claiming (k : ArrayCore) (q : Nat) : Bool := k.ops.any fun o => o.heads.any fun h => h.1 == q

/-- The pool entries empty and no longer held; CAP and LSOFF stay (11 R311). -/
def freePool (s : State) (c : Nat) (b : Binding) : State :=
  (upFrom b.base b.pool).foldl (fun s n =>
    onTile s .array c 0 n fun e => { e with st := .empty, qheld := false, qidx := 0, readers := 0 }) s

/-- A binding dissolved (05 R147; 11 R311): its markers retire, its tiles are discarded, the name is unbound. -/
def dissolve (s : State) (c q : Nat) : State :=
  let s1 := dropMarks s c q
  onQueue (freePool s1 c ((s1.array c).queue q)) c q fun _ => Binding.blank

/-! ### Retirement of M and Q operations -/

/-- Deferred faults of an operation (01 R57; 18 R424). -/
def deferAll (s : State) (o : Origin) (cs : List Cause) : State := cs.foldl (fun s c => asyncReport s o false c 0 0) s

/-- The result of an operation stored: the image, then the destination entry, which goes to ready, or to draining in a
send queue, and the drained source (03 R97; 05 R138; 11 R312). -/
def storeResult (s : State) (kind : CoreKind) (c : Nat) (o : TileOp) : State :=
  let s1 := match o.fill with
    | some (n, h) => onTile s kind c o.wg n fun e =>
        { e with hdr := h, st := if o.sendQ.isSome then .draining else .ready }
    | none => s
  match o.drain with
  | some (n, free) => onTile s1 kind c o.wg n fun e => { e with st := if free then .empty else .ready }
  | none => s1

/-- The operation of a core with an identifier; on a lane core only the oldest can retire (10 R287). -/
def retiring (s : State) (u : UnitRef) (id : Nat) : Option TileOp :=
  match u.kind with
  | .array => (s.array u.core).ops.find? fun o => o.id == id
  | .lane => match (s.lane u.core).ops with
    | o :: _ => if o.id = id then some o else none
    | [] => none

/-- The tile of a result goes to its send queue: the word retires when the tile has been sent (05 R138). -/
def becomeSend (s : State) (c : Nat) (o : TileOp) (q e : Nat) : State :=
  let k := s.array c
  s.setArray c { k with ops := k.ops.map fun x =>
    if x.id = o.id then { o with kind := .send q e, fill := none, drain := none, image := [] } else x }

/-- MATRIX_OP_RETIRE (10 R263; 11 R308): an M or Q operation retires, or its tile becomes whole in a send entry. -/
def execMatrixOpRetire (u : UnitRef) (op : Nat) (s : State) : Answer :=
  match retiring s u op with
  | none => .next s
  | some o =>
    match o.kind with
    | .matrix =>
      let r := writeCore s u.kind u.core o.imageAt o.image
      if r.waits then .next s
      else
        let s1 := deferAll (storeResult r.state u.kind u.core o) o.origin r.faults
        match u.kind, o.sendQ, o.fill with
        | .array, some q, some (e, _) =>
          if ((s.array u.core).queue q).fifo.contains e then .next (becomeSend s1 u.core o q e)
          else .next (retireArray (onTile s1 .array u.core 0 e fun x => { x with st := .empty }) u.core o)
        | .array, _, _ => .next (retireArray s1 u.core o)
        | .lane, _, _ =>
          let k := s1.lane u.core
          let s2 := s1.setLane u.core { k with ops := k.ops.drop 1 }
          .next (countOut (releaseTiles s2 .lane u.core o) o.origin .tl)
    | .unbind q =>
      let b := (s.array u.core).queue q
      if b.taken.isEmpty && !claiming (s.array u.core) q then .next (retireArray (dissolve s u.core q) u.core o) else .next s
    | .send _ _ => .next s
    | .mark _ => .next s

/-! ### Q words -/

/-- A Q word on a lane core is engine-absent (07 R180); on an array core it names its queue in a field. -/
def queueWord (s : State) (f : BitVec 6) (g : Issuer → Nat → State → Issue) : Answer :=
  unitWord s .Q fun x s =>
    match x.kind with
    | .lane => .no .engineAbsent
    | .array => if isQueue f then g x (f.toNat - 32) s else .no .illegalOperand

/-- A descriptor (11 R309). -/
structure QDesc where
  peerMod : Nat
  peerCore : Nat
  peerQ : Nat
  chan : Nat
  base : Nat
  pool : Nat
  cap : Nat
  lsbase : Nat
  reserved : Bool
  deriving DecidableEq, Repr

/-- The fields of a descriptor's 16 bytes. -/
def qdescOf (n : Nat) : QDesc :=
  { peerMod := bits n 0 14, peerCore := bits n 16 8, peerQ := bits n 24 4, chan := bits n 32 8, base := bits n 40 12,
    pool := bits n 52 7, cap := bits n 64 32, lsbase := bits n 96 32,
    reserved := bits n 14 2 == 0 && bits n 28 4 == 0 && bits n 59 5 == 0 }

/-- Check 1 of 11 R310. -/
def bindable (s : State) (c q : Nat) (d : QDesc) : Bool :=
  let k := s.array c
  (k.queue q).dir == Dir.unbound && d.reserved && decide (1 ≤ d.pool) && decide (d.pool ≤ 64)
    && decide (d.base + d.pool ≤ 4096) && d.cap != 0 && d.cap % 128 == 0 && d.lsbase % 128 == 0
    && decide (d.lsbase + d.pool * d.cap ≤ 0x8000000) && decide (d.peerCore ≤ 159) && d.peerMod != s.module
    && (upFrom d.base d.pool).all fun n =>
      let e := mapGet TileEntry.blank k.tiles n
      e.st == TileSt.empty && !e.qheld

/-- The peer is in REACH_TBL and the channel is configured to it (11 R310). -/
def channelReady (s : State) (d : QDesc) : Bool :=
  let x := s.chan d.chan
  reachable s d.peerMod && x.peer == d.peerMod && x.ctl.getLsbD 49

/-- A name bound from a descriptor, and named to the link chiplets (05 R134; 11 R310). -/
def bindQueue (s : State) (c q : Nat) (dir : Dir) (d : QDesc) : State :=
  let b : Binding :=
    { Binding.blank with
        id := s.nextId, core := c, dir := dir, peerMod := d.peerMod, peerCore := d.peerCore, peerQ := d.peerQ, chan := d.chan, pool := d.pool,
        base := d.base, cap := d.cap }
  let s1 := onQueue { s with nextId := s.nextId + 1 } c q fun _ => b
  let entry (k : Nat) (e : TileEntry) : TileEntry :=
    { e with cap := align128 d.cap, lsoff := align128 (d.lsbase + k * d.cap), qheld := true, qidx := q }
  (upFrom 0 d.pool).foldl (fun s k => onTile s .array c 0 (d.base + k) (entry k)) s1

/-- `qbind` (11 R310). -/
def qbindWord (dir : Dir) (td ta : BitVec 6) (s : State) : Answer :=
  queueWord s td fun x q s =>
    if !isScalar6 ta then .no .illegalOperand
    else if unbinding (s.array x.core) q then .wait
    else
      let a := x.reg6 ta
      match localAt s x 16 16 a with
      | .error c => .fault c a.toNat 0
      | .ok o =>
        let d := qdescOf (natOfBytes (readCore s .array x.core o 16))
        if !bindable s x.core q d then .no .illegalOperand
        else if !channelReady s d then .fault .peerUnreachable 0 q
        else
          let s1 := bindQueue s x.core q dir d
          .done (issueOp s1 x (TileOp.blank x s1.nextId .matrix))

/-- `qbind.s` (11 R310). -/
def execQbindS (td ta : BitVec 6) (s : State) : Answer := qbindWord .send td ta s

/-- `qbind.r` (11 R310). -/
def execQbindR (td ta : BitVec 6) (s : State) : Answer := qbindWord .receive td ta s

/-- `qunbind` (11 R311): tiles not taken are discarded; it retires, and the binding is dissolved, when every taken tile
has left. -/
def execQunbind (td : BitVec 6) (s : State) : Answer :=
  queueWord s td fun x q s =>
    let b := (s.array x.core).queue q
    if unbinding (s.array x.core) q || forming (s.array x.core) b then .wait
    else if b.dir = .unbound then .fault .queueUnbound 0 q
    else
      let s1 := if b.dir = .send then discardUntaken s x.core q
        else onQueue s x.core q fun b => { b with fifo := [], filling := none }
      .done (issueOp s1 x (TileOp.blank x s.nextId (.unbind q)))

/-- `qsend` (11 R312). -/
def qsendWord (free : Bool) (td ta : BitVec 6) (s : State) : Answer :=
  queueWord s td fun x q s =>
    match tileName x.kind ta with
    | .handle h =>
      (pickHandle s x h).bind fun src => (pickSend s x q).bind fun n =>
        let e := x.entry s src
        let hd := e.header
        checked [⟨check1 e.hdr.toNat, .headerIntegrity, 0⟩, ⟨hd.check3, .headerMismatch, 0⟩,
            ⟨(x.tiles s).inRange e && fitsDest s x (.queue q) n hd.tlen, .tileCapacity, 0⟩]
          (let o := resultOp s x (.queue q) n [] e.hdr (readCore s .array x.core e.lsoff.toNat hd.tlen)
           .done (issueOp s x { o with drain := some (src, free) }))
    | _ => .no .illegalOperand

/-- `qsend` (11 R312). -/
def execQsend (td ta : BitVec 6) (s : State) : Answer := qsendWord false td ta s

/-- `qsend.f` (11 R312): the source entry is freed. -/
def execQsendF (td ta : BitVec 6) (s : State) : Answer := qsendWord true td ta s

/-- `qrecv` (11 R313). -/
def execQrecv (td ta : BitVec 6) (s : State) : Answer :=
  queueWord s ta fun x q s =>
    match tileName x.kind td with
    | .handle h =>
      (pickHead s x q).bind fun src => (pickFill s x h).bind fun n =>
        let e := x.entry s src
        let hd := e.header
        checked [⟨check1 e.hdr.toNat, .headerIntegrity, q⟩, ⟨hd.check3, .headerMismatch, q⟩,
            ⟨(x.tiles s).inRange e && fitsDest s x (.handle h) n hd.tlen, .tileCapacity, q⟩]
          (.done (issueOp s x
            (resultOp s x (.handle h) n [(.queue q, src)] e.hdr (readCore s .array x.core e.lsoff.toNat hd.tlen))))
    | _ => .no .illegalOperand

/-- `qmark` (11 R314; 05 R141): a marker behind every earlier tile of the binding. -/
def qmarkWord (isEnd : Bool) (td ta : BitVec 6) (s : State) : Answer :=
  queueWord s td fun x q s =>
    let k := s.array x.core
    let b := k.queue q
    if !isScalar6 ta then .no .illegalOperand
    else if unbinding k q then .wait
    else match sendCheck b with
      | some c => .fault c 0 q
      | none =>
        let n := b.parked.length + b.fifo.length + b.taken.length
        let stepNo := BitVec.ofNat 16 (x.reg6 ta).toNat
        let s1 := onQueue s x.core q fun b => { b with marks := b.marks ++ [(n, stepNo, isEnd, false)] }
        .done (placeMarks (issueOp s1 x (TileOp.blank x s.nextId (.mark q))) x.core q)

/-- `qmark.start` (11 R314). -/
def execQmarkStart (td ta : BitVec 6) (s : State) : Answer := qmarkWord false td ta s

/-- `qmark.end` (11 R314). -/
def execQmarkEnd (td ta : BitVec 6) (s : State) : Answer := qmarkWord true td ta s

/-- `qwidth` (11 R315; 21 R468): REQ of the binding's channel, held while the binding is unpaired. -/
def execQwidth (td : BitVec 6) (width : BitVec 4) (s : State) : Answer :=
  queueWord s td fun x q s =>
    let k := s.array x.core
    let b := k.queue q
    if !isWidth width then .no .illegalOperand
    else if unbinding k q then .wait
    else match sendCheck b with
      | some c => .fault c 0 q
      | none =>
        let s1 := if b.paired then s.setChan b.chan { s.chan b.chan with req := width.toNat }
          else onQueue s x.core q fun b => { b with wantWidth := some width.toNat }
        .done (issueOp s1 x (TileOp.blank x s.nextId .matrix))

/-- `qstat` (11 R316). -/
def execQstat (td ta : BitVec 6) (s : State) : Answer :=
  queueWord s ta fun x q s =>
    if !isScalar6 td then .no .illegalOperand
    else if unbinding (s.array x.core) q then .wait
    else .done (issueOp (x.setReg s (low5 td) (qstateShown s x.core q)) x (TileOp.blank x s.nextId .matrix))

/-- `qdrop` (11 R317). -/
def execQdrop (td : BitVec 6) (s : State) : Answer :=
  queueWord s td fun x q s =>
    let k := s.array x.core
    let b := k.queue q
    if unbinding k q || forming k b then .wait
    else match b.dir with
      | .unbound => .fault .queueUnbound 0 q
      | .send => .done (placeMarks (issueOp (discardUntaken s x.core q) x (TileOp.blank x s.nextId .matrix)) x.core q)
      | .receive =>
        let ready := b.fifo.filter fun e => (mapGet TileEntry.blank k.tiles e).st == TileSt.ready
        let s1 := ready.foldl (fun s e => onTile s .array x.core 0 e fun x => { x with st := .empty }) s
        let s2 := onQueue s1 x.core q fun b => { b with fifo := b.filling.toList }.giveBack ready.length
        .done (issueOp s2 x (TileOp.blank x s.nextId .matrix))

end Sys2Proof.Machine
end

