-- ==== Sys2Proof/Machine/Branch.lean ====
section
/-! DEFINITION. Branches and jumps of the S engine (08 R227 to R232). -/

namespace Sys2Proof.Machine

/-- tgt_br (07 R182). -/
def branchTarget (pc : Word) (off : BitVec 12) : Word := pc + (off.signExtend 64 <<< 2)

/-- tgt_j (07 R182). -/
def jumpTarget (pc : Word) (off : BitVec 20) : Word := pc + (off.signExtend 64 <<< 2)

/-- A conditional branch (08 R227). -/
def condBranch (cond : Word → Word → Bool) (a b : BitVec 5) (off : BitVec 12) (s : State) : Answer :=
  scalarWord s .S true fun x t =>
    .done t (if cond (t.reg x.ring a) (t.reg x.ring b) then some (branchTarget t.pc off) else none)

/-- `b.eq` (08 R227). -/
def execBEq (a b : BitVec 5) (off : BitVec 12) (s : State) : Answer :=
  condBranch (fun x y => x == y) a b off s

/-- `b.ne` (08 R227). -/
def execBNe (a b : BitVec 5) (off : BitVec 12) (s : State) : Answer :=
  condBranch (fun x y => x != y) a b off s

/-- `b.lt` (08 R227). -/
def execBLt (a b : BitVec 5) (off : BitVec 12) (s : State) : Answer :=
  condBranch (fun x y => decide (x.toInt < y.toInt)) a b off s

/-- `b.ge` (08 R227). -/
def execBGe (a b : BitVec 5) (off : BitVec 12) (s : State) : Answer :=
  condBranch (fun x y => decide (y.toInt ≤ x.toInt)) a b off s

/-- `b.ltu` (08 R227). -/
def execBLtu (a b : BitVec 5) (off : BitVec 12) (s : State) : Answer :=
  condBranch (fun x y => decide (x.toNat < y.toNat)) a b off s

/-- `b.geu` (08 R227). -/
def execBGeu (a b : BitVec 5) (off : BitVec 12) (s : State) : Answer :=
  condBranch (fun x y => decide (y.toNat ≤ x.toNat)) a b off s

/-- The rotating base one lower, modulo 32 (01 R42). -/
def rotDown (base : Nat) : Nat := (base + 31) % 32

/-- `brot` (08 R230): a branch on inequality that lowers ROT_BASE.BASE, taken or not; array cores only. -/
def execBrot (a b : BitVec 5) (off : BitVec 12) (s : State) : Answer :=
  match s.sel with
  | .array c .S =>
    match runningTask s c .S with
    | none => .fault .noUnit
    | some (k, t) =>
      let pc := t.cursors.s.pc
      let taken := k.th.reg 96 a != k.th.reg 96 b
      let target := if taken then some (branchTarget pc off) else none
      let base := rotDown (t.baseAt .S)
      let t1 := (t.leave target).branch base (target.getD (pc + 4))
      .next (s.setArray c { k with rotBase := base, task := some t1 })
  | _ => scalarWord s .S false fun _ _ => .fault .illegalInstruction 0

/-- `j` (08 R228). -/
def execJ (link : BitVec 5) (off : BitVec 20) (s : State) : Answer :=
  scalarWord s .S true fun x t =>
    .done (t.setReg x.ring link (t.pc + 4)) (some (jumpTarget t.pc off))

/-- `jr` (08 R228): the target is formed from the old s[a]. -/
def execJr (d a : BitVec 5) (imm : BitVec 12) (s : State) : Answer :=
  scalarWord s .S true fun x t =>
    .done (t.setReg x.ring d (t.pc + 4)) (some ((t.reg x.ring a + imm.signExtend 64) &&& ~~~3))

end Sys2Proof.Machine
end

