-- ==== Sys2Proof/Machine/Matrix.lean ====
section
/-! DEFINITION. The words of the M engine (10 R262 to R287). -/

namespace Sys2Proof.Machine

/-! ### Accumulators -/

/-- An accumulator on which nothing has been written (10 R271). -/
def Acc.blank : Acc := { elems := [], extent := none, poison := false }

/-- The accumulator that a field names: of the task, or of the pair that the workgroup holds (10 R286). -/
def accKey (s : State) (x : Issuer) (a : Nat) : Option Nat :=
  match x.kind with
  | .array => some a
  | .lane => match mapGet? x.wg (s.lane x.core).wgs with
    | some g => g.pair.map fun p => 2 * p + a
    | none => none

/-- An accumulator of a core. -/
def getAcc (s : State) (x : Issuer) (key : Nat) : Acc :=
  match x.kind with
  | .array => mapGet Acc.blank (s.array x.core).accs key
  | .lane => mapGet Acc.blank (s.lane x.core).accs key

/-- The state with an accumulator replaced. -/
def setAcc (s : State) (x : Issuer) (key : Nat) (v : Acc) : State :=
  match x.kind with
  | .array => let k := s.array x.core; s.setArray x.core { k with accs := mapSet key v k.accs }
  | .lane => let k := s.lane x.core; s.setLane x.core { k with accs := mapSet key v k.accs }

/-- Element (i, j) of an accumulator. -/
def Acc.at (a : Acc) (i j : Nat) : Nat := (mapGet 0 a.elems (128 * i + j)).toNat

/-- An accumulator with elements written, rows in order. -/
def Acc.write (a : Acc) (m n : Nat) (v : Nat → Nat → Nat) : Acc :=
  { a with elems := (upFrom 0 m).foldl (fun e i =>
      (upFrom 0 n).foldl (fun e j => mapSet (128 * i + j) (BitVec.ofNat 56 (v i j)) e) e) a.elems }

/-- The generator of the issuer's core (02 R78). -/
def srOf (s : State) (x : Issuer) : BitVec 16 :=
  match x.kind with
  | .array => (s.array x.core).srState
  | .lane => (s.lane x.core).srState

/-- The state with the generator of the issuer's core replaced. -/
def setSr (s : State) (x : Issuer) (v : BitVec 16) : State :=
  match x.kind with
  | .array => s.setArray x.core { s.array x.core with srState := v }
  | .lane => s.setLane x.core { s.lane x.core with srState := v }

/-- A lane core's queue of 16 issued M words is full (10 R287). -/
def unitFull (s : State) (x : Issuer) : Bool := x.kind == CoreKind.lane && decide (16 ≤ (s.lane x.core).ops.length)

/-- An M word: it waits for a place in a lane core's queue. -/
def matrixWord (s : State) (f : Issuer → State → Issue) : Answer :=
  unitWord s .M fun x s => if unitFull s x then .wait else f x s

/-! ### Reading tiles -/

/-- The books of the core that decode cb2 tiles (10 R285). -/
def Issuer.books (x : Issuer) (s : State) : Map Byte := (x.tiles s).books

/-- Element across `n` and along `k` of an operand (10 R266). -/
def Hdr.elemK (h : Hdr) (books : Map Byte) (img : Image) (n k : Nat) : Option Elem :=
  if h.kaxis = 0 then h.elem books img n k else h.elem books img k n

/-- Every element of a tile as a word converts it (10 R275). -/
def Hdr.values (h : Hdr) (books : Map Byte) (img : Image) : List (List FRes) :=
  (upFrom 0 h.rows).map fun i => (upFrom 0 h.cols).map fun j =>
    match h.elem books img i j with
    | some e => e.scaled
    | none => { val := .fin false 0 1 0, flags := noFlag }

/-- The stored bits of every element of a dense tile. -/
def Hdr.raws (h : Hdr) (img : Image) : List (List Nat) :=
  (upFrom 0 h.rows).map fun i => (upFrom 0 h.cols).map fun j => ((h.rawAt img i j).map (·.1)).getD 0

/-- A tile built through a slot: its header, its image, the flags raised and the generator after. -/
structure Built where
  hdr : Hdr
  image : List Byte
  flags : Flag
  state : BitVec 16
  deriving DecidableEq, Repr

/-- A slot as its elements are rounded: the mode of an a56 slot plays no part (10 R274), so a quotient that a56 does not hold
is rounded as 02 R81 rounds into a56 (log entry 19). -/
def Slot.rounding (f : Slot) : Slot := if f.fmt == fmtA56 then { f with rm := 0 } else f

/-- A tile of values built through a slot (10 R272, R274; 03 R102, R103): `raw` are the bits that an a56 slot stores
unrounded. -/
def buildTile (f : Slot) (rows cols : Nat) (poison : Bool) (vals : List (List FRes)) (raw : List (List Nat))
    (st : BitVec 16) : Built :=
  let h := slotHdr f rows cols poison
  let keep := f.fmt == fmtA56 && f.slayout == 0
  let c : Conv := if keep then { rows := raw, scales := [], flags := noFlag, state := st }
    else convert f.rounding h (vals.map fun r => r.map (·.val)) st
  let fl := if keep then noFlag else vals.foldl (fun n r => r.foldl (fun n v => n ||| v.flags) n) c.flags
  let h1 := { h with sat := fl &&& flagSAT != 0, nans := c.rows.any fun r => r.any (rawIsNaN f.fmt) }
  { hdr := h1, image := convImage h1 c, flags := fl, state := c.state }

/-- The canonical length of a result (03 R102, R103). -/
def resultLen (f : Slot) (rows cols : Nat) : Nat := (slotHdr f rows cols false).tlen

/-- The slot is used (03 R99). -/
def Slot.used (f : Slot) : Bool := f.fmt != 0

/-- The slot admits an input (03 R101). -/
def Slot.admits (f : Slot) (n : Nat) : Bool := f.used && bit f.accept n

/-! ### mma -/

/-- The pairing of two formats: its index and its term count (10 R265). -/
def pairing (a b : Nat) : Option (Nat × Nat) :=
  match a, b with
  | 2, 2 => some (0, 1)
  | 3, 3 => some (1, 1)
  | 4, 4 => some (2, 2)
  | 4, 5 => some (3, 2)
  | 5, 4 => some (4, 2)
  | 5, 5 => some (5, 2)
  | 9, 9 => some (6, 2)
  | 11, 9 => some (7, 2)
  | 9, 11 => some (8, 2)
  | 10, 10 => some (9, 4)
  | 4, 12 => some (19, 8)
  | 5, 12 => some (20, 8)
  | 12, 4 => some (21, 8)
  | 12, 5 => some (22, 8)
  | a, b => if 6 ≤ a ∧ a ≤ 8 ∧ 6 ≤ b ∧ b ≤ 8 then some (10 + 3 * (a - 6) + (b - 6), 4) else none

/-- The largest M and N of an `mma` (10 R266). -/
def cellMax (kind : CoreKind) : Nat := match kind with | .array => 128 | .lane => 32

/-- The accumulator's elements after a product, and the flags (10 R268, R269). -/
def product (acc : Acc) (a b : Hdr) (books : Map Byte) (ia ib : Image) (t : Nat) : List (List (Nat × Flag)) :=
  (upFrom 0 a.nx).map fun i => (upFrom 0 b.nx).map fun j =>
    let term (k : Nat) : Term := match a.elemK books ia i k, b.elemK books ib j k with
      | some x, some y => some (x, y)
      | _, _ => none
    sumChunks term t a.kx (ceilDiv a.kx t) 0 (acc.at i j) noFlag

/-- The accumulator that a format T operand names; none where it names none that the core has. -/
def accOf (s : State) (x : Issuer) (td : BitVec 6) : Option Nat :=
  match tileName x.kind td with
  | .acc a => accKey s x a
  | _ => none

/-- The operand that stands for a fault of several: the first that is a queue head, since the record names its queue (03
R105). -/
def headCode (ns : List TileName) : Nat := (((ns.filter fun n => n.sendQ.isSome).map TileName.code).head?).getD 0

/-- The checks of `mma` on its operands in entries `ea` and `eb`, and on the accumulator that it adds to (03 R104, R105;
10 R265 to R267). A check on both operands names the first queue head among those at fault. -/
def mmaChecks (s : State) (x : Issuer) (f : Slot) (na nb : TileName) (ea eb : Nat) (old : Acc) : List Check :=
  let xa := x.entry s ea
  let xb := x.entry s eb
  let a := xa.header
  let b := xb.header
  let p := pairing a.fmt b.fmt
  let both := headCode [na, nb]
  let extOk := match old.extent with | none => true | some e => e == (a.nx, b.nx)
  [⟨check1 xa.hdr.toNat, .headerIntegrity, na.code⟩, ⟨check1 xb.hdr.toNat, .headerIntegrity, nb.code⟩,
    ⟨a.check2, .unsupportedCombination, na.code⟩, ⟨b.check2, .unsupportedCombination, nb.code⟩,
    ⟨p.isSome, .unsupportedCombination, both⟩,
    ⟨!isIntFmt a.fmt || a.slayout == 0, .unsupportedCombination, na.code⟩,
    ⟨!isIntFmt b.fmt || b.slayout == 0, .unsupportedCombination, nb.code⟩,
    ⟨a.sparse == 0 || b.sparse == 0, .unsupportedCombination, both⟩,
    ⟨a.check3, .headerMismatch, na.code⟩, ⟨b.check3, .headerMismatch, nb.code⟩,
    ⟨decide (a.nx ≤ cellMax x.kind), .headerMismatch, na.code⟩, ⟨decide (b.nx ≤ cellMax x.kind), .headerMismatch, nb.code⟩,
    ⟨a.kx == b.kx && extOk, .headerMismatch, both⟩,
    ⟨(x.tiles s).inRange xa, .tileCapacity, na.code⟩, ⟨(x.tiles s).inRange xb, .tileCapacity, nb.code⟩,
    ⟨f.used, .slotRejection, 0⟩, ⟨f.admits (p.getD (0, 1)).1, .slotRejection, both⟩]

/-- The state in which an `mma` has issued: its accumulator and flags, and the operation that holds its operands (10 R268,
R269). -/
def mmaIssue (s : State) (x : Issuer) (key : Nat) (na nb : TileName) (ea eb : Nat) (old : Acc) : State :=
  let a := (x.entry s ea).header
  let b := (x.entry s eb).header
  let env := x.tiles s
  let r := product old a b env.books (env.image (x.entry s ea)) (env.image (x.entry s eb))
    ((pairing a.fmt b.fmt).getD (0, 1)).2
  let fl := r.foldl (fun n row => row.foldl (fun n v => n ||| v.2) n) noFlag
  let acc := { old.write a.nx b.nx fun i j => (nth (0, 0) (nth [] r i) j).1 with
    extent := some (a.nx, b.nx), poison := old.poison || a.poison || b.poison }
  let s1 := x.raise (setAcc s x key acc) (fl &&& (flagNV ||| flagOF))
  let o := { TileOp.blank x s.nextId .matrix with
    reads := readsOf none [(na, ea), (nb, eb)], heads := headsOf [(na, ea), (nb, eb)] }
  issueOp s1 x o

/-- A tile operand is a handle or a queue (07 R189). -/
def TileName.isDest : TileName → Bool
  | .handle _ => true
  | .queue _ => true
  | _ => false

/-- `mma` (10 R268 to R270). -/
def mmaWord (clear : Bool) (td ta tb : BitVec 6) (slot : BitVec 3) (s : State) : Answer :=
  matrixWord s fun x s =>
    let na := tileName x.kind ta
    let nb := tileName x.kind tb
    match na.isDest && nb.isDest, accOf s x td with
    | true, some key => (pickSource s x na).bind fun ea => (pickSource s x nb).bind fun eb =>
      let old := if clear then Acc.blank else getAcc s x key
      checked (mmaChecks s x (x.fslot slot) na nb ea eb old) (.done (mmaIssue s x key na nb ea eb old))
    | _, _ => .no .illegalOperand

/-- `mma` (10 R268). -/
def execMma (td ta tb : BitVec 6) (slot : BitVec 3) (s : State) : Answer := mmaWord false td ta tb slot s

/-- `mma.z` (10 R268): the accumulator is cleared first. -/
def execMmaZ (td ta tb : BitVec 6) (slot : BitVec 3) (s : State) : Answer := mmaWord true td ta tb slot s

/-- `mclr` (10 R271). -/
def execMclr (td : BitVec 6) (s : State) : Answer :=
  matrixWord s fun x s =>
    match accOf s x td with
    | none => .no .illegalOperand
    | some key => .done (issueOp (setAcc s x key Acc.blank) x (TileOp.blank x s.nextId .matrix))

/-! ### Words that produce tiles -/

/-- A built tile issues: flags, the generator, and the operation that stores it (10 R263, R264). -/
def issueBuilt (s : State) (x : Issuer) (d : TileName) (n : Nat) (srcs : List (TileName × Nat)) (b : Built) : State :=
  let s1 := setSr (x.raise s b.flags) x b.state
  issueOp s1 x (resultOp s1 x d n srcs b.hdr.word b.image)

/-- The checks of `mout` (10 R273). -/
def moutChecks (s : State) (x : Issuer) (f : Slot) (d : TileName) (n : Nat) (acc : Acc) : List Check :=
  let e := acc.extent.getD (0, 0)
  [⟨!(f.fmt == fmtA56 && f.slayout != 0), .unsupportedCombination, 0⟩, ⟨acc.extent.isSome, .headerMismatch, 0⟩,
    ⟨!f.used || (fitsDest s x d n (resultLen f e.1 e.2)), .tileCapacity, 0⟩, ⟨f.admits fmtA56, .slotRejection, 0⟩]

/-- The tile that `mout` builds from an accumulator (10 R273, R274). -/
def moutTile (s : State) (x : Issuer) (f : Slot) (acc : Acc) : Built :=
  let e := acc.extent.getD (0, 0)
  let raw := (upFrom 0 e.1).map fun i => (upFrom 0 e.2).map fun j => acc.at i j
  let vals := raw.map fun r => r.map fun v => { val := decodeF a56 v, flags := noFlag }
  buildTile f e.1 e.2 acc.poison vals raw (srOf s x)

/-- `mout` (10 R273, R274). -/
def execMout (td ta : BitVec 6) (slot : BitVec 3) (s : State) : Answer :=
  matrixWord s fun x s =>
    let d := tileName x.kind td
    let f := x.fslot slot
    match d.isDest, accOf s x ta with
    | true, some key => (pickDest s x d).bind fun n =>
      let acc := getAcc s x key
      checked (moutChecks s x f d n acc) (.done (issueBuilt s x d n [] (moutTile s x f acc)))
    | _, _ => .no .illegalOperand

/-- The checks of `tcvt` (10 R275). -/
def tcvtChecks (s : State) (x : Issuer) (f : Slot) (d a : TileName) (n ea : Nat) : List Check :=
  let xa := x.entry s ea
  let h := xa.header
  [⟨check1 xa.hdr.toNat, .headerIntegrity, a.code⟩,
    ⟨h.check2 && (f.fmt != fmtA56 || (h.fmt == fmtA56 && h.slayout == 0)), .unsupportedCombination, a.code⟩,
    ⟨h.check3, .headerMismatch, a.code⟩, ⟨(x.tiles s).inRange xa, .tileCapacity, a.code⟩,
    ⟨!f.used || fitsDest s x d n (resultLen f h.rows h.cols), .tileCapacity, 0⟩, ⟨f.used, .slotRejection, 0⟩,
    ⟨f.admits h.fmt, .slotRejection, a.code⟩]

/-- The tile that `tcvt` builds from another (10 R275). -/
def tcvtTile (s : State) (x : Issuer) (f : Slot) (ea : Nat) : Built :=
  let xa := x.entry s ea
  let h := xa.header
  let env := x.tiles s
  buildTile f h.rows h.cols h.poison (h.values env.books (env.image xa)) (h.raws (env.image xa)) (srOf s x)

/-- `tcvt` (10 R275). -/
def execTcvt (td ta : BitVec 6) (slot : BitVec 3) (s : State) : Answer :=
  matrixWord s fun x s =>
    let d := tileName x.kind td
    let a := tileName x.kind ta
    let f := x.fslot slot
    if d.isDest && a.isDest then
      (pickSource s x a).bind fun ea => (pickDest s x d).bind fun n =>
        checked (tcvtChecks s x f d a n ea) (.done (issueBuilt s x d n [(a, ea)] (tcvtTile s x f ea)))
    else .no .illegalOperand

/-- A tile of zeros through a slot (10 R278): every element 0, every scale 1.0. -/
def zeroTile (f : Slot) (rows cols : Nat) : Built :=
  let h := slotHdr f rows cols false
  let c : Conv := { rows := List.replicate rows (List.replicate cols 0),
                    scales := List.replicate h.scales (scaleFor f.sfmt f.fmt (.fin false 0 1 0)), flags := noFlag, state := 0 }
  { hdr := h, image := convImage h c, flags := noFlag, state := 0 }

/-- The checks of `tzero` (10 R278). -/
def tzeroChecks (s : State) (x : Issuer) (f : Slot) (d : TileName) (n ea : Nat) : List Check :=
  let xa := x.entry s ea
  let h := xa.header
  let r := slotHdr f h.rows h.cols false
  [⟨check1 xa.hdr.toNat, .headerIntegrity, 0⟩,
    ⟨decide (1 ≤ h.rows) && decide (h.rows ≤ 256) && decide (1 ≤ h.cols) && decide (h.cols ≤ 1024)
      && (!f.used || r.check3), .headerMismatch, 0⟩,
    ⟨!f.used || fitsDest s x d n r.tlen, .tileCapacity, 0⟩, ⟨f.admits h.fmt, .slotRejection, 0⟩]

/-- `tzero` (10 R278). -/
def execTzero (td ta : BitVec 6) (slot : BitVec 3) (s : State) : Answer :=
  matrixWord s fun x s =>
    let d := tileName x.kind td
    let f := x.fslot slot
    match d.isDest, tileName x.kind ta with
    | true, .handle ha => (pickHandle s x ha).bind fun ea => (pickDest s x d).bind fun n =>
      let h := (x.entry s ea).header
      let b := zeroTile f h.rows h.cols
      checked (tzeroChecks s x f d n ea)
        (.done (issueOp s x (resultOp s x d n [(.handle ha, ea)] b.hdr.word b.image)))
    | _, _ => .no .illegalOperand

/-! ### mtr -/

/-- The header of a transposed tile (03 R102; 10 R276). -/
def Hdr.transposed (h : Hdr) : Hdr :=
  ({ h with rows := h.cols, cols := h.rows, kaxis := 1 - h.kaxis,
            slayout := if h.slayout = 2 then 3 else if h.slayout = 3 then 2 else h.slayout,
            sat := false, nans := false } : Hdr).canonical

/-- The bits at stored place (i, j) of a payload that is dense in its stored extents (03 R92). -/
def Hdr.storedAt (h : Hdr) (img : Image) (i j : Nat) : Nat :=
  let len := (runsOf h.order h.storedRows h.storedCols h.kaxis).2
  let (run, place) := placeOf h.order h.storedRows h.storedCols h.kaxis i j
  let (o, x) := groupAt h.fmt len run place
  let (w, _, gb) := fmtInfo h.fmt
  bits (imgNat img (32 + o) gb) (w * x) w

/-- Block `b` of a block-bitmap tile is present (03 R92). -/
def Hdr.blockThere (h : Hdr) (img : Image) (b : Nat) : Bool := bit (img (h.moff + b / 8)).toNat (b % 8)

/-- The payload of a transposed tile (10 R276). -/
def Hdr.trPayload (h : Hdr) (img : Image) : List Byte :=
  if h.sparse = 2 then
    (upFrom 0 (h.cols / 32)).flatMap fun bi => (upFrom 0 (h.rows / 32)).flatMap fun bj =>
      if h.blockThere img (bj * (h.cols / 32) + bi) then
        packDense h.fmt h.order 32 32 (1 - h.kaxis) fun i j =>
          ((h.rawAt img (32 * bj + j) (32 * bi + i)).map (·.1)).getD 0
      else []
  else packDense h.fmt h.order h.storedCols h.storedRows (1 - h.kaxis) fun i j => h.storedAt img j i

/-- The metadata of a transposed tile: 2:4 fields keep their K coordinates, bitmap blocks are exchanged. -/
def Hdr.trMeta (h : Hdr) (img : Image) : List Byte :=
  match h.sparse with
  | 0 => []
  | 1 => (upFrom 0 (ceilDiv (h.nx * (h.kx / 4)) 2)).map fun o => img (h.moff + o)
  | _ =>
    let n := h.rows / 32 * (h.cols / 32)
    (upFrom 0 (ceilDiv n 8)).map fun o =>
      BitVec.ofNat 8 ((upFrom 0 8).foldl (fun v x =>
        let b := 8 * o + x
        if b < n ∧ h.blockThere img (b % (h.rows / 32) * (h.cols / 32) + b / (h.rows / 32)) then v + 2 ^ x else v) 0)

/-- A stored element of the tile is NaN (03 R103). -/
def Hdr.anyNaN (h : Hdr) (img : Image) : Bool :=
  (upFrom 0 h.rows).any fun i => (upFrom 0 h.cols).any fun j =>
    match h.rawAt img i j with
    | some r => rawIsNaN h.fmt r.1
    | none => false

/-- A transposed tile (10 R276). -/
def transpose (h : Hdr) (img : Image) : Built :=
  let r := { h.transposed with nans := h.anyNaN img }
  let scales := (upFrom 0 (h.scales * scaleSize h.sfmt)).map fun o => img (h.soff + o)
  { hdr := r, image := imageOf r (h.trPayload img) scales (h.trMeta img), flags := noFlag, state := 0 }

/-- The checks of `mtr` (10 R276, R277). -/
def mtrChecks (s : State) (x : Issuer) (d a : TileName) (n ea : Nat) : List Check :=
  let xa := x.entry s ea
  let h := xa.header
  [⟨check1 xa.hdr.toNat, .headerIntegrity, a.code⟩,
    ⟨h.check2 && h.transposed.check2, .unsupportedCombination, a.code⟩,
    ⟨h.check3 && decide (h.cols ≤ 256), .headerMismatch, a.code⟩,
    ⟨(x.tiles s).inRange xa, .tileCapacity, a.code⟩, ⟨fitsDest s x d n h.transposed.tlen, .tileCapacity, 0⟩]

/-- `mtr` (10 R276, R277). -/
def execMtr (td ta : BitVec 6) (s : State) : Answer :=
  matrixWord s fun x s =>
    let d := tileName x.kind td
    let a := tileName x.kind ta
    if d.isDest && a.isDest then
      (pickSource s x a).bind fun ea => (pickDest s x d).bind fun n =>
        let xa := x.entry s ea
        let b := transpose xa.header ((x.tiles s).image xa)
        checked (mtrChecks s x d a n ea) (.done (issueOp s x (resultOp s x d n [(a, ea)] b.hdr.word b.image)))
    else .no .illegalOperand

/-! ### Headers and codebooks -/

/-- The entry whose header `thdr.rd` copies: a handle's, or the head of a receive queue, which is not claimed (10
R279). -/
def execThdrRd (ta tb : BitVec 6) (s : State) : Answer :=
  matrixWord s fun x s =>
    let a := tileName x.kind ta
    if a.isDest && isScalar6 tb then
      (pickSource s x a).bind fun ea =>
        let addr := x.reg6 tb
        match localAt s x 32 32 addr with
        | .error c => .fault c addr.toNat 0
        | .ok o =>
          .done (issueOp s x { TileOp.blank x s.nextId .matrix with
            imageAt := o, image := bytesOfNat 32 (x.entry s ea).hdr.toNat })
    else .no .illegalOperand

/-- The header that `thdr.wr` builds from 32 bytes (10 R280). -/
def retyped (w : Nat) : Hdr :=
  ({ hdrOf w with poison := false, sat := false, nans := false } : Hdr).canonical

/-- The checks of `thdr.wr` on the 32 bytes `w` (10 R280). -/
def thdrChecks (s : State) (x : Issuer) (n w : Nat) : List Check :=
  let h := retyped w
  [⟨reservedZero w, .headerIntegrity, 0⟩, ⟨h.check2, .unsupportedCombination, 0⟩,
    ⟨h.check3, .headerMismatch, 0⟩, ⟨(x.tiles s).fits (x.entry s n) h.tlen, .tileCapacity, 0⟩]

/-- `thdr.wr` (10 R280). -/
def execThdrWr (td tb : BitVec 6) (s : State) : Answer :=
  matrixWord s fun x s =>
    match tileName x.kind td, isScalar6 tb with
    | .handle hd, true => (pickFill s x hd).bind fun n =>
      let addr := x.reg6 tb
      match localAt s x 32 32 addr with
      | .error c => .fault c addr.toNat 0
      | .ok o =>
        let w := natOfBytes (readCore s x.kind x.core o 32)
        let h := retyped w
        checked (thdrChecks s x n w) (.done (issueOp s x (resultOp s x (.handle hd) n [] h.word h.bytes)))
    | _, _ => .no .illegalOperand

/-- The core's codebooks with table `tbl` read from storage at `o` (10 R282). -/
def loadBook (s : State) (x : Issuer) (tbl : BitVec 3) (o : Nat) : State :=
  let k := s.array x.core
  let books := ((readCore s .array x.core o 1024).zip (upFrom (1024 * tbl.toNat) 1024)).foldl
    (fun m b => mapSet b.2 b.1 m) k.books
  s.setArray x.core { k with books := books, loaded := mapSet tbl.toNat true k.loaded }

/-- `cbld` (10 R282): array cores only (07 R194). -/
def execCbld (ta : BitVec 6) (tbl : BitVec 3) (s : State) : Answer :=
  matrixWord s fun x s =>
    match x.kind with
    | .lane => .no .illegalInstruction
    | .array =>
      if isScalar6 ta && tbl != 0 then
        let addr := x.reg6 ta
        match localAt s x 128 1024 addr with
        | .error c => .fault c addr.toNat 0
        | .ok o =>
          .done (issueOp (loadBook s x tbl o) x (TileOp.blank x s.nextId .matrix))
      else .no .illegalOperand

end Sys2Proof.Machine
end

