-- ==== Sys2Proof/Machine/Vector.lean ====
section
/-! DEFINITION. The words of the V engine (09 R241 to R253). -/

namespace Sys2Proof.Machine

/-! ### Lanes, masks and poison -/

/-- A V word: engine-absent on a lane core (07 R180). -/
def vectorWord (s : State) (f : Issuer → ArrayCore → State → Issue) : Answer :=
  unitWord s .V fun x s =>
    match x.kind with
    | .lane => .no .engineAbsent
    | .array => f x (s.array x.core) s

/-- The bits of lane `l` of a named vector register (01 R42). -/
def vget (x : Issuer) (k : ArrayCore) (n : BitVec 6) (l : Nat) : Nat := (k.vlane (rotV x.base n.toNat) l).toNat

/-- Lane `l` is active under mask field `m` (09 R242). -/
def active (x : Issuer) (k : ArrayCore) (m : BitVec 4) (l : Nat) : Bool :=
  m == 0 || (k.pred (rotP x.base m.toNat)).getLsbD l

/-- The 128 lanes. -/
def laneNos : List Nat := upFrom 0 128

/-- Lanes of a physical vector register written. -/
def setLanes (r : Map (BitVec 32)) (p : Nat) : List (Nat × Nat) → Map (BitVec 32)
  | [] => r
  | (l, v) :: rest => setLanes (mapSet (128 * p + l) (BitVec.ofNat 32 v) r) p rest

/-- The poison bit of a named vector register (09 R244). -/
def vpoisoned (x : Issuer) (k : ArrayCore) (n : BitVec 6) : Bool := mapGet false k.vpoison (rotV x.base n.toNat)

/-- The task's FPSTAT of an array core with flags raised (09 R243). -/
def ArrayCore.raise (k : ArrayCore) (fl : Flag) : ArrayCore := { k with th := k.th.raise fl }

/-- Results of active lanes written to v[d] with their flags, and the poison bit from the sources (09 R242 to R244). -/
def writeLanes (s : State) (x : Issuer) (k : ArrayCore) (d : BitVec 6) (m : BitVec 4) (srcs : List (BitVec 6))
    (f : Nat → Nat × Flag) : Issue :=
  let on := laneNos.filter fun l => active x k m l
  let rs : List (Nat × Nat × Flag) := on.map fun l => (l, f l)
  let p := rotV x.base d.toNat
  let old := on.length != 128 && mapGet false k.vpoison p
  let k1 := { k with vregs := setLanes k.vregs p (rs.map fun (r : Nat × Nat × Flag) => (r.1, r.2.1)),
                     vpoison := mapSet p (old || srcs.any (vpoisoned x k)) k.vpoison }
  .done (s.setArray x.core (k1.raise (rs.foldl (fun n (r : Nat × Nat × Flag) => n ||| r.2.2) noFlag)))

/-- A lane-wise word of two vectors. -/
def laneWord (d a b : BitVec 6) (m : BitVec 4) (s : State) (f : Nat → Nat → Nat → Nat × Flag) : Answer :=
  vectorWord s fun x k s =>
    let rm := rmOf k.th.fpstat
    writeLanes s x k d m [a, b] fun l => f rm (vget x k a l) (vget x k b l)

/-- A lane-wise word of one vector. -/
def laneWord1 (d a : BitVec 6) (m : BitVec 4) (s : State) (f : Nat → Nat × Flag) : Answer :=
  vectorWord s fun x k s => writeLanes s x k d m [a] fun l => f (vget x k a l)

/-- An arithmetic f32 result (09 R243, R245). -/
def f32Result (rm : Nat) (r : FRes) : Nat × Flag := let v := finishF fp32 rm r; (v.bits, v.flags)

/-- An i32 or bitwise result. -/
def i32Result (v : BitVec 32) : Nat × Flag := (v.toNat, noFlag)

/-- A lane as 32 bits. -/
def b32 (n : Nat) : BitVec 32 := BitVec.ofNat 32 n

/-- `vadd.f32` (09 R245). -/
def execVaddF32 (d a b : BitVec 6) (m : BitVec 4) (s : State) : Answer :=
  laneWord d a b m s fun rm x y => f32Result rm (addF rm (decodeF fp32 x) (decodeF fp32 y))

/-- `vsub.f32` (09 R245). -/
def execVsubF32 (d a b : BitVec 6) (m : BitVec 4) (s : State) : Answer :=
  laneWord d a b m s fun rm x y => f32Result rm (subF rm (decodeF fp32 x) (decodeF fp32 y))

/-- `vmul.f32` (09 R245). -/
def execVmulF32 (d a b : BitVec 6) (m : BitVec 4) (s : State) : Answer :=
  laneWord d a b m s fun rm x y => f32Result rm (mulF (decodeF fp32 x) (decodeF fp32 y))

/-- `vfma.f32` (09 R245): x × y + v[d][l]. -/
def execVfmaF32 (d a b : BitVec 6) (m : BitVec 4) (s : State) : Answer :=
  vectorWord s fun x k s =>
    let rm := rmOf k.th.fpstat
    writeLanes s x k d m [a, b, d] fun l =>
      f32Result rm (fmaF rm (decodeF fp32 (vget x k a l)) (decodeF fp32 (vget x k b l)) (decodeF fp32 (vget x k d l)))

/-- `vmin.f32` (09 R245). -/
def execVminF32 (d a b : BitVec 6) (m : BitVec 4) (s : State) : Answer :=
  laneWord d a b m s fun _ x y => let r := minMaxF fp32 false x y; (r.bits, r.flags)

/-- `vmax.f32` (09 R245). -/
def execVmaxF32 (d a b : BitVec 6) (m : BitVec 4) (s : State) : Answer :=
  laneWord d a b m s fun _ x y => let r := minMaxF fp32 true x y; (r.bits, r.flags)

/-- An f32 pattern with its sign changed; a NaN keeps its pattern, the sign with it (09 R245; log entry 111). -/
def keepNaN (x y : BitVec 32) : BitVec 32 := if 0x7F800000 < x &&& 0x7FFFFFFF then x else y

/-- `vabs.f32` (09 R245). -/
def execVabsF32 (d a : BitVec 6) (m : BitVec 4) (s : State) : Answer :=
  laneWord1 d a m s fun x => i32Result (keepNaN (b32 x) (b32 x &&& 0x7FFFFFFF))

/-- `vneg.f32` (09 R245). -/
def execVnegF32 (d a : BitVec 6) (m : BitVec 4) (s : State) : Answer :=
  laneWord1 d a m s fun x => i32Result (keepNaN (b32 x) (b32 x ^^^ 0x80000000))

/-- `vadd.i32` (09 R245). -/
def execVaddI32 (d a b : BitVec 6) (m : BitVec 4) (s : State) : Answer :=
  laneWord d a b m s fun _ x y => i32Result (b32 x + b32 y)

/-- `vsub.i32` (09 R245). -/
def execVsubI32 (d a b : BitVec 6) (m : BitVec 4) (s : State) : Answer :=
  laneWord d a b m s fun _ x y => i32Result (b32 x - b32 y)

/-- `vmul.i32` (09 R245). -/
def execVmulI32 (d a b : BitVec 6) (m : BitVec 4) (s : State) : Answer :=
  laneWord d a b m s fun _ x y => i32Result (b32 x * b32 y)

/-- `vand` (09 R245). -/
def execVand (d a b : BitVec 6) (m : BitVec 4) (s : State) : Answer :=
  laneWord d a b m s fun _ x y => i32Result (b32 x &&& b32 y)

/-- `vor` (09 R245). -/
def execVor (d a b : BitVec 6) (m : BitVec 4) (s : State) : Answer :=
  laneWord d a b m s fun _ x y => i32Result (b32 x ||| b32 y)

/-- `vxor` (09 R245). -/
def execVxor (d a b : BitVec 6) (m : BitVec 4) (s : State) : Answer :=
  laneWord d a b m s fun _ x y => i32Result (b32 x ^^^ b32 y)

/-- `vshl` (09 R245). -/
def execVshl (d a b : BitVec 6) (m : BitVec 4) (s : State) : Answer :=
  laneWord d a b m s fun _ x y => i32Result (b32 x <<< (y % 32))

/-- `vsar` (09 R245). -/
def execVsar (d a b : BitVec 6) (m : BitVec 4) (s : State) : Answer :=
  laneWord d a b m s fun _ x y => i32Result ((b32 x).sshiftRight (y % 32))

/-! ### Functions (09 R246, 02 R82) -/

/-- A vector function: correctly rounded by RNE. -/
def funWord (g : VFun) (d a : BitVec 6) (m : BitVec 4) (s : State) : Answer :=
  laneWord1 d a m s fun x => f32Result 0 (vfunF g (decodeF fp32 x))

/-- `vexp2` (09 R246). -/
def execVexp2 (d a : BitVec 6) (m : BitVec 4) (s : State) : Answer := funWord .exp2 d a m s

/-- `vlog2` (09 R246). -/
def execVlog2 (d a : BitVec 6) (m : BitVec 4) (s : State) : Answer := funWord .log2 d a m s

/-- `vrcp` (09 R246). -/
def execVrcp (d a : BitVec 6) (m : BitVec 4) (s : State) : Answer := funWord .rcp d a m s

/-- `vrsqrt` (09 R246). -/
def execVrsqrt (d a : BitVec 6) (m : BitVec 4) (s : State) : Answer := funWord .rsqrt d a m s

/-- `vtanh` (09 R246). -/
def execVtanh (d a : BitVec 6) (m : BitVec 4) (s : State) : Answer := funWord .tanh d a m s

/-! ### Compares and predicates -/

/-- The 128 elements of a predicate. -/
def predOf (f : Nat → Bool) : BitVec 128 :=
  BitVec.ofNat 128 (laneNos.foldl (fun n l => if f l then n + 2 ^ l else n) 0)

/-- A predicate result: inactive elements are 0 (09 R242). -/
def writePred (s : State) (x : Issuer) (k : ArrayCore) (d : BitVec 6) (m : BitVec 4) (f : Nat → Bool × Flag) : Issue :=
  let v := predOf fun l => active x k m l && (f l).1
  let fl := laneNos.foldl (fun n l => if active x k m l then n ||| (f l).2 else n) noFlag
  .done (s.setArray x.core ({ k with preds := mapSet (rotP x.base d.toNat) v k.preds }.raise fl))

/-- A compare into p[d] (09 R247). -/
def cmpWord (d a b : BitVec 6) (m : BitVec 4) (s : State) (f : Nat → Nat → Bool × Flag) : Answer :=
  vectorWord s fun x k s =>
    if isPred6 d then writePred s x k d m fun l => f (vget x k a l) (vget x k b l) else .no .illegalOperand

/-- `vcmp.eq.f32` (09 R247). -/
def execVcmpEqF32 (d a b : BitVec 6) (m : BitVec 4) (s : State) : Answer :=
  cmpWord d a b m s fun x y => cmpF 0 (decodeF fp32 x) (decodeF fp32 y)

/-- `vcmp.lt.f32` (09 R247). -/
def execVcmpLtF32 (d a b : BitVec 6) (m : BitVec 4) (s : State) : Answer :=
  cmpWord d a b m s fun x y => cmpF 1 (decodeF fp32 x) (decodeF fp32 y)

/-- `vcmp.le.f32` (09 R247). -/
def execVcmpLeF32 (d a b : BitVec 6) (m : BitVec 4) (s : State) : Answer :=
  cmpWord d a b m s fun x y => cmpF 2 (decodeF fp32 x) (decodeF fp32 y)

/-- `vcmp.un.f32` (09 R247). -/
def execVcmpUnF32 (d a b : BitVec 6) (m : BitVec 4) (s : State) : Answer :=
  cmpWord d a b m s fun x y => cmpF 3 (decodeF fp32 x) (decodeF fp32 y)

/-- `vcmp.eq.i32` (09 R247). -/
def execVcmpEqI32 (d a b : BitVec 6) (m : BitVec 4) (s : State) : Answer :=
  cmpWord d a b m s fun x y => (x == y, noFlag)

/-- `vcmp.lt.i32` (09 R247). -/
def execVcmpLtI32 (d a b : BitVec 6) (m : BitVec 4) (s : State) : Answer :=
  cmpWord d a b m s fun x y => (decide (signed 32 x < signed 32 y), noFlag)

/-- `vcmp.le.i32` (09 R247). -/
def execVcmpLeI32 (d a b : BitVec 6) (m : BitVec 4) (s : State) : Answer :=
  cmpWord d a b m s fun x y => (decide (signed 32 x ≤ signed 32 y), noFlag)

/-- `vcmp.ltu.i32` (09 R247). -/
def execVcmpLtuI32 (d a b : BitVec 6) (m : BitVec 4) (s : State) : Answer :=
  cmpWord d a b m s fun x y => (decide (x < y), noFlag)

/-- `vsel` (09 R248): m selects and masks nothing. -/
def execVsel (d a b : BitVec 6) (m : BitVec 4) (s : State) : Answer :=
  vectorWord s fun x k s =>
    if m = 0 then .no .illegalOperand
    else writeLanes s x k d 0 [a, b] fun l => (if active x k m l then vget x k a l else vget x k b l, noFlag)

/-- A word on predicates (09 R248). -/
def predWord (d a b : BitVec 6) (m : BitVec 4) (s : State) (f : Bool → Bool → Bool) : Answer :=
  vectorWord s fun x k s =>
    if isPred6 d && isPred6 a && isPred6 b then
      let pa := k.pred (rotP x.base a.toNat)
      let pb := k.pred (rotP x.base b.toNat)
      writePred s x k d m fun l => (f (pa.getLsbD l) (pb.getLsbD l), noFlag)
    else .no .illegalOperand

/-- `pand` (09 R248). -/
def execPand (d a b : BitVec 6) (m : BitVec 4) (s : State) : Answer := predWord d a b m s fun p q => p && q

/-- `por` (09 R248). -/
def execPor (d a b : BitVec 6) (m : BitVec 4) (s : State) : Answer := predWord d a b m s fun p q => p || q

/-- `pxor` (09 R248). -/
def execPxor (d a b : BitVec 6) (m : BitVec 4) (s : State) : Answer := predWord d a b m s fun p q => p != q

/-- `pnot` (09 R248). -/
def execPnot (d a : BitVec 6) (m : BitVec 4) (s : State) : Answer := predWord d a a m s fun p _ => !p

/-! ### Reductions (09 R249) -/

/-- Two nodes of the tree combined. -/
def combine (f : Nat → Nat → Nat × Flag) : Option Nat → Option Nat → Option Nat × Flag
  | none, y => (y, noFlag)
  | some x, none => (some x, noFlag)
  | some x, some y => let r := f x y; (some r.1, r.2)

/-- One level of the tree. -/
def treeLevel (f : Nat → Nat → Nat × Flag) : List (Option Nat) → List (Option Nat) × Flag
  | a :: b :: rest =>
    let r := combine f a b
    let t := treeLevel f rest
    (r.1 :: t.1, r.2 ||| t.2)
  | l => (l, noFlag)

/-- The levels of the tree. -/
def treeReduce (f : Nat → Nat → Nat × Flag) : Nat → List (Option Nat) → Flag → Option Nat × Flag
  | 0, l, fl => (l.headD none, fl)
  | n + 1, l, fl => let r := treeLevel f l; treeReduce f n r.1 (fl ||| r.2)

/-- A reduction: its result in every lane of v[d]. -/
def reduceWord (d a : BitVec 6) (m : BitVec 4) (s : State) (identity : Nat) (f : Nat → Nat → Nat → Nat × Flag) :
    Answer :=
  vectorWord s fun x k s =>
    let nodes := laneNos.map fun l => if active x k m l then some (vget x k a l) else none
    let r := treeReduce (f (rmOf k.th.fpstat)) 7 nodes noFlag
    writeLanes s x k d 0 [a] fun _ => (r.1.getD identity, r.2)

/-- `vrsum.f32` (09 R249). -/
def execVrsumF32 (d a : BitVec 6) (m : BitVec 4) (s : State) : Answer :=
  reduceWord d a m s 0 fun rm x y => f32Result rm (addF rm (decodeF fp32 x) (decodeF fp32 y))

/-- `vrmax.f32` (09 R249). -/
def execVrmaxF32 (d a : BitVec 6) (m : BitVec 4) (s : State) : Answer :=
  reduceWord d a m s 0xFF800000 fun _ x y => let r := minMaxF fp32 true x y; (r.bits, r.flags)

/-- `vrmin.f32` (09 R249). -/
def execVrminF32 (d a : BitVec 6) (m : BitVec 4) (s : State) : Answer :=
  reduceWord d a m s 0x7F800000 fun _ x y => let r := minMaxF fp32 false x y; (r.bits, r.flags)

/-- `vrsum.i32` (09 R249). -/
def execVrsumI32 (d a : BitVec 6) (m : BitVec 4) (s : State) : Answer :=
  reduceWord d a m s 0 fun _ x y => i32Result (b32 x + b32 y)

/-- `vrmax.i32` (09 R249). -/
def execVrmaxI32 (d a : BitVec 6) (m : BitVec 4) (s : State) : Answer :=
  reduceWord d a m s 0x80000000 fun _ x y => (if signed 32 x < signed 32 y then y else x, noFlag)

/-- `vrmin.i32` (09 R249). -/
def execVrminI32 (d a : BitVec 6) (m : BitVec 4) (s : State) : Answer :=
  reduceWord d a m s 0x7FFFFFFF fun _ x y => (if signed 32 y < signed 32 x then y else x, noFlag)

/-! ### Movement (09 R250) -/

/-- `vperm` (09 R250). -/
def execVperm (d a b : BitVec 6) (m : BitVec 4) (s : State) : Answer :=
  vectorWord s fun x k s =>
    writeLanes s x k d m [a, b] fun l => (vget x k a (vget x k b l % 128), noFlag)

/-- `vbcast` (09 R250). -/
def execVbcast (d a : BitVec 6) (m : BitVec 4) (s : State) : Answer :=
  vectorWord s fun x k s =>
    if isScalar6 a then
      let v := (x.reg6 a).toNat % 2 ^ 32
      writeLanes s x k d m [] fun _ => (v, noFlag)
    else .no .illegalOperand

/-- `vslup` (09 R250). -/
def execVslup (d a b : BitVec 6) (m : BitVec 4) (s : State) : Answer :=
  vectorWord s fun x k s =>
    if isScalar6 b then
      let n := (x.reg6 b).toNat
      writeLanes s x k d m [a] fun l => (if n ≤ l then vget x k a (l - n) else 0, noFlag)
    else .no .illegalOperand

/-- `vsldn` (09 R250). -/
def execVsldn (d a b : BitVec 6) (m : BitVec 4) (s : State) : Answer :=
  vectorWord s fun x k s =>
    if isScalar6 b then
      let n := (x.reg6 b).toNat
      writeLanes s x k d m [a] fun l => (if l + n ≤ 127 then vget x k a (l + n) else 0, noFlag)
    else .no .illegalOperand

/-- `vmov` (09 R250). -/
def execVmov (d a : BitVec 6) (m : BitVec 4) (s : State) : Answer := laneWord1 d a m s fun x => (x, noFlag)

/-- `vlane` (09 R250). -/
def execVlane (d : BitVec 6) (m : BitVec 4) (s : State) : Answer :=
  vectorWord s fun x k s => writeLanes s x k d m [] fun l => (l, noFlag)

/-! ### Row moves (09 R251 to R253) -/

/-- Row and column base of the row operand. -/
def rowOperand (v : Word) : Nat × Nat := (v.toNat % 2 ^ 16, v.toNat / 2 ^ 16 % 2 ^ 16)

/-- Lanes rounded in ascending order; mode 4 steps the generator once per lane (02 R78). -/
def roundLanes (rm : Nat) (f : Nat → BitVec 16 → Nat × Flag) : List Nat → BitVec 16 → List (Nat × Nat) × Flag × BitVec 16
  | [], st => ([], noFlag, st)
  | l :: rest, st =>
    let st1 := if rm = 4 then srStep st else st
    let r := f l st1
    let t := roundLanes rm f rest st1
    ((l, r.1) :: t.1, r.2 ||| t.2.1, t.2.2)

/-- A row read into v[d]: the lanes that take part, every other lane +0, the poison bit of the source (09 R244,
R251). -/
def readRow (s : State) (x : Issuer) (k : ArrayCore) (d : BitVec 6) (n : Nat) (poison : Bool) (rm : Nat)
    (f : Nat → BitVec 16 → Nat × Flag) : Issue :=
  let r := roundLanes rm f (upFrom 0 (min n 128)) k.srState
  let p := rotV x.base d.toNat
  let zeros := laneNos.map fun l => (l, 0)
  let k1 := { k with vregs := setLanes (setLanes k.vregs p zeros) p r.1, vpoison := mapSet p poison k.vpoison,
                     srState := r.2.2 }
  .done (s.setArray x.core (k1.raise r.2.1))

/-- The checks of a row move on a tile (09 R252). -/
def rowChecks (s : State) (x : Issuer) (e : TileEntry) (r c0 : Nat) (supported : Bool) : List Check :=
  let h := e.header
  [⟨check1 e.hdr.toNat, .headerIntegrity, 0⟩, ⟨h.check2 && supported, .unsupportedCombination, 0⟩,
    ⟨h.check3 && decide (r < h.rows) && decide (c0 < h.cols), .headerMismatch, 0⟩,
    ⟨(x.tiles s).inRange e, .tileCapacity, 0⟩]

/-- `vtrd` (09 R252, R253). -/
def execVtrd (td ta tb : BitVec 6) (s : State) : Answer :=
  vectorWord s fun x k s =>
    let (r, c0) := rowOperand (x.reg6 tb)
    match tileName x.kind ta, isScalar6 tb with
    | .handle h, true => (pickHandle s x h).bind fun n =>
      let e := x.entry s n
      let hd := e.header
      let img := (x.tiles s).image e
      checked (rowChecks s x e r c0 ((hd.fmt == 1 || hd.fmt == 14) && hd.sparse == 0))
        (readRow s x k td (hd.cols - c0) hd.poison 0 fun l _ => (((hd.rawAt img r (c0 + l)).map (·.1)).getD 0, noFlag))
    | .acc a, true =>
      let acc := mapGet Acc.blank k.accs a
      let n := match acc.extent with
        | some (m, n) => if r < m then n - c0 else 0
        | none => 0
      let rm := rmFull k.th.fpstat
      checked [⟨decide (r ≤ 127) && decide (c0 ≤ 127), .headerMismatch, 0⟩]
        (readRow s x k td n acc.poison rm fun l st =>
          let v := roundVal fp32 rm false st.toNat (decodeF a56 (acc.at r (c0 + l)))
          (v.bits, v.flags))
    | _, _ => .no .illegalOperand

/-- A decoded element as `vtrdc` delivers it (09 R253). -/
def decodedLane (h : Hdr) (books : Map Byte) (img : Image) (rm r c : Nat) (st : BitVec 16) : Nat × Flag :=
  if isIntFmt h.fmt ∧ h.slayout = 0 then
    match h.rawAt img r c with
    | none => (0, noFlag)
    | some raw => match decodeElem books h.fmt 0 raw.1 raw.2 with
      | .fin neg v _ _ => ((BitVec.ofInt 32 (if neg then -(v : Int) else v)).toNat, noFlag)
      | _ => (0, noFlag)
  else match h.elem books img r c with
    | none => (0, noFlag)
    | some e =>
      let v := e.scaled
      let b := roundVal fp32 rm false st.toNat v.val
      (b.bits, v.flags ||| b.flags)

/-- `vtrdc` (09 R252, R253). -/
def execVtrdc (td ta tb : BitVec 6) (s : State) : Answer :=
  vectorWord s fun x k s =>
    let (r, c0) := rowOperand (x.reg6 tb)
    match tileName x.kind ta, isScalar6 tb with
    | .handle h, true => (pickHandle s x h).bind fun n =>
      let e := x.entry s n
      let hd := e.header
      let rm := rmFull k.th.fpstat
      checked (rowChecks s x e r c0 true)
        (readRow s x k td (hd.cols - c0) hd.poison (if isIntFmt hd.fmt ∧ hd.slayout = 0 then 0 else rm) fun l st =>
          decodedLane hd k.books ((x.tiles s).image e) rm r (c0 + l) st)
    | _, _ => .no .illegalOperand

/-- A ready entry that a row is written into (09 R252). -/
def pickRow (s : State) (x : Issuer) (h : Nat) : Pick :=
  match pickHandle s x h with
  | .ok n => if (x.entry s n).readers = 0 then .ok n else .wait
  | p => p

/-- The bits of element (i, j) of a dense tile written in storage. -/
def putElem (m : Memory) (at_ : Nat) (h : Hdr) (i j raw : Nat) : Memory :=
  match h.locate (fun o => readByte m (at_ + o)) i j with
  | none => m
  | some (o, x) =>
    let (w, _, gb) := fmtInfo h.fmt
    writeNat m (at_ + o) gb (setBits (readNat m (at_ + o) gb) (w * x) w raw)

/-- A row written into a tile: its elements, and the header with the derived fields of 03 R103; SAT and NANS add to the
old ones, POISON takes in the register's (09 R244, R253). -/
def writeRow (s : State) (x : Issuer) (k : ArrayCore) (n r c0 : Nat) (va : BitVec 6) (rm : Nat)
    (f : Nat → BitVec 16 → Nat × Flag) : Issue :=
  let e := x.entry s n
  let h := e.header
  let v := roundLanes rm f (upFrom 0 (min (h.cols - c0) 128)) k.srState
  let h1 := { h with
    sat := h.sat || v.2.1 &&& flagSAT != 0, nans := h.nans || v.1.any fun p => rawIsNaN h.fmt p.2,
    poison := h.poison || vpoisoned x k va }.canonical
  let at_ := e.lsoff.toNat
  let m := v.1.foldl (fun m p => putElem m at_ h r (c0 + p.1) p.2) k.localStore
  let k1 := { k with localStore := writeBytes m at_ h1.bytes, tiles := mapSet n { e with hdr := h1.word } k.tiles,
                     srState := v.2.2 }
  .done (s.setArray x.core (k1.raise v.2.1))

/-- `vtwr` (09 R252, R253). -/
def execVtwr (td ta tb : BitVec 6) (s : State) : Answer :=
  vectorWord s fun x k s =>
    let (r, c0) := rowOperand (x.reg6 tb)
    match tileName x.kind td, isScalar6 tb with
    | .handle h, true => (pickRow s x h).bind fun n =>
      let e := x.entry s n
      let hd := e.header
      checked (rowChecks s x e r c0 ((hd.fmt == 1 || hd.fmt == 14) && hd.sparse == 0))
        (writeRow s x k n r c0 ta 0 fun l _ => (vget x k ta l, noFlag))
    | _, _ => .no .illegalOperand

/-- `vtwrc` (09 R252, R253). -/
def execVtwrc (td ta tb : BitVec 6) (slot : BitVec 3) (s : State) : Answer :=
  vectorWord s fun x k s =>
    let (r, c0) := rowOperand (x.reg6 tb)
    let f := x.fslot slot
    match tileName x.kind td, isScalar6 tb with
    | .handle h, true => (pickRow s x h).bind fun n =>
      let e := x.entry s n
      let hd := e.header
      checked
        (rowChecks s x e r c0 (hd.fmt != fmtCb2 && hd.fmt != fmtA56 && hd.sparse == 0 && hd.slayout == 0)
          ++ [⟨f.admits 1 && f.fmt == hd.fmt, .slotRejection, 0⟩])
        (writeRow s x k n r c0 ta f.rm fun l st =>
          let v := roundElem hd.fmt f.rm f.saten st.toNat (decodeF fp32 (vget x k ta l))
          (v.bits, v.flags))
    | _, _ => .no .illegalOperand

end Sys2Proof.Machine
end

