-- ==== Sys2Proof/Machine/Loop.lean ====
section
/-! DEFINITION. The words of the L engine (09 R254 to R260), which the S cursor executes. -/

namespace Sys2Proof.Machine

/-- How an L word ends: a precise fault, the next word, or an outcome with the rotating base after it (01 R36). -/
inductive LoopOut where
  | fault (c : Cause)
  | pass (k : ArrayCore) (t : Task)
  | branch (k : ArrayCore) (t : Task) (base : Nat) (addr : Word)
  deriving DecidableEq, Repr

/-- An L word that names level `lvl`: engine-absent on a lane core (07 R180), illegal-operand for levels 6 and 7
(R193). -/
def loopWord (lvl : BitVec 3) (s : State) (f : Nat → Word → ArrayCore → Task → LoopOut) : Answer :=
  match s.sel with
  | .array c .S =>
    match runningTask s c .S with
    | none => .fault .noUnit
    | some (k, t) =>
      let pc := t.cursors.s.pc
      match (if isLevel lvl then f lvl.toNat pc k t else .fault .illegalOperand) with
      | .fault cause => .next (arrayException s c .S cause 0 0 0 pc)
      | .pass k1 t1 => .next (s.setArray c { k1 with task := some (t1.pass .S (pc + 4)) })
      | .branch k1 t1 base addr => .next (s.setArray c { k1 with rotBase := base, task := some (t1.branch base addr) })
  | .array _ _ => .fault .noUnit
  | .lane _ _ _ => scalarWord s .S false fun _ _ => .fault .engineAbsent 0

/-- A level of a task. -/
def Task.level (t : Task) (n : Nat) : Level := nth Level.blank t.levels n

/-- The task with a level replaced. -/
def Task.setLevel (t : Task) (n : Nat) (l : Level) : Task := { t with levels := setNth l t.levels n }

/-- `lseq` (09 R255): opens a level, or appends an exit outcome for a trip count of 0. -/
def lseqWord (rot : Bool) (lvl : BitVec 3) (trip : BitVec 5) (len : BitVec 8) (s : State) : Answer :=
  loopWord lvl s fun n pc k t =>
    let words := len.toNat + 1
    let stop := pc + word (4 * words)
    let count := (k.th.reg 96 trip).toNat
    let outer := t.level (n - 1)
    if 0 < n ∧ ¬ outer.active then .fault .loopStructure
    else if (t.level n).active then .fault .loopStructure
    else if 0 < n ∧ outer.stop.toNat ≤ stop.toNat then .fault .loopStructure
    else if 2 ^ 32 ≤ count then .fault .loopStructure
    else if count = 0 then .branch k t (t.baseAt .S) (stop + 4)
    else
      let l := { t.level n with active := true, trip := count, iter := 0, rotate := rot, start := pc + 4, stop := stop }
      .branch k (t.setLevel n l) (t.baseAt .S) (pc + 4)

/-- `lseq` (09 R255). -/
def execLseq (lvl : BitVec 3) (trip : BitVec 5) (len : BitVec 8) (s : State) : Answer := lseqWord false lvl trip len s

/-- `lseq.rot` (09 R255). -/
def execLseqRot (lvl : BitVec 3) (trip : BitVec 5) (len : BitVec 8) (s : State) : Answer := lseqWord true lvl trip len s

/-- A stride slot applied (09 R257). -/
def applyStride (th : Thread) (slot : Bool × Nat × BitVec 16) : Thread :=
  if slot.1 then
    let h := (th.handle slot.2.1).toNat
    let e := (h + (slot.2.2.signExtend 12).toNat) % 4096
    th.setHandle slot.2.1 (word (h / 4096 * 4096 + e))
  else th.setPreg slot.2.1 (th.preg slot.2.1 + slot.2.2.signExtend 64)

/-- `lend` (09 R256). -/
def execLend (lvl : BitVec 3) (s : State) : Answer :=
  loopWord lvl s fun n pc k t =>
    let l := t.level n
    if !l.active || (t.level (n + 1)).active || pc != l.stop then .fault .loopStructure
    else
      let k1 := { k with th := l.slots.foldl applyStride k.th }
      let base := if l.rotate then rotDown (t.baseAt .S) else t.baseAt .S
      if l.iter + 1 < l.trip then .branch k1 (t.setLevel n { l with iter := l.iter + 1 }) base l.start
      else .branch k1 (t.setLevel n l.close) base (pc + 4)

/-- A mark put on a cursor that has passed the `lfirst` or `llast` (09 R258). -/
def Task.mark (t : Task) (cur : Cursor) (level : Nat) (last : Bool) (n : Nat) : Task :=
  let x := t.cursors.get cur
  { t with cursors := t.cursors.set cur { x with marks := x.marks ++ [{ level := level, last := last, left := n }] } }

/-- `lfirst` and `llast` (09 R258). The mark begins behind the word, so it is put on before the word is passed with one
word more. -/
def markWord (last : Bool) (lvl : BitVec 3) (count : BitVec 8) (s : State) : Answer :=
  loopWord lvl s fun n pc k t =>
    let l := t.level n
    if count = 0 then .fault .illegalOperand
    else if !l.active || decide (l.stop.toNat ≤ pc.toNat + 4 * count.toNat) then .fault .loopStructure
    else .pass k (t.mark .S n last (count.toNat + 1))

/-- `lfirst` (09 R258). -/
def execLfirst (lvl : BitVec 3) (n : BitVec 8) (s : State) : Answer := markWord false lvl n s

/-- `llast` (09 R258). -/
def execLlast (lvl : BitVec 3) (n : BitVec 8) (s : State) : Answer := markWord true lvl n s

/-- `lstride` (09 R257). -/
def execLstride (lvl : BitVec 3) (k : BitVec 1) (r : BitVec 5) (stride : BitVec 16) (s : State) : Answer :=
  loopWord lvl s fun n _ core t =>
    let l := t.level n
    let isH := k == 1
    let rest := l.slots.filter fun x => !(x.1 == isH && x.2.1 == r.toNat)
    if l.active then .fault .loopStructure
    else if stride = 0 then .pass core (t.setLevel n { l with slots := rest })
    else if 4 ≤ rest.length then .fault .loopStructure
    else .pass core (t.setLevel n { l with slots := rest ++ [(isH, r.toNat, stride)] })

/-- `lbrk` (09 R259). -/
def execLbrk (lvl : BitVec 3) (r : BitVec 5) (s : State) : Answer :=
  loopWord lvl s fun n pc k t =>
    let l := t.level n
    if !l.active then .fault .loopStructure
    else if k.th.reg 96 r = 0 then .branch k t (t.baseAt .S) (pc + 4)
    else .branch k { t with levels := closeFrom n t.levels } (t.baseAt .S) (l.stop + 4)

end Sys2Proof.Machine
end

