-- ==== Sys2Proof/Machine/Sync.lean ====
section
/-! DEFINITION. The words of the Y engine but for atomics (12 R320 to R330, R338 to R352): fences and waits, lane masks
and barriers, exchange, spawning, schedule entries, mailboxes, traps, ends and system registers. -/

namespace Sys2Proof.Machine

/-! ### Fences and counter waits -/

/-- A fence in an agent's order (06 R163). -/
def fenceFlight (o : Origin) (a : Agent) (id : Nat) (waitAll holdAll : Bool) (scope : Nat) : Flight :=
  { id := id, grp := id, agent := a, born := a, origin := o, kind := .fence waitAll holdAll, space := .core, dest := none,
    ext := false, addr := 0, size := 0, data := 0, cmp := 0, scope := scope, acq := false, rel := false, stage := .issued,
    value := 0, flags := 0, fwd := none, seq := 0, upTo := 0, post := 0, counted := false, bulk := [], batch := none,
    waited := false }

/-- The agents of a word: the threads of the group, or the task. -/
def Issuer.agents (x : Issuer) : List Agent :=
  match x.kind with
  | .lane => x.group.map fun l => .lane x.core x.slot l
  | .array => [.task x.core]

/-- A fence appended for each agent of a word. -/
def appendFences (x : Issuer) (waitAll holdAll : Bool) (scope : Nat) : List Agent → State → State
  | [], s => s
  | a :: rest, s =>
    let f := fenceFlight x.origin a s.nextId waitAll holdAll scope
    appendFences x waitAll holdAll scope rest { s with flight := s.flight ++ [f], nextId := s.nextId + 1 }

/-- M operations of the task, or of the threads of the group, are accesses to the core's storage that a release waits for
(06 R163; 10 R281; 12 R322). -/
def matrixBusy (s : State) (x : Issuer) : Bool :=
  match x.kind with
  | .array => (s.array x.core).ops.any fun o => o.kind == OpKind.matrix
  | .lane => (s.lane x.core).ops.any fun o =>
    o.kind == OpKind.matrix && o.origin.key == x.slot && x.group.contains o.origin.lane

/-- A fence word (12 R322). -/
def fenceWord (waitAll holdAll : Bool) (scope : BitVec 3) (s : State) : Answer :=
  unitWord s .Y fun x s =>
    if !isScope scope then .no .illegalOperand
    else if waitAll && matrixBusy s x then .wait
    else .done (appendFences x waitAll holdAll scope.toNat x.agents s).sweep

/-- `fence.acq` (12 R322). -/
def execFenceAcq (scope : BitVec 3) (s : State) : Answer := fenceWord false true scope s

/-- `fence.rel` (12 R322). -/
def execFenceRel (scope : BitVec 3) (s : State) : Answer := fenceWord true false scope s

/-- `fence` (12 R322). -/
def execFence (scope : BitVec 3) (s : State) : Answer := fenceWord true true scope s

/-- The counters of the issuer's unit (01 R50). -/
def unitCounters (s : State) (x : Issuer) : Counters :=
  match x.kind with
  | .array => match (s.array x.core).task with
    | some t => t.cnt
    | none => { ld := 0, st := 0, cp := 0, tl := 0 }
  | .lane => match mapGet? x.slot (s.lane x.core).warps with
    | some w => w.cnt
    | none => { ld := 0, st := 0, cp := 0, tl := 0 }

/-- `wcnt` (12 R323). -/
def execWcnt (ld st cp tl : BitVec 6) (s : State) : Answer :=
  unitWord s .Y fun x s =>
    let c := unitCounters s x
    if c.ld ≤ ld.toNat ∧ c.st ≤ st.toNat ∧ c.cp ≤ cp.toNat ∧ c.tl ≤ tl.toNat then .done s else .wait

/-! ### Lane masks and barriers (01 R24 to R27; 12 R324, R325) -/

/-- A word of lane cores only (07 R194). -/
def laneWordOnly (s : State) (f : Issuer → LaneCore → Warp → State → Issue) : Answer :=
  unitWord s .Y fun x s =>
    match x.kind with
    | .array => .no .illegalInstruction
    | .lane => match mapGet? x.slot (s.lane x.core).warps with
      | some w => f x (s.lane x.core) w s
      | none => .wait

/-- A lane's bit in a 32-bit mask. -/
def laneBit (l : Nat) : BitVec 32 := BitVec.ofNat 32 (2 ^ l)

/-- A mask register of a warp. -/
def Warp.mask (w : Warp) (n : Nat) : BitVec 32 := mapGet 0 w.masks n

/-- An arrival set of a warp. -/
def Warp.arrived (w : Warp) (n : Nat) : BitVec 32 := mapGet 0 w.arrivals n

/-- The lanes held while a handler runs (12 R343). -/
def Warp.frozenLanes (w : Warp) : BitVec 32 :=
  w.threads.foldl (fun m t => if t.2.frozen then m ||| laneBit t.1 else m) 0

/-- A waiting thread released: it goes on at the next word. -/
def Thread.release (t : Thread) : Thread := { t with run := .ready, pc := t.pc + 4 }

/-- Release evaluated on a mask register (01 R25); lanes held by a handler are not counted as arrived (12 R343). -/
def evalMask (w : Warp) (n : Nat) : Warp :=
  let k := w.mask n
  let a := w.arrived n &&& ~~~w.frozenLanes
  if k ≠ 0 ∧ k &&& ~~~a = 0 ∧ a ≠ 0 then
    { w with threads := mapAll (fun l t => if a.getLsbD l && t.run == Run.atMask n then t.release else t) w.threads,
             arrivals := mapSet n 0 w.arrivals }
  else w

/-- Release evaluated on every mask register. -/
def evalMasks (w : Warp) : Warp := (upFrom 0 12).foldl evalMask w

/-- The warp has arrived at a barrier: each of its threads has ended or waits at one (12 R324). -/
def Warp.atBar (w : Warp) : Bool := w.threads.all fun t => t.2.run == Run.ended || (t.2.run == Run.atBar && !t.2.frozen)

/-- The barrier of a workgroup evaluated (12 R324). -/
def evalBar (k : LaneCore) (wg : Nat) : LaneCore :=
  let takesPart (w : Warp) : Bool := w.wg == wg && !w.spawned
  if (k.warps.filter fun w => takesPart w.2).all fun w => w.2.atBar then
    { k with warps := mapAll (fun _ w =>
        if takesPart w then
          { w with threads := mapAll (fun _ t => if t.run = Run.atBar then t.release else t) w.threads }
        else w) k.warps }
  else k

/-- Every thread that has not ended waits at an `mwait` (01 R27). -/
def deadlocked (w : Warp) : Bool :=
  let live := w.threads.filter fun t => t.2.run != Run.ended
  !live.isEmpty && live.all fun t => !t.2.frozen && (match t.2.run with
    | .atMask _ => true
    | _ => false)

/-- The mask-deadlock fault of a warp, precise at the `mwait` of its lowest waiting lane (01 R27). -/
def raiseDeadlock (s : State) (c slot : Nat) : State :=
  let k := s.lane c
  match mapGet? slot k.warps with
  | none => s
  | some w =>
    match w.threads.filter fun t => t.2.run != Run.ended with
    | [] => s
    | (l, t) :: _ =>
      let n := match t.run with
        | .atMask n => n
        | _ => 0
      let w1 := { w with threads := mapSet l { t with run := .ready } w.threads,
                         arrivals := mapSet n (w.arrived n &&& ~~~laneBit l) w.arrivals }
      laneException (s.setLane c { k with warps := mapSet slot w1 k.warps }) c slot [l] t.pc t.pc
        [{ lane := l, cause := .maskDeadlock, value := 0, code := 0, addr := 0 }]

/-- Every thread of the warp that has not ended waits at `mwait` or `bar`. -/
def Warp.waits (w : Warp) : Bool :=
  w.threads.all fun t => match t.2.run with
    | .ready => false
    | _ => true

/-- The bins of a workgroup are to launch once every warp of it that has not ended waits (01 R30). -/
def LaneCore.latch (k : LaneCore) (wg : Nat) : LaneCore :=
  if (k.warps.filter fun w => w.2.wg == wg).all fun w => w.2.waits then
    { k with bins := mapAll (fun _ b => if b.wg = wg then { b with due := true } else b) k.bins }
  else k

/-- A warp put back after a mask event, and the mask-deadlock fault when no event can follow. -/
def putWarp (s : State) (x : Issuer) (w : Warp) : State :=
  let k := s.lane x.core
  let s1 := s.setLane x.core (LaneCore.latch { k with warps := mapSet x.slot w k.warps } w.wg)
  if deadlocked w then raiseDeadlock s1 x.core x.slot else s1

/-- Every earlier access of the group's threads is performed at a scope: what `bar` and `mwait` need as releases, together
with its M operations (06 R168). -/
def groupPerformed (s : State) (x : Issuer) (scope : Nat) : Bool :=
  s.flight.all fun f => !x.agents.contains f.agent || performedAt s.flight scope f

/-- A mask number of 12 to 15 is illegal-operand (07 R192). -/
def maskWord (k : BitVec 4) (s : State) (f : Nat → Issuer → Warp → State → Issue) : Answer :=
  laneWordOnly s fun x _ w s => if isMask k then f k.toNat x w s else .no .illegalOperand

/-- The lanes of a group as a mask. -/
def groupMask (group : List Nat) : BitVec 32 := group.foldl (fun m l => m ||| laneBit l) 0

/-- `mjoin` (01 R25, R26). -/
def execMjoin (k : BitVec 4) (s : State) : Answer :=
  maskWord k s fun n x w s =>
    let w1 := advanceGroup { w with masks := mapSet n (w.mask n ||| groupMask x.group) w.masks } x.pc x.group
    .stay (putWarp s x (evalMask w1 n))

/-- `mleave` (01 R25, R26). -/
def execMleave (k : BitVec 4) (s : State) : Answer :=
  maskWord k s fun n x w s =>
    let g := ~~~groupMask x.group
    let w1 := { w with masks := mapSet n (w.mask n &&& g) w.masks, arrivals := mapSet n (w.arrived n &&& g) w.arrivals }
    .stay (putWarp s x (evalMask (advanceGroup w1 x.pc x.group) n))

/-- `mwait` (01 R25 to R27; 06 R168): the last arrival releases in this step, also where a merge may come (01 R32; log entry
102). -/
def execMwait (k : BitVec 4) (s : State) : Answer :=
  maskWord k s fun n x w s =>
    if !groupPerformed s x 1 || matrixBusy s x then .wait
    else
      let members := x.group.filter fun l => (w.mask n).getLsbD l
      let others := x.group.filter fun l => !(w.mask n).getLsbD l
      let w1 := advanceGroup w x.pc others
      let w2 := { w1 with
        threads := mapAll (fun l t => if members.contains l then { t with run := .atMask n } else t) w1.threads,
        arrivals := mapSet n (w1.arrived n ||| groupMask members) w1.arrivals }
      .stay (putWarp s x (evalMask w2 n))

/-- `bar` (12 R324; 01 R31; 06 R168). -/
def execBar (s : State) : Answer :=
  laneWordOnly s fun x k w s =>
    if w.spawned then .done s
    else if !groupPerformed s x 2 || matrixBusy s x then .wait
    else
      let w1 := { w with threads := mapAll (fun l t => if x.group.contains l then { t with run := .atBar } else t) w.threads }
      .stay (s.setLane x.core ((evalBar { k with warps := mapSet x.slot w1 k.warps } x.wg).latch x.wg))

/-! ### Exchange (12 R326, R327) -/

/-- A word that gives each thread of the group a value for s[d]. -/
def laneValues (d : BitVec 5) (s : State) (f : Issuer → Warp → Nat → Word) : Answer :=
  laneWordOnly s fun x _ w s =>
    let vs := x.group.map fun l => (l, f x w l)
    .done (vs.foldl (fun s v => onThread s (.lane x.core x.slot v.1) fun t => t.setReg x.ring d v.2) s)

/-- `elect` (12 R326). -/
def execElect (d : BitVec 5) (s : State) : Answer := laneValues d s fun x _ l => if l = x.lane then 1 else 0

/-- A register of the thread in a lane. -/
def laneReg (x : Issuer) (w : Warp) (l : Nat) (n : BitVec 5) : Word :=
  match mapGet? l w.threads with
  | some t => t.reg x.ring n
  | none => 0

/-- An exchange: s[a] of the source lane's thread when it is in the group, else the thread's own (12 R327). -/
def xchWord (d a b : BitVec 5) (s : State) (src : Nat → Nat → Option Nat) : Answer :=
  laneValues d s fun x w l =>
    match src l (laneReg x w l b).toNat with
    | some m => if x.group.contains m then laneReg x w m a else laneReg x w l a
    | none => laneReg x w l a

/-- `xch.idx` (12 R327). -/
def execXchIdx (d a b : BitVec 5) (s : State) : Answer := xchWord d a b s fun _ n => some (n % 32)

/-- `xch.up` (12 R327). -/
def execXchUp (d a b : BitVec 5) (s : State) : Answer := xchWord d a b s fun l n => if n ≤ l then some (l - n) else none

/-- `xch.down` (12 R327). -/
def execXchDown (d a b : BitVec 5) (s : State) : Answer :=
  xchWord d a b s fun l n => if l + n ≤ 31 then some (l + n) else none

/-- `xch.xor` (12 R327). -/
def execXchXor (d a b : BitVec 5) (s : State) : Answer := xchWord d a b s fun l n => some (l ^^^ (n % 32))

/-! ### Spawning (01 R28, R29; 12 R328, R329) -/

/-- The warps in slots: those that have ended have freed theirs (01 R18). -/
def LaneCore.slotted (k : LaneCore) : Map Warp := k.warps.filter fun w => decide (w.1 < 32)

/-- Thread slots in use on a lane core (01 R28). -/
def threadsHeld (k : LaneCore) : Nat :=
  k.slotted.foldl (fun n w => n + w.2.threads.length) 0 + k.bins.foldl (fun n b => n + b.2.threads.length) 0

/-- Free thread slots (01 R28). -/
def freeThreads (k : LaneCore) : Nat := 1024 - threadsHeld k

/-- The state of a spawned thread (12 R329). -/
def spawnedThread (entry arg origin : Word) (rm : Nat) : Thread :=
  { Thread.blank with
      pc := entry, regs := mapSet 5 origin (mapSet 4 arg []), fpstat := word rm }

/-- The bin that a spawned thread joins (01 R29): of those with its key that hold fewer than 32 threads the one that went
from empty to non-empty first. -/
def openBin (k : LaneCore) (wg : Nat) (entry : Word) : Option Nat :=
  let fit := k.bins.filter fun b => b.2.wg == wg && b.2.entry == entry && decide (b.2.threads.length < 32)
  match fit with
  | [] => none
  | b :: rest => some (rest.foldl (fun m c => if c.2.since < m.2.since then c else m) b).1

/-- An empty bin. -/
def emptyBin (k : LaneCore) : Option Nat := (upFrom 0 32).find? fun n => (mapGet? n k.bins).isNone

/-- One thread spawned: the core after it and the status of 01 R28. `after` are the spawner's accesses that come before
the thread. -/
def spawnOne (k : LaneCore) (wg : Nat) (entry : Word) (t : Thread) (after : List Nat) : LaneCore × Nat :=
  if freeThreads k = 0 then (k, 1)
  else match openBin k wg entry with
    | some n =>
      ({ k with bins := mapUpdate n (fun b => { b with threads := b.threads ++ [t], after := b.after ++ after }) k.bins }, 0)
    | none => match emptyBin k with
      | none => (k, 2)
      | some n =>
        let b : Bin := { wg := wg, entry := entry, threads := [t], since := k.binClock, due := false, after := after }
        ({ k with bins := mapSet n b k.bins, binClock := k.binClock + 1 }, 0)

/-- The threads of a group spawn in ascending lane order (01 R29). -/
def spawnLanes (x : Issuer) (d a : BitVec 5) (entry : Word) : List Nat → State → State
  | [], s => s
  | l :: rest, s =>
    let k := s.lane x.core
    let ag : Agent := .lane x.core x.slot l
    match (mapGet? x.slot k.warps).bind fun w => mapGet? l w.threads with
    | none => spawnLanes x d a entry rest s
    | some t =>
      let origin := word (x.slot * 256 + l)
      let after := (s.flight.filter fun f => f.agent == ag && !f.kind.isFence).map (·.id)
        ++ (k.ops.filter fun o => o.kind == OpKind.matrix && o.origin.key == x.slot && o.origin.lane == l).map (·.id)
      let (k1, st) := spawnOne k x.wg entry (spawnedThread entry (t.reg x.ring a) origin (t.fpstat.toNat % 8)) after
      let s1 := onThread (s.setLane x.core k1) ag fun t => t.setReg x.ring d (word st)
      spawnLanes x d a entry rest s1

/-- `spawn` (12 R328). -/
def execSpawn (d a : BitVec 5) (imm : BitVec 12) (s : State) : Answer :=
  laneWordOnly s fun x _ _ s =>
    let entry := branchTarget x.pc imm
    let r := x.info.record
    if entry.toNat < r.textBase.toNat ∨ r.textLimit.toNat ≤ entry.toNat then .no .illegalOperand
    else .done (spawnLanes x d a entry x.group s)

/-! ### Schedule entries (01 R45, R46; 12 R330) -/

/-- Two units belong to one launch. -/
def sameLaunch (a b : UnitInfo) : Bool := a.world == b.world && a.job == b.job && a.launch == b.launch

/-- The task of a core of a donation group: one of the same launch (01 R46). -/
def groupTask (s : State) (i : UnitInfo) (c : Nat) : Option Task :=
  match (s.array c).task with
  | none => none
  | some t => if sameLaunch t.info i then some t else none

/-- Entries that a task has not started: its own, then those shipped to it. -/
def Task.unstarted (t : Task) : List Word := t.entries ++ t.shipped

/-- The other cores of an array core's chiplet, in the order in which it asks them (01 R46). -/
def stealOrder (c : Nat) : List Nat := (upFrom 1 15).map fun n => c / 16 * 16 + (c % 16 + n) % 16

/-- The cores that a thief asks: those of its group whose task is not being saved (01 R46). -/
def victims (s : State) (i : UnitInfo) (c : Nat) : List Nat :=
  (stealOrder c).filter fun v => (groupTask s i v).isSome && !(s.array v).saving

/-- Every table of the donation group is exhausted (01 R45). -/
def groupEmpty (s : State) (i : UnitInfo) (c : Nat) : Bool :=
  (stealOrder c).all fun v => match groupTask s i v with
    | some t => t.unstarted.isEmpty
    | none => true

/-- `tnext` (12 R330): an entry, or −1 when the group has none; otherwise it asks and waits. -/
def execTnext (d : BitVec 5) (s : State) : Answer :=
  unitWord s .Y fun x s =>
    match x.kind, (s.array x.core).task with
    | .lane, _ => .no .illegalInstruction
    | .array, none => .wait
    | .array, some t =>
      let k := s.array x.core
      let put (t : Task) : State := s.setArray x.core { k with task := some t }
      match t.entries, t.shipped with
      | e :: rest, _ => .done (x.setReg (put { t with entries := rest }) d e)
      | [], e :: rest => .done (x.setReg (put { t with shipped := rest }) d e)
      | [], [] =>
        if groupEmpty s t.info x.core then .done (x.setReg (put { t with asking := none }) d (-1))
        else match t.asking with
          | some (_ :: _) => .wait
          | _ => .stay (put { t with asking := some (victims s t.info x.core) })

/-- ENTRY_SHIPMENT (01 R46): a victim that is asked ships the last half of its unstarted entries, or none. -/
def execEntryShipment (victim thief : Nat) (s : State) : Answer :=
  match (s.array thief).task with
  | none => .next s
  | some t =>
    match t.asking with
    | some (v :: rest) =>
      if v ≠ victim then .next s
      else
        let next : Option (List Nat) := match rest with
          | [] => none
          | r => some r
        match (if (s.array v).saving then none else groupTask s t.info v) with
        | none => .next (s.setArray thief { s.array thief with task := some { t with asking := next } })
        | some u =>
          let all := u.unstarted
          let n := all.length / 2
          if n = 0 then .next (s.setArray thief { s.array thief with task := some { t with asking := next } })
          else
            let keep := all.take (all.length - n)
            let u1 := { u with entries := keep.take u.entries.length, shipped := keep.drop u.entries.length }
            let t1 := { t with shipped := t.shipped ++ lastN n all, asking := none }
            let s1 := s.setArray v { s.array v with task := some u1 }
            .next (s1.setArray thief { s1.array thief with task := some t1 })
    | _ => .next s

/-! ### Mailboxes (12 R338, R339; 16 R407) -/

/-- The target of a message exists (12 R338). -/
def mailTarget (v : Word) : Option (Nat × Nat) :=
  let n := v.toNat
  let kind := n / 256 % 4
  let c := n % 256
  if 1024 ≤ n then none
  else if kind = 0 ∧ c < 160 then some (0, c)
  else if kind = 1 ∧ c < 192 then some (1, c)
  else if kind = 2 ∧ c < 64 then some (2, c)
  else none

/-- A message sent by an agent of a world: the state and the status (12 R338); a fenced chiplet takes none (18 R437). -/
def sendMail (s : State) (world : Nat) (t : Nat × Nat) (v : Word) : State × Nat :=
  let other (w : Option Nat) : Bool := world != 0 && (match w with
    | some x => x != world
    | none => false)
  match t.1 with
  | 0 =>
    let k := s.array t.2
    if other k.world then (s, 2)
    else if 16 ≤ k.mailbox.length || isFenced s .array t.2 then (s, 1)
    else (s.setArray t.2 { k with mailbox := k.mailbox ++ [v] }, 0)
  | 1 =>
    let k := s.lane t.2
    if other k.world then (s, 2)
    else if 16 ≤ k.mailbox.length || isFenced s .lane t.2 then (s, 1)
    else (s.setLane t.2 { k with mailbox := k.mailbox ++ [v] }, 0)
  | _ =>
    let b := hartBox s t.2
    if 16 ≤ b.length || (s.port (t.2 / 32)).isolated then (s, 1)
    else (s.onHub fun h => { h with cmbx := mapSet t.2 (b ++ [v]) h.cmbx }, 0)

/-- A fence of an agent is not complete: a message that follows it is not sent yet (06 R168). -/
def fencesOpen (s : State) (a : Agent) : Bool :=
  s.flight.any fun f => f.agent == a && f.kind.isFence && !fenceDone s.flight f

/-- `mbx.send` (12 R338). -/
def execMbxSend (d a b : BitVec 5) (s : State) : Answer :=
  unitWord s .Y fun x s =>
    match mailTarget (x.reg a) with
    | none => .no .illegalOperand
    | some t =>
      if fencesOpen s x.agent || !hubHears s x.agent.port then .wait
      else
        let (s1, st) := sendMail s x.info.world t (x.reg b)
        .done (x.setReg s1 d (word st))

/-- The mailbox of the issuer's core. -/
def coreBox (s : State) (x : Issuer) : List Word :=
  match x.kind with
  | .array => (s.array x.core).mailbox
  | .lane => (s.lane x.core).mailbox

/-- `mbx.recv` (12 R339). -/
def execMbxRecv (d : BitVec 5) (s : State) : Answer :=
  unitWord s .Y fun x s =>
    match coreBox s x with
    | [] => .wait
    | v :: rest =>
      let s1 := match x.kind with
        | .array => s.setArray x.core { s.array x.core with mailbox := rest }
        | .lane => s.setLane x.core { s.lane x.core with mailbox := rest }
      .done (x.setReg s1 d v)

/-! ### Traps, handlers and ends (12 R340 to R344) -/

/-- The fault that a trap raises. -/
def trapFault (lane : Nat) (cause : Cause) (code : Nat) : LaneFault :=
  { lane := lane, cause := cause, value := word code, code := code, addr := 0 }

/-- A trap word of a lane warp: the word completes for the group and the warp stops, or its lowest lane enters its
handler while the others stay at the word, to issue it again (log entry 86). While the core is sealed the stop is
pending (19 R449). -/
def laneTrap (s : State) (c slot : Nat) (x : Stop) : State :=
  let k := s.lane c
  match mapGet? slot k.warps with
  | none => s
  | some w =>
    let priv := match mapGet? w.wg k.wgs with
      | some g => g.info.priv
      | none => false
    let l := x.lanes.headD 0
    let t := (mapGet? l w.threads).getD Thread.blank
    if k.sealing then s.setLane c { k with warps := mapSet slot { w with pend := some x } k.warps }
    else
      let w1 := if mayEnter priv t then w else advanceGroup w x.pc x.lanes
      laneException (s.setLane c { k with warps := mapSet slot { w1 with pend := none } k.warps }) c slot x.lanes x.pc
        (x.pc + 4) [trapFault l x.cause x.code.toNat]

/-- A trap word of an array task that the Y cursor has passed; while the core is sealed the stop is pending
(19 R449). -/
def arrayTrap (s : State) (c : Nat) (x : Stop) : State :=
  let k := s.array c
  if k.sealing then s.setArray c { k with task := k.task.map fun t => { t with pend := some x } }
  else
    arrayException (s.setArray c { k with task := k.task.map fun t => { t with pend := none } }) c .Y x.cause
      (x.code.setWidth 64) x.code.toNat 0 x.pc

/-- A trap word (12 R340, R341): it completes, and its stop point lies after it. -/
def trapWord (cause : Cause) (code : BitVec 12) (s : State) : Answer :=
  unitWord s .Y fun x s =>
    let p : Stop := { cause := cause, cls := 1, code := code.setWidth 16, pc := x.pc, lanes := x.group }
    match x.kind with
    | .lane => .stay (laneTrap s x.core x.slot p)
    | .array =>
      let k := s.array x.core
      .stay (arrayTrap (s.setArray x.core { k with task := k.task.map fun t => t.pass .Y (x.pc + 4) }) x.core p)

/-- `trap` (12 R340). -/
def execTrap (c : BitVec 12) (s : State) : Answer := trapWord .trap c s

/-- `svc` (12 R340). -/
def execSvc (c : BitVec 12) (s : State) : Answer := trapWord .svc c s

/-- `brk` (12 R340). -/
def execBrk (c : BitVec 12) (s : State) : Answer := trapWord .brk c s

/-- A thread that has ended: its windows are released (12 R344). -/
def Thread.end_ (t : Thread) : Thread :=
  { t with run := .ended, win := { spillOff := 0, depth := 0, cur := 0, wbase := 0, resident := [] } }

/-- Threads of a warp end: their mask bits are cleared and release is evaluated (01 R25; 12 R344). -/
def endThreads (w : Warp) (group : List Nat) : Warp :=
  let g := ~~~groupMask group
  evalMasks { w with threads := mapAll (fun l t => if group.contains l then t.end_ else t) w.threads,
                     masks := mapAll (fun _ m => m &&& g) w.masks, arrivals := mapAll (fun _ m => m &&& g) w.arrivals }

/-- The bindings of a task that ends or is discarded are dissolved (05 R147); a tile that the link chiplet has taken is
still transmitted, and its binding stays, stopped, until then (log entry 105). -/
def endBinding (s : State) (c q : Nat) : State :=
  let b := (s.array c).queue q
  match b.dir with
  | .unbound => s
  | .receive => dissolve s c q
  | .send =>
    let s1 := discardUntaken (dropMarks s c q) c q
    if b.taken.isEmpty then dissolve s1 c q else onQueue s1 c q fun b => { b with xoff := true }

/-- Every binding of an array core's task dissolved. -/
def endBindings (s : State) (c : Nat) : State := (upFrom 0 16).foldl (fun s q => endBinding s c q) s

/-- Every other cursor has stopped at a `halt` (12 R344). -/
def othersHalted (x : Cursors) : Bool := x.s.halted && x.v.halted && x.m.halted && x.d.halted && x.q.halted

/-- Every thread of the warp has ended. -/
def Warp.ended (w : Warp) : Bool := w.threads.all fun t => t.2.run == Run.ended

/-- The agents and origins of operations under way renamed, as threads move. -/
def State.rename (s : State) (fa : Agent → Agent) (fo : Origin → Origin) : State :=
  { s with flight := s.flight.map fun f => { f with agent := fa f.agent, origin := fo f.origin },
           copies := s.copies.map fun c => { c with agent := fa c.agent, origin := fo c.origin },
           kept := mapAll (fun _ m => mapAll (fun _ b => { b with agent := fa b.agent, origin := fo b.origin }) m) s.kept }

/-- The agent of a core's unit that leaves, `key` times 32 being free for its slots. -/
def Agent.leaving (kind : CoreKind) (c key : Nat) (a : Agent) : Agent :=
  match kind, a with
  | .array, .task d => if d = c then .gone .array c (32 * key) 0 else a
  | .lane, .lane d w l => if d = c then .gone .lane c (32 * key + w) l else a
  | _, a => a

/-- The agent of a unit that comes back to a core. -/
def Agent.returning (c key : Nat) (a : Agent) : Agent :=
  match a with
  | .gone kind _ n l =>
    if n / 32 = key then (match kind with
      | .array => .task c
      | .lane => .lane c (n % 32) l)
    else a
  | _ => a

/-- The accumulators of a workgroup's pair, which read as zero until rewritten (10 R286). -/
def dropPair (k : LaneCore) (g : Workgroup) : Map Acc :=
  match g.pair with
  | some p => mapErase (2 * p) (mapErase (2 * p + 1) k.accs)
  | none => k.accs

/-- A workgroup whose warps have all ended and whose bins are empty releases its scratchpad, its tile table and its
accumulators (01 R18; 03 R97; 10 R286), whether or not its units have completed. -/
def releaseScratch (k : LaneCore) (wg : Nat) : LaneCore :=
  if k.warps.any (fun w => w.2.wg == wg && !w.2.ended) || k.bins.any (fun b => b.2.wg == wg) then k
  else match mapGet? wg k.wgs with
    | none => k
    | some g => { k with wgs := mapSet wg { g with tiles := [], pair := none, released := true } k.wgs, accs := dropPair k g }

/-- A warp that has ended frees its slot (01 R18): it stands at a key above the slots until its operations are done, and
they keep naming it. -/
def leaveSlot (s : State) (c slot : Nat) : State :=
  let k := s.lane c
  match mapGet? slot k.warps with
  | none => s
  | some w =>
    if 32 ≤ slot || !w.ended then s
    else
      let key := 32 + s.nextId
      let fa (a : Agent) : Agent := match a with
        | .lane d v l => if d = c ∧ v = slot then .lane c key l else a
        | _ => a
      let fo (o : Origin) : Origin := if o.kind = .lane ∧ o.core = c ∧ o.key = slot then { o with key := key } else o
      let k1 : LaneCore :=
        { k with warps := mapSet key { w with aged := [] } (mapErase slot k.warps),
                 ops := k.ops.map fun x => { x with origin := fo x.origin } }
      ({ s with nextId := s.nextId + 1 }.setLane c (releaseScratch k1 w.wg)).rename fa fo

/-- `halt` (12 R344). -/
def execHalt (s : State) : Answer :=
  unitWord s .Y fun x s =>
    match x.kind with
    | .lane =>
      let k := s.lane x.core
      match mapGet? x.slot k.warps with
      | none => .wait
      | some w =>
        let w1 := endThreads w x.group
        let s1 := s.setLane x.core ((evalBar { k with warps := mapSet x.slot w1 k.warps } x.wg).latch x.wg)
        .stay (if deadlocked w1 then raiseDeadlock s1 x.core x.slot else leaveSlot s1 x.core x.slot)
    | .array =>
      let k := s.array x.core
      match k.task with
      | none => .wait
      | some t =>
        if othersHalted t.cursors then
          let c1 := { t.cursors with y := { t.cursors.y with halted := true } }
          .stay (endBindings (s.setArray x.core { k with task := some { t with cursors := c1, ended := true } }) x.core)
        else .wait

/-- Every cursor stands at the Y cursor's place on the path. -/
def gathered (x : Cursors) : Bool := x.list.all fun c => c.step == x.y.step

/-- `eret` (12 R342, R343). -/
def execEret (s : State) : Answer :=
  unitWord s .Y fun x s =>
    if !x.info.priv then .no .privilege
    else if !x.th.inHandler then .no .illegalOperand
    else match x.kind with
      | .lane =>
        let k := s.lane x.core
        match mapGet? x.slot k.warps with
        | none => .wait
        | some w =>
          let w1 := evalMasks (x.group.foldl laneReturn w)
          let s1 := s.setLane x.core (evalBar { k with warps := mapSet x.slot w1 k.warps } x.wg)
          .stay (if deadlocked w1 then raiseDeadlock s1 x.core x.slot else s1)
      | .array =>
        let k := s.array x.core
        match k.task with
        | none => .wait
        | some t => if gathered t.cursors then .stay (s.setArray x.core (arrayReturn k t)) else .wait

/-! ### System registers (12 R345 to R352) -/

/-- Scratchpad bytes of a split code (04 R126). -/
def scratchOf (split : Nat) : Nat :=
  match split with
  | 0 => 64 * 1024
  | 1 => 128 * 1024
  | 2 => 256 * 1024
  | 3 => 384 * 1024
  | 4 => 448 * 1024
  | 5 => 64 * 1024
  | 6 => 256 * 1024
  | _ => 0

/-- LSPLIT (04 R126): no scratchpad is free before a launch has set the split. -/
def lsplit (k : LaneCore) : Word :=
  match k.split with
  | none => 0
  | some n =>
    let used := k.wgs.foldl (fun n g => if g.2.released then n else n + g.2.scrSize) 0
    word (n + 16 * ((scratchOf n - used) / 4096))

/-- BINSTAT (12 R352). -/
def binstat (k : LaneCore) : Word := word (freeThreads k * 2 ^ 32 + k.bins.length)

/-- OPS_PEND (01 R52). -/
def opsPend (c : Counters) : Word := word (c.ld + c.st * 2 ^ 8 + c.cp * 2 ^ 16 + c.tl * 2 ^ 24)

/-- DBATCH (11 R307). -/
def dbatch (b : Batches) : Word := word (b.last + b.pend.length * 2 ^ 16 + min b.openCount 63 * 2 ^ 32)

/-- WINSTAT (08 R211). -/
def winstat (w : Windows) : Word :=
  word (w.wbase + w.cur * 2 ^ 7 + w.resident.foldl (· + ·) 0 * 2 ^ 13 + w.depth * 2 ^ 20 + w.spillOff * 2 ^ 32)

/-- ESTAT (12 R351). -/
def estat (t : Thread) : Word := word (t.estatCause.toNat * 256 + ofBool t.inHandler)

/-- CORE_NUM (12 R348). -/
def coreNum (s : State) (kind : CoreKind) (c : Nat) : Word :=
  word (s.module * 2 ^ 32 + (match kind with | .array => 0 | .lane => 256) + c)

/-- LITERn or LSTAT from iteration state (09 R254). -/
def literOf (ls : List Iter) (n : Nat) : Word :=
  let l := nth { active := false, trip := 0, iter := 0 } ls n
  word (l.trip * 2 ^ 32 + l.iter)

/-- LSTAT (09 R254). -/
def lstatOf (ls : List Iter) : Word :=
  word ((upFrom 0 6).foldl (fun v n => v + ofBool (nth { active := false, trip := 0, iter := 0 } ls n).active * 2 ^ n) 0)

/-- CUR_WIN (01 R39). -/
def curWin (k : ArrayCore) : Word :=
  word (k.limit + (match k.task with | some t => t.outq.length | none => 0) * 2 ^ 16)

/-- Registers that both kinds of core have (12 R346). -/
def sysCommon (s : State) (x : Issuer) (t : Thread) (n : Nat) : Word :=
  match n with
  | 0x000 => t.fpstat
  | 0x001 => opsPend (unitCounters s x)
  | 0x002 => dbatch t.batch
  | 0x003 => word (x.info.world + 256 * ofBool x.info.priv)
  | 0x004 => coreNum s x.kind x.core
  | 0x005 => x.info.launchId
  | 0x006 => word x.idx
  | 0x007 => word (s.time / 65536)
  | 0x008 => t.timeFrac.setWidth 64
  | 0x009 => (srOf s x).setWidth 64
  | 0x00A => word (coreBox s x).length
  | 0x010 => estat t
  | 0x011 => t.epc
  | 0x012 => t.eval
  | _ => t.evec

/-- Registers of array cores (12 R346), as they stand at the Y cursor's place on the path. -/
def sysArray (s : State) (x : Issuer) (n : Nat) : Word :=
  match (s.array x.core).task with
  | none => 0
  | some t =>
    if n = 0x100 then curWin (s.array x.core)
    else if n = 0x101 then word x.base
    else if n = 0x102 then lstatOf t.cursors.y.iters
    else if n < 0x110 then literOf t.cursors.y.iters (n - 0x103)
    else qstateShown s x.core (n - 0x110)

/-- Registers of lane cores (12 R346). -/
def sysLane (s : State) (x : Issuer) (l : Nat) (t : Thread) (n : Nat) : Word :=
  let k := s.lane x.core
  let spawned := match mapGet? x.slot k.warps with
    | some w => w.spawned
    | none => false
  match n with
  | 0x200 => word l
  | 0x201 => word (x.slot + 256 * ofBool spawned)
  | 0x202 => winstat t.win
  | 0x203 => lsplit k
  | 0x204 => x.info.record.binTimer.setWidth 64
  | 0x205 => x.info.record.spillBase
  | 0x206 => word x.info.record.spillSize
  | _ => binstat k

/-- The fields of CORE_NUM (12 R348). -/
def coreNumMask : Nat := 0x3FFF00000000 + 0x3FF

/-- The fields of an array core's registers that hardware shows, apart from QSTATE: those of the core, of the batches, and,
while no task is there, of the task (12 R346). -/
def arrayMask (k : ArrayCore) (n : Nat) : Nat :=
  let idle (m : Nat) : Nat := if k.task.isNone then m else 0
  match n with
  | 0x001 => idle 0x3F3F3F3F
  | 0x002 => 0x3F001F0000
  | 0x003 => idle 0x10F
  | 0x004 => coreNumMask
  | 0x005 => idle 0xFFFFFFFFFFFFFFFF
  | 0x006 => idle 0xFFFFFFFF
  | 0x007 => 0xFFFFFFFFFFFFFFFF
  | 0x00A => 0x1F
  | 0x100 => 0x7F0000
  | 0x102 => idle 0x3F
  | n => if 0x103 ≤ n ∧ n < 0x109 then idle 0xFFFFFFFFFFFFFFFF else 0

/-- The fields of a lane core's own registers that hardware shows. -/
def laneMask (n : Nat) : Nat :=
  match n with
  | 0x004 => coreNumMask
  | 0x007 => 0xFFFFFFFFFFFFFFFF
  | 0x00A => 0x1F
  | 0x203 => 0xFF0
  | 0x207 => 0x7FF0000003F
  | _ => 0

/-- The first cell of a lane core's own registers in its window (04 R117). -/
def laneSysBase : Nat := 0x34000

/-- A system register as a thread reads it; lane `l` of a lane core. -/
def sysValue (s : State) (x : Issuer) (l : Nat) (t : Thread) (n : Nat) : Word :=
  match x.kind with
  | .array =>
    let k := s.array x.core
    shadowed k.shadow n (arrayMask k n) (if n < 0x100 then sysCommon s x t n else sysArray s x n)
  | .lane =>
    shadowed (s.lane x.core).shadow (laneSysBase + n) (laneMask n)
      (if n < 0x100 then sysCommon s x t n else sysLane s x l t n)

/-- The register is assigned on a core kind (12 R346). -/
def assigned (kind : CoreKind) (r : BitVec 12) : Bool :=
  match kind with
  | .array => isArraySysReg r
  | .lane => isLaneSysReg r

/-- A privileged register: ESTAT, EPC, EVAL, EVEC (12 R346). -/
def isPrivReg (r : BitVec 12) : Bool := decide (0x010 ≤ r.toNat) && decide (r.toNat ≤ 0x013)

/-- A system-register word: the checks of 12 R345. -/
def sysWord (r : BitVec 12) (s : State) (f : Issuer → State → Issue) : Answer :=
  unitWord s .Y fun x s =>
    if !assigned x.kind r then .no .illegalOperand
    else if isPrivReg r && !x.info.priv then .no .privilege
    else f x s

/-- The thread of an agent. -/
def threadOf (s : State) : Agent → Thread
  | .lane c w l => ((mapGet? w (s.lane c).warps).bind fun w => mapGet? l w.threads).getD Thread.blank
  | .task c => (s.array c).th
  | _ => Thread.blank

/-- The lane of an agent. -/
def Agent.laneNo : Agent → Nat
  | .lane _ _ l => l
  | _ => 0

/-- `sysrd` for one thread; a read of TIME_NS latches the fraction (12 R349). -/
def readSys (x : Issuer) (d : BitVec 5) (n : Nat) (s : State) (a : Agent) : State :=
  let v := sysValue s x a.laneNo (threadOf s a) n
  onThread s a fun t =>
    let t1 := if n = 0x007 then { t with timeFrac := BitVec.ofNat 16 (s.time % 65536) } else t
    t1.setReg x.ring d v

/-- `sysrd` (12 R345). -/
def execSysrd (d : BitVec 5) (r : BitVec 12) (s : State) : Answer :=
  sysWord r s fun x s => .done (x.agents.foldl (readSys x d r.toNat) s)

/-- CUR_WIN.LIMIT as a write stores it (01 R39). -/
def clampLimit (v : Nat) : Nat := let n := v % 8192; if n < 16 then 16 else if 4096 < n then 4096 else n

/-- `syswr` for one thread: RW fields take the value, others stay (12 R345). A new LIMIT is in force for the S cursor's words
behind this one. -/
def writeSys (x : Issuer) (ra : BitVec 5) (n : Nat) (s : State) (a : Agent) : State :=
  let v := (threadOf s a).reg x.ring ra
  match n with
  | 0x000 => onThread s a fun t => { t with fpstat := writeFpstat t.fpstat v }
  | 0x009 => setSr s x (srSeed (v.setWidth 16))
  | 0x011 => onThread s a fun t => { t with epc := v &&& ~~~3 }
  | 0x013 => onThread s a fun t => { t with evec := v &&& ~~~3 }
  | 0x100 =>
    let k := s.array x.core
    let before (t : Task) : List (Nat × Nat) :=
      (t.limits.filter fun x => decide (t.cursors.s.step ≤ x.1)) ++ [(t.cursors.y.step, k.limit)]
    s.setArray x.core { k with limit := clampLimit v.toNat, task := k.task.map fun t => { t with limits := before t } }
  | 0x101 =>
    let k := s.array x.core
    let b := v.toNat % 32
    s.setArray x.core
      { k with rotBase := b, task := k.task.map fun t => { t with cursors := t.cursors.all fun c => { c with base := b } } }
  | _ => s

/-- `syswr` (12 R345). A write of ROT_BASE waits until every cursor stands at it (01 R42). -/
def execSyswr (ra : BitVec 5) (r : BitVec 12) (s : State) : Answer :=
  sysWord r s fun x s =>
    let ready := r.toNat != 0x101 || (match (s.array x.core).task with
      | some t => gathered t.cursors
      | none => false)
    if ready then .done (x.agents.foldl (writeSys x ra r.toNat) s) else .wait

end Sys2Proof.Machine
end

