-- ==== Sys2Proof/Machine/Weights.lean ====
section
/-! DEFINITION. Weight bindings: the generation commands, measurement, pins (22 R483 to R488), and the measurement
generation of the management controller (19 R448). -/

namespace Sys2Proof.Machine

/-- A measured value changes: MC_MGEN.GEN rises and every session that recorded a lower one ends, its keys erased
(19 R448). -/
def bumpGen (s : State) : State :=
  s.onHub fun h => { h with mgen := (h.mgen + 1) % 2 ^ 32, sessions := [] }

/-- An unused binding (22 R483). -/
def WBind.blank : WBind := { id := 0, ctl := 0, slots := [], freed := 0, err := false, maxGen := 0 }

/-- A free slot (22 R483). -/
def GenSlot.blank : GenSlot := { dir := 0, pins := 0, gen := 0, st := .free, digest := 0 }

/-- Binding `b`. -/
def State.wbind (s : State) (b : Nat) : WBind := mapGet WBind.blank s.hub.wbinds b

/-- The state with a binding replaced. -/
def State.setWbind (s : State) (b : Nat) (x : WBind) : State :=
  s.onHub fun h => { h with wbinds := mapSet b x h.wbinds }

/-- Generation slot `k` of a binding. -/
def WBind.slot (x : WBind) (k : Nat) : GenSlot := mapGet GenSlot.blank x.slots k

/-- A binding with a slot replaced. -/
def WBind.setSlot (x : WBind) (k : Nat) (g : GenSlot) : WBind := { x with slots := mapSet k g x.slots }

/-- WB_CTL.VBASE, COUNT and WORLDS. -/
def WBind.vbase (x : WBind) : Nat := bits x.ctl.toNat 30 27

/-- The size of the range in GiB. -/
def WBind.count (x : WBind) : Nat := bits x.ctl.toNat 16 6 + 1

/-- How many worlds may name the binding. -/
def WBind.worlds (x : WBind) : Nat := ((upFrom 0 16).filter fun w => x.ctl.getLsbD w).length

/-- Some slot is not free: WB_CTL.LOCK (22 R483). -/
def WBind.locked (x : WBind) : Bool := x.slots.any fun g => g.2.st != GenSt.free

/-- The slot that is current (22 R484). -/
def WBind.current (x : WBind) : Option Nat := (x.slots.find? fun g => g.2.st == GenSt.current).map (·.1)

/-- How many bytes a shootdown of a SIZE below 4 covers (16 R406). -/
def sdnBits (size : Nat) : Nat := if size = 0 then 12 else if size = 1 then 16 else if size = 2 then 21 else 30

/-- A queued shootdown touches the range of a binding (22 R495). -/
def sdnHits (x : WBind) (q : Nat × Word × Nat × Nat × Nat) : Bool :=
  let (_, va, size, world, _) := q
  x.ctl.getLsbD world && (size == 4 || overlaps (va.toNat % 2 ^ 57) (2 ^ sdnBits size) (x.vbase * 2 ^ 30) (x.count * 2 ^ 30))

/-- A held translation lies in the range of a shootdown (04 R124; 16 R406). -/
def pageHit (h : HeldPage) (q : Nat × Word × Nat × Nat × Nat) : Bool :=
  let (_, va, size, world, _) := q
  h.world == world && (size == 4 || overlaps (h.base % 2 ^ 57) (2 ^ h.bits) (va.toNat % 2 ^ 57) (2 ^ sdnBits size))

/-- Held translations dropped. What has issued up to now may have used them, so a queued shootdown of one of them waits for
all of it (04 R124). -/
def dropPages (s : State) (p : HeldPage → Bool) : State :=
  let gone := s.pages.filter p
  { s with pages := s.pages.filter fun h => !p h }.onHub fun h =>
    { h with sdnQueue := h.sdnQueue.map fun q =>
        if gone.any fun x => pageHit x q then (q.1, q.2.1, q.2.2.1, q.2.2.2.1, s.nextId) else q }

/-- A copy in flight, of a launch that pinned a generation, pins a page of the binding's range (04 R123; 22 R490). -/
def copyPins (s : State) (b k : Nat) : Bool :=
  let x := s.wbind b
  s.copies.any fun c => c.gen == some (b, k) && c.pins.any fun p =>
    overlaps (p / 4096 * 4096 % 2 ^ 57) (2 ^ (p % 4096)) (x.vbase * 2 ^ 30) (x.count * 2 ^ 30)

/-- One retiring slot with no pins freed (22 R484), unless a copy still pins a page of the generation or a shootdown of the
range is queued (22 R495): the translation caches drop the generation's entries. -/
def freeSlot (b : Nat) (s : State) (k : Nat) : State :=
  let x := s.wbind b
  let g := x.slot k
  if g.st == GenSt.retiring && g.pins == 0 && !copyPins s b k && !s.hub.sdnQueue.any (sdnHits x) then
    let x1 := { x.setSlot k { g with st := .free } with freed := x.freed ||| BitVec.ofNat 4 (2 ^ k) }
    trace ({ s with pages := s.pages.filter fun h => h.pin != some (b, k) }.setWbind b x1) 24 0x0E 3 0xFFFF b g.gen 0
  else s

/-- Every retiring slot that may be freed is freed. -/
def freeSlots (s : State) : State :=
  s.hub.wbinds.foldl (fun s x => (upFrom 0 4).foldl (freeSlot x.1) s) s

/-- A generation command is refused (22 R484). -/
def refuseGen (s : State) (b : Nat) : State := s.setWbind b { s.wbind b with err := true }

/-- A generation command on slot `k` of binding `b`, given in the state it needs; otherwise refused (22 R484). ERR
stays set until software clears it (00 R10). -/
def genCommand (s : State) (b k : Nat) (ok : WBind → GenSlot → Bool) (f : State → WBind → GenSlot → State) : Answer :=
  let x := s.wbind b
  let g := x.slot k
  if 64 ≤ b ∨ 4 ≤ k then .next s
  else if ok x g then .next (f s x g)
  else .next (refuseGen s b)

/-- WB_STAGE (22 R484). -/
def execWbStage (b k : Nat) (s : State) : Answer :=
  genCommand s b k (fun x g => x.id != 0 && g.st == GenSt.free) fun s x g =>
    let n := (x.maxGen + 1) % 2 ^ 16
    s.setWbind b { x.setSlot k { g with st := .staged, gen := n, digest := 0 } with maxGen := n }

/-- The leaves below an entry of a level, by virtual address, each with its level (16 R403, R404). -/
def leavesUnder (s : State) : Nat → Nat → Nat → Nat → List (Nat × Nat × Nat)
  | 0, _, _, _ => []
  | fuel + 1, level, e, va =>
    if badEntry s level e then []
    else if bit e 1 || bit e 2 || bit e 3 then [(va, e, level)]
    else (upFrom 0 512).flatMap fun n =>
      leavesUnder s fuel (level + 1) (peekNat s (e / 4096 % 2 ^ 44 * 4096 + 8 * n) 8) (va + n * 2 ^ (39 - 9 * level))

/-- The leaves of a generation's directory, in ascending virtual address order (22 R483, R486). -/
def imageLeaves (s : State) (x : WBind) (g : GenSlot) : List (Nat × Nat × Nat) :=
  let dir := g.dir.toNat / 4096 % 2 ^ 44 * 4096
  (upFrom 0 x.count).flatMap fun n => leavesUnder s 3 2 (peekNat s (dir + 8 * n) 8) ((x.vbase + n) * 2 ^ 30)

/-- The canonical form of a 57-bit virtual address (04 R121). -/
def canonical (va : Nat) : Nat := if bit va 56 then va % 2 ^ 57 + (2 ^ 64 - 2 ^ 57) else va % 2 ^ 57

/-- Every leaf satisfies 22 R486: not writable, and shareable when several worlds name the binding. -/
def imageOk (s : State) (x : WBind) (g : GenSlot) : Bool :=
  (imageLeaves s x g).all fun l => !bit l.2.1 2 && (decide (x.worlds ≤ 1) || bit l.2.1 5)

/-- The bytes that the digest covers: each mapped 4 KiB page behind its virtual address (22 R486); the leaves of a 64 KiB page
hold one base (04 R121). -/
def imageBytes (s : State) (x : WBind) (g : GenSlot) : List Byte :=
  (imageLeaves s x g).flatMap fun l =>
    let size := if l.2.2 = 2 then 30 else if l.2.2 = 3 then 21 else 12
    let page := l.2.1 / 4096 % 2 ^ 44 + if l.2.2 = 4 ∧ bit l.2.1 7 then l.1 / 4096 % 16 else 0
    (upFrom 0 (2 ^ (size - 12))).flatMap fun i =>
      bytesOfNat 8 (canonical (l.1 + 4096 * i)) ++ peek s (page * 4096 + 4096 * i) 4096

/-- WB_MEASURE (22 R484, R486): the leaves are checked and hashing starts. -/
def execWbMeasure (b k : Nat) (s : State) : Answer :=
  genCommand s b k (fun x g => g.st == GenSt.staged && imageOk s x g) fun s x g =>
    s.setWbind b (x.setSlot k { g with st := .measuring })

/-- WB_MEASURE_COMPLETE (22 R486): the slot is measured. -/
def execWbMeasureComplete (b k : Nat) (s : State) : Answer :=
  let x := s.wbind b
  let g := x.slot k
  if g.st == GenSt.measuring then
    .next (s.setWbind b (x.setSlot k { g with st := .measured, digest := natOfBytes (sha384 (imageBytes s x g)) }))
  else .next s

/-- WB_SWITCH (22 R484, R486, R487): the slot becomes current and the old current one retires. -/
def execWbSwitch (b k : Nat) (s : State) : Answer :=
  genCommand s b k (fun x g => g.st == GenSt.measured || (g.st == GenSt.staged && x.worlds == 1)) fun s x g =>
    let old := match x.current with
      | some j => (x.slot j).gen
      | none => 0
    let x1 : WBind := match x.current with
      | some j => x.setSlot j { x.slot j with st := .retiring }
      | none => x
    let s1 := s.setWbind b (x1.setSlot k { g with st := .current })
    freeSlots (bumpGen (trace s1 24 0x0D 3 0xFFFF b (g.gen + 2 ^ 16 * old) 0))

/-- WB_DROP (22 R484): a staged or measured slot is freed. -/
def execWbDrop (b k : Nat) (s : State) : Answer :=
  genCommand s b k (fun _ g => g.st == GenSt.staged || g.st == GenSt.measured) fun s x g =>
    s.setWbind b (x.setSlot k { g with st := .free })

/-- The binding and current slot that a launch of a world finds for an identifier (22 R488): of several the first that has a
current slot. -/
def findBinding (s : State) (world : Nat) (id : Word) : Option (Nat × Nat) :=
  s.hub.wbinds.findSome? fun x =>
    if x.2.id == id && x.2.ctl.getLsbD world then x.2.current.map fun k => (x.1, k) else none

/-- A launch pins a generation (22 R488). -/
def pinGen (s : State) (world launch : Nat) (p : Nat × Nat) : State :=
  let x := s.wbind p.1
  let g := x.slot p.2
  trace (s.setWbind p.1 (x.setSlot p.2 { g with pins := g.pins + 1 })) 24 0x0C 3 0xFFFF p.1 (launch + 2 ^ 32 * g.gen) world

/-- The pin of a completed launch released (22 R488). -/
def unpinGen (s : State) (p : Option (Nat × Nat)) : State :=
  match p with
  | none => s
  | some (b, k) =>
    let x := s.wbind b
    let g := x.slot k
    freeSlots (s.setWbind b (x.setSlot k { g with pins := g.pins - 1 }))

end Sys2Proof.Machine
end

