-- ==== Sys2Proof/Machine/Units.lean ====
section
/-! DEFINITION. Units of lane cores: bins, merging, aged groups (01 R23, R28 to R33). Discarding a unit (01 R49) and its
completion (01 R48). -/

namespace Sys2Proof.Machine

/-! ### Launches -/

/-- A launch in the sequencer's table (17 R412). -/
def findLaunch (s : State) (w job num : Nat) : Option Launch :=
  s.hub.launches.find? fun l => l.world == w && l.job == job && l.num == num

/-- The launch of a unit changed. -/
def onUnitLaunch (s : State) (i : UnitInfo) (f : Launch → Launch) : State := s.onLaunch i.world i.job i.launch f

/-- A unit counts as faulted (01 R48, 18 R428). -/
def countFault (s : State) (i : UnitInfo) (idx : Nat) : State := onUnitLaunch s i fun l => l.fault idx

/-- Warps of a workgroup (17 R410). -/
def LaunchRec.warps (r : LaunchRec) : Nat := ceilDiv r.wgThreads 32

/-- The variant that a code index selects (13 R364). -/
def LaunchRec.variant (r : LaunchRec) (code : Nat) : Nat := (nth 0 r.variants code).toNat

/-- The kind of core of a variant (13 R364). -/
def variantKind (v : Nat) : Option CoreKind :=
  if bits v 32 8 = 1 then some .array else if bits v 32 8 = 2 then some .lane else none

/-- The entry point of a launch (13 R364). -/
def LaunchRec.entry (r : LaunchRec) (code : Nat) : Word := r.textBase + word (r.variant code % 2 ^ 32)

/-! ### Discarding (01 R49) -/

/-- Bins of a workgroup emptied (01 R49). -/
def dropBins (k : LaneCore) (wg : Nat) : LaneCore := { k with bins := k.bins.filter fun b => b.2.wg != wg }

/-- The data of loads and atomics under way is discarded with the unit that awaits it (08 R240). -/
def dropData (s : State) (p : Origin → Bool) : State :=
  { s with flight := s.flight.map fun f => if p f.origin then { f with dest := none } else f }

/-- A warp discarded: every thread ends, its workgroup's bins are emptied, and its slot is free. -/
def discardWarp (s : State) (c slot : Nat) : State :=
  let k := s.lane c
  match mapGet? slot k.warps with
  | none => s
  | some w =>
    let w1 := { w with threads := mapAll (fun _ t => { t.end_ with frozen := false }) w.threads, masks := [],
                       arrivals := [], stop := none, pend := none, aged := [] }
    let s1 := s.setLane c (evalBar (dropBins { k with warps := mapSet slot w1 k.warps } w.wg) w.wg)
    leaveSlot (dropData s1 fun o => o.kind == CoreKind.lane && o.core == c && o.key == slot) c slot

/-- An array task discarded: it ends, its bindings are dissolved, its schedule entries go. -/
def discardTask (s : State) (c : Nat) : State :=
  let k := s.array c
  match k.task with
  | none => s
  | some t =>
    let t1 := { t with cursors := t.cursors.all fun x => { x with halted := true }, stop := none, pend := none,
                       held := none, entries := [], shipped := [], asking := none, ended := true }
    let s1 := dropData (s.setArray c { k with task := some t1 }) fun o => o.kind == CoreKind.array && o.core == c
    endBindings s1 c

/-- A unit discarded. -/
def discardUnit (s : State) (u : UnitRef) : State :=
  match u.kind with
  | .array => discardTask s u.core
  | .lane => discardWarp s u.core u.slot

/-- The launch data of a unit. -/
def unitInfo (s : State) (u : UnitRef) : Option UnitInfo :=
  match u.kind with
  | .array => (s.array u.core).task.map (·.info)
  | .lane => match mapGet? u.slot (s.lane u.core).warps with
    | none => none
    | some w => (mapGet? w.wg (s.lane u.core).wgs).map (·.info)

/-- UNIT_IDX.IDX of a unit (12 R348). -/
def unitIndex (s : State) (u : UnitRef) : Nat :=
  match u.kind with
  | .array => (s.array u.core).task.elim 0 fun t => t.idx.toNat
  | .lane => (mapGet? u.slot (s.lane u.core).warps).elim 0 fun w => w.idx.toNat

/-! ### Completion of a unit (01 R48) -/

/-- All four counters are zero. -/
def Counters.zero (c : Counters) : Bool := c.ld == 0 && c.st == 0 && c.cp == 0 && c.tl == 0

/-- Every sealed batch of a thread is complete. -/
def Thread.batchesDone (t : Thread) : Bool := t.batch.pend.isEmpty

/-- A workgroup that has no warp and no bin is gone, with what it still holds (01 R18; 10 R286). -/
def releaseGroup (k : LaneCore) (wg : Nat) : LaneCore :=
  if k.warps.any (fun w => w.2.wg == wg) || k.bins.any (fun b => b.2.wg == wg) then k
  else match mapGet? wg k.wgs with
    | none => k
    | some g =>
      { k with wgs := mapErase wg k.wgs, accs := dropPair k g }

/-- The header of a saved context written again with another STATE and its CHECK (18 R433). -/
def setHeaderState (s : State) (addr state : Nat) : State :=
  let old := peek s (s.home addr) 0xFFC
  let body := old.take 6 ++ bytesOfNat 2 state ++ old.drop 8
  hubWrite s (s.home addr) (body ++ bytesOfNat 4 (crc32 body))

/-- A save that has not come to its end is given up: its unit has completed, so there is nothing to save (01 R48, R49). -/
def dropSave (s : State) (c : Nat) : State :=
  (s.hub.saved.filter fun v => !v.done && v.task.isSome && v.from? == c).foldl (fun s v =>
    (setHeaderState s v.addr 4).onHub fun h => { h with saved := h.saved.filter fun x => x.id != v.id }) s

/-- A unit counts as completed. -/
def countDone (s : State) (i : UnitInfo) : State := onUnitLaunch s i fun l => { l with doneUnits := l.doneUnits + 1 }

/-- UNIT_COMPLETE (01 R48): an ended unit whose counters are zero and whose batches are complete; a warp is named by the key
at which it stands since it ended. Units of an isolated chiplet complete no more (18 R438). -/
def execUnitComplete (u : UnitRef) (s : State) : Answer :=
  match u.kind with
  | .array =>
    let k := s.array u.core
    match k.task with
    | none => .next s
    | some t =>
      if !t.ended || !t.cnt.zero || !k.th.batchesDone || k.saving || isFenced s .array u.core then .next s
      else
        let s1 := (upFrom 0 16).foldl (fun s q => dissolve s u.core q) s
        let s2 := s1.setArray u.core
          { s1.array u.core with task := none, tiles := [], queues := [], ops := [], sealing := false }
        let s3 := dropSave ({ s2 with nextId := s2.nextId + 1 }.rename (Agent.leaving .array u.core s2.nextId) id) u.core
        .next (countDone (traceUnit s3 false .array u.core t.info.world t.idx.toNat t.info.launch) t.info)
  | .lane =>
    let k := s.lane u.core
    match mapGet? u.slot k.warps with
    | none => .next s
    | some w =>
      match mapGet? w.wg k.wgs with
      | none => .next s
      | some g =>
        if !w.ended || !w.cnt.zero || !w.threads.all (fun t => t.2.batchesDone) || isFenced s .lane u.core then .next s
        else
          let k1 := releaseGroup { k with warps := mapErase u.slot k.warps } w.wg
          .next (countDone (traceUnit (s.setLane u.core k1) false .lane u.core g.info.world w.idx.toNat g.info.launch) g.info)

/-! ### Bins (01 R29, R30) -/

/-- A bin launches (01 R30): it is full, its timer has passed, or every warp of its workgroup has waited. -/
def binReady (b : Bin) : Bool := b.threads.length == 32 || b.due

/-- BIN_TIMER_EXPIRY (01 R30). -/
def execBinTimerExpiry (core bin : Nat) (s : State) : Answer :=
  let k := s.lane core
  .next (s.setLane core { k with bins := mapUpdate bin (fun b => { b with due := true }) k.bins })

/-- No operation counted. -/
def Counters.none : Counters := { ld := 0, st := 0, cp := 0, tl := 0 }

/-- A warp that starts: its threads in lanes from 0 up (01 R24). -/
def newWarp (threads : Map Thread) (spawned : Bool) (idx wg : Nat) : Warp :=
  { threads := threads, masks := mapSet 0 (groupMask (threads.map (·.1))) [], arrivals := [], cnt := Counters.none,
    spawned := spawned, idx := BitVec.ofNat 32 idx, wg := wg, stop := Option.none, pend := Option.none, aged := [],
    urgent := false }

/-- Threads numbered from lane `l` up, with the spill area of a warp (04 R128). -/
def lanesFrom (idx : Nat) : Nat → List Thread → Map Thread
  | _, [] => []
  | l, t :: rest => (l, { t with spillIndex := idx, spillLane := l }) :: lanesFrom idx (l + 1) rest

/-- BIN_LAUNCH (01 R30, R31; 12 R328): the threads of a bin become a warp in a free slot, once the accesses of their
spawners before the `spawn` are performed. A fenced core starts none (18 R438). -/
def execBinLaunch (core bin slot : Nat) (s : State) : Answer :=
  let k := s.lane core
  match mapGet? bin k.bins with
  | none => .next s
  | some b =>
    match mapGet? b.wg k.wgs with
    | none => .next s
    | some g =>
      let ordered := b.after.all fun i => match findFlight s.flight i with
        | some f => performedAt s.flight 2 f
        | none => k.ops.all fun o => o.id != i
      if isFenced s .lane core || !binReady b || !ordered || 32 ≤ slot || (mapGet? slot k.warps).isSome || k.sealing || k.saving then .next s
      else
        let i := g.info
        let idx := match findLaunch s i.world i.job i.launch with
          | some l => l.binIndex
          | none => 0
        let w := newWarp (lanesFrom idx 0 b.threads) true idx b.wg
        let s1 := s.setLane core { k with warps := mapSet slot w k.warps, bins := mapErase bin k.bins }
        let s2 := onUnitLaunch s1 i fun l => { l with binIndex := l.binIndex + 1, units := l.units + 1 }
        .next (traceUnit s2 true .lane core i.world idx i.launch)

/-! ### Merging (01 R32, R33) -/

/-- The live threads of a warp. -/
def Warp.live (w : Warp) : Map Thread := w.threads.filter fun t => t.2.run != Run.ended

/-- The mask register at which every live thread waits, when that register holds exactly those threads (01 R32). -/
def Warp.gatheredAt (w : Warp) : Option Nat :=
  match w.live with
  | [] => none
  | (_, t) :: _ =>
    match t.run with
    | .atMask n =>
      if w.live.all (fun x => x.2.run == Run.atMask n) && w.mask n == groupMask (w.live.map (·.1)) then some n else none
    | _ => none

/-- A warp may take part in a merge. -/
def mergeable (w : Warp) (thr : Nat) : Bool :=
  w.stop.isNone && w.pend.isNone && w.cnt.zero && decide (w.live.length ≤ thr)
    && w.live.all fun t => t.2.win.spillOff == 0 && !t.2.frozen

/-- The bits of a mask moved to new lanes. -/
def moveBits (pairs : List (Nat × Nat)) (m : BitVec 32) : BitVec 32 :=
  pairs.foldl (fun r p => if m.getLsbD p.1 then r ||| laneBit p.2 else r) 0

/-- The agent of a thread that a merge moves. -/
def moveAgent (core a b : Nat) (pairs : List (Nat × Nat)) (ag : Agent) : Agent :=
  match ag with
  | .lane c w l =>
    if c = core ∧ w = b then
      match pairs.find? fun p => p.1 == l with
      | some p => .lane core a p.2
      | none => ag
    else ag
  | _ => ag

/-- The agent of a thread that has ended in a warp that takes part in a merge: its accesses still on their way are its own, not
those of the thread that gets its lane, or of the warp that gets its slot (06 R152, R160). -/
def endedAgent (core a b key : Nat) (wa wb : Warp) (ag : Agent) : Agent :=
  let dead (w : Warp) (l : Nat) : Bool := match mapGet? l w.threads with
    | some t => t.run == Run.ended
    | none => true
  match ag with
  | .lane c w l => if c = core ∧ ((w = a ∧ dead wa l) ∨ (w = b ∧ dead wb l)) then .gone .lane core (32 * key + w) l else ag
  | _ => ag

/-- The lanes that the live threads of a warp get in another, each with its old one: free lanes in ascending order (01
R33). -/
def mergeLanes (wa wb : Warp) : List (Nat × Nat) :=
  let free := (upFrom 0 32).filter fun l => match mapGet? l wa.threads with
    | none => true
    | some t => t.run == Run.ended
  (wb.live.map (·.1)).zip free

/-- The warp `wa` with the threads of `wb`, both waiting at mask register `n` (01 R33): masks and arrivals are joined and
release is evaluated. -/
def mergedWarp (wa wb : Warp) (n : Nat) : Warp :=
  let pairs := mergeLanes wa wb
  let threads := pairs.foldl (fun (ts : Map Thread) p => match mapGet? p.1 wb.threads with
    | some t => mapSet p.2 t ts
    | none => ts) wa.threads
  let join (f : Warp → Nat → BitVec 32) : Map (BitVec 32) :=
    (upFrom 0 12).map fun i => (i, f wa i ||| moveBits pairs (f wb i))
  evalMask { wa with threads := threads, masks := join Warp.mask, arrivals := join Warp.arrived } n

/-- WARP_MERGE (01 R32, R33): the warp in the higher slot gives its threads to the other. -/
def execWarpMerge (core slotA slotB : Nat) (s : State) : Answer :=
  let a := min slotA slotB
  let b := max slotA slotB
  let k := s.lane core
  match mapGet? a k.warps, mapGet? b k.warps with
  | some wa, some wb =>
    match mapGet? wa.wg k.wgs, wa.gatheredAt, wb.gatheredAt with
    | some g, some n, some m =>
      let thr := g.info.record.mergeThr
      if a = b || wa.wg != wb.wg || thr = 0 || n != m || !mergeable wa thr || !mergeable wb thr
          || 32 < wa.live.length + wb.live.length || k.sealing || k.saving || isFenced s .lane core then .next s
      else
        let s1 := s.setLane core { k with warps := mapErase b (mapSet a (mergedWarp wa wb n) k.warps) }
        let s2 := ({ s1 with nextId := s.nextId + 1 }.rename (endedAgent core a b s.nextId wa wb) id).rename
          (moveAgent core a b (mergeLanes wa wb)) id
        .next (countDone (traceUnit s2 false .lane core g.info.world wb.idx.toNat g.info.launch) g.info)
    | _, _, _ => .next s
  | _, _ => .next s

/-! ### Aged groups (01 R23) -/

/-- ISSUE_GROUP_AGED (01 R23): a group that has been ready for 4,096 cycles is aged. -/
def execIssueGroupAged (core slot lane : Nat) (s : State) : Answer :=
  match runningGroup s core slot lane with
  | none => .next s
  | some (k, w, _, group) =>
    if w.aged.any fun x => group.contains x.2 then .next s
    else .next (s.setLane core
      { k with warps := mapSet slot { w with aged := w.aged ++ [(s.time, group.headD 0)] } k.warps })

/-! ### Deferred errors (01 R57; 18 R424) -/

/-- The causes that an asynchronous engine may report after issue (07 R199). -/
def isDeferred : Cause → Bool
  | .addressRange => true
  | .windowBusy => true
  | .remoteFailed => true
  | .reductionDropped => true
  | .headerIntegrity => true
  | .unsupportedCombination => true
  | .headerMismatch => true
  | .tornTile => true
  | .tileCapacity => true
  | .queueLink => true
  | .chipletIsolated => true
  | _ => false

/-- DEFERRED_FAULT_REPORT (01 R57; 18 R424): an engine of a unit reports an error; the unit does not stop. The
hub takes none from a port that is fenced or silenced (18 R437; 19 R444). -/
def execDeferredFaultReport (u : UnitRef) (cause : Cause) (code : BitVec 16) (addr : BitVec 64) (place : WordPlace)
    (s : State) : Answer :=
  if !isDeferred cause || !hubHears s (portOfCore u.kind u.core) then .next s
  else match u.kind with
    | .array => match (s.array u.core).task with
      | none => .next s
      | some t => .next (deferred s t.info .array u.core t.idx.toNat 0xFF cause code.toNat addr.toNat place.pc.toNat
          (cursorNo place.cur))
    | .lane => match mapGet? u.slot (s.lane u.core).warps, unitInfo s u with
      | some w, some i => .next (deferred s i .lane u.core w.idx.toNat (if u.slot < 32 then u.slot else 0xFF) cause
          code.toNat addr.toNat place.pc.toNat 0xFF)
      | _, _ => .next s

end Sys2Proof.Machine
end

