-- ==== Sys2Proof/Machine/Place.lean ====
section
/-! DEFINITION. Placement of units: eligible cores, the order of launches, reservations, world changes (17 R418), the
initial image of a task (13 R366) and the state in which units start (13 R369, R370). -/

namespace Sys2Proof.Machine

/-! ### Eligible cores (17 R418) -/

/-- A core runs units of a launch, or waits for its next ones. -/
def LaneCore.resident (k : LaneCore) : Bool := !k.warps.isEmpty || !k.wgs.isEmpty || !k.bins.isEmpty

/-- Every asynchronous operation of a core is complete. -/
def coreQuiet (s : State) (kind : CoreKind) (c : Nat) : Bool :=
  let here (a : Agent) : Bool := a.home == some (kind, c)
  !s.flight.any (fun f => here f.agent) && !s.copies.any (fun x => here x.agent)
    && (match kind with
      | .array => (s.array c).ops.isEmpty
      | .lane => (s.lane c).ops.isEmpty)

/-- The world a core serves. -/
def coreWorld (s : State) : CoreKind → Nat → Option Nat
  | .array, c => (s.array c).world
  | .lane, c => (s.lane c).world

/-- A core holds a unit. -/
def coreResident (s : State) : CoreKind → Nat → Bool
  | .array, c => (s.array c).task.isSome
  | .lane, c => (s.lane c).resident

/-- The kind of core that a context was saved from. -/
def Saved.kind (v : Saved) : CoreKind := if v.lane.isSome then .lane else .array

/-- A core serves a world, or may change to it: no resident unit, no operation in flight, no saved context of another
world (17 R418). -/
def worldFits (s : State) (kind : CoreKind) (c w : Nat) : Bool :=
  coreWorld s kind c == some w
    || (!coreResident s kind c && coreQuiet s kind c
        && !s.hub.saved.any fun v => v.from? == c && v.kind == kind && v.world != w)

/-- The chiplet of a core takes units: its port runs (16 R394; 18 R436; 19 R452). -/
def chipletTakes (s : State) (kind : CoreKind) (c : Nat) : Bool := (s.port (portOfCore kind c)).st == PortSt.running

/-- The lowest base at which a scratchpad allocation of a size fits (01 R18). -/
def scratchBase (k : LaneCore) (split size : Nat) : Option Nat :=
  let held := k.wgs.filter fun g => !g.2.released
  let bases := 0 :: held.map fun g => g.2.scrBase + g.2.scrSize
  let fits (b : Nat) : Bool :=
    decide (b + size ≤ scratchOf split) && held.all fun g => !overlaps b size g.2.scrBase g.2.scrSize
  bases.foldl (fun m b => if fits b && (match m with
    | some x => decide (b < x)
    | none => true) then some b else m) none

/-- Free warp slots of a lane core. -/
def freeSlotsOf (k : LaneCore) : List Nat := (upFrom 0 32).filter fun n => (mapGet? n k.warps).isNone

/-- An accumulator pair that no workgroup holds (10 R286). -/
def freePair (k : LaneCore) : Option Nat := (upFrom 0 4).find? fun p => !k.wgs.any fun g => g.2.pair == some p

/-- The variant uses the lane matrix unit (13 R364). -/
def usesMatrix (r : LaunchRec) (code : Nat) : Bool := bit (r.variant code) 40

/-- A lane core has room for a workgroup (01 R18, R28; 04 R126; 10 R286). -/
def laneRoom (k : LaneCore) (r : LaunchRec) (code : Nat) : Bool :=
  !k.sealing && !k.saving && (!k.resident || k.split == some r.split)
    && decide (r.warps ≤ (freeSlotsOf k).length) && decide (r.wgThreads ≤ freeThreads k)
    && (scratchBase k r.split (4096 * r.scratch)).isSome && (!usesMatrix r code || (freePair k).isSome)

/-- A core with room, of a world that a launch can use, apart from reservations. -/
def hasRoom (s : State) (w : Nat) (r : LaunchRec) (code : Nat) (kind : CoreKind) (c : Nat) : Bool :=
  chipletTakes s kind c && worldFits s kind c w
    && (match kind with
      | .array => decide (c < 160) && (s.array c).task.isNone
      | .lane => decide (c < 192) && laneRoom (s.lane c) r code)

/-- The split code that a lane core is reserved for (17 R418). -/
def reservedFor (s : State) (c : Nat) : Option Nat := (s.hub.reserved.find? fun e => e.2 == c).map (·.1)

/-- A reservation allows a launch on a core: only the aged launch of that split, once the core has drained. -/
def reservationAllows (s : State) (l : Launch) (r : LaunchRec) (kind : CoreKind) (c : Nat) : Bool :=
  match kind, reservedFor s c with
  | .lane, some sp => sp == r.split && l.aged.isSome && !(s.lane c).resident
  | _, _ => true

/-- Tasks or workgroups of a launch not yet placed: those lost that may be placed again (18 R439), then the next. -/
def Launch.next (s : State) (l : Launch) : Option Nat :=
  let ready := l.lost.filter fun n => s.hub.ports.all fun p =>
    !p.2.lost.contains (l.world, l.job, l.num, n) || (p.2.iso == IsoSt.redispatching && p.2.redone)
  match ready with
  | n :: rest => some (rest.foldl min n)
  | [] => if l.nextUnit < l.grid then some l.nextUnit else none

/-- A launch is being placed: issued, with units left, not cancelled, not settled (17 R417; 18 R439). -/
def Launch.placing (s : State) (l : Launch) : Bool :=
  l.issued && !l.cancelled && !l.replayRefused && l.rec?.isSome && (l.next s).isSome

/-- The core is eligible for a unit of the launch (17 R418). -/
def eligible (s : State) (l : Launch) (c : Nat) : Bool :=
  match l.rec? with
  | none => false
  | some r =>
    match variantKind (r.variant l.code) with
    | none => false
    | some kind => hasRoom s l.world r l.code kind c && reservationAllows s l r kind c

/-- The kind of core that a launch runs on. -/
def Launch.kind (l : Launch) : Option CoreKind := match l.rec? with
  | some r => variantKind (r.variant l.code)
  | none => none

/-- Launch `m` comes before launch `l`: aged launches first, oldest first; then priority (17 R418). -/
def outranks (m l : Launch) : Bool :=
  match m.aged, l.aged with
  | some a, some b => decide (a < b)
  | some _, none => true
  | none, some _ => false
  | none, none => decide (l.prio < m.prio)

/-- How far a queue stands behind the one that had the latest turn of its priority. -/
def turnOf (s : State) (l : Launch) : Nat :=
  match mapGet? l.prio s.hub.lastQueue with
  | some q => (l.world * 64 + l.queue + 1024 - q - 1) % 1024
  | none => l.world * 64 + l.queue

/-- A saved unit waits to be restored to this core, at a standing that the launch does not exceed (17 R418). -/
def savedFirst (s : State) (l : Launch) (kind : CoreKind) (c : Nat) : Bool :=
  s.hub.saved.any fun v =>
    v.done && v.kind == kind && worldFits s kind c v.world && !coreResident s kind c
      && (match v.task.bind (·.task) with
        | some t => match findLaunch s t.info.world t.info.job t.info.launch with
          | some m => !outranks l m && (v.task.map fun k => k.queues.all fun b => b.2.filling.isNone) == some true
          | none => false
        | none => match v.lane.map (·.wgs) with
          | some ((_, g) :: _) => match findLaunch s g.info.world g.info.job g.info.launch with
            | some m => !outranks l m
            | none => false
          | _ => false)

/-- The launch has the turn for a core (17 R418). -/
def hasTurn (s : State) (l : Launch) (kind : CoreKind) (c : Nat) : Bool :=
  let others := s.hub.launches.filter fun m => m.placing s && m.kind == some kind && eligible s m c
  !savedFirst s l kind c
    && others.all (fun m => !outranks m l)
    && (l.aged.isSome || others.all fun m => m.aged.isSome || m.prio != l.prio || decide (turnOf s l ≤ turnOf s m))

/-! ### World changes -/

/-- A core set to a world (17 R418, R419): a change clears it and is journaled. -/
def setWorld (s : State) (kind : CoreKind) (c w : Nat) : State :=
  if coreWorld s kind c = some w then s
  else
    let s1 := match kind with
      | .array => s.setArray c { ArrayCore.blank with world := some w }
      | .lane => s.setLane c { LaneCore.blank with world := some w }
    let kindNo := match kind with
      | .array => 0
      | .lane => 1
    journal s1 { JRec.blank with kind := 11, world := w, queue := kindNo, units := c }

/-! ### Reading a launch's memory -/

/-- Bytes at virtual addresses of a task of an array core, read page by page; an error names the address. The local aperture
is the task's local store, and is never translated (04 R125); a window holds nothing that a task is started from (log
entry 88). -/
def readVirt (s : State) (c : Nat) (i : UnitInfo) : Nat → Nat → Nat → Except (Cause × Nat) (List Byte)
  | 0, _, _ => .ok []
  | fuel + 1, va, n =>
    if n = 0 then .ok []
    else
      let len := min n (4096 - va % 4096)
      match apertureOff va with
      | some o =>
        if 2 ^ 64 < va + len then .error (.nonCanonical, va)
        else match readVirt s c i fuel (va + len) (n - len) with
          | .error e => .error e
          | .ok rest => .ok (readCore s .array c o len ++ rest)
      | none =>
      match (if isCanonical va then translate s i.world i.priv i.pin .read va else .error .nonCanonical) with
      | .error c => .error (c, va)
      | .ok a => match physTarget s i.world i.priv a with
        | .error c => .error (c, va)
        | .ok (.mem b) => match readVirt s c i fuel (va + len) (n - len) with
          | .error e => .error e
          | .ok rest => .ok (peek s b len ++ rest)
        | .ok _ => .error (.windowAccess, va)

/-- Bytes at a virtual address of a launch. -/
def readLaunch (s : State) (c : Nat) (i : UnitInfo) (va n : Nat) : Except (Cause × Nat) (List Byte) :=
  readVirt s c i (n / 4096 + 2) va n

/-- The entries of a schedule table (01 R45): up to its end mark, or to an address that cannot be read. -/
def scheduleFrom (s : State) (c : Nat) (i : UnitInfo) : Nat → Nat → List Word
  | 0, _ => []
  | fuel + 1, va =>
    match readLaunch s c i va 8 with
    | .error _ => []
    | .ok bs => let e := word (natOfBytes bs); if e = -1 then [] else e :: scheduleFrom s c i fuel (va + 8)

/-- The schedule table of a task (13 R365). -/
def schedule (s : State) (c : Nat) (i : UnitInfo) (idx : Nat) : List Word :=
  let p := i.record.schedPtr.toNat
  if p = 0 then []
  else match readLaunch s c i (p + 8 * idx) 8 with
    | .error _ => []
    | .ok bs => let t := natOfBytes bs; if t = 0 then [] else scheduleFrom s c i (2 ^ 32) t

/-! ### The start of an array task (13 R366, R369) -/

/-- The scalar registers of R369 and R370. -/
def startRegs (r : LaunchRec) (stack five : Word) : Map Word :=
  let put (n : Nat) (v : Word) (m : Map Word) : Map Word := if v = 0 then m else mapSet n v m
  put 2 stack (put 3 r.gotBase (put 4 r.argPtr (put 5 five [])))

/-- A task at its start (13 R369). -/
def startTask (i : UnitInfo) (idx : Nat) (entries : List Word) : Task :=
  let levels := List.replicate 6 Level.blank
  { info := i, idx := BitVec.ofNat 32 idx, cursors := Cursors.at (i.record.entry i.code) 0 (itersOf levels), outq := [],
    outBase := 0, path := [], levels := levels, limits := [], cnt := Counters.none, stop := none, pend := none,
    held := none, entries := entries, shipped := [], asking := none, ended := false, replay := [] }

/-- An array core at the start of a task: the local store and the mailbox stay (13 R369). -/
def startArray (k : ArrayCore) (c : Nat) (t : Task) : ArrayCore :=
  let r := t.info.record
  { ArrayCore.blank with
      task := some t, th := { Thread.blank with regs := startRegs r r.stackBase (t.idx.setWidth 64) },
      srState := srSeed (r.seed ^^^ BitVec.ofNat 16 c), localStore := k.localStore, mailbox := k.mailbox,
      world := k.world }

/-- What goes wrong in the initial image: the cause, the record's code and address, and the cursor whose engine loads it: D
the tiles, Q the queues (18 R423). -/
structure InitError where
  cause : Cause
  code : Nat
  addr : Nat
  cursor : Nat
  deriving DecidableEq, Repr

/-- A tile-table record applied (13 R366). -/
def applyRecord (s : State) (c : Nat) (i : UnitInfo) (bs : List Byte) : State × Option InitError :=
  let hdr := natOfBytes (bs.take 32)
  let field (o n : Nat) : Nat := natOfBytes ((bs.drop o).take n)
  let n := field 40 2
  if 4095 < n then (s, some { cause := .handleRange, code := 0, addr := 0, cursor := 3 })
  else
    let x := { TileEntry.blank with lsoff := align128 (field 32 4), cap := align128 (field 36 4) }
    let s1 := onTile s .array c 0 n fun _ => x
    if hdr = 0 then (s1, none)
    else match readLaunch s c i (field 48 8) (hdrOf hdr).tlen with
      | .error (cause, va) => (s1, some { cause := cause, code := 0, addr := va, cursor := 3 })
      | .ok img =>
        let s2 := writeStorage s1 .array c x.lsoff.toNat (img.take (0x8000000 - x.lsoff.toNat))
        match judgeHdr (arrayTiles s2 c) x hdr with
        | (_, some cause) => (s2, some { cause := cause, code := 0, addr := 0, cursor := 3 })
        | (y, none) => (onTile s2 .array c 0 n fun _ => y, none)

/-- The records of the initial image, in order. -/
def applyRecords (c : Nat) (i : UnitInfo) : Nat → Nat → State → State × Option InitError
  | 0, _, s => (s, none)
  | n + 1, va, s =>
    match readLaunch s c i va 64 with
    | .error (cause, a) => (s, some { cause := cause, code := 0, addr := a, cursor := 3 })
    | .ok bs => match applyRecord s c i bs with
      | (s1, some e) => (s1, some e)
      | (s1, none) => applyRecords c i n (va + 64) s1

/-- The queues of the initial image, in ascending order (13 R366; 11 R310). -/
def applyQueues (c : Nat) (i : UnitInfo) : List Nat → Nat → State → State × Option InitError
  | [], _, s => (s, none)
  | q :: rest, va, s =>
    match readLaunch s c i va 16 with
    | .error (cause, a) => (s, some { cause := cause, code := 0, addr := a, cursor := 4 })
    | .ok bs =>
      let d := qdescOf (natOfBytes bs)
      if !bindable s c q d then (s, some { cause := .illegalOperand, code := 0, addr := 0, cursor := 4 })
      else if !channelReady s d then (s, some { cause := .peerUnreachable, code := q, addr := 0, cursor := 4 })
      else applyQueues c i rest (va + 16) (bindQueue s c q (if i.record.qbDir.getLsbD q then .receive else .send) d)

/-- The initial image of a task (13 R366); a fault is deferred and the task is discarded. -/
def applyImage (s : State) (c : Nat) (i : UnitInfo) (idx : Nat) : State :=
  let r := i.record
  let qs := (upFrom 0 16).filter fun q => r.qbMask.getLsbD q
  let (s1, e1) := applyRecords c i r.ttCount r.initPtr.toNat s
  let (s2, e2) := match e1 with
    | some e => (s1, some e)
    | none => applyQueues c i qs (r.initPtr.toNat + 64 * r.ttCount) s1
  match e2 with
  | none => s2
  | some e =>
    discardTask (countFault (deferred s2 i .array c idx 0xFF e.cause e.code e.addr 0 e.cursor) i idx) c

/-- A task placed on an array core (13 R369); its schedule table is read whole here (log entry 87: DESIGN CHOICE). -/
def placeTask (s : State) (i : UnitInfo) (c n : Nat) : State :=
  let s1 := s.setArray c (startArray (s.array c) c (startTask i n (schedule s c i n)))
  applyImage (traceUnit s1 true .array c i.world n i.launch) c i n

/-! ### The start of a workgroup (13 R370) -/

/-- A lane thread at its start. -/
def startThread (i : UnitInfo) (idx lane : Nat) : Thread :=
  let r := i.record
  let stack := if r.stackSize = 0 then 0 else r.stackBase + word (r.stackSize * (32 * idx + lane + 1))
  { Thread.blank with
      pc := r.entry i.code, regs := startRegs r stack (word (idx * 32 + lane)), spillIndex := idx, spillLane := lane }

/-- The warps of a workgroup in free slots (01 R17, R18). -/
def startWarps (i : UnitInfo) (c wg idx threads : Nat) : List Nat → State → State
  | [], s => s
  | slot :: rest, s =>
    if threads = 0 then s
    else
      let n := min 32 threads
      let w := newWarp ((upFrom 0 n).map fun l => (l, startThread i idx l)) false idx wg
      let k := s.lane c
      let s1 := traceUnit (s.setLane c { k with warps := mapSet slot w k.warps }) true .lane c i.world idx i.launch
      startWarps i c wg (idx + 1) (threads - n) rest s1

/-- A number for a new workgroup of a core. -/
def freeGroup (k : LaneCore) : Nat := ((upFrom 0 (k.wgs.length + 1)).find? fun n => (mapGet? n k.wgs).isNone).getD 0

/-- A warp of the launch is resident on the core (02 R78): also one that has ended while its operations are outstanding (log
entry 103). -/
def launchOnCore (k : LaneCore) (i : UnitInfo) : Bool :=
  k.warps.any fun w => match mapGet? w.2.wg k.wgs with
    | some g => sameLaunch g.info i
    | none => false

/-- The generator of a lane core as a placement of a launch leaves it (02 R78). -/
def seedLane (k : LaneCore) (c : Nat) (i : UnitInfo) : BitVec 16 :=
  if launchOnCore k i then k.srState else srSeed (i.record.seed ^^^ BitVec.ofNat 16 (0x8000 + c))

/-- A workgroup placed whole on a lane core (01 R18; 13 R370): its tile table starts empty. -/
def placeGroup (s : State) (i : UnitInfo) (c n : Nat) : State :=
  let r := i.record
  let k := s.lane c
  let size := 4096 * r.scratch
  let base := (scratchBase k r.split size).getD 0
  let first := n * r.warps
  let wg := freeGroup k
  let g : Workgroup :=
    { info := i, scrBase := base, scrSize := size, tiles := [], first := first,
      pair := if usesMatrix r i.code then freePair k else none, released := false }
  let k1 := { k with split := some r.split, srState := seedLane k c i, wgs := mapSet wg g k.wgs, shadow := [], accs := dropPair k g,
                     scratch := k.scratch.filter fun x => !(decide (base ≤ x.1) && decide (x.1 < base + 4096)) }
  startWarps i c wg first r.wgThreads (freeSlotsOf k) (s.setLane c k1)

/-! ### PLACE_UNIT -/

/-- What a launch fixes for its units (12 R348). -/
def Launch.info (l : Launch) (r : LaunchRec) : UnitInfo :=
  { world := l.world, job := l.job, launch := l.num, priv := r.priv, launchId := word (l.job * 2 ^ 32 + l.num),
    code := l.code, record := r, pin := l.pin }

/-- A port that has placed every lost unit again is idle (18 R436). -/
def settlePort (p : Port) : Port :=
  if p.iso == IsoSt.redispatching && p.redone && p.lost.isEmpty then { p with iso := .idle, redone := false } else p

/-- ISO_STAT.STATE (18 R435). -/
def isoNo : IsoSt → Nat
  | .idle => 0
  | .fencing => 1
  | .cleaning => 2
  | .resetting => 3
  | .retraining => 4
  | .redispatching => 5
  | .out => 6

/-- The trace of the isolation state that a port enters (22 R493). -/
def traceIso (s : State) (p : Nat) (st : IsoSt) : State := trace s 24 0x18 5 0xFFFF p (isoNo st) 0

/-- A lost unit has been placed again, or is not to be. -/
def dropLost (s : State) (f : Nat × Nat × Nat × Nat → Bool) : State :=
  let put (p : Port) : Port := settlePort { p with lost := p.lost.filter fun x => !f x }
  let s1 := s.onHub fun h => { h with ports := mapAll (fun _ p => put p) h.ports }
  (s.hub.ports.filter fun p => (put p.2).iso != p.2.iso).foldl (fun s p => traceIso s p.1 (put p.2).iso) s1

/-- The launch after one unit has been placed, at a time in ns. -/
def placedOne (n now : Nat) (l : Launch) : Launch :=
  { l with placedAt := now, lost := l.lost.filter fun m => m != n, nextUnit := if n = l.nextUnit then n + 1 else l.nextUnit, aged := none }

/-- A gated chiplet starts to wake when a unit is placed on it (19 R452). -/
def wakeFor (s : State) (kind : CoreKind) (c : Nat) : State :=
  let p := portOfCore kind c
  if (s.port p).pstate = 0 then s else s.setPort p { s.port p with waking := true }

/-- Reservations kept only for splits that an aged launch still waits for (17 R418). -/
def cleanReserved (s : State) : State :=
  let wanted (sp : Nat) : Bool := s.hub.launches.any fun l =>
    l.aged.isSome && l.placing s && (match l.rec? with
      | some r => r.split == sp
      | none => false)
  s.onHub fun h => { h with reserved := h.reserved.filter fun e => wanted e.1 }

/-- PLACE_UNIT (17 R418): the launch's next task or workgroup goes to an eligible core. -/
def execPlaceUnit (w job launch core : Nat) (s : State) : Answer :=
  match findLaunch s w job launch with
  | none => .next s
  | some l =>
    match l.rec?, l.kind, l.next s with
    | some r, some kind, some n =>
      if !l.placing s || !eligible s l core || !hasTurn s l kind core then .next s
      else
        let i := l.info r
        let s1 := wakeFor (setWorld s kind core w) kind core
        let s2 := cleanReserved (s1.onLaunch w job launch (placedOne n (s.time / 65536)))
        let s3 := s2.onHub fun h => { h with
          lastQueue := mapSet l.prio (w * 64 + l.queue) h.lastQueue,
          reserved := h.reserved.filter fun e => !(decide (kind = .lane) && e.2 == core) }
        let s4 := dropLost s3 fun x => x == (w, job, launch, n)
        .next (match kind with
          | .array => placeTask s4 i core n
          | .lane => placeGroup s4 i core n)
    | _, _, _ => .next s

/-- LAUNCH_AGED (17 R418): the launch has units left and has placed none for 1 ms. When every core it could use runs
another split, the core of its world with the fewest warps is reserved. -/
def execLaunchAged (w job launch : Nat) (s : State) : Answer :=
  match findLaunch s w job launch with
  | none => .next s
  | some l =>
    if !l.placing s || l.aged.isSome || s.time / 65536 < l.placedAt + 1000000 then .next s
    else
      let s1 := s.onLaunch w job launch fun l => { l with aged := some s.time }
      match l.kind, l.rec? with
      | some .lane, some r =>
        let usable := (upFrom 0 192).filter fun c => chipletTakes s .lane c && worldFits s .lane c w && (reservedFor s c).isNone
        let own := usable.filter fun c => coreWorld s .lane c == some w
        if (mapGet? r.split s.hub.reserved).isSome || usable.any (fun c => !(s.lane c).resident || (s.lane c).split == some r.split)
        then .next s1
        else match own with
          | [] => .next s1
          | c :: rest =>
            let best := rest.foldl (fun m d => if (s.lane d).slotted.length < (s.lane m).slotted.length then d else m) c
            .next (s1.onHub fun h => { h with reserved := mapSet r.split best h.reserved })
      | _, _ => .next s1

end Sys2Proof.Machine
end

