-- ==== Sys2Proof/Machine/CoreWindow.lean ====
section
/-! DEFINITION. The windows of array and lane cores (04 R115 to R120; 12 R346): their parts as 8-byte cells, reads and
writes of bytes. -/

namespace Sys2Proof.Machine

/-! ### Cells of an array core (04 R116) -/

/-- A number with its 64 bits or fewer replaced when they fit a map whose default is 0. -/
def putOrDrop {α : Type} [DecidableEq α] (zero : α) (k : Nat) (v : α) (m : Map α) : Map α :=
  if v = zero then mapErase k m else mapSet k v m

/-- An accumulator element (02 R60, 04 R116). -/
def accCell (accs : Map Acc) (n i : Nat) : Nat := (mapGet 0 (mapGet Acc.blank accs n).elems i).toNat

/-- An accumulator element written: bits [63:56] are ignored (02 R60). -/
def setAccCell (accs : Map Acc) (n i v : Nat) : Map Acc :=
  let a := mapGet Acc.blank accs n
  mapSet n { a with elems := putOrDrop 0 i (BitVec.ofNat 56 v) a.elems } accs

/-- Cell `o` of the vector registers: two lanes. -/
def vecCell (k : ArrayCore) (o : Nat) : Nat :=
  (mapGet 0 k.vregs (2 * o)).toNat + 2 ^ 32 * (mapGet 0 k.vregs (2 * o + 1)).toNat

/-- Two lanes of a vector register written. -/
def setVecCell (k : ArrayCore) (o v : Nat) : ArrayCore :=
  { k with vregs := putOrDrop 0 (2 * o + 1) (BitVec.ofNat 32 (v / 2 ^ 32)) (putOrDrop 0 (2 * o) (BitVec.ofNat 32 v) k.vregs) }

/-- Cell `o` of the predicates: half of one. -/
def predCell (k : ArrayCore) (o : Nat) : Nat := bits (k.pred (o / 2)).toNat (64 * (o % 2)) 64

/-- Half of a predicate written. -/
def setPredCell (k : ArrayCore) (o v : Nat) : ArrayCore :=
  { k with preds := mapSet (o / 2) (BitVec.ofNat 128 (setBits (k.pred (o / 2)).toNat (64 * (o % 2)) 64 v)) k.preds }

/-- A system register of an array core through its window (12 R346); one that has no address reads 0. -/
def arraySysCell (s : State) (c n : Nat) : Nat :=
  let k := s.array c
  let t := k.task
  let fromTask (f : Task → Word) : Nat := match t with
    | some t => (f t).toNat
    | none => 0
  match n with
  | 0x000 => k.th.fpstat.toNat
  | 0x001 => fromTask fun t => opsPend t.cnt
  | 0x002 => (dbatch k.th.batch).toNat
  | 0x003 => fromTask fun t => word (t.info.world + 256 * ofBool t.info.priv)
  | 0x004 => (coreNum s .array c).toNat
  | 0x005 => fromTask fun t => t.info.launchId
  | 0x006 => fromTask fun t => t.idx.setWidth 64
  | 0x007 => s.time / 65536
  | 0x009 => k.srState.toNat
  | 0x00A => k.mailbox.length
  | 0x010 => (estat k.th).toNat
  | 0x011 => k.th.epc.toNat
  | 0x012 => k.th.eval.toNat
  | 0x013 => k.th.evec.toNat
  | 0x100 => (curWin k).toNat
  | 0x101 => k.rotBase
  | 0x102 => fromTask fun t => lstatOf (itersOf t.levels)
  | n =>
    if 0x103 ≤ n ∧ n < 0x109 then fromTask fun t => literOf (itersOf t.levels) (n - 0x103)
    else if 0x110 ≤ n ∧ n < 0x120 then (qstate s c (n - 0x110)).toNat
    else 0

/-- ESTAT written through a window. -/
def Thread.setEstat (t : Thread) (v : Nat) : Thread :=
  { t with estatCause := BitVec.ofNat 8 (v / 256), inHandler := bit v 0 }

/-- The counters that OPS_PEND shows, written. -/
def countersOf (v : Nat) : Counters := { ld := bits v 0 6, st := bits v 8 6, cp := bits v 16 6, tl := bits v 24 6 }

/-- A level's iteration state written. -/
def putLevel (t : Task) (n : Nat) (f : Level → Level) : Task :=
  let levels := setNth (f (nth Level.blank t.levels n)) t.levels n
  { t with levels := levels, cursors := t.cursors.all fun x => { x with iters := itersOf levels } }

/-- The stored fields of a binding that QSTATE shows, written. -/
def Binding.ofQstate (b : Binding) (v : Nat) : Binding :=
  { b with peerMod := bits v 50 14, peerCore := bits v 42 8, peerQ := bits v 38 4, chan := bits v 30 8, pool := bits v 23 7,
           credit := bits v 16 7, xoff := bit v 3, paired := bit v 2,
           dir := if bits v 0 2 = 1 then .send else if bits v 0 2 = 2 then .receive else .unbound }

/-- A system register of an array core written through its window (12 R346): stored RO and RW fields take the value;
fields that are counted elsewhere do not. -/
def setArraySys (s : State) (c n v : Nat) : State :=
  let k := s.array c
  let onTask (f : Task → Task) : State := s.setArray c { k with task := k.task.map f }
  let onTh (f : Thread → Thread) : State := s.setArray c { k with th := f k.th }
  match n with
  | 0x000 => onTh fun t => { t with fpstat := writeFpstat t.fpstat (word v) }
  | 0x001 => onTask fun t => { t with cnt := countersOf v }
  | 0x002 => onTh fun t => { t with batch := { t.batch with last := v % 2 ^ 16 } }
  | 0x003 => onTask fun t => { t with info := { t.info with world := v % 16, priv := bit v 8 } }
  | 0x005 => onTask fun t => { t with info := { t.info with launchId := word v } }
  | 0x006 => onTask fun t => { t with idx := BitVec.ofNat 32 v }
  | 0x009 => s.setArray c { k with srState := srSeed (BitVec.ofNat 16 v) }
  | 0x010 => onTh fun t => t.setEstat v
  | 0x011 => onTh fun t => { t with epc := word v &&& ~~~3 }
  | 0x012 => onTh fun t => { t with eval := word v }
  | 0x013 => onTh fun t => { t with evec := word v &&& ~~~3 }
  | 0x100 => s.setArray c { k with limit := clampLimit v }
  | 0x101 =>
    let b := v % 32
    s.setArray c { k with rotBase := b,
                          task := k.task.map fun t => { t with cursors := t.cursors.all fun x => { x with base := b } } }
  | 0x102 => onTask fun t => (upFrom 0 6).foldl (fun t n => putLevel t n fun l => { l with active := bit v n }) t
  | n =>
    if 0x103 ≤ n ∧ n < 0x109 then onTask fun t => putLevel t (n - 0x103) fun l => { l with trip := v / 2 ^ 32, iter := v % 2 ^ 32 }
    else if 0x110 ≤ n ∧ n < 0x120 then onQueue s c (n - 0x110) fun b => b.ofQstate v
    else s

/-! ### Cells of a lane core (04 R117) -/

/-- A thread of a lane core by warp slot and lane. -/
def laneThread (s : State) (c i : Nat) : Option Thread :=
  (mapGet? (i / 32) (s.lane c).warps).bind fun w => mapGet? (i % 32) w.threads

/-- A thread of a lane core changed. -/
def onLaneThread (s : State) (c i : Nat) (f : Thread → Thread) : State := onThread s (.lane c (i / 32) (i % 32)) f

/-- A warp of a lane core changed. -/
def onWarp (s : State) (c w : Nat) (f : Warp → Warp) : State :=
  let k := s.lane c
  s.setLane c { k with warps := mapUpdate w f k.warps }

/-- Cell `o` of a per-warp block (04 R117). -/
def warpCell (s : State) (c w o : Nat) : Nat :=
  match mapGet? w (s.lane c).warps with
  | none => 0
  | some x =>
    let thread (l : Nat) (f : Thread → Nat) : Nat := match mapGet? l x.threads with
      | some t => f t
      | none => 0
    if o < 12 then (x.mask o).toNat
    else if 0x20 ≤ o ∧ o < 0x40 then thread (o - 0x20) fun t => t.preds.toNat
    else if 0x40 ≤ o ∧ o < 0x60 then thread (o - 0x40) fun t => t.fpstat.toNat
    else if o = 0x81 then (opsPend x.cnt).toNat
    else 0

/-- A cell of a per-warp block written. -/
def setWarpCell (s : State) (c w o v : Nat) : State :=
  if o < 12 then onWarp s c w fun x => { x with masks := mapSet o (BitVec.ofNat 32 v) x.masks }
  else if 0x20 ≤ o ∧ o < 0x40 then onLaneThread s c (32 * w + (o - 0x20)) fun t => { t with preds := BitVec.ofNat 8 v }
  else if 0x40 ≤ o ∧ o < 0x60 then
    onLaneThread s c (32 * w + (o - 0x40)) fun t => { t with fpstat := writeFpstat t.fpstat (word v) }
  else if o = 0x81 then onWarp s c w fun x => { x with cnt := countersOf v }
  else s

/-- A core system register of a lane core through its window. -/
def laneSysCell (s : State) (c n : Nat) : Nat :=
  let k := s.lane c
  match n with
  | 0x004 => (coreNum s .lane c).toNat
  | 0x007 => s.time / 65536
  | 0x009 => k.srState.toNat
  | 0x00A => k.mailbox.length
  | 0x203 => (lsplit k).toNat
  | 0x207 => (binstat k).toNat
  | _ => 0

/-- A core system register of a lane core written through its window. -/
def setLaneSys (s : State) (c n v : Nat) : State :=
  let k := s.lane c
  match n with
  | 0x009 => s.setLane c { k with srState := srSeed (BitVec.ofNat 16 v) }
  | 0x203 => s.setLane c { k with split := some (v % 8) }
  | _ => s

/-! ### Cells of a window part -/

/-- Registers of a window part as hardware shows them, by 8-byte cell; parts that hold bytes have none. -/
def hardCell (s : State) (p : WinPart) (o : Nat) : Nat :=
  match p with
  | .arrayAcc c _ => accCell (s.array c).accs (o / 0x4000) (o % 0x4000)
  | .arrayVec c _ => vecCell (s.array c) o
  | .arrayScalar c _ => ((s.array c).th.preg o).toNat
  | .arrayPred c _ => predCell (s.array c) o
  | .arrayHandle c _ => ((s.array c).th.handle o).toNat
  | .arraySys c _ => arraySysCell s c o
  | .laneStack c _ => match laneThread s c (o / 128) with
    | some t => if o % 128 < 32 + ringOf (s.lane c).code then (t.preg (o % 128)).toNat else 0
    | none => 0
  | .laneWarp c w _ => warpCell s c w o
  | .laneSys c _ => laneSysCell s c o
  | .laneHandle c _ => match laneThread s c (o / 32) with
    | some t => (t.handle (o % 32)).toNat
    | none => 0
  | _ => 0

/-- What hardware stores of a cell of a window part written. -/
def setHardCell (s : State) (p : WinPart) (o v : Nat) : State :=
  let onArray (c : Nat) (f : ArrayCore → ArrayCore) : State := s.setArray c (f (s.array c))
  match p with
  | .arrayAcc c _ => onArray c fun k => { k with accs := setAccCell k.accs (o / 0x4000) (o % 0x4000) v }
  | .arrayVec c _ => onArray c fun k => setVecCell k o v
  | .arrayScalar c _ => onArray c fun k => { k with th := k.th.setPreg o (word v) }
  | .arrayPred c _ => onArray c fun k => setPredCell k o v
  | .arrayHandle c _ => onArray c fun k => { k with th := k.th.setHandle o (word v) }
  | .arraySys c _ => setArraySys s c o v
  | .laneStack c _ =>
    if o % 128 < 32 + ringOf (s.lane c).code then onLaneThread s c (o / 128) fun t => t.setPreg (o % 128) (word v) else s
  | .laneWarp c w _ => setWarpCell s c w o v
  | .laneSys c _ => setLaneSys s c o v
  | .laneHandle c _ => onLaneThread s c (o / 32) fun t => t.setHandle (o % 32) (word v)
  | _ => s

/-- The fields of a cell that hardware shows and does not store: of registers of threads, warps and tasks that are not there,
and of those that show other state (12 R346). -/
def cellMask (s : State) (p : WinPart) (o : Nat) : Nat :=
  let absent (b : Bool) (m : Nat) : Nat := if b then m else 0
  match p with
  | .arraySys c _ =>
    if 0x110 ≤ o ∧ o < 0x120 then qstateMask ((s.array c).queue (o - 0x110)) else arrayMask (s.array c) o
  | .laneStack c _ =>
    absent ((laneThread s c (o / 128)).isNone && decide (o % 128 < 32 + ringOf (s.lane c).code)) 0xFFFFFFFFFFFFFFFF
  | .laneWarp c w _ =>
    let w? := mapGet? w (s.lane c).warps
    if o < 12 then absent w?.isNone 0xFFFFFFFF
    else if 0x20 ≤ o ∧ o < 0x40 then absent (laneThread s c (32 * w + (o - 0x20))).isNone 0xFF
    else if 0x40 ≤ o ∧ o < 0x60 then absent (laneThread s c (32 * w + (o - 0x40))).isNone 7
    else if o = 0x81 then absent w?.isNone 0x3F3F3F3F
    else 0
  | .laneSys _ _ => laneMask o
  | .laneHandle c _ => absent (laneThread s c (o / 32)).isNone 0xFFFFFFFFFFFFFFFF
  | _ => 0

/-- The place of a cell among those of its core's window. -/
def shadowKey (p : WinPart) (o : Nat) : Nat :=
  match p with
  | .laneWarp _ w _ => 0x30000 + 0x200 * w + o
  | .laneSys _ _ => laneSysBase + o
  | .laneHandle _ _ => 0x36000 + o
  | _ => o

/-- The cells of a core written over what hardware shows. -/
def shadowOf (s : State) (p : WinPart) : Map (Word × Word) :=
  match p.owner with
  | some (.array, c) => (s.array c).shadow
  | some (.lane, c) => (s.lane c).shadow
  | none => []

/-- The same replaced. -/
def setShadow (s : State) (p : WinPart) (m : Map (Word × Word)) : State :=
  match p.owner with
  | some (.array, c) => s.setArray c { s.array c with shadow := m }
  | some (.lane, c) => s.setLane c { s.lane c with shadow := m }
  | none => s

/-- Registers of a window part as they read, by 8-byte cell (04 R119). -/
def winCell (s : State) (p : WinPart) (o : Nat) : Nat :=
  (shadowed (shadowOf s p) (shadowKey p o) (cellMask s p o) (word (hardCell s p o))).toNat

/-- A cell of a window part written (04 R119): hardware stores what it holds, and what it shows beside is kept. -/
def setWinCell (s : State) (p : WinPart) (o v : Nat) : State :=
  let s1 := setHardCell s p o v
  if cellMask s1 p o = 0 then s1
  else setShadow s1 p (mapSet (shadowKey p o) (word (hardCell s1 p o), word v) (shadowOf s1 p))

/-- A cell shows an FPSTAT, whose flags a 1 clears (02 R79). -/
def isFpstatCell (p : WinPart) (o : Nat) : Bool :=
  match p with
  | .arraySys _ _ => o == 0
  | .laneWarp _ _ _ => decide (0x40 ≤ o) && decide (o < 0x60)
  | _ => false

/-- What a write of some bytes of a cell leaves in the others: no 1 in a flag that a 1 clears (00 R10). -/
def unwritten (s : State) (p : WinPart) (o : Nat) : Nat :=
  let v := winCell s p o
  if isFpstatCell p o then setBits v 8 6 0 else v

/-- The offset of an access in its window part. -/
def WinPart.off : WinPart → Nat
  | .arrayStore _ o => o
  | .arrayTile _ e o => 64 * e + o
  | .arrayAcc _ o => o
  | .arrayVec _ o => o
  | .arrayScalar _ o => o
  | .arrayPred _ o => o
  | .arrayHandle _ o => o
  | .arraySys _ o => o
  | .laneStack _ o => o
  | .laneScratch _ o => o
  | .laneWarp _ _ o => o
  | .laneSys _ o => o
  | .laneHandle _ o => o
  | .hub o => o
  | .link _ o => o

/-- Bytes of cells from an offset. -/
def cellBytes (get : Nat → Nat) (off n : Nat) : List Byte :=
  (upFrom off n).map fun o => BitVec.ofNat 8 (get (o / 8) / 256 ^ (o % 8))

/-- Cells that bytes at an offset touch, written one by one. -/
def patchCells (get : State → Nat → Nat) (set : State → Nat → Nat → State) (off : Nat) (bs : List Byte) (s : State) : State :=
  if bs = [] then s
  else (upFrom (off / 8) ((off + bs.length - 1) / 8 + 1 - off / 8)).foldl
    (fun s o => set s o (patch (get s o) 8 (8 * o) off bs)) s

/-- The bytes of a core's window part (04 R116, R117, R119). -/
def coreWinRead (s : State) (p : WinPart) (n : Nat) : List Byte :=
  match p with
  | .arrayStore c o => readCore s .array c o n
  | .arrayTile c e o => let t := arrayTiles s c; (upFrom (64 * e + o) n).map (tableByte t)
  | .laneScratch c o =>
    let keep := scratchOf (s.lane c).code - o
    readCore s .lane c o (min n keep) ++ List.replicate (n - keep) 0
  | p => cellBytes (winCell s p) p.off n

/-- Bytes written to a core's window part (04 R116, R117, R120). -/
def coreWinWrite (s : State) (p : WinPart) (bs : List Byte) : CoreWrite :=
  match p with
  | .arrayStore c o => writeCore s .array c o bs
  | .arrayTile c e o =>
    writeEntries .array c 0 (64 * e + o) bs ((64 * e + o + bs.length - 1) / 64 + 1 - e) e { state := s, faults := [], waits := false }
  | .laneScratch c o => writeCore s .lane c o (bs.take (scratchOf (s.lane c).code - o))
  | p => { state := patchCells (fun s o => unwritten s p o) (fun s o v => setWinCell s p o v) p.off bs s, faults := [],
           waits := false }

/-- TILE_ENTRY_WINDOW_WRITE (04 R120): a privileged agent of world 0 writes bytes of a tile-table entry of an array
core through its window. A write that must wait leaves everything as it is. -/
def execTileEntryWindowWrite (core entry off : Nat) (bytes : List (BitVec 8)) (s : State) : Answer :=
  if 160 ≤ core || 4096 ≤ entry || 64 < off + bytes.length || bytes.isEmpty then .next s
  else if isFenced s .array core then .next { s with reply := some [word (causeCode .windowBusy)] }
  else
    let r := coreWinWrite s (.arrayTile core entry off) bytes
    if r.waits then .next s else .next { r.state with reply := some (r.faults.map fun c => word (causeCode c)) }

end Sys2Proof.Machine
end

