-- ==== Sys2Proof/Machine/Save.lean ====
section
/-! DEFINITION. Stopped units and their commands (18 R427, R428), pre-emption: saving and restoring a context (01 R54 to
R56; 05 R144 to R146; 18 R432 to R434; 19 R449). -/

namespace Sys2Proof.Machine

/-! ### The selected unit (18 R427) -/

/-- UNIT_SEL names a unit. -/
def selectedUnit (s : State) : UnitRef :=
  let v := s.hub.unitSel.toNat
  { kind := if bit v 16 then .lane else .array, core := bits v 8 8, slot := bits v 0 5 }

/-- UNIT_STAT.STATE of a unit: 0 none, 1 running, 2 stopped, 3 saving. -/
def unitState (s : State) (u : UnitRef) : Nat :=
  let st (stop saving : Bool) : Nat := if saving then 3 else if stop then 2 else 1
  match u.kind with
  | .array => let k := s.array u.core; match k.task with
    | none => 0
    | some t => st t.stop.isSome k.saving
  | .lane => let k := s.lane u.core; match mapGet? u.slot k.warps with
    | none => 0
    | some w => st w.stop.isSome k.saving

/-- The stop of a unit. -/
def unitStop (s : State) (u : UnitRef) : Option Stop :=
  match u.kind with
  | .array => (s.array u.core).task.bind (·.stop)
  | .lane => (mapGet? u.slot (s.lane u.core).warps).bind (·.stop)

/-- UNIT_STAT (18 R427). -/
def unitStat (s : State) : Word :=
  let u := selectedUnit s
  let cause := match unitStop s u with
    | some x => causeCode x.cause
    | none => 0
  word (cause * 256 + ofBool s.hub.unitErr * 8 + unitState s u)

/-- A refused unit command (18 R428). -/
def refuseUnit (s : State) : State := s.onHub fun h => { h with unitErr := true }

/-- A command on the selected unit when it is stopped; no command reaches a fenced chiplet (18 R437). -/
def onStopped (s : State) (f : State → UnitRef → State) : Answer :=
  let u := selectedUnit s
  if unitState s u = 2 ∧ !isFenced s u.kind u.core then .next (f s u) else .next (refuseUnit s)

/-- UNIT_RESUME (18 R428): the unit goes on from its stop point. -/
def execUnitResume (s : State) : Answer :=
  onStopped s fun s u => match u.kind with
    | .array => let k := s.array u.core; s.setArray u.core { k with task := k.task.map fun t => { t with stop := none } }
    | .lane => onWarp s u.core u.slot fun w => { w with stop := none }

/-- An array task restarted at an address with no outcome and no active level (18 R428); its steps count from 0 again (log
entry 90). -/
def redirectTask (k : ArrayCore) (pc : Word) (t : Task) : Task :=
  let ls := t.levels.map Level.close
  { t with cursors := Cursors.at pc k.rotBase (itersOf ls), outq := [], outBase := 0, path := [], levels := ls,
           limits := [], stop := none, replay := [] }

/-- UNIT_REDIRECT (18 R428): the unit restarts at UNIT_PC. -/
def execUnitRedirect (s : State) : Answer :=
  onStopped s fun s u => match u.kind with
    | .array =>
      let k := s.array u.core
      s.setArray u.core { k with task := k.task.map (redirectTask k s.hub.unitPc) }
    | .lane => onWarp s u.core u.slot fun w =>
      let lanes := match w.stop with
        | some x => x.lanes
        | none => []
      { w with stop := none,
               threads := mapAll (fun l t => if lanes.contains l then { t with pc := s.hub.unitPc } else t) w.threads }

/-- UNIT_DISCARD (18 R428): the unit is discarded and counts as faulted. -/
def execUnitDiscard (s : State) : Answer :=
  onStopped s fun s u => match unitInfo s u with
    | some i => discardUnit (countFault s i (unitIndex s u)) u
    | none => s

/-! ### The context area (18 R433, R434) -/

/-- A launch that a context's header names: of the task, or of the lowest occupied slot. -/
def Saved.info (v : Saved) : Option UnitInfo :=
  match v.task, v.lane with
  | some k, _ => k.task.map (·.info)
  | _, some k => match k.warps with
    | (_, w) :: _ => (mapGet? w.wg k.wgs).map (·.info)
    | [] => none
  | _, _ => none

/-- The UNIT field of a header. -/
def Saved.unit (v : Saved) : Nat :=
  match v.task, v.lane with
  | some k, _ => match k.task with
    | some t => t.idx.toNat
    | none => 0
  | _, some k => k.warps.length
  | _, _ => 0

/-- Sections: number, offset in the area, and length. -/
abbrev Sections := List (Nat × Nat × Nat)

/-- The bytes of a header (18 R433). -/
def headerBytes (v : Saved) (state time : Nat) (ss : Sections) (checked : Bool) : List Byte :=
  let kindNo := match v.kind with
    | .array => 0
    | .lane => 1
  let i := v.info
  let launch := match i with
    | some i => i.launch
    | none => 0
  let job := match i with
    | some i => i.job
    | none => 0
  let size := ss.foldl (fun n x => max n (x.2.1 + roundUp x.2.2 4096)) 4096
  let sect := (upFrom 0 16).flatMap fun n => match ss.find? fun x => x.1 == n with
    | some x => bytesOfNat 8 x.2.1 ++ bytesOfNat 8 x.2.2
    | none => bytesOfNat 16 0
  let head := bytesOfNat 4 0x01585443 ++ bytesOfNat 1 kindNo ++ bytesOfNat 1 v.world ++ bytesOfNat 2 state
    ++ bytesOfNat 4 launch ++ bytesOfNat 4 job ++ bytesOfNat 4 v.unit ++ bytesOfNat 4 0 ++ bytesOfNat 8 size
    ++ bytesOfNat 8 time ++ bytesOfNat 24 0 ++ sect
  let body := padTo 0xFFC head
  body ++ bytesOfNat 4 (if checked then crc32 body else 0)

/-- The local store up to the highest byte written since the task started, rounded up to 4 KiB (18 R434). -/
def storeUsed (k : ArrayCore) : Nat := roundUp k.top 4096

/-- The section table of a context laid out from offset 4 KiB on. -/
def layout (lens : List (Nat × Nat)) : Sections :=
  (lens.foldl (fun (acc : Sections × Nat) x => (acc.1 ++ [(x.1, acc.2, x.2)], acc.2 + roundUp x.2 4096)) ([], 4096)).1

/-- The section lengths of a context. -/
def sectionLens (v : Saved) : List (Nat × Nat) :=
  match v.task, v.lane with
  | some k, _ => [(0, storeUsed k), (1, 0x40000), (2, 0x100000 + 64), (3, 0x8300), (4, 0x10000), (15, 12)]
  | _, some k => [(0, scratchOf k.code), (1, 0x100000), (2, 0x20000), (3, 0x50000), (4, 0x100000 + 64), (15, 12)]
  | _, _ => []

/-- A part of a core's window that a section shows: where it starts in the section, its cells, and the part at a
cell. -/
structure Shown where
  sect : Nat
  start : Nat
  cells : Nat
  part : WinPart

/-- The parts of a core that sections 1 to 4 show (18 R434). -/
def shownParts (kind : CoreKind) (c : Nat) : List Shown :=
  match kind with
  | .array =>
    [⟨2, 0, 0x20000, .arrayAcc c 0⟩, ⟨3, 0, 0x1000, .arrayVec c 0⟩, ⟨3, 0x8000, 0x20, .arrayScalar c 0⟩,
     ⟨3, 0x8100, 0x20, .arrayPred c 0⟩, ⟨3, 0x8200, 0x20, .arrayHandle c 0⟩, ⟨4, 0, 0x2000, .arraySys c 0⟩]
  | .lane =>
    [⟨1, 0, 0x20000, .laneStack c 0⟩, ⟨3, 0, 0x2000, .laneSys c 0⟩, ⟨3, 0x10000, 0x8000, .laneHandle c 0⟩]
      ++ (upFrom 0 32).map fun w => ⟨2, 0x1000 * w, 0x200, .laneWarp c w 0⟩

/-- Cell `n` of the extents and poison bits of eight accumulators, which follow their elements. -/
def extentCell (accs : Map Acc) (n : Nat) : Nat :=
  let a := mapGet Acc.blank accs n
  let e := match a.extent with
    | some (r, c) => 1 + r * 2 ^ 16 + c * 2 ^ 32
    | none => 0
  e + ofBool a.poison * 2 ^ 8

/-- Extent and poison of an accumulator loaded from its cell. -/
def setExtentCell (accs : Map Acc) (n v : Nat) : Map Acc :=
  if v = extentCell accs n then accs
  else mapSet n { mapGet Acc.blank accs n with
    extent := if bit v 0 then some (bits v 16 16, bits v 32 16) else none, poison := bit v 8 } accs

/-- The accumulators of a core. -/
def coreAccs (s : State) : CoreKind → Nat → Map Acc
  | .array, c => (s.array c).accs
  | .lane, c => (s.lane c).accs

/-- The accumulators of a core replaced. -/
def setCoreAccs (s : State) (kind : CoreKind) (c : Nat) (m : Map Acc) : State :=
  match kind with
  | .array => s.setArray c { s.array c with accs := m }
  | .lane => s.setLane c { s.lane c with accs := m }

/-- The offset of a section in the area. -/
def sectAt (ss : Sections) (n : Nat) : Nat := ((ss.find? fun x => x.1 == n).map (·.2.1)).getD 0

/-- Cells written at an address, those that are zero left as cleared memory. -/
def writeCells (get : Nat → Nat) (a n : Nat) (m : Memory) : Memory :=
  (upFrom 0 n).foldl (fun m o => let v := get o; if v = 0 then m else writeNat m (a + 8 * o) 8 v) m

/-- Section 15: a layout private to the hub, with its check code (18 R434). -/
def privateBytes (v : Saved) : List Byte := let b := bytesOfNat 8 v.id; b ++ bytesOfNat 4 (crc32 b)

/-- The bytes of a context's area (18 R433). -/
def areaSize (v : Saved) : Nat := (layout (sectionLens v)).foldl (fun n x => max n (x.2.1 + roundUp x.2.2 4096)) 4096

/-- The sections of a core's context written at a domain address (18 R434): the core stands in the state. -/
def writeSections (s : State) (v : Saved) (kind : CoreKind) (c : Nat) : State :=
  let a := s.home v.addr
  let ss := layout (sectionLens v)
  let size := areaSize v
  let s1 := dropCopies (flushMerge s a size) a size
  let m0 := s1.mem.filter fun x => !(decide (a + 4096 ≤ x.1) && decide (x.1 < a + size))
  let accSect := match kind with
    | .array => 2
    | .lane => 4
  let m1 := (shownParts kind c).foldl
    (fun m p => writeCells (fun o => winCell s p.part o) (a + sectAt ss p.sect + p.start) p.cells m) m0
  let m2 := writeCells (extentCell (coreAccs s kind c)) (a + sectAt ss accSect + 0x100000) 8 m1
  let m3 := match kind with
    | .array =>
      let k := s.array c
      let m := writeBytes m2 (a + sectAt ss 0) (readBytes k.localStore 0 (storeUsed k))
      k.tiles.foldl (fun m e => writeBytes m (a + sectAt ss 1 + 64 * e.1) e.2.bytes) m
    | .lane =>
      let m := writeBytes m2 (a + sectAt ss 0) (readCore s .lane c 0 (scratchOf (s.lane c).code))
      writeCells (fun o => accCell (s.lane c).accs (o / 0x4000) (o % 0x4000)) (a + sectAt ss 4) 0x20000 m
  { s1 with mem := writeBytes m3 (a + sectAt ss 15) (privateBytes v) }

/-! ### SAVE (18 R432) -/

/-- A context that is being saved from a core. -/
def savingHere (s : State) (kind : CoreKind) (c : Nat) : Bool :=
  match kind with
  | .array => (s.array c).sealing
  | .lane => (s.lane c).sealing

/-- The core sealed for a save, or no longer. -/
def setSealing (s : State) (kind : CoreKind) (c : Nat) (sealing saving : Bool) : State :=
  match kind with
  | .array => s.setArray c { s.array c with sealing := sealing, saving := saving }
  | .lane => s.setLane c { s.lane c with sealing := sealing, saving := saving }

/-- A context of the units now on a core. -/
def contextOf (s : State) (id addr : Nat) (kind : CoreKind) (c : Nat) (done : Bool) : Saved :=
  { id := id, addr := addr, world := (coreWorld s kind c).getD 0,
    task := (match kind with | .array => some (s.array c) | .lane => none),
    lane := (match kind with | .array => none | .lane => some (s.lane c)), from? := c, done := done }

/-- A core holds units that run or are stopped: on a lane core in whatever slots (18 R428). -/
def mayBeSaved (s : State) (u : UnitRef) : Bool :=
  match u.kind with
  | .array => unitState s u == 1 || unitState s u == 2
  | .lane => !(s.lane u.core).saving && !(s.lane u.core).slotted.isEmpty

/-- UNIT_SAVE (18 R428, R432): the area's header takes STATE 1 and the core is sealed for the save. -/
def execUnitSave (s : State) : Answer :=
  let u := selectedUnit s
  let addr := s.hub.unitCtx.toNat
  if !mayBeSaved s u || savingHere s u.kind u.core || !isCoherent addr || isReserved s addr || !chipletTakes s u.kind u.core then
    .next (refuseUnit s)
  else
    let v := contextOf s s.nextId addr u.kind u.core false
    let s1 := { s with nextId := s.nextId + 1 }.onHub fun h => { h with saved := h.saved ++ [v] }
    let s2 := hubWrite s1 (s.home addr) (headerBytes v 1 0 [] false)
    .next (setSealing s2 u.kind u.core true false)

/-- Operations of a task drained for a save (01 R55; 05 R145): only sends and markers remain. -/
def taskDrained (s : State) (c : Nat) : Bool :=
  let k := s.array c
  match k.task with
  | none => true
  | some t =>
    t.cnt.ld == 0 && t.cnt.st == 0 && t.cnt.cp == 0 && k.ops.all fun o => match o.kind with
      | .send _ _ => true
      | .mark _ => true
      | _ => false

/-- Operations of a lane core's warps drained for a save; those that have ended are complete. -/
def laneDrained (s : State) (c : Nat) : Bool :=
  let k := s.lane c
  k.ops.isEmpty && k.warps.all fun w => w.2.cnt.zero && decide (w.1 < 32)

/-- Draining tiles that the link chiplet has not taken are parked, their entries ready (05 R145); those parked before stay
first. -/
def parkTiles (k : ArrayCore) : ArrayCore :=
  k.queues.foldl (fun (k : ArrayCore) b =>
    if b.2.dir == Dir.send then
      ((b.2.parked ++ b.2.fifo).foldl (fun (k : ArrayCore) e => k.onTile e fun x => { x with st := .ready }) k).onQueue b.1 fun b =>
        { b with parked := b.parked ++ b.fifo, fifo := [] }
    else k) k

/-- The core emptied by a save (18 R432 step 5); storage and mailbox stay with the core's world. -/
def emptyCore (s : State) (kind : CoreKind) (c : Nat) : State :=
  match kind with
  | .array =>
    let k := s.array c
    s.setArray c { ArrayCore.blank with localStore := k.localStore, mailbox := k.mailbox, world := k.world }
  | .lane =>
    let k := s.lane c
    s.setLane c { LaneCore.blank with scratch := k.scratch, mailbox := k.mailbox, world := k.world, split := k.split,
                                      srState := k.srState }

/-- The core as its context holds it. -/
def prepareCore (s : State) (kind : CoreKind) (c : Nat) : State :=
  match kind with
  | .array =>
    let k := parkTiles (s.array c)
    s.setArray c { k with sealing := false, saving := false, task := k.task.map fun t => { t with asking := none } }
  | .lane => s.setLane c { s.lane c with sealing := false, saving := false }

/-- A context is gone from the list. -/
def forgetSaved (s : State) (id : Nat) : State := s.onHub fun h => { h with saved := h.saved.filter fun v => v.id != id }

/-! ### Saved contexts of cancelled launches (01 R49; 18 R434) -/

/-- The launch of a unit has been cancelled. -/
def isCancelled (s : State) (i : UnitInfo) : Bool :=
  match findLaunch s i.world i.job i.launch with
  | some l => l.cancelled
  | none => false

/-- A lane core without the warps, bins, workgroups and accumulators of some launches (01 R49; 10 R286). -/
def dropUnits (k : LaneCore) (gone : UnitInfo → Bool) : LaneCore :=
  let wgs := k.wgs.filter fun g => !gone g.2.info
  let here (wg : Nat) : Bool := (mapGet? wg wgs).isSome
  let freed (n : Nat) : Bool := k.wgs.any fun g => gone g.2.info && g.2.pair == some (n / 2)
  { k with wgs := wgs, accs := k.accs.filter fun a => !freed a.1, warps := k.warps.filter fun w => here w.2.wg, bins := k.bins.filter fun b => here b.2.wg }

/-- A saved context without the units of cancelled launches; one with none left takes STATE 4 and is gone. -/
def pruneOne (s : State) (v : Saved) : State :=
  if !v.done then s
  else match v.task, v.lane with
    | some k, _ => match k.task with
      | some t => if isCancelled s t.info then forgetSaved (setHeaderState s v.addr 4) v.id else s
      | none => s
    | _, some k =>
      let k1 := dropUnits k (isCancelled s)
      if k1.wgs.isEmpty then forgetSaved (setHeaderState s v.addr 4) v.id
      else s.onHub fun h => { h with saved := h.saved.map fun x => if x.id = v.id then { v with lane := some k1 } else x }
    | _, _ => s

/-- Saved contexts rid of cancelled units (01 R49). -/
def pruneSaved (s : State) : State := s.hub.saved.foldl pruneOne s

/-- SAVE_COMPLETE (18 R432): issue stops; once the core has drained, its sections and header are written and the core
is empty. On an isolated chiplet no save completes (18 R438, R440). -/
def execSaveComplete (kind : CoreKind) (core : Nat) (s : State) : Answer :=
  if !savingHere s kind core || isFenced s kind core then .next s
  else
    let s0 := setSealing s kind core true true
    let drained := match kind with
      | .array => taskDrained s0 core
      | .lane => laneDrained s0 core
    match s.hub.saved.find? fun v => !v.done && v.kind == kind && v.from? == core with
    | none => .next s0
    | some old =>
      let s1 := prepareCore s0 kind core
      let v := contextOf s1 old.id old.addr kind core true
      if !drained || busyRange s0 (s0.home v.addr) (areaSize v) then .next s0
      else
        let s2 := writeSections s1 v kind core
        let s3 := hubWrite s2 (s.home v.addr) (headerBytes v 2 (s.time / 65536) (layout (sectionLens v)) true)
        let s4 := s3.onHub fun h => { h with saved := h.saved.map fun x => if x.id = v.id then v else x }
        .next (pruneSaved (emptyCore (s4.rename (Agent.leaving kind core v.id) id) kind core))

/-! ### Restore (01 R56; 18 R432, R434) -/

/-- A header in memory is sound and says saved (18 R433, R434). -/
def headerSound (s : State) (v : Saved) : Bool :=
  let bs := peek s (s.home v.addr) 4096
  let word4 (o n : Nat) : Nat := natOfBytes ((bs.drop o).take n)
  word4 0 4 == 0x01585443 && word4 6 2 == 2 && word4 0xFFC 4 == crc32 (bs.take 0xFFC)

/-- Section 15 in memory is sound. -/
def privateSound (s : State) (v : Saved) : Bool :=
  peek s (s.home v.addr + sectAt (layout (sectionLens v)) 15) 12 == privateBytes v

/-- Cells of memory loaded where they differ from what the core holds. -/
def loadCells (a n : Nat) (get : State → Nat → Nat) (set : State → Nat → Nat → State) (s : State) : State :=
  (upFrom 0 n).foldl (fun s o => let v := peekNat s (a + 8 * o) 8; if v = get s o then s else set s o v) s

/-- The entry that 64 bytes hold (03 R95). -/
def entryOfBytes (n : Nat) : TileEntry :=
  let st := bits n 320 2
  { hdr := BitVec.ofNat 256 n, lsoff := align128 (bits n 256 32), cap := align128 (bits n 288 32),
    st := if st = 0 then .empty else if st = 1 then .filling else if st = 2 then .ready else .draining,
    qheld := bit n 322, qidx := bits n 323 4, readers := bits n 336 8 }

/-- A cell loaded from a context: hardware takes what it holds, and the flags of an FPSTAT as they are. -/
def loadCell (s : State) (p : WinPart) (o v : Nat) : State :=
  match p with
  | .arraySys c _ =>
    if o = 0 then s.setArray c { s.array c with th := { (s.array c).th with fpstat := word v &&& 0x3F07 } } else setHardCell s p o v
  | .laneWarp c w _ =>
    if isFpstatCell p o then onLaneThread s c (32 * w + (o - 0x40)) fun t => { t with fpstat := word v &&& 0x3F07 }
    else setHardCell s p o v
  | _ => setHardCell s p o v

/-- The sections of an area loaded into the core that stands in the state (18 R434): bytes that were changed load as
they are. -/
def loadSections (s : State) (v : Saved) (kind : CoreKind) (c : Nat) : State :=
  let a := s.home v.addr
  let ss := layout (sectionLens v)
  let accSect := match kind with
    | .array => 2
    | .lane => 4
  let s1 := (shownParts kind c).foldl
    (fun s p => loadCells (a + sectAt ss p.sect + p.start) p.cells (fun s o => hardCell s p.part o)
      (fun s o x => loadCell s p.part o x) s) s
  let s2 := loadCells (a + sectAt ss accSect + 0x100000) 8 (fun s o => extentCell (coreAccs s kind c) o)
    (fun s o x => setCoreAccs s kind c (setExtentCell (coreAccs s kind c) o x)) s1
  match kind with
  | .array =>
    let k := s2.array c
    let n := storeUsed k
    let store := k.localStore.filter (fun x => decide (n ≤ x.1))
    let s3 := s2.setArray c { k with localStore := writeBytes store 0 (peek s2 (a + sectAt ss 0) n) }
    (upFrom 0 4096).foldl (fun s e =>
      let x := entryOfBytes (peekNat s (a + sectAt ss 1 + 64 * e) 64)
      if x = mapGet TileEntry.blank (s.array c).tiles e then s else onTile s .array c 0 e fun _ => x) s3
  | .lane =>
    let n := scratchOf (s2.lane c).code
    let s3 := if peek s2 (a + sectAt ss 0) n == readCore s2 .lane c 0 n then s2
      else (writeCore s2 .lane c 0 (peek s2 (a + sectAt ss 0) n)).state
    loadCells (a + sectAt ss 4) 0x20000 (fun s o => accCell (s.lane c).accs (o / 0x4000) (o % 0x4000))
      (fun s o x => s.setLane c { s.lane c with accs := setAccCell (s.lane c).accs (o / 0x4000) (o % 0x4000) x }) s3

/-- The generator of a lane core after the restored warps, in the order of their slots (02 R78; log entry
103). -/
def reseed (k : LaneCore) (c : Nat) : BitVec 16 :=
  (k.warps.foldl (fun (acc : BitVec 16 × List UnitInfo) w => match mapGet? w.2.wg k.wgs with
    | some g =>
      if acc.2.any (sameLaunch g.info) then acc
      else (srSeed (g.info.record.seed ^^^ BitVec.ofNat 16 (0x8000 + c)), g.info :: acc.2)
    | none => acc) (k.srState, [])).1

/-- The units of a context. -/
def Saved.units (v : Saved) : List (UnitInfo × Nat × Nat) :=
  match v.task, v.lane with
  | some k, _ => match k.task with
    | some t => [(t.info, t.idx.toNat, 0xFF)]
    | none => []
  | _, some k => k.warps.filterMap fun w => (mapGet? w.2.wg k.wgs).map fun g => (g.info, w.2.idx.toNat, w.1)
  | _, _ => []

/-- A class 5 record: a unit lost (18 R424, R438). -/
def lostReport (s : State) (kind : CoreKind) (c : Nat) (x : UnitInfo × Nat × Nat) : State :=
  report s (unitReport x.1 kind c x.2.1 x.2.2 0xFF .chipletIsolated 5 0 0 0)

/-- A context whose header or section 15 is not sound: its units are discarded (18 R434); a class 5 record sets no status of
the launch (18 R424). -/
def failRestore (s : State) (v : Saved) (core : Nat) : State :=
  let s1 := v.units.foldl (fun s x => countDone (lostReport s v.kind core x) x.1) s
  forgetSaved (setHeaderState s1 v.addr 4) v.id

/-- The context's units stand on a core again: parked tiles drain, a lane core's generator is seeded, pending stops are
taken. -/
def resumeCore (s : State) (v : Saved) (c : Nat) : State :=
  match v.kind with
  | .array =>
    let k := s.array c
    let k1 := k.queues.foldl (fun (k : ArrayCore) b =>
      b.2.parked.foldl (fun (k : ArrayCore) e => k.onTile e fun x => { x with st := .draining }) k) k
    let s1 := s.setArray c k1
    match k1.task.bind (·.pend) with
    | some p => arrayTrap s1 c p
    | none => s1
  | .lane =>
    let k := s.lane c
    let s1 := s.setLane c { k with srState := reseed k c }
    k.warps.foldl (fun s w => match w.2.pend with
      | some p => laneTrap s c w.1 p
      | none => s) s1

/-- A restore of a context to a core is allowed and has the turn (17 R418; 05 R144). -/
def mayRestore (s : State) (v : Saved) (c : Nat) : Bool :=
  let fits := decide (c < (match v.kind with | .array => 160 | .lane => 192))
  let arriving := match v.task with
    | some k => k.queues.any fun b => b.2.filling.isSome
    | none => false
  let first := match v.info.bind fun i => findLaunch s i.world i.job i.launch with
    | some l => s.hub.launches.all fun m =>
        !(m.placing s && m.kind == some v.kind && eligible s m c && outranks m l)
    | none => true
  v.done && fits && chipletTakes s v.kind c && !coreResident s v.kind c && !savingHere s v.kind c
    && worldFits s v.kind c v.world && !arriving && first

/-- UNIT_RESTORE (01 R56; 18 R432, R434): a saved context goes to a core of its kind and world. -/
def execUnitRestore (ctx core : Nat) (s : State) : Answer :=
  match s.hub.saved.find? fun v => v.id == ctx with
  | none => .next s
  | some v =>
    if !mayRestore s v core then .next s
    else if !headerSound s v || !privateSound s v then .next (failRestore s v core)
    else
      let s1 := wakeFor (setWorld s v.kind core v.world) v.kind core
      let s2 := match v.task, v.lane with
        | some k, _ =>
          let here := s1.array core
          s1.setArray core { k with localStore := here.localStore, mailbox := here.mailbox, world := some v.world }
        | _, some k => s1.setLane core { k with mailbox := (s1.lane core).mailbox, world := some v.world }
        | _, _ => s1
      let s3 := s2.rename (Agent.returning core v.id) id
      .next (setHeaderState (forgetSaved (resumeCore (loadSections s3 v v.kind core) v core) v.id) v.addr 3)

end Sys2Proof.Machine
end

