-- ==== Sys2Proof/Machine/Sequence.lean ====
section
/-! DEFINITION. The dispatch sequencer (17 R409 to R422): doorbells, acceptance, issue, completion of launches, graphs,
phases and jobs, cancel, and the journal's acknowledgement. -/

namespace Sys2Proof.Machine

/-! ### Queues (17 R409) -/

/-- A dispatch queue at reset. -/
def DQueue.blank : DQueue :=
  { base := 0, size := 4, maxPrio := 0, lock := false, pause := false, en := false, wptr := 0, rptr := 0, overrun := false,
    full := false, records := [] }

/-- Queue (w, q). -/
def State.dq (s : State) (w q : Nat) : DQueue := mapGet DQueue.blank s.hub.queues (64 * w + q)

/-- The state with queue (w, q) replaced. -/
def State.setDq (s : State) (w q : Nat) (x : DQueue) : State :=
  s.onHub fun h => { h with queues := mapSet (64 * w + q) x h.queues }

/-- DQ_ENABLE (17 R409): EN written; LOCK is set with it, and clears with it, since no packet is mid-acceptance between
two steps. -/
def execDqEnable (w q : Nat) (en : Bool) (s : State) : Answer :=
  if 16 ≤ w || 64 ≤ q then .next s else .next (s.setDq w q { s.dq w q with en := en, lock := en })

/-! ### Packets (17 R410) -/

/-- A dispatch packet. -/
structure Packet where
  type : Nat
  code : Nat
  world : Nat
  prio : Nat
  flags : Nat
  record : Nat
  gx : Nat
  gy : Nat
  gz : Nat
  launch : Nat
  job : Nat
  graph : Nat
  phase : Nat
  dep0 : Nat
  dep1 : Nat
  resv : Nat
  wbind : Nat
  flag : Nat
  deriving DecidableEq, Repr

/-- The fields of a packet's 64 bytes. -/
def packetOf (bs : List Byte) : Packet :=
  let f (o n : Nat) : Nat := natOfBytes ((bs.drop o).take n)
  { type := f 0 1, code := f 1 1, world := f 2 1, prio := f 3 1, flags := f 4 4, record := f 8 8, gx := f 0x10 4,
    gy := f 0x14 2, gz := f 0x16 2, launch := f 0x18 4, job := f 0x1C 4, graph := f 0x20 2, phase := f 0x22 2,
    dep0 := f 0x24 4, dep1 := f 0x28 4, resv := f 0x2C 4, wbind := f 0x30 8, flag := f 0x38 8 }

/-- LAUNCH. -/
def Packet.isLaunch (p : Packet) : Bool := p.type == 1
/-- EDGE. -/
def Packet.isEdge (p : Packet) : Bool := p.type == 2
/-- PHASE_END. -/
def Packet.isPhaseEnd (p : Packet) : Bool := p.type == 3
/-- JOB_END. -/
def Packet.isJobEnd (p : Packet) : Bool := p.type == 4

/-- Reserved bits, and fields that the type does not use, are zero (17 R410). -/
def Packet.clean (p : Packet) : Bool :=
  let known := decide (1 ≤ p.type) && decide (p.type ≤ 4)
  let bits0 := decide (p.code < 4) && decide (p.world < 16) && decide (p.prio < 4) && decide (p.flags < 2) && p.resv == 0
  let launchOnly := p.code == 0 && p.prio == 0 && p.flags == 0 && p.record == 0 && p.gx == 0 && p.gy == 0 && p.gz == 0
    && p.wbind == 0
  let member := p.launch == 0 && p.graph == 0 && p.dep0 == 0 && p.dep1 == 0
  known && bits0 && (p.isLaunch || launchOnly) && (!p.isEdge || p.flag == 0)
    && (!(p.isPhaseEnd || p.isJobEnd) || member) && (!p.isJobEnd || p.phase == 0)

/-- Where a launch record stands; none where RECORD refuses it (17 R413). -/
def recordAt (s : State) (w va : Nat) : Option Nat :=
  if va % 256 ≠ 0 ∨ !isCanonical va then none
  else match translate s w true none .read va with
    | .error _ => none
    | .ok a => if moduleOf a = s.module && isCoherent (localOf a) && !isReserved s (localOf a) then some a else none

/-- The packet in the slot of an index. -/
def packetAt (s : State) (x : DQueue) (i : Nat) : Packet := packetOf (peek s (s.home (x.base + 64 * (i % 2 ^ x.size))) 64)

/-- A submitted LAUNCH packet has its record as it stands now: a later write of it is not seen (13 R368; log entry 91). -/
def keepRecord (s : State) (x : DQueue) (m : Map (Nat × List Byte)) (i : Nat) : Map (Nat × List Byte) :=
  let p := packetAt s x i
  if !p.isLaunch then mapErase i m
  else match recordAt s p.world p.record with
    | none => mapErase i m
    | some a => mapSet i (a, peek s a 256) m

/-- A queue whose WPTR is written, with the records of the packets submitted by it. -/
def DQueue.submit (s : State) (x : DQueue) (wptr : Nat) : DQueue :=
  let had := (x.wptr + 2 ^ 32 - x.rptr) % 2 ^ 32
  let has := (wptr + 2 ^ 32 - x.rptr) % 2 ^ 32
  { x with wptr := wptr,
           records := (upFrom had (has - had)).foldl (fun m i => keepRecord s x m ((x.rptr + i) % 2 ^ 32)) x.records }

/-- DQ_DOORBELL (17 R409): a write of DQ_WPTR submits packets; one beyond RPTR + 2^SIZE is ignored and sets OVER. -/
def execDqDoorbell (w q : Nat) (v : BitVec 64) (s : State) : Answer :=
  let x := s.dq w q
  let n := v.toNat % 2 ^ 32
  if 16 ≤ w || 64 ≤ q then .next s
  else if 2 ^ x.size < (n + 2 ^ 32 - x.rptr) % 2 ^ 32 then .next (s.setDq w q { x with overrun := true })
  else .next (s.setDq w q (x.submit s n))

/-- A job of a world. -/
def findJob (s : State) (w job : Nat) : Option Job := s.hub.jobs.find? fun j => j.world == w && j.num == job

/-- A launch number that the job has accepted. -/
def Job.launchNo (j : Job) (n : Nat) : Option LaunchNo := j.nums.find? fun x => x.num == n

/-- Checks 5 to 7 of 17 R411 on a packet of a job already known. -/
def jobReason (j : Job) (p : Packet) : Nat :=
  let named := p.isLaunch || p.isEdge
  let badDep (d : Nat) : Bool := d != 0 && (match j.launchNo d with
    | none => true
    | some x => x.phase != p.phase || x.graph != p.graph)
  if named && (j.launchNo p.launch).isSome then 5
  else if named && (badDep p.dep0 || badDep p.dep1) then 6
  else if j.ended || (!p.isJobEnd && j.phases.any fun x => x.ended && decide (p.phase ≤ x.num))
      || (named && j.graphs.any fun g => g.phase == p.phase && g.num == p.graph && g.ended) then 7
  else 0

/-- The reason for which a packet is refused, or 0 (17 R411). -/
def refusal (s : State) (w : Nat) (x : DQueue) (p : Packet) : Nat :=
  let named := p.isLaunch || p.isEdge
  let grid := p.gx * p.gy * p.gz
  let job := match (s.hub.jobs ++ s.hub.closed).find? fun j => j.world == w && j.num == p.job with
    | some j => jobReason j p
    | none => if named && (p.dep0 != 0 || p.dep1 != 0) then 6 else 0
  let flagBad := p.flag != 0 && (p.flag % 8 != 0 || !isCanonical p.flag || (match translate s w true none .write p.flag with
    | .ok _ => false
    | .error _ => true))
  if !p.clean then 1
  else if p.world ≠ w then 2
  else if x.maxPrio < p.prio then 3
  else if p.isLaunch && (grid == 0 || decide (2 ^ 32 - 1 < grid)) then 4
  else if named && p.launch == 0 then 5
  else if job ≠ 0 then job
  else if flagBad then 8
  else 0

/-! ### Tables (17 R412) -/

/-- Jobs, phases and graphs that have not completed. -/
def liveCounts (s : State) : Nat × Nat × Nat :=
  s.hub.jobs.foldl (fun (acc : Nat × Nat × Nat) j =>
    (acc.1 + 1, acc.2.1 + (j.phases.filter fun p => p.done.isNone).length,
     acc.2.2 + (j.graphs.filter fun g => g.done.isNone).length)) (0, 0, 0)

/-- The entries that a packet needs are free (17 R412). -/
def tableRoom (s : State) (w : Nat) (p : Packet) : Bool :=
  let (jobs, phases, graphs) := liveCounts s
  let j := findJob s w p.job
  let newPhase := (p.isLaunch || p.isPhaseEnd) && (match j with
    | some j => !j.phases.any fun x => x.num == p.phase
    | none => true)
  let newGraph := p.isLaunch && (match j with
    | some j => !j.graphs.any fun g => g.phase == p.phase && g.num == p.graph
    | none => true)
  decide (jobs + ofBool j.isNone ≤ 64) && decide (phases + ofBool newPhase ≤ 256)
    && decide (graphs + ofBool newGraph ≤ 1024) && decide (s.hub.launches.length + ofBool p.isLaunch ≤ 4096)

/-- A job at its first packet. -/
def Job.blank (w job : Nat) : Job :=
  { world := w, num := job, ended := false, flag := 0, err := false, cancelled := false, phases := [], graphs := [],
    nums := [], edges := [] }

/-- The job of a packet, made when it is new; what came ahead of it takes effect (17 R416, R422). -/
def openJob (s : State) (w job : Nat) : State :=
  match findJob s w job with
  | some _ => s
  | none =>
    let j := { Job.blank w job with cancelled := s.hub.ahead.contains (w, job, true), err := s.hub.ahead.contains (w, job, false) }
    s.onHub fun h => { h with jobs := h.jobs ++ [j], ahead := h.ahead.filter fun x => !(x.1 == w && x.2.1 == job) }

/-- A job with a phase of a number. -/
def Job.openPhase (j : Job) (n : Nat) : Job :=
  if j.phases.any fun x => x.num == n then j
  else { j with phases := j.phases ++ [{ num := n, ended := false, flag := 0, cancelled := j.cancelled, done := none }] }

/-- A job with a graph of a phase. -/
def Job.openGraph (j : Job) (phase n : Nat) : Job :=
  if j.graphs.any fun g => g.phase == phase && g.num == n then j
  else
    let c := j.cancelled || j.phases.any fun x => x.num == phase && x.cancelled
    { j with graphs := j.graphs ++ [{ phase := phase, num := n, ended := false, cancelled := c, done := none }] }

/-- A launch as its packet gives it (17 R410), with the record that was kept for it. -/
def launchOf (q : Nat) (was : Option (Nat × List Byte)) (p : Packet) (deps : List Nat) (cancelled : Bool) : Launch :=
  { world := p.world, queue := q, job := p.job, graph := p.graph, phase := p.phase, num := p.launch, prio := p.prio,
    code := p.code, recordVa := p.record, recordWas := was, grid := p.gx * p.gy * p.gz, wbind := word p.wbind, flag := p.flag, deps := deps,
    issued := false, rec? := none, units := p.gx * p.gy * p.gz, nextUnit := 0, doneUnits := 0, faulted := [],
    binIndex := 0, aged := none, placedAt := 0, err := false, cancelled := cancelled, replayRefused := false, pin := none, lost := [] }

/-- The predecessors that DEP fields name. -/
def Packet.deps (p : Packet) : List Nat := [p.dep0, p.dep1].filter fun d => d != 0

/-- An accepted packet entered in the tables (17 R410, R417). -/
def applyPacket (s : State) (q : Nat) (was : Option (Nat × List Byte)) (p : Packet) : State :=
  let s1 := openJob s p.world p.job
  if p.isJobEnd then s1.onJob p.world p.job fun j => { j with ended := true, flag := p.flag }
  else if p.isPhaseEnd then
    s1.onJob p.world p.job fun j =>
      let j1 := j.openPhase p.phase
      { j1 with phases := j1.phases.map fun x => if x.num = p.phase then { x with ended := true, flag := p.flag } else x }
  else if p.isEdge then
    s1.onJob p.world p.job fun j => { j with edges := j.edges ++ p.deps.map fun d => (p.launch, d) }
  else
    let s2 := s1.onJob p.world p.job fun j =>
      let j1 := (j.openPhase p.phase).openGraph p.phase p.graph
      { j1 with
          nums := j1.nums ++ [{ num := p.launch, phase := p.phase, graph := p.graph, done := none }],
          graphs := j1.graphs.map fun g =>
            if g.phase = p.phase ∧ g.num = p.graph ∧ p.flags = 1 then { g with ended := true } else g }
    match findJob s2 p.world p.job with
    | none => s2
    | some j =>
      let extra := (j.edges.filter fun e => e.1 == p.launch).map (·.2)
      let c := j.graphs.any fun g => g.phase == p.phase && g.num == p.graph && g.cancelled
      s2.onHub fun h => { h with launches := h.launches ++ [launchOf q was p (p.deps ++ extra) c] }

/-! ### Completion (17 R414 to R416) -/

/-- The value of a completion flag (17 R415). -/
def flagValue (st : Status) (seq : Nat) : Nat := statusCode st * 2 ^ 56 + seq

/-- A launch completes: its record, its flag, its trace, and its pin and table entry released (17 R414 to R416, R419;
22 R488). The journal has room. -/
def finishLaunch (s : State) (l : Launch) (st : Status) : State :=
  let seq := s.hub.jHead
  let r := { JRec.blank with kind := 4, status := statusCode st, world := l.world, launch := l.num, job := l.job,
                             graph := l.graph, phase := l.phase, units := l.faulted.length, flag := l.flag,
                             reason := if st = .refused then 9 else 0 }
  let s1 := writeFlag (journal s r) (l.graph, l.phase) l.world l.job l.num l.flag (flagValue st seq) false
  let s2 := trace s1 24 0x0B 2 0xFFFF (statusCode st) (l.num + 2 ^ 32 * l.job) l.world
  let s3 := s2.onHub fun h => { h with launches := h.launches.filter fun m => !(m.world == l.world && m.job == l.job && m.num == l.num) }
  let s4 := s3.onJob l.world l.job fun j =>
    { j with nums := j.nums.map fun x => if x.num = l.num then { x with done := some st } else x }
  let s5 := dropLost s4 fun x => x.1 == l.world && x.2.1 == l.job && x.2.2.1 == l.num
  cleanReserved (unpinGen s5 l.pin)

/-- The status of a level whose members have completed (17 R415). -/
def levelStatus (cancelled err : Bool) (members : List Status) : Status :=
  if cancelled then .cancelled
  else if err || members.any (fun m => m != Status.complete) then .error
  else .complete

/-- A launch that completes without issuing (17 R413, R417): cancelled, or skipped after a predecessor. -/
def unissuedStatus (s : State) (l : Launch) : Option Status :=
  if l.issued then none
  else if l.cancelled then some .cancelled
  else match findJob s l.world l.job with
    | none => none
    | some j =>
      let failed := l.deps.any fun d => match j.launchNo d with
        | some x => x.done.isSome && x.done != some Status.complete
        | none => false
      if failed then some .skipped else none

/-- The first of a list for which a function answers. -/
def firstOf {α β : Type} (f : α → Option β) : List α → Option β
  | [] => none
  | a :: rest => match f a with
    | some b => some b
    | none => firstOf f rest

/-- No more launches come: the graph's GRAPH_END launch has been accepted, or it is cancelled and its phase or job has ended
(17 R414, R417). -/
def Job.graphEnded (j : Job) (g : GraphRec) : Bool :=
  g.ended || (g.cancelled && (j.ended || j.phases.any fun p => p.num == g.phase && p.ended))

/-- A graph that completes now (17 R414). -/
def graphReady (s : State) (j : Job) (g : GraphRec) : Bool :=
  g.done.isNone && j.graphEnded g
    && !s.hub.launches.any fun l => l.world == j.world && l.job == j.num && l.phase == g.phase && l.graph == g.num

/-- The statuses of a graph's launches. -/
def Job.graphMembers (j : Job) (g : GraphRec) : List Status :=
  j.nums.filterMap fun x => if x.phase = g.phase ∧ x.graph = g.num then x.done else none

/-- A record of a level. -/
def levelRecord (kind : Nat) (j : Job) (st : Status) : JRec :=
  { JRec.blank with kind := kind, status := statusCode st, world := j.world, job := j.num }

/-- A graph completes. -/
def finishGraph (s : State) (j : Job) (g : GraphRec) : State :=
  let st := levelStatus g.cancelled false (j.graphMembers g)
  (journal s { levelRecord 5 j st with graph := g.num, phase := g.phase }).onJob j.world j.num fun j =>
    { j with graphs := j.graphs.map fun x => if x.phase = g.phase ∧ x.num = g.num then { x with done := some st } else x }

/-- A phase that completes now (17 R414): its PHASE_END has been accepted, or it is cancelled and its job has ended (17
R417). -/
def phaseReady (j : Job) (p : PhaseRec) : Bool :=
  p.done.isNone && (p.ended || (p.cancelled && j.ended)) && j.graphs.all fun g => g.phase != p.num || g.done.isSome

/-- A phase completes. -/
def finishPhase (s : State) (j : Job) (p : PhaseRec) : State :=
  let members := j.graphs.filterMap fun g => if g.phase = p.num then g.done else none
  let st := levelStatus p.cancelled false members
  let seq := s.hub.jHead
  let s1 := journal s { levelRecord 6 j st with phase := p.num, flag := p.flag }
  let s2 := s1.onJob j.world j.num fun j =>
    { j with phases := j.phases.map fun x => if x.num = p.num then { x with done := some st } else x }
  writeFlag s2 (0, p.num) j.world j.num 0 p.flag (flagValue st seq) false

/-- A job that completes now (17 R414). -/
def jobReady (s : State) (j : Job) : Bool :=
  j.ended && j.phases.all (fun p => p.done.isSome)
    && !s.hub.launches.any (fun l => l.world == j.world && l.job == j.num)
    && s.flight.all fun f => !(f.origin.world == j.world && f.origin.job == j.num) || f.applied || (match f.kind with
      | .red _ => false
      | _ => true)

/-- A job completes, and its entries are free; no later packet enters it (17 R411). -/
def finishJob (s : State) (j : Job) : State :=
  let st := levelStatus j.cancelled j.err (j.phases.filterMap (·.done))
  let seq := s.hub.jHead
  let s1 := journal s { levelRecord 7 j st with flag := j.flag }
  let s2 := s1.onHub fun h =>
    { h with jobs := h.jobs.filter fun x => !(x.world == j.world && x.num == j.num), closed := h.closed ++ [j] }
  writeFlag s2 (0, 0) j.world j.num 0 j.flag (flagValue st seq) true

/-- One level that completes now, without a unit: a launch that does not issue, a graph, a phase or a job. -/
def settleOne (s : State) : Option State :=
  if !journalOpen s then none
  else match firstOf (fun l => (unissuedStatus s l).map fun st => finishLaunch s l st) s.hub.launches with
    | some t => some t
    | none => firstOf (fun j =>
        match j.graphs.find? (graphReady s j) with
        | some g => some (finishGraph s j g)
        | none => match j.phases.find? (phaseReady j) with
          | some p => some (finishPhase s j p)
          | none => if jobReady s j then some (finishJob s j) else none) s.hub.jobs

/-- Levels complete as long as one can. -/
def settleFuel : Nat → State → State
  | 0, s => s
  | n + 1, s => match settleOne s with
    | some t => settleFuel n t
    | none => s

/-- Every level that completes now. -/
def settle (s : State) : State :=
  settleFuel (s.hub.launches.length + s.hub.jobs.foldl (fun n j => n + 1 + j.graphs.length + j.phases.length) 0) s

/-! ### PACKET_ACCEPT (17 R411) -/

/-- A refused packet: its record, and the flag of a refused LAUNCH, in the world that the packet's WORLD names, unless the flag is what was refused
(17 R411, R416). -/
def refusePacket (s : State) (w q index : Nat) (p : Packet) (reason : Nat) : State :=
  let seq := s.hub.jHead
  let r := { JRec.blank with kind := 2, world := w, queue := q, reason := reason, launch := p.launch, job := p.job,
                             graph := p.graph, phase := p.phase, index := index }
  let s1 := journal s r
  if p.isLaunch && reason != 8 && p.flag % 8 == 0 then
    writeFlag s1 (p.graph, p.phase) (p.world % 16) p.job p.launch p.flag (flagValue .refused seq) false
  else s1

/-- PACKET_ACCEPT (17 R411, R412): the packet at a queue's head is read, checked, journaled and entered or refused. -/
def execPacketAccept (w q : Nat) (s : State) : Answer :=
  let x := s.dq w q
  if !x.en || x.pause || x.rptr == x.wptr || !journalOpen s then .next s
  else
    let p := packetAt s x x.rptr
    let x1 := { x with rptr := (x.rptr + 1) % 2 ^ 32, full := false, records := mapErase x.rptr x.records }
    let reason := refusal s w x p
    if reason ≠ 0 then .next (settle (refusePacket (s.setDq w q x1) w q x.rptr p reason))
    else if !tableRoom s w p then .next (s.setDq w q { x with full := true })
    else
      let r := { JRec.blank with kind := 1, world := w, queue := q, launch := p.launch, job := p.job, graph := p.graph,
                                 phase := p.phase, index := x.rptr }
      .next (settle (applyPacket (journal (s.setDq w q x1) r) q (mapGet? x.rptr x.records) p))

/-! ### LAUNCH_ISSUE (17 R413; 13 R363 to R368) -/

/-- The fields of a launch record's 256 bytes (13 R363). -/
def recordOf (bs : List Byte) : LaunchRec :=
  let f (o n : Nat) : Nat := natOfBytes ((bs.drop o).take n)
  { textBase := word (f 0 8), textLimit := word (f 8 8), variants := (upFrom 0 4).map fun n => word (f (0x10 + 8 * n) 8),
    argPtr := word (f 0x30 8), gotBase := word (f 0x38 8), schedPtr := word (f 0x40 8), stackBase := word (f 0x48 8),
    spillBase := word (f 0x50 8), initPtr := word (f 0x58 8), wbind := word (f 0x60 8), stackSize := f 0x68 4,
    spillSize := f 0x6C 4, ttCount := f 0x70 2, binTimer := BitVec.ofNat 16 (f 0x72 2), seed := BitVec.ofNat 16 (f 0x74 2),
    qbMask := BitVec.ofNat 16 (f 0x76 2), qbDir := BitVec.ofNat 16 (f 0x78 2), wgThreads := f 0x7A 2,
    scratch := f 0x7C 1, mergeThr := f 0x7D 1, split := f 0x7E 1, replaySafe := bit (f 0x7F 1) 0,
    priv := bit (f 0x7F 1) 1, slots := (upFrom 0 8).map fun n => BitVec.ofNat 128 (f (0x80 + 16 * n) 16) }

/-- A variant that is used is as 13 R364 states. -/
def variantOk (r : LaunchRec) (v : Word) : Bool :=
  let n := v.toNat
  bits n 32 8 == 0
    || (bits n 41 23 == 0 && (variantKind n).isSome && n % 4 == 0
        && decide (n % 2 ^ 32 < r.textLimit.toNat - r.textBase.toNat))

/-- The checks of 13 R367 that need only the record; `flags` is the byte at 0x7F. -/
def recordOk (r : LaunchRec) (flags : Nat) : Bool :=
  decide (flags < 4) && r.textBase.toNat % 4096 == 0 && r.textLimit.toNat % 4 == 0 && decide (r.textBase < r.textLimit)
    && r.variants.all (variantOk r) && decide (r.ttCount ≤ 4096) && decide (r.split < 7) && decide (r.mergeThr ≤ 16)
    && r.scratch != 0 && decide (4096 * r.scratch ≤ scratchOf r.split) && r.stackSize % 128 == 0
    && r.spillSize % 128 == 0 && decide (1 ≤ r.wgThreads) && decide (r.wgThreads ≤ 1024) && r.slots.all slotAllowed

/-- The checks of 13 R367 that need the packet: the variant selected, the world, the grid, and an array stack. -/
def recordFits (r : LaunchRec) (l : Launch) : Bool :=
  let v := r.variant l.code
  let stack := r.stackBase.toNat
  (match variantKind v with
    | none => false
    | some .array => stack == 0 || (stack % 16 == 0 && (apertureOff stack).isSome)
    | some .lane => true)
    && (!r.priv || l.world == 0)
    && (r.qbMask == 0 || (match variantKind v with
        | some .lane => l.grid * r.warps == 1
        | _ => l.grid == 1))

/-- The record read for a launch; none where RECORD refuses it (17 R413): what stood there when its packet was submitted (13
R368). -/
def readRecord (s : State) (l : Launch) : Option (List Byte) :=
  match recordAt s l.world l.recordVa with
  | none => none
  | some a => some (match l.recordWas with
    | some x => if x.1 = a then x.2 else peek s a 256
    | none => peek s a 256)

/-- The launch as it issues, with its record and the generation it pins; none where it is refused (17 R413; 22 R488). -/
def issueRecord (s : State) (l : Launch) : Option (LaunchRec × Option (Nat × Nat)) :=
  match readRecord s l with
  | none => none
  | some bs =>
    let r0 := recordOf bs
    let r := { r0 with wbind := if l.wbind = 0 then r0.wbind else l.wbind }
    if !recordOk r (natOfBytes ((bs.drop 0x7F).take 1)) || !recordFits r l then none
    else if r.wbind = 0 then some (r, none)
    else match findBinding s l.world r.wbind with
      | none => none
      | some p => some (r, some p)

/-- Every predecessor is complete and every earlier phase of the job has completed (17 R413). -/
def mayIssue (s : State) (l : Launch) : Bool :=
  match findJob s l.world l.job with
  | none => false
  | some j =>
    l.deps.all (fun d => match j.launchNo d with
      | some x => x.done == some Status.complete
      | none => false)
    && j.phases.all fun p => decide (l.phase ≤ p.num) || p.done.isSome

/-- LAUNCH_ISSUE (17 R413). -/
def execLaunchIssue (w job launch : Nat) (s : State) : Answer :=
  match findLaunch s w job launch with
  | none => .next s
  | some l =>
    if l.issued || l.cancelled || !mayIssue s l || !journalOpen s then .next s
    else match issueRecord s l with
      | none => .next (settle (finishLaunch s l .refused))
      | some (r, pin) =>
        let units := match variantKind (r.variant l.code) with
          | some .lane => l.grid * r.warps
          | _ => l.grid
        let s1 := s.onLaunch w job launch fun l =>
          { l with issued := true, placedAt := s.time / 65536, rec? := some r, units := units, binIndex := units, pin := pin }
        let s2 := journal s1 { JRec.blank with kind := 3, world := w, launch := launch, job := job, graph := l.graph,
                                               phase := l.phase, units := units }
        let s3 := trace s2 24 0x0A 2 0xFFFF l.queue (launch + 2 ^ 32 * job) w
        .next (match pin with
          | some p => pinGen s3 w launch p
          | none => s3)

/-! ### LAUNCH_COMPLETE (17 R414, R415) -/

/-- A unit of the launch is on a core, in a bin's workgroup, or in a saved context. -/
def launchResident (s : State) (l : Launch) : Bool :=
  let mine (i : UnitInfo) : Bool := i.world == l.world && i.job == l.job && i.launch == l.num
  s.arrays.any (fun k => match k.2.task with
      | some t => mine t.info
      | none => false)
    || s.lanes.any (fun k => k.2.wgs.any fun g => mine g.2.info)
    || s.hub.saved.any fun v => v.done && v.units.any fun u => mine u.1

/-- Every memory effect of the launch's units is performed at system scope (17 R414): applied at its home, and not held by a
non-coherent chiplet (06 R172). -/
def effectsDone (s : State) (l : Launch) : Bool :=
  s.flight.all (fun f =>
      f.kind.isFence || f.applied || !(f.origin.world == l.world && f.origin.job == l.job && f.origin.launch == l.num))
    && s.kept.all fun m => m.2.all fun b => !(b.2.origin.world == l.world && b.2.origin.job == l.job && b.2.origin.launch == l.num)

/-- The status with which an issued launch completes (17 R415). -/
def launchStatus (l : Launch) : Status :=
  if l.cancelled then .cancelled
  else if l.replayRefused then .replayRefused
  else if l.err then .error
  else .complete

/-- LAUNCH_COMPLETE (17 R414): every unit of the launch has completed and its memory effects are performed. -/
def execLaunchComplete (w job launch : Nat) (s : State) : Answer :=
  match findLaunch s w job launch with
  | none => .next s
  | some l =>
    let placed := l.cancelled || l.replayRefused || (l.lost.isEmpty && l.nextUnit == l.grid)
    if !l.issued || !placed || launchResident s l || !effectsDone s l || !journalOpen s then .next s
    else .next (settle (finishLaunch s l (launchStatus l)))

/-! ### CANCEL (17 R417; 01 R49) -/

/-- The running and stopped units of cancelled launches discarded; those of a core whose issue has stopped for a save are
discarded with the context (01 R49); those of a fenced chiplet are lost with it (18 R438). -/
def discardCancelled (s : State) : State :=
  let s1 := s.arrays.foldl (fun s k => match k.2.task with
    | some t => if isCancelled s t.info && !k.2.saving && !isFenced s .array k.1 then discardTask s k.1 else s
    | none => s) s
  s1.lanes.foldl (fun s k =>
    if k.2.saving || isFenced s .lane k.1 then s
    else
      let gone (wg : Nat) : Bool := match mapGet? wg k.2.wgs with
        | some g => isCancelled s g.info
        | none => false
      let s2 := (k.2.warps.filter fun w => gone w.2.wg).foldl (fun s w => discardWarp s k.1 w.1) s
      let c := s2.lane k.1
      let c1 := { c with bins := c.bins.filter fun b => !gone b.2.wg }
      s2.setLane k.1 (c1.wgs.foldl (fun c g => releaseGroup (releaseScratch c g.1) g.1) c1)) s1

/-- The level that SEL_JOB and SEL_ID select: level, world, job, identifier (17 R417). -/
def selectedLevel (s : State) : Nat × Nat × Nat × Nat :=
  let v := s.hub.selJob.toNat
  (bits v 36 2, bits v 32 4, bits v 0 32, s.hub.selId.toNat % 2 ^ 32)

/-- Which launches a level holds. -/
def inLevel (level w job id : Nat) (l : Launch) : Bool :=
  l.world == w && l.job == job && (match level with
    | 0 => l.num == id
    | 1 => l.phase == id / 2 ^ 16 && l.graph == id % 2 ^ 16
    | 2 => l.phase == id
    | _ => true)

/-- A job with a level cancelled, and every level inside it. -/
def cancelLevel (level id : Nat) (j : Job) : Job :=
  match level with
  | 0 => j
  | 1 => { j with graphs := j.graphs.map fun g =>
      if g.phase = id / 2 ^ 16 ∧ g.num = id % 2 ^ 16 ∧ g.done = none then { g with cancelled := true } else g }
  | 2 =>
    { j with phases := j.phases.map fun p => if p.num = id ∧ p.done = none then { p with cancelled := true } else p,
             graphs := j.graphs.map fun g => if g.phase = id ∧ g.done = none then { g with cancelled := true } else g }
  | _ =>
    { j with cancelled := true,
             phases := j.phases.map fun p => if p.done = none then { p with cancelled := true } else p,
             graphs := j.graphs.map fun g => if g.done = none then { g with cancelled := true } else g }

/-- A table entry holds the level (17 R417). -/
def levelLive (s : State) (level w job id : Nat) : Bool :=
  match level, findJob s w job with
  | 0, _ => (findLaunch s w job id).isSome
  | 1, some j => j.graphs.any fun g => g.phase == id / 2 ^ 16 && g.num == id % 2 ^ 16 && g.done.isNone
  | 2, some j => j.phases.any fun p => p.num == id && p.done.isNone
  | 3, some _ => true
  | _, _ => false

/-- The journal record of a cancel. -/
def cancelRecord (s : State) (level w job id : Nat) : JRec :=
  let r := { JRec.blank with kind := 8, world := w, job := job }
  match level with
  | 0 => match findLaunch s w job id with
    | some l => { r with launch := id, graph := l.graph, phase := l.phase }
    | none => { r with launch := id }
  | 1 => { r with graph := id % 2 ^ 16, phase := id / 2 ^ 16 }
  | 2 => { r with phase := id }
  | _ => r

/-- A queue's oldest packet is the JOB_END of a job without an entry, and waits for table space (17 R412, R422). -/
def jobEndWaits (s : State) (w job : Nat) : Bool :=
  (upFrom 0 64).any fun q =>
    let x := s.dq w q
    let p := packetAt s x x.rptr
    x.full && x.rptr != x.wptr && p.isJobEnd && p.job == job

/-- CANCEL (17 R417; 01 R49): a write of CANCEL.GO cancels the selected level; a job whose JOB_END waits for table space is
cancelled when it is accepted (17 R422). -/
def execCancel (v : BitVec 64) (s : State) : Answer :=
  let (level, w, job, id) := selectedLevel s
  if !v.getLsbD 0 then .next s
  else if !levelLive s level w job id then
    if level = 3 ∧ jobEndWaits s w job then
      .next (journal (s.onHub fun h => { h with ahead := h.ahead ++ [(w, job, true)] }) (cancelRecord s level w job id))
    else .next s
  else
    let s1 := s.onHub fun h => { h with
      launches := h.launches.map fun l => if inLevel level w job id l then { l with cancelled := true, lost := [] } else l,
      jobs := h.jobs.map fun j => if j.world = w ∧ j.num = job then cancelLevel level id j else j }
    let s2 := dropLost s1 fun x => match findLaunch s1 x.1 x.2.1 x.2.2.1 with
      | some l => l.cancelled
      | none => true
    let s3 := journal s2 (cancelRecord s level w job id)
    .next (settle (cleanReserved (pruneSaved (discardCancelled s3))))

/-- CNT_STAT (17 R417). -/
def cntStat (s : State) : Word :=
  let (level, w, job, id) := selectedLevel s
  let left := match level, findJob s w job with
    | 0, _ => match findLaunch s w job id with
      | some l => l.units - l.doneUnits
      | none => 0
    | 1, some j => (j.nums.filter fun x => x.phase == id / 2 ^ 16 && x.graph == id % 2 ^ 16 && x.done.isNone).length
    | 2, some j => (j.graphs.filter fun g => g.phase == id && g.done.isNone).length
    | _, some j => (j.phases.filter fun p => p.done.isNone).length
    | _, none => 0
  if levelLive s level w job id then word left else word (0xFF * 2 ^ 56)

/-- JRNL_ACK (17 R420): records below the number are free; withheld ones are written and completions go on. -/
def execJrnlAck (v : BitVec 64) (s : State) : Answer :=
  if v.toNat < s.hub.jAck then .next s
  else
    let s1 := s.onHub fun h => { h with jAck := v.toNat }
    .next (settle (journalDrain s1.hub.jPending s1))

end Sys2Proof.Machine
end

