-- ==== Sys2Proof/Machine/CopyBytes.lean ====
section
/-! DEFINITION. Copy commands as strings of bytes (11 R290 to R301): where their bytes stand, the units in which they move
(06 R155), what they send to other modules, and what becomes of a request that is abandoned (11 R300, R303). -/

namespace Sys2Proof.Machine

/-- What a read gives: its bytes and the errors that it reports. -/
structure ReadOut where
  bytes : List PByte
  causes : List Cause
  deriving DecidableEq, Repr

/-! ### Where the bytes of a command stand -/

/-- A place further on. -/
def Place.plus (p : Place) (n : Nat) : Place :=
  match p with
  | .mem a => .mem (a + n)
  | .core a => .core (a + n)
  | .zero => .zero

/-- The module of a place. -/
def Place.module (s : State) (p : Place) : Nat :=
  match p with
  | .mem a => moduleOf a
  | _ => s.module

/-- A stretch of a command's bytes that stands in one place: where, its offset in the command's bytes and its length. -/
structure Span where
  place : Place
  off : Nat
  len : Nat
  deriving DecidableEq, Repr

/-- One side of pieces as stretches: a piece that goes on where the last one ends is one stretch with it. -/
def spans (side : Piece → Place) : List Piece → Nat → List Span
  | [], _ => []
  | p :: rest, off =>
    match spans side rest (off + p.len) with
    | [] => [{ place := side p, off := off, len := p.len }]
    | r :: more =>
      if (side p).plus p.len = r.place then { place := side p, off := off, len := p.len + r.len } :: more
      else { place := side p, off := off, len := p.len } :: r :: more

/-- The part of a stretch between two offsets. -/
def Span.within (r : Span) (lo hi : Nat) : Option Span :=
  let a := max lo r.off
  let b := min hi (r.off + r.len)
  if a < b then some { place := r.place.plus (a - r.off), off := a, len := b - a } else none

/-- One side of a command between two offsets of its bytes. -/
def Copy.parts (c : Copy) (side : Piece → Place) (lo hi : Nat) : List Span :=
  (spans side c.pieces 0).filterMap fun r => r.within lo hi

/-- The bytes of a command. -/
def Copy.total (c : Copy) : Nat := (c.pieces.map (·.len)).sum

/-- The core of a copy's agent. -/
def Copy.core (c : Copy) : CoreKind × Nat := (c.origin.kind, c.origin.core)

/-- The port of the chiplet that a command runs on. -/
def Copy.chip (c : Copy) : Nat := portOfCore c.core.1 c.core.2

/-- An agent of the core that a command runs on. -/
def Copy.born (c : Copy) : Agent := .gone c.core.1 c.core.2 0 0

/-- The tile entry of a copy. -/
def Copy.entry (s : State) (c : Copy) (e : Nat) : TileEntry := (tilesOf s c.core.1 c.core.2 c.wg).entry e

/-- Where a tile goes in memory. -/
def tileDst (c : Copy) : Place := match c.pieces with
  | p :: _ => p.dst
  | [] => .zero

/-- A header's bytes with another VERSION, CHECK recomputed (11 R295). -/
def withVersion (hdr : BitVec 256) (v : Nat) : List Byte :=
  let old := bytesOfNat 30 hdr.toNat
  let body := old.take 8 ++ bytesOfNat 2 v ++ old.drop 10
  body ++ bytesOfNat 2 (crc16 body)

/-- The odd VERSION of an AON store's first phase (03 R106). -/
def oddVersion (old : Nat) : Nat := (if old % 2 = 0 then old + 1 else old + 2) % 2 ^ 16

/-- A command stores a tile in the phases of 03 R106. -/
def Copy.inPhases (s : State) (c : Copy) : Bool :=
  match c.kind with
  | .tst e _ _ => (c.entry s e).header.aon
  | _ => false

/-- A command stores a tile. -/
def Copy.storesTile (c : Copy) : Bool :=
  match c.kind with
  | .tst _ _ _ => true
  | _ => false

/-! ### Units (06 R155) -/

/-- How many bytes the unit at a place has, `n` being left from offset `off` on: a whole line; the header of a stored tile;
what a store in phases writes of a line (03 R109); an entry or a register of a window; else what is left of an aligned 8
bytes. -/
def unitLen (s : State) (c : Copy) (p : Place) (off n : Nat) : Nat :=
  let upTo (u a : Nat) : Nat := min n (u - a % u)
  let data (a : Nat) : Nat :=
    if a % 128 = 0 ∧ 128 ≤ n then 128
    else if c.inPhases s then upTo 128 a
    else if c.storesTile && off == 0 then min n 32
    else upTo 8 a
  match p with
  | .zero => n
  | .core a => if (tableAt s c.core.1 c.core.2 a).isSome then upTo 64 a else data a
  | .mem a => if isCoherent (localOf a) then data a else if localOf a < 0x32000000000 then upTo 64 a else upTo 8 a

/-- A stretch cut into units. -/
def cutUnits (s : State) (c : Copy) : Nat → Span → List (Nat × Nat)
  | 0, _ => []
  | fuel + 1, r =>
    if r.len = 0 then []
    else
      let k := max 1 (unitLen s c r.place r.off r.len)
      (r.off, k) :: cutUnits s c fuel { place := r.place.plus k, off := r.off + k, len := r.len - k }

/-- The side of a command that its units are cut by: a tile that is loaded is read in lines of its image in memory. -/
def Copy.side (c : Copy) : Piece → Place :=
  match c.kind with
  | .tld _ _ => fun p => p.src
  | _ => fun p => p.dst

/-- The units of a command between two offsets of its bytes, each by its offset and its length. -/
def Copy.unitsIn (s : State) (c : Copy) (lo hi : Nat) : List (Nat × Nat) :=
  (c.parts c.side lo hi).flatMap fun r => cutUnits s c r.len r

/-- The bytes of a unit that has been read. -/
def Copy.gotAt (c : Copy) (off : Nat) : Option (List PByte) := mapGet? off c.got

/-- The header that a `tld` has read in this attempt. -/
def Copy.gotHdr (c : Copy) : Option Nat := (c.gotAt 0).map fun bs => natOfBytes (bs.map (·.1))

/-- The offset under which a command keeps the VERSION that it reads by itself: a `tld` the second time (11 R294), a `tst` at
its destination (R295). -/
def versionKey : Nat := 8

/-- The units of the image of a tile whose header a `tld` has read. -/
def Copy.imageUnits (s : State) (c : Copy) : List (Nat × Nat) :=
  match c.gotHdr with
  | none => []
  | some w => if (hdrOf w).version % 2 = 1 then [] else c.unitsIn s 32 (hdrOf w).tlen

/-- The units that a command reads or writes now: a `tld` its header, then its image up to TLEN (11 R294); a store in phases
its header, its other bytes, its header again (03 R106); any other command all of them, in any order (11 R291). -/
def Copy.unitsNow (s : State) (c : Copy) : List (Nat × Nat) :=
  match c.kind with
  | .tld _ _ => (match c.gotHdr with
    | none => [(0, 32)]
    | some _ => c.imageUnits s)
  | .dflag _ _ _ => []
  | .cflush => []
  | .cinval => []
  | _ =>
    if c.inPhases s then (if c.attempt = 2 then c.unitsIn s 32 c.total else [(0, 32)]) else c.unitsIn s 0 c.total

/-- The bytes that a command writes for a unit: a stored tile's header takes the VERSION of its phase (11 R295; 03 R106,
R107). -/
def Copy.dataFor (s : State) (c : Copy) (off : Nat) (bs : List PByte) : List PByte :=
  match c.kind with
  | .tst e _ _ =>
    if off ≠ 0 then bs
    else
      let v := if c.inPhases s then (oddVersion c.version + (if c.attempt = 3 then 1 else 0)) % 2 ^ 16
        else (c.version + 2) % 2 ^ 16 / 2 * 2
      clean (withVersion (c.entry s e).hdr v) ++ bs.drop 32
  | _ => bs

/-! ### Writes -/

/-- A write of a copy command. -/
structure CWrite where
  dst : Place
  bytes : List PByte
  deriving DecidableEq, Repr

/-- Bytes laid over the destinations of pieces, from an offset in them. -/
def layOver : List Piece → Nat → List PByte → List CWrite
  | [], _, _ => []
  | p :: rest, skip, bs =>
    if bs = [] then []
    else if p.len ≤ skip then layOver rest (skip - p.len) bs
    else
      let n := min (p.len - skip) bs.length
      { dst := p.dst.plus skip, bytes := bs.take n } :: layOver rest 0 (bs.drop n)

/-- The writes of a unit: one for each stretch of its destination. -/
def Copy.unitWrites (c : Copy) (off : Nat) (bs : List PByte) : List CWrite :=
  (c.parts (fun p => p.dst) off (off + bs.length)).map fun r =>
    { dst := r.place, bytes := (bs.drop (r.off - off)).take r.len }

/-- The home module of a place has been removed by a re-plan since the command issued, or is removed now, so that the command
cannot reach it (21 R480). -/
def Copy.lostAt (s : State) (c : Copy) (a : Nat) : Bool :=
  moduleOf a != s.module && (c.cut.contains (moduleOf a) || !reachable s (moduleOf a))

/-- The batches of an agent. -/
def batchesOf (s : State) (a : Agent) : Option Batches :=
  match a with
  | .task c => some (s.array c).th.batch
  | .lane c w l => (mapGet? w (s.lane c).warps).bind fun x => (mapGet? l x.threads).map (·.batch)
  | _ => none

/-- The place of a command's batch in the order of seals; the open batch comes next (11 R304). -/
def Batches.placeOf (b : Batches) (id : Nat) : Nat :=
  match b.pend.find? fun p => p.2.contains id with
  | some p => p.1
  | none => b.sealedCount + 1

/-- A request of a copy command to another module (11 R299 to R302; 06 R170): a read of so many bytes for an offset of the
command, a write of bytes, or a flag. -/
def copyFlight (s : State) (id : Nat) (a : Agent) (born : Agent) (o : Origin) (k : AccKind) (addr size off : Nat)
    (bs : List PByte) : Flight :=
  { id := s.nextId, grp := id, agent := a, born := born, origin := o, kind := k, space := .domain, dest := none, ext := false,
    addr := addr, size := size, data := 0, cmp := word off, scope := 0, acq := false, rel := false, stage := .issued,
    value := 0, flags := 0, fwd := none, seq := 0, upTo := 0, post := 0, counted := k != AccKind.copy, bulk := bs,
    batch := if k == AccKind.copy then (batchesOf s a).map (·.placeOf id) else none, waited := false }

/-- A request added to the flights and sent. -/
def sendFlight (s : State) (f : Flight) : State :=
  sendRemote { s with flight := s.flight ++ [f], nextId := s.nextId + 1 } f

/-- A write of a copy command sent to another module (11 R301; 06 R170). -/
def sendPart (s : State) (c : Copy) (a : Nat) (bs : List PByte) : State :=
  sendFlight s (copyFlight s c.id c.agent c.born c.origin .copy a bs.length 0 bs)

/-- A read of a copy command sent to another module. -/
def sendRead (s : State) (c : Copy) (a n off : Nat) : State :=
  sendFlight s (copyFlight s c.id c.agent c.born c.origin .copyRead a n off [])

/-- The flag of a `dflag` sent to another module (11 R302). -/
def sendFlag (s : State) (c : Copy) (a : Nat) (bs : List PByte) : State :=
  sendFlight s (copyFlight s c.id c.agent c.born c.origin .flag a bs.length 0 bs)

/-- The writes that a command has sent to other modules and that are not applied. -/
def sentParts (s : State) (id : Nat) : List Flight :=
  s.flight.filter fun f => f.kind == AccKind.copy && f.grp == id && !f.applied

/-- The request that reads bytes of a command from another module (11 R299). -/
def readAsked (s : State) (c : Copy) (off : Nat) : Option Flight :=
  s.flight.find? fun f => f.kind == AccKind.copyRead && f.grp == c.id && f.cmp == word off

/-- What another module has returned for bytes of a command. -/
def readAnswer (s : State) (c : Copy) (off : Nat) : Option (List PByte) :=
  match readAsked s c off with
  | none => none
  | some f => if f.applied && !awaitsReply s f then some f.bulk else none

/-- The flag that a command has sent to another module. -/
def flagAsked (s : State) (id : Nat) : Option Flight := s.flight.find? fun f => f.kind == AccKind.flag && f.grp == id

/-! ### What a non-coherent chiplet has kept (06 R172; 11 R305) -/

/-- Two bytes were kept by one write. -/
def KeptByte.sameWrite (x y : KeptByte) : Bool := x.op == y.op && x.agent == y.agent && x.origin == y.origin

/-- Kept bytes cut into runs of rising addresses, each of one write. -/
def keptRuns : List (Nat × KeptByte) → List (List (Nat × KeptByte))
  | [] => []
  | x :: rest => match keptRuns rest with
    | (y :: ys) :: more => if y.1 = x.1 + 1 ∧ x.2.sameWrite y.2 then (x :: y :: ys) :: more else [x] :: (y :: ys) :: more
    | more => [x] :: more

/-- Kept bytes of one write sent to another module, as a write of the command that made it. -/
def sendRun (p : Nat) (s : State) (run : List (Nat × KeptByte)) : State :=
  match run with
  | [] => s
  | x :: _ => sendFlight s (copyFlight s x.2.op x.2.agent (.pcie p) x.2.origin .copy x.1 run.length 0
      (clean (run.map (·.2.byte))))

/-- What a chiplet has written of a line and not flushed goes to its home (06 R172; 11 R305): to the slice, unless the line is
being served, or to another module, while requests may leave. -/
def flushKept (s : State) (p line : Nat) : State :=
  let m := mapGet [] s.kept p
  let mine := m.filter fun x => lineOf x.1 == line
  let s1 := { s with kept := mapSet p (m.filter fun x => lineOf x.1 != line) s.kept }
  if moduleOf (128 * line) ≠ s.module then
    (if mayLeave s (moduleOf (128 * line)) then (keptRuns mine).foldl (sendRun p) s1 else s)
  else if busyRange s (128 * line) 128 then s
  else if mine.length = 128 then putHome s1 (128 * line) (clean (mine.map (·.2.byte)))
  else mine.foldl (fun s x => putHome s x.1 [(x.2.byte, false)]) s1

/-! ### Requests that are abandoned (11 R300, R303) -/

/-- A command is a `dflag` whose flag stands on a module. -/
def Copy.flagOn (s : State) (m : Nat) (c : Copy) : Bool :=
  match c.kind with
  | .dflag _ _ _ => c.pieces.any fun p => p.dst.module s == m
  | _ => false

/-- A command has met an error (01 R57). -/
def failCopy (s : State) (id : Nat) : State :=
  { s with copies := s.copies.map fun x =>
      if x.id = id then { x with said := if x.said.contains .remoteFailed then x.said else x.said ++ [.remoteFailed] } else x }

/-- A write of a command to a module has failed: every later `dflag` of the agent there fails (11 R302, R303). -/
def failWrites (s : State) (o : Origin) (a : Agent) (id m : Nat) : State :=
  let s1 := { s with copies := s.copies.map fun x =>
    if x.agent == a && decide (id < x.id) && x.flagOn s m then { x with failed := true } else x }
  if unitThere s1 o then
    onThread s1 a fun t =>
      { t with batch := { t.batch with broken := if t.batch.broken.contains m then t.batch.broken else m :: t.batch.broken } }
  else s1

/-- A read of a command has been abandoned (11 R300): the command is broken. -/
def breakRead (s : State) (id : Nat) : State :=
  { s with copies := s.copies.map fun x => if x.id = id then { x with broken := true } else x }

/-- The flag of a `dflag` has been abandoned (11 R303): it is not known to be written, and the `dflag` fails. -/
def breakFlag (s : State) (id : Nat) : State :=
  { s with copies := s.copies.map fun x => if x.id = id then { x with failed := true, written := false } else x }

end Sys2Proof.Machine
end

