-- ==== Sys2Proof/Machine/Links.lean ====
section
/-! DEFINITION. What link chiplets do with bindings (05): pairing, credits, the departure and arrival of tiles, and markers.
An event names a binding by the core on which it was made and
its identifier, wherever its task is (05 R144 to R146). -/

namespace Sys2Proof.Machine

/-! ### Where a binding is held -/

/-- What holds a binding: an array core, or the saved context with an identifier (05 R144). -/
inductive Holder where
  | core (c : Nat)
  | saved (ctx : Nat)
  deriving DecidableEq, Repr

/-- The queue name of a core that an identifier names. -/
def ArrayCore.nameOf (k : ArrayCore) (id : Nat) : Option Nat :=
  (k.queues.find? fun b => b.2.dir != Dir.unbound && b.2.id == id).map (·.1)

/-- Where the binding with an identifier is held, and its queue name: on the core on which its task resides, or in the
context that was saved with it (05 R144, R146). -/
def bindingHolder (s : State) (id : Nat) : Option (Holder × Nat) :=
  match s.arrays.findSome? fun k => (k.2.nameOf id).map fun q => (Holder.core k.1, q) with
  | some x => some x
  | none => s.hub.saved.findSome? fun v =>
    if v.done then v.task.bind fun k => (k.nameOf id).map fun q => (Holder.saved v.id, q) else none

/-- The saved context with an identifier, when it holds a task. -/
def heldTask (s : State) (ctx : Nat) : Option (Saved × ArrayCore) :=
  (s.hub.saved.find? fun v => v.id == ctx).bind fun v => v.task.map fun k => (v, k)

/-- The core that a holder stands for. -/
def holderCore (s : State) : Holder → ArrayCore
  | .core c => s.array c
  | .saved ctx => match heldTask s ctx with
    | some x => x.2
    | none => ArrayCore.blank

/-- Bytes of a context's area written at its home. -/
def writeArea (s : State) (v : Saved) (sect off : Nat) (bs : List Byte) : State :=
  hubWrite s (s.home v.addr + sectAt (layout (sectionLens v)) sect + off) bs

/-- The cells of a context's system registers that an event has changed, written in its area. -/
def writeChangedSys (s : State) (v : Saved) (c : Nat) (old new : ArrayCore) : State :=
  let get (k : ArrayCore) (o : Nat) : Nat := winCell (s.setArray c k) (.arraySys c 0) o
  (upFrom 0 0x2000).foldl (fun s o =>
    if get old o = get new o then s else writeArea s v 4 (8 * o) (bytesOfNat 8 (get new o))) s

/-- What an event changes of a saved task, written in its area (05 R144): entries, bytes of the local store and system
registers. When the local store's section grows, the sections are laid out again. -/
def refreshSaved (s : State) (v : Saved) (old new : ArrayCore) : State :=
  let v1 := { v with task := some new }
  let c := v.from?
  if sectionLens v = sectionLens v1 then
    let s1 := new.tiles.foldl (fun s e =>
      if mapGet TileEntry.blank old.tiles e.1 = e.2 then s else writeArea s v 1 (64 * e.1) e.2.bytes) s
    let gone := old.localStore.filter fun x => !(new.localStore.any fun y => y.1 == x.1)
    let s2 := gone.foldl (fun s x => writeArea s v 0 x.1 [Memory.blank]) s1
    let fresh := new.localStore.filter fun x => !old.localStore.contains x
    writeChangedSys (fresh.foldl (fun s x => writeArea s v 0 x.1 [x.2]) s2) v c old new
  else
    let here := s.array c
    let s1 := (writeSections (s.setArray c new) v1 .array c).setArray c here
    hubWrite s1 (s.home v.addr) (headerBytes v1 2 (s.time / 65536) (layout (sectionLens v1)) true)

/-- A holder's core replaced; what a context in memory shows of it follows. -/
def setHolder (s : State) (h : Holder) (k : ArrayCore) : State :=
  match h with
  | .core c => s.setArray c k
  | .saved ctx => match heldTask s ctx with
    | none => s
    | some (v, old) =>
      (refreshSaved s v old k).onHub fun h =>
        { h with saved := h.saved.map fun x => if x.id = ctx then { x with task := some k } else x }

/-- The due markers of a binding placed, with their events (05 R150). -/
def placeHeld (s : State) (h : Holder) (q : Nat) : State :=
  let k := holderCore s h
  let b := k.queue q
  if (b.marks.filter (b.due (s.chanUp b.chan))).isEmpty then s
  else setHolder (traceDue s k.taskWorld q b) h (k.onQueue q (Binding.placed (s.chanUp b.chan)))

/-- An event at the binding `id` that was made on array core `core`: it acts on the holder's core and the binding; a binding
that is no more takes none (05 R146, R147). -/
def atBinding (s : State) (core id : Nat) (f : Holder → Nat → ArrayCore → Binding → State) : Answer :=
  match bindingHolder s id with
  | none => .next s
  | some (h, q) =>
    let k := holderCore s h
    if (k.queue q).core = core then .next (f h q k (k.queue q)) else .next s

/-! ### Pairing and credits -/

/-- A pairing may be made at this end (05 R135): the peer's binding names this one, this one names the peer's, the
directions are opposite and the worlds the same. A stopped binding does not pair (log entry 85); nor does a receive
binding of a saved task, which grants no credit (05 R144). -/
def mayPair (s : State) (h : Holder) (q : Nat) (k : ArrayCore) (b : Binding) (peer : PeerEnd) : Bool :=
  let resident := match h with
    | .core _ => true
    | .saved _ => false
  !b.paired && !b.xoff && (peer.sends == (b.dir == Dir.receive)) && peer.world == k.taskWorld
    && b.peerMod == peer.mod && b.peerCore == peer.core && b.peerQ == peer.q
    && peer.namesMod == s.module && peer.namesCore == b.core && peer.namesQ == q
    && (b.dir == Dir.send || resident)

/-- BINDING_PAIR (05 R135): a send end takes the capacity and the credits that the peer grants; a receive end grants one
credit for each empty entry, with its capacity. A width that `qwidth` asked for is requested now (11 R315). -/
def execBindingPair (core id : Nat) (peer : PeerEnd) (grant : Nat × Nat) (s : State) : Answer :=
  atBinding s core id fun h q k b =>
    if !mayPair s h q k b peer then s
    else
      let free := b.pool - heldCount k b
      let b1 : Binding := match b.dir with
        | .send => { b with paired := true, granted := grant.1, credit := grant.2, wantWidth := none }
        | _ => { b with paired := true, lent := free, wantWidth := none }
      let s1 := match b.wantWidth with
        | some w => s.setChan b.chan { s.chan b.chan with req := w }
        | none => s
      let s2 := if b.dir == Dir.receive then { s1 with reply := some [word free, word b.cap] } else s1
      placeHeld (setHolder s2 h (k.onQueue q fun _ => b1)) h q

/-- PEER_UNPAIR (05 R147): the peer's binding is dissolved; markers end unacknowledged, tiles are kept. -/
def execPeerUnpair (core id : Nat) (s : State) : Answer :=
  atBinding s core id fun h q k b =>
    if b.paired then
      setHolder s h ((k.dropMarks q).onQueue q fun b => { b with paired := false, credit := 0, lent := 0 })
    else s

/-- CREDIT_RETURN (05 R136): a returned credit reaches the send end. -/
def execCreditReturn (core id : Nat) (s : State) : Answer :=
  atBinding s core id fun h q k b =>
    if b.dir == Dir.send && b.paired then setHolder s h (k.onQueue q fun b => { b with credit := b.credit + 1 }) else s

/-! ### Departure of tiles -/

/-- The tile that the link chiplet takes next: parked ones first (05 R145). -/
def Binding.nextTile (b : Binding) : Option Nat :=
  match b.parked ++ b.fifo with
  | [] => none
  | e :: _ => some e

/-- The binding with its next tile out of the order of those waiting. -/
def Binding.dropNext (b : Binding) : Binding :=
  match b.parked with
  | _ :: rest => { b with parked := rest }
  | [] => { b with fifo := b.fifo.drop 1 }

/-- The link chiplet may take the next tile of a resident send binding (05 R139, R145; 21 R471). -/
def mayTake (s : State) (k : ArrayCore) (q : Nat) (b : Binding) (e : Nat) : Bool :=
  b.dir == Dir.send && b.paired && !b.xoff && b.credit != 0 && (mapGet TileEntry.blank k.tiles e).st == TileSt.draining
    && !unbinding k q && s.chanUp b.chan

/-- A tile larger than the capacity granted at pairing is discarded, and its send retires with the fault deferred (11
R312). -/
def discardLarge (s : State) (c q e : Nat) : State :=
  let k := s.array c
  let s1 := match k.ops.find? fun o => o.kind == OpKind.send q e with
    | some o => deferAll s o.origin [.tileCapacity]
    | none => s
  let n := (k.queue q).taken.length
  let s2 := onQueue s1 c q fun b => { b.dropNext with marks := b.marks.map fun m => (if n < m.1 then m.1 - 1 else m.1, m.2) }
  placeMarks (s2.setArray c ((s2.array c).discardSend q e)) c q

/-- LINK_TAKE_TILE (05 R139; 21 R471): a draining tile of a paired binding is taken with one credit while its channel is
up and the hub takes from both chiplets (18 R437; 19 R444); a saved task's tiles are parked. -/
def execLinkTakeTile (core id : Nat) (s : State) : Answer :=
  atBinding s core id fun h q k b =>
    match h, b.nextTile with
    | .core c, some e =>
      if !mayTake s k q b e || !hubHears s (portOfCore .array c) || !hubHears s (16 + b.chan / 32) then s
      else if b.granted < (mapGet TileEntry.blank k.tiles e).header.tlen then discardLarge s c q e
      else placeMarks
        (onQueue s c q fun b => { b.dropNext with credit := b.credit - 1, taken := b.taken ++ [e] }) c q
    | _, _ => s

/-- Flits of a tile (05 R139). -/
def flitsOf (tlen : Nat) : Nat := ceilDiv tlen 240

/-- SEND_RETIRE (05 R139, R145): flits of the oldest tile taken leave while allowances pay for them; with the last the send
retires, whether or not its task is resident. -/
def execSendRetire (core id : Nat) (s : State) : Answer :=
  atBinding s core id fun h q k b =>
    match b.taken with
    | [] => s
    | e :: rest =>
      let n := flitsOf (mapGet TileEntry.blank k.tiles e).header.tlen - b.sent
      let r := (s.chan b.chan).charge n
      let s1 := s.setChan b.chan r.1
      if r.2 < n then setHolder s1 h (k.onQueue q fun b => { b with sent := b.sent + r.2 })
      else
        let gone (b : Binding) : Binding := { b with taken := rest, sent := 0, marks := b.marks.map fun m => (m.1 - 1, m.2) }
        placeHeld (setHolder s1 h ((k.discardSend q e).onQueue q gone)) h q

/-! ### Arrival of tiles (05 R136, R144; 03 R112) -/

/-- TILE_FIRST_FLIT (05 R136, R144): under a credit that the peer holds, a tile begins to arrive in an empty entry of the
pool. -/
def execTileFirstFlit (core id : Nat) (s : State) : Answer :=
  atBinding s core id fun h q k b =>
    if b.dir != Dir.receive || !b.paired || b.xoff || b.filling.isSome || b.lent == 0 then s
    else match freeEntry k b with
      | none => s
      | some e =>
        let x := { mapGet TileEntry.blank k.tiles e with st := .filling, qheld := true, qidx := q }
        let b1 := { b with fifo := b.fifo ++ [e], filling := some e, lent := b.lent - 1 }
        setHolder s h { k with tiles := mapSet e x k.tiles, queues := mapSet q b1 k.queues }

/-- TILE_LAST_FLIT (05 R136, R144; 03 R112): the tile's image is whole in its entry, its header copied unchanged. -/
def execTileLastFlit (core id : Nat) (image : List (BitVec 8)) (s : State) : Answer :=
  atBinding s core id fun h q k b =>
    match b.filling with
    | none => s
    | some e =>
      let x := mapGet TileEntry.blank k.tiles e
      let x1 := { x with hdr := BitVec.ofNat 256 (natOfBytes (image.take 32)), st := .ready }
      let bs := image.take b.cap
      setHolder s h { k with
        localStore := writeBytes k.localStore x.lsoff.toNat bs, top := max k.top (x.lsoff.toNat + bs.length),
        tiles := mapSet e x1 k.tiles, queues := mapSet q { b with filling := none } k.queues }

/-! ### Markers -/

/-- QMARK_RX (05 R141, R150): the receive end acknowledges a marker once earlier flits are delivered. -/
def execQmarkRx (core id : Nat) (stepNo : BitVec 16) (isEnd : Bool) (s : State) : Answer :=
  atBinding s core id fun _ q k b =>
    if b.dir == Dir.receive && b.paired && !b.xoff && b.filling.isNone then
      traceMark s 2 k.taskWorld q b stepNo isEnd
    else s

/-- QMARK_ACK (05 R141, R150): the acknowledgement of the oldest marker, which stands behind no tile that has not left,
reaches the sender; its `qmark` retires. -/
def execQmarkAck (core id : Nat) (s : State) : Answer :=
  atBinding s core id fun h q k b =>
    match b.marks with
    | [] => s
    | m :: rest =>
      if !m.2.2.2 || m.1 != 0 || !b.paired then s
      else
        let k1 := match k.ops.find? fun o => o.kind == OpKind.mark q with
          | some o => k.retire o
          | none => k
        setHolder (traceMark s 3 k.taskWorld q b m.2.1 m.2.2.1) h (k1.onQueue q fun b => { b with marks := rest })

end Sys2Proof.Machine
end

