-- ==== Sys2Proof/Machine/Seal.lean ====
section
/-! DEFINITION. How what leaves a die is sealed (19 R441 to R443): the keys, and the key and nonce of the next sealed unit
of each interface. No agent reads a key (19 R442), and what a sealed unit looks like on its wires is outside the model
(log entry 93). -/

namespace Sys2Proof.Machine

/-- Words that no rule states, drawn one after another. -/
def drawWords : Nat → State → List Word × State
  | 0, s => ([], s)
  | n + 1, s =>
    let r := drawWords n { s with free := s.free + 1 }
    (Config.freeWord s.free :: r.1, r.2)

/-- The number that some words make, the first lowest. -/
def joinWords : List Word → Nat
  | [] => 0
  | w :: rest => w.toNat + 2 ^ 64 * joinWords rest

/-- Boot step 1 draws a nonce, which gives the boot key with the fused root secret (19 R442). -/
def drawBootKey (s : State) : State :=
  let r := drawWords 6 s
  let nonce := BitVec.ofNat 384 (joinWords r.1)
  r.2.onHub fun h => { h with bootNonce := nonce, bootKey := Config.bootKey Config.rootSecret nonce }

/-- A channel configured to its peer (19 R442, R443): a new key, which the two management controllers agree, and counters
that start again. The key is a free value. -/
def newKey (s : State) (c : Nat) : State :=
  let r := drawWords 4 s
  r.2.setChan c { r.2.chan c with key := BitVec.ofNat 256 (joinWords r.1), sealFrom := (0, 0), sealTo := (0, 0) }

/-- What a sealed unit is sealed with (19 R441): the key, and the nonce, an identifier above a counter. -/
structure SealOf where
  key : BitVec 256
  id : BitVec 32
  count : BitVec 64
  deriving DecidableEq, Repr

/-- The key that a port's keys derive from: a port retrained after its isolation has one of its own for each reset, with its
COUNT and ATTEMPT (19 R443; log entry 93). -/
def portRoot (s : State) (p : Nat) : BitVec 256 :=
  let x := s.port p
  if x.isoCount = 0 then s.hub.bootKey else Config.portKey s.hub.bootKey p (4 * x.isoCount + x.isoAttempt)

/-- The next sealed unit of a UCIe port in a direction, 0 to the hub and 1 from it (19 R441 to R443; log entry 93). -/
def ucieSeal (s : State) (p : Nat) (toHub : Bool) : SealOf :=
  let x := s.port p
  let dir := if toHub then 0 else 1
  let n := if toHub then x.sealFrom else x.sealTo
  { key := Config.ucieKey (portRoot s p) p dir n.1, id := BitVec.ofNat 32 (2 * p + dir), count := BitVec.ofNat 64 n.2 }

/-- The next frame of an optical channel, sent or received (19 R441 to R443). -/
def channelSeal (s : State) (c : Nat) (sent : Bool) : SealOf :=
  let x := s.chan c
  let n := if sent then x.sealTo else x.sealFrom
  { key := Config.channelKey x.key sent n.1, id := BitVec.ofNat 32 c, count := BitVec.ofNat 64 n.2 }

/-- What a line of LPDDR is encrypted with (19 R441, R442): the key of this boot, and as tweak the local address of the line. -/
def memorySeal (s : State) (a : Nat) : BitVec 256 × Nat := (Config.memoryKey s.hub.bootKey, lineOf (localOf a) * 128)

end Sys2Proof.Machine
end

