-- ==== Sys2Proof/Machine/Fabric.lean ====
section
/-! DEFINITION. Operating the fabric (21): channels, width markers, parking and waking, send allowances, orbit slots,
fabric time, re-plans and reduction windows. -/

namespace Sys2Proof.Machine

/-! ### Bindings over a channel -/

/-- A bound queue name, by what holds it. -/
abbrev NameAt := Holder × Nat

/-- Every bound queue name of this module, those of saved tasks included (05 R144). -/
def boundNames (s : State) : List NameAt :=
  let names (h : Holder) (k : ArrayCore) : List NameAt :=
    (k.queues.filter fun b => b.2.dir != Dir.unbound).map fun b => (h, b.1)
  s.arrays.flatMap (fun k => names (.core k.1) k.2)
    ++ (s.hub.saved.filter (·.done)).flatMap fun v => match v.task with
      | some k => names (.saved v.id) k
      | none => []

/-- The binding of a name. -/
def bindingOf (s : State) (x : NameAt) : Binding := (holderCore s x.1).queue x.2

/-- The names bound over a channel. -/
def namesOver (s : State) (c : Nat) : List NameAt := (boundNames s).filter fun x => (bindingOf s x).chan == c

/-- A binding changed. -/
def onBinding (s : State) (x : NameAt) (f : Binding → Binding) : State :=
  setHolder s x.1 ((holderCore s x.1).onQueue x.2 f)

/-- A binding takes XOFF (05 R148, R149). -/
def stopBinding (unreach : Bool) (s : State) (x : NameAt) : State :=
  onBinding s x fun b => { b with xoff := true, unreach := b.unreach || unreach }

/-- What is on its way over a binding's channel is lost: tiles taken and not sent, a tile arriving in part (05 R149; 21
R471). -/
def loseTiles (s : State) (x : NameAt) : State :=
  let k := holderCore s x.1
  let b := k.queue x.2
  let k1 := b.taken.foldl (fun (k : ArrayCore) e => k.discardSend x.2 e) k
  let k2 := match b.filling with
    | some e => k1.onTile e fun y => { y with st := .empty }
    | none => k1
  let n := b.taken.length
  setHolder s x.1 (k2.onQueue x.2 fun b =>
    { b with taken := [], sent := 0, filling := none, fifo := b.fifo.filter fun e => some e != b.filling,
             marks := b.marks.map fun m => (m.1 - n, m.2) })

/-- The core that a holder's task runs on, or was saved from. -/
def Holder.coreNo (s : State) : Holder → Nat
  | .core c => c
  | .saved ctx => match heldTask s ctx with
    | some x => x.1.from?
    | none => 0

/-- The queue-link deferred fault of a binding's end (05 R149), which the Q engine reports. -/
def reportLink (s : State) (x : NameAt) : State :=
  match (holderCore s x.1).task with
  | some t => deferred s t.info .array (x.1.coreNo s) t.idx.toNat 0xFF .queueLink x.2 0 0 (cursorNo .Q)
  | none => s

/-! ### Channel states (21 R470, R471) -/

/-- STATE of CHAN_STAT. -/
def chanNo : ChanSt → Nat
  | .off => 0
  | .tuning => 1
  | .up => 2
  | .draining => 3
  | .dark => 4
  | .failed => 5

/-- The buffer of the link chiplet of a channel (22 R491). -/
def chanBuf (c : Nat) : Nat := 16 + c / 32

/-- A channel moves to a state, with its trace (22 R493). -/
def moveChan (s : State) (c : Nat) (x : Channel) (st : ChanSt) : State :=
  trace (s.setChan c { x with st := st }) (chanBuf c) 0x10 4 0xFFFF c (chanNo st + 256 * chanNo x.st) 0

/-- Planes and bands that CHAN_CTL assigns: plane and band of each position (21 R467). -/
def wavelengths (ctl : Word) : List (Nat × Nat) :=
  let n := ctl.toNat
  let on (plane mask : Nat) : List (Nat × Nat) := ((upFrom 0 4).filter fun b => bit mask b).map fun b => (plane, b)
  on (bits n 42 2) (bits n 32 4) ++ (if bit n 41 then on (bits n 44 2) (bits n 36 4) else [])

/-- Member `m'` of a group is reached from member `m` at this laser index (21 R466). -/
def laserIndex (m m' : Nat) : Nat := (m' % 128 + 128 - m % 128) % 128

/-- Where light on transmit fibre `f` at an index arrives from a module (21 R466): the module and its receive fibre. -/
def routed (m f i : Nat) : Nat × Nat := (128 * (f / 4) + (m % 128 + i) % 128, 4 * (m / 128) + f % 4)

/-- The transmit fibre and the band of a position of a channel (21 R465, R467). -/
def Channel.fibreOf (x : Channel) (i : Nat) : Nat × Nat :=
  (4 * (x.peer / 128) + (if i < 4 then bits x.ctl.toNat 42 2 else bits x.ctl.toNat 44 2), i % 4)

/-- The index to which the lasers of a channel are set (21 R466, R467). -/
def Channel.laser (x : Channel) (m : Nat) : Nat := laserIndex m x.peer

/-- The assignment of CHAN_CTL is valid (21 R470). -/
def assignable (s : State) (c : Nat) (ctl : Word) : Bool :=
  let n := ctl.toNat
  let peer := bits n 50 14
  let ws := wavelengths ctl
  reachable s peer && peer != s.module && peer / 128 / 16 == c / 32 && !ws.isEmpty && !ws.contains (3, 3)
    && !(bit n 41 && bits n 42 2 == bits n 44 2)
    && !s.hub.chans.any fun y =>
      y.1 != c && y.2.st != ChanSt.off && y.2.peer / 128 == peer / 128 && (wavelengths y.2.ctl).any fun w => ws.contains w

/-- The fields of CHAN_CTL that exist (21 R470). -/
def chanCtlMask : Word := 0xFFFF3EFF00000000

/-- Positions go dark: what is left of the lifetime of an allowance stays (21 R472). -/
def Channel.douse (x : Channel) (m : BitVec 8) (now : Nat) : Channel :=
  { x with locked := x.locked &&& ~~~m,
           life := (positions (x.locked &&& m)).foldl (fun l i => mapUpdate i (fun t => t - now) l) x.life }

/-- A position is locked: the lifetime of its allowance runs on (21 R472). -/
def Channel.lock (x : Channel) (i now : Nat) : Channel :=
  { x with locked := x.locked ||| BitVec.ofNat 8 (2 ^ i), waking := x.waking &&& ~~~BitVec.ofNat 8 (2 ^ i),
           life := mapUpdate i (fun t => now + t) x.life }

/-- A channel turned off (21 R471): flits not sent are discarded, its bindings take XOFF, and the requests that wait on it move
to the orbit lane. -/
def turnOff (s : State) (c : Nat) : State :=
  let s1 := (namesOver s c).foldl (fun s x => stopBinding false (loseTiles s x) x) (moveToOrbit s c)
  let x := s1.chan c
  let y := { x with ctl := x.ctl &&& ~~~(1 <<< 49 : Word), locked := 0, cur := 0, stripe := 0, rr := 0, marker := none,
                    waking := 0, have_ := 0, volume := [], life := [], frames := [], asking := 0, asked := 0, started := 0,
                    woken := 0, parked := x.park, oldReq := none, sentFrames := 0, acked := 0 }
  if x.st = .off then s1.setChan c y else moveChan s1 c y .off

/-- A channel asks for an allowance at each unparked position that has none; the requests travel on the orbit lane (21
R471, R472). -/
def Channel.ask (x : Channel) : Channel :=
  { x with asking := x.assigned &&& ~~~x.parked &&& ~~~x.have_, asked := 0 }

/-- A channel starts to tune for the first time (21 R471). -/
def startTuning (s0 : State) (c : Nat) : State :=
  let s := newKey s0 c
  let x := s.chan c
  moveChan s c { x with tuned := x.peer }.ask .tuning

/-- A dark channel tunes again (21 R471): when PEER has changed, its allowances are dropped and its bindings take
XOFF. -/
def undark (s : State) (c : Nat) : State :=
  let x := s.chan c
  if x.peer = x.tuned then moveChan s c x.ask .tuning
  else
    let s0 := newKey s c
    let s1 := moveChan s0 c { s0.chan c with tuned := x.peer, have_ := 0, volume := [], life := [] }.ask .tuning
    (namesOver s1 c).foldl (stopBinding false) s1

/-- A write of CHAN_CTL (21 R470, R471). -/
def writeChanCtl (s : State) (c : Nat) (v : Word) : State :=
  let x := s.chan c
  let w := v &&& chanCtlMask
  let en := w.getLsbD 49
  let dark := w.getLsbD 48
  let flags := (x.ctl &&& ~~~(1 <<< 48 : Word)) ||| (w &&& (1 <<< 48 : Word))
  match x.st with
  | .off =>
    if !en then s.setChan c { x with ctl := w }
    else if assignable s c w then startTuning (s.setChan c { x with ctl := w }) c
    else s.setChan c { x with ctl := w &&& ~~~(1 <<< 49 : Word), refused := true }
  | .dark =>
    let s1 := s.setChan c { x with ctl := w }
    if !en then turnOff s1 c else if dark then s1 else undark s1 c
  | .failed => if en then s else turnOff s c
  | .up =>
    if !en then turnOff s c
    else if dark then moveChan s c { x with ctl := flags } .draining
    else s.setChan c { x with ctl := flags }
  | _ => if en then s.setChan c { x with ctl := flags } else turnOff s c

/-- CHAN_ENABLE (21 R471): CHAN_CTL written with EN set. -/
def execChanEnable (c : Nat) (v : BitVec 64) (s : State) : Answer :=
  if 256 ≤ c then .next s else .next (writeChanCtl s c (v ||| (1 <<< 49 : Word)))

/-- CHAN_DISABLE (21 R471): EN := 0. -/
def execChanDisable (c : Nat) (s : State) : Answer :=
  .next (writeChanCtl s c ((s.chan c).ctl &&& ~~~(1 <<< 49 : Word)))

/-- CHAN_DARK (21 R471): DARK := 1. -/
def execChanDark (c : Nat) (s : State) : Answer := .next (writeChanCtl s c ((s.chan c).ctl ||| (1 <<< 48 : Word)))

/-- CHAN_UNDARK (21 R471): DARK := 0. -/
def execChanUndark (c : Nat) (s : State) : Answer :=
  .next (writeChanCtl s c ((s.chan c).ctl &&& ~~~(1 <<< 48 : Word)))

/-- The stripe of a width: the lowest usable positions (21 R467, R468). -/
def Channel.stripeFor (x : Channel) (w : Nat) : BitVec 8 :=
  BitVec.ofNat 8 ((x.usable.take w).foldl (fun m i => m + 2 ^ i) 0)

/-- Positions of a channel that are lit (21 R471, R473): the unparked ones while it tunes, else those locked or waking. -/
def Channel.lit (x : Channel) : BitVec 8 :=
  x.locked ||| x.started ||| (if x.st = .tuning then x.assigned &&& ~~~x.parked else 0)

/-- Lit transmit wavelengths of the module (21 R474). -/
def litCount (s : State) : Nat := s.hub.chans.foldl (fun n x => n + (positions x.2.lit).length) 0

/-- The governor starts the wake of a position while fewer wavelengths are lit than its ceiling (21 R474). -/
def startWake (c : Nat) (s : State) (i : Nat) : State :=
  if decide (litCount s < s.hub.ceiling) then
    s.setChan c { s.chan c with started := (s.chan c).started ||| BitVec.ofNat 8 (2 ^ i) }
  else s

/-- PARK as written comes into force (21 R473): a cleared bit starts the wake of a dark position while the channel is up; a
position that has no allowance asks for one. -/
def usePark (s : State) (c : Nat) : State :=
  let x := s.chan c
  let freed := x.parked &&& ~~~x.park &&& x.assigned
  let wake := if x.st = .up then freed &&& ~~~x.locked else 0
  let y := { x with parked := x.park, waking := (x.waking ||| wake) &&& ~~~x.park, started := x.started &&& ~~~x.park,
                    woken := x.woken &&& ~~~x.park,
                    asking := if x.st = .up ∨ x.st = .tuning then x.asking ||| (freed &&& ~~~x.have_ &&& ~~~x.asked) else x.asking }
  (positions wake).foldl (startWake c) (s.setChan c y)

/-- PARK written (21 R473, R482): while the channel is draining or dark it waits for the next up. -/
def setPark (s : State) (c : Nat) (park : BitVec 8) : State :=
  let s1 := s.setChan c { s.chan c with park := park }
  match (s.chan c).st with
  | .draining => s1
  | .dark => s1
  | _ => usePark s1 c

/-- The markers of the resident bindings over a channel that has come up are placed (05 R150; 21 R481). -/
def marksOver (s : State) (c : Nat) : State :=
  (namesOver s c).foldl (fun s n => placeHeld s n.1 n.2) s

/-- CHAN_TUNED (21 R471, R482): every unparked position is locked and one holds an allowance; the width is that of the REQ
before the dark interval; what PARK was written meanwhile acts now; DARK written while tuning acts now. -/
def execChanTuned (c : Nat) (s : State) : Answer :=
  let x := s.chan c
  let need := x.assigned &&& ~~~x.parked
  if x.st != ChanSt.tuning || need &&& ~~~x.locked != 0 || x.have_ == 0 then .next s
  else
    let y := x.douse x.parked s.now
    let w := widthFor (y.oldReq.getD y.req) y.usable.length
    let s1 := moveChan s c { y with cur := w, stripe := y.stripeFor w, rr := 0, marker := none, oldReq := none } .up
    let s2 := marksOver (usePark s1 c) c
    .next (if x.ctl.getLsbD 48 then moveChan s2 c (s2.chan c) .draining else s2)

/-- Every flit that the channel sent is acknowledged, and nothing that it took is left to send (21 R471). -/
def drained (s : State) (c : Nat) : Bool :=
  let x := s.chan c
  x.reqs.isEmpty && x.sentFrames == x.acked && (namesOver s c).all fun n => (bindingOf s n).taken.isEmpty

/-- A channel gone dark (21 R471, R473): allowances that are not held are dropped, those held and those of parked positions
freeze. -/
def Channel.darkened (x : Channel) (now : Nat) : Channel :=
  { (x.douse 0xFF now) with
      have_ := x.have_ &&& (x.hold ||| x.parked), marker := none, waking := 0, asking := 0, asked := 0, started := 0, woken := 0,
      oldReq := some x.req }

/-- CHAN_DRAINED (21 R471): every flit sent is acknowledged; DARK cleared while draining acts now. -/
def execChanDrained (c : Nat) (s : State) : Answer :=
  let x := s.chan c
  if x.st != ChanSt.draining || !drained s c then .next s
  else
    let s1 := moveChan s c (x.darkened s.now) .dark
    .next (if x.ctl.getLsbD 48 then s1 else undark s1 c)

/-- A channel fails beyond retry (21 R471; 05 R149): tiles in flight are lost, both ends report queue-link and take
XOFF; with the channel no longer up, what waits on it moves to the orbit lane (R477). -/
def failChannel (s : State) (c : Nat) : State :=
  let s1 := (namesOver s c).foldl (fun s x => stopBinding false (reportLink (loseTiles s x) x) x) (moveToOrbit s c)
  moveChan s1 c { s1.chan c with marker := none, frames := [] } .failed

/-- LINK_NAK (21 R477): a frame of the replay buffer is sent again, up to four times; then the channel fails. -/
def execLinkNak (c frame : Nat) (s : State) : Answer :=
  let x := s.chan c
  if (x.st != ChanSt.up && x.st != ChanSt.draining) || frame < x.acked || x.sentFrames ≤ frame then .next s
  else
    let n := mapGet 0 x.frames frame
    if 4 ≤ n then .next (failChannel s c)
    else .next (s.setChan c { x with retry := min 65535 (x.retry + 1), frames := mapSet frame (n + 1) x.frames })

/-! ### Width markers, parking and waking (21 R468, R473, R474) -/

/-- WIDTH_MARKER_PLACE (21 R468, R473): the computed width differs from the one in force, or a parked position is still
lit; one marker is outstanding at a time. -/
def execWidthMarkerPlace (c : Nat) (s : State) : Answer :=
  let x := s.chan c
  let w := x.computed
  if (x.st != ChanSt.up && x.st != ChanSt.draining) || x.marker.isSome || (w == x.cur && x.locked &&& x.parked == 0) then
    .next s
  else .next (s.setChan c { x with marker := some (w, x.stripeFor w) })

/-- Flits that have left by now of a tile being sent over a channel (21 R468, R482; 23 R501): how many, and of which binding,
no step shows, so both are free values. The rest of the tile leaves with SEND_RETIRE. -/
def sendSome (s : State) (c : Nat) : State :=
  match (namesOver s c).filter fun n => !(bindingOf s n).taken.isEmpty with
  | [] => s
  | names =>
    let n := names.getD ((Config.freeWord s.free).toNat % names.length) (.core 0, 0)
    let k := holderCore s n.1
    let b := k.queue n.2
    let left := flitsOf (mapGet TileEntry.blank k.tiles (b.taken.headD 0)).header.tlen - b.sent
    let r := (s.chan c).charge ((Config.freeWord (s.free + 1)).toNat % (left + 1))
    onBinding ({ s with free := s.free + 2 }.setChan c r.1) n fun b => { b with sent := b.sent + r.2 }

/-- WIDTH_MARKER_CONFIRM (21 R468, R473): what was sent until now went at the old width; the announced width is in force;
parked positions outside the new stripe go dark. -/
def execWidthMarkerConfirm (c : Nat) (s0 : State) : Answer :=
  let s := sendSome s0 c
  let x := s.chan c
  match x.marker with
  | none => .next s0
  | some (w, m) =>
    let gone := x.locked &&& x.parked &&& ~~~m
    let y := x.douse gone s.now
    let s1 := setSending s c { y with cur := w, stripe := m, rr := 0, marker := none }
    let s2 := trace s1 (chanBuf c) 0x11 4 0xFFFF c (w + 256 * x.cur) 0
    .next (if gone = 0 then s2 else trace s2 (chanBuf c) 0x12 4 0xFFFF c gone.toNat 0)

/-- CHAN_PARK (21 R473). -/
def execChanPark (c : Nat) (mask : BitVec 8) (s : State) : Answer := .next (setPark s c ((s.chan c).park ||| mask))

/-- CHAN_UNPARK (21 R473). -/
def execChanUnpark (c : Nat) (mask : BitVec 8) (s : State) : Answer := .next (setPark s c ((s.chan c).park &&& ~~~mask))

/-- The laser of a position works: 4 f + band of transmit fibre f (19 R450, R451; 21 R465). -/
def laserWorks (s : State) (x : Channel) (i : Nat) : Bool :=
  match bootInForce s with
  | some b => !b.lasers.contains (4 * (x.fibreOf i).1 + (x.fibreOf i).2)
  | none => true

/-- A waking position is locked (21 R473): when no other position of the wake is still on its way, the wake is traced (22
R493). -/
def lockWoken (s : State) (c i : Nat) : State :=
  let x := (s.chan c).lock i s.now
  let m : BitVec 8 := BitVec.ofNat 8 (2 ^ i)
  let y := { x with started := x.started &&& ~~~m, woken := x.woken ||| m }
  if y.started = 0 then trace (s.setChan c { y with woken := 0 }) (chanBuf c) 0x13 4 0xFFFF c y.woken.toNat 0 else s.setChan c y

/-- POSITION_LOCKED (21 R471, R473, R474): a position is lit, locked and deskewed. A wake that the ceiling held back may
start before it. -/
def execPositionLocked (c i : Nat) (s : State) : Answer :=
  let x := s.chan c
  let free := x.assigned.getLsbD i && !x.locked.getLsbD i && laserWorks s x i && decide (i < 8)
  match x.st with
  | .tuning => if free && !x.parked.getLsbD i then .next (s.setChan c (x.lock i s.now)) else .next s
  | .off => .next s
  | .dark => .next s
  | .failed => .next s
  | _ =>
    if free && x.waking.getLsbD i && (x.started.getLsbD i || decide (litCount s < s.hub.ceiling)) then .next (lockWoken s c i)
    else .next s

/-- OPTICAL_CEILING_LOWER (21 R474). -/
def execOpticalCeilingLower (v : Nat) (s : State) : Answer :=
  .next (s.onHub fun h => { h with ceiling := min h.ceiling v })

/-! ### Send allowances (21 R472) -/

/-- No grant and nobody waiting. -/
def RSlot.blank : RSlot := { grantee := none, queue := [], waits := false, tuned := none, ready := 0, volume := 0, lapse := 0 }

/-- A receive slot: band `b` of receive fibre `f` is slot 4 f + b (21 R465). -/
def State.rslot (s : State) (n : Nat) : RSlot := mapGet RSlot.blank s.hub.slots n

/-- A receive slot changed. -/
def setSlot (s : State) (n : Nat) (x : RSlot) : State := s.onHub fun h => { h with slots := mapSet n x h.slots }

/-- The default grant of a receive slot to a sender, 64 units and 100 µs (21 R466, R472): its local oscillator is tuned to the
sender and locks in 200 ns; the grant travels on the channel back to the sender, if that is up now, and otherwise in an
orbit slot. -/
def grantSlot (s : State) (n sender : Nat) (queue : List Nat) : State :=
  let x := s.rslot n
  let back := channelTo s sender
  setSlot (if back then payTo s sender else s) n
    { grantee := some sender, queue := queue, waits := !back, tuned := some sender,
      ready := if x.tuned = some sender then x.ready else s.now + 200, volume := 1024, lapse := s.now + 100000 }

/-- The next sender of a receive slot is granted, or none (21 R472). -/
def nextGrant (s : State) (n : Nat) : State :=
  let x := s.rslot n
  match x.queue with
  | [] => setSlot s n { x with grantee := none, waits := false, volume := 0, lapse := 0 }
  | m :: rest => grantSlot s n m rest

/-- ALLOWANCE_REQUEST (21 R472): a sender asks for receive slot (fibre, band); a slot serves one sender at a time, in the
order of requests. A sender that asks again has used its grant up, and waits its turn. -/
def execAllowanceRequest (c i sender : Nat) (s : State) : Answer :=
  let n := 4 * c + i
  let x := s.rslot n
  match x.grantee with
  | none => .next (grantSlot s n sender x.queue)
  | some g =>
    if x.queue.contains sender then .next s
    else
      let s1 := setSlot s n { x with queue := x.queue ++ [sender] }
      .next (if g = sender then nextGrant s1 n else s1)

/-- ALLOWANCE_GRANT (21 R472): the grant that a position has asked for reaches the sender; one unit of volume pays for 16
flits. What waits on the channel goes on. -/
def execAllowanceGrant (c i volume life : Nat) (s : State) : Answer :=
  let x := s.chan c
  if !x.assigned.getLsbD i || !x.asked.getLsbD i
      || (x.st != ChanSt.tuning && x.st != ChanSt.up && x.st != ChanSt.draining) then .next s
  else .next (setSending s c
    { x with have_ := x.have_ ||| BitVec.ofNat 8 (2 ^ i), asked := x.asked &&& ~~~BitVec.ofNat 8 (2 ^ i),
             volume := mapSet i (16 * volume) x.volume,
             life := mapSet i (if x.locked.getLsbD i then s.now + life else life) x.life })

/-- The receiver's link chiplet has buffer space for the volume of a grant: what it holds, no rule states (21 R472; log entry
95). -/
def hasSpace (s : State) : Bool := (Config.freeWord s.free).getLsbD 0

/-- The receiver renews the grant of a slot to the default when less than half of its volume or of its lifetime remains, while
it has buffer space (21 R472). -/
def renewSlot (s : State) (n : Nat) : State :=
  let x := s.rslot n
  let s1 := { s with free := s.free + 1 }
  match x.grantee with
  | none => s
  | some m =>
    if decide (512 ≤ x.volume) && decide (50000 ≤ x.lapse - s.now) then s
    else if hasSpace s then grantSlot s1 n m x.queue
    else s1

/-- The renewal of a position's grant reaches the sender (21 R472). -/
def renewPosition (s : State) (c i : Nat) : State :=
  let x := s.chan c
  let left := mapGet 0 x.life i - s.now
  if !x.have_.getLsbD i || !x.locked.getLsbD i || (decide (512 ≤ mapGet 0 x.volume i) && decide (50000 ≤ left)) then s
  else s.setChan c { x with volume := mapSet i 1024 x.volume, life := mapSet i (s.now + 100000) x.life }

/-- ALLOWANCE_RENEW (21 R472): a grant with less than half of its volume or lifetime left is renewed to the default 64
units and 100 µs: at the receiver, or for a position of the sender. -/
def execAllowanceRenew (x : AllowEnd) (i : Nat) (s : State) : Answer :=
  match x with
  | .sender c => .next (renewPosition s c i)
  | .receiver f => .next (renewSlot s (4 * f + i))

/-- The lifetime of a position's allowance lapses, unless it is frozen with its position, and the position asks again (21 R472;
log entry 95). -/
def lapsePosition (s0 : State) (c i : Nat) : State :=
  let s := sendSome s0 c
  let x := s.chan c
  let m : BitVec 8 := BitVec.ofNat 8 (2 ^ i)
  let frozen := !x.locked.getLsbD i || x.parked.getLsbD i
    || (x.hold.getLsbD i && (x.st == ChanSt.draining || x.st == ChanSt.dark))
  if !(s0.chan c).have_.getLsbD i || frozen || decide (s.now < mapGet 0 x.life i) then s0
  else s.setChan c { x with have_ := x.have_ &&& ~~~m, expired := x.expired ||| m, asking := x.asking ||| m }

/-- ALLOWANCE_EXPIRY (21 R472): the lifetime of a position's allowance lapses; or the grant of a receive slot lapses and the
next sender is granted. -/
def execAllowanceExpiry (x : AllowEnd) (i : Nat) (s : State) : Answer :=
  match x with
  | .sender c => .next (lapsePosition s c i)
  | .receiver f =>
    let y := s.rslot (4 * f + i)
    if y.grantee.isNone || decide (s.now < y.lapse) then .next s else .next (nextGrant s (4 * f + i))

/-! ### Orbit lanes and fabric time (21 R475, R476) -/

/-- The member number of a module (21 R465). -/
def memberOf (m : Nat) : Nat := m % 128

/-- A module is reached in an orbit slot, over a link chiplet that runs (21 R476). -/
def orbitReaches (s : State) (slot m : Nat) : Bool :=
  slot == (memberOf s.module + 128 - memberOf m) % 128 && (s.port (16 + m / 128 / 16)).st == PortSt.running

/-- The requests that go out in an orbit slot (21 R476): those to a member that the slot reaches, at most four flits to
one module, of which its allowance messages take one (log entry 95). -/
def orbitBurst (s : State) (slot : Nat) (allow : List Nat) (ids : List Nat) : List Nat :=
  let hit := (ids.filterMap fun id => (findFlight s.flight id).map fun f => (id, moduleOf f.addr)).filter fun x =>
    orbitReaches s slot x.2
  let room (m : Nat) : Nat := if allow.contains m then 3 else 4
  (hit.foldl (fun (acc : List (Nat × Nat)) x =>
    if (acc.filter fun y => y.2 == x.2).length < room x.2 then acc ++ [x] else acc) []).map (·.1)

/-- ORBIT_SLOT (21 R472, R476, R477): slot floor(t / 250 ns) mod 128 begins; the allowance requests and grants, and the
requests, that it reaches go out; nothing is sent while LOCK is 0. -/
def execOrbitSlot (slot : Nat) (s : State) : Answer :=
  if !s.hub.ftLock || slot != s.now / 250 % 128 then .next s
  else
    let asks (x : Channel) : Bool := x.asking != 0 && orbitReaches s slot x.peer
    let grants (y : RSlot) : Bool := y.waits && y.grantee.any (orbitReaches s slot)
    let allow := ((s.hub.chans.filter fun x => asks x.2).map fun x => x.2.peer)
      ++ (s.hub.slots.filter fun y => grants y.2).filterMap fun y => y.2.grantee
    let gone := orbitBurst s slot allow (s.hub.orbit ++ s.hub.resends)
    .next ((gone.foldl leftNow s).onHub fun h => { h with
      orbit := h.orbit.filter fun id => !gone.contains id, resends := h.resends.filter fun id => !gone.contains id,
      chans := mapAll (fun _ x => if asks x then { x with asking := 0, asked := x.asked ||| x.asking } else x) h.chans,
      slots := mapAll (fun _ y => if grants y then { y with waits := false } else y) h.slots })

/-- PTP_SYNC (21 R475): a sync in the domain of FT_CTL; the first sets fabric time to the master's when that lies ahead, and
holds it otherwise until the master's time passes it; LOCK follows the measured offset. -/
def execPtpSync (master : PtpTime) (offset : BitVec 32) (s : State) : Answer :=
  if master.domain % 256 != s.hub.ftDomain then .next s
  else
    let near := decide (-20 ≤ offset.toInt) && decide (offset.toInt ≤ 20)
    let far := master.ns * 65536
    let t := if s.hub.synced then s.time else max s.time far
    let hold := if s.hub.synced then s.hub.ftHold else s.time - far
    .next ({ s with time := t }.onHub fun h =>
      { h with ftOffset := offset, ftLock := near, synced := true, ftHold := hold, lastSync := t - hold })

/-- PTP_SYNC_TIMEOUT (21 R475): no sync for 2 s. What is still held of fabric time has not passed. -/
def execPtpSyncTimeout (s : State) : Answer :=
  if s.time - s.hub.ftHold < s.hub.lastSync + 2000000000 * 65536 then .next s
  else .next (s.onHub fun h => { h with ftLock := false })

/-! ### Reduction windows (21 R479) -/

/-- RWIN_WRITE (21 R479): the pending entries of the old window are written first. -/
def execRwinWrite (link e : Nat) (isLimit : Bool) (v : BitVec 64) (s : State) : Answer :=
  if 8 ≤ link || 128 ≤ e then .next s
  else
    let n := 128 * link + e
    let old := mapGet { base := 0, limit := 0 } s.hub.rwins n
    let b := old.base.toNat / 4096 * 4096
    let l := old.limit.toNat / 4096 * 4096 + 4096
    let s1 := if old.base.getLsbD 0 && decide (b < l) then flushMerge s (s.home b) (l - b) else s
    let w : RWin := if isLimit then { old with limit := v &&& 0x000003FFFFFFF000 }
      else { old with base := v &&& 0x000003FFFFFFF001 }
    .next (s1.onHub fun h => { h with rwins := mapSet n w h.rwins })

/-- The receive slot of a frame, plane 3 band 3 aside, hears its source: the fibre is that of the source's group, and the slot's
local oscillator is locked to the source (21 R465, R466). -/
def hears (s : State) (x : OpticalFrame) : Bool :=
  let y := s.rslot (4 * x.fibre + x.band)
  x.fibre / 4 == x.source / 128 && !(x.fibre % 4 == 3 && x.band == 3) && y.tuned == some x.source && decide (y.ready ≤ s.now)

/-- The orbit lane hears, in this slot, the member of the source group that the schedule names (21 R476). -/
def orbitHears (s : State) (x : OpticalFrame) : Bool :=
  x.fibre / 4 == x.source / 128 && x.fibre % 4 == 3 && x.band == 3 && decide (x.flits ≤ 4)
    && memberOf x.source == (s.now / 250 % 128 + memberOf s.module) % 128

/-- Flits received under a grant use its volume; once it is used up, the next sender that waits is granted (21 R472). -/
def useSlot (s : State) (x : OpticalFrame) : State :=
  let n := 4 * x.fibre + x.band
  let y := s.rslot n
  let s1 := setSlot s n { y with volume := y.volume - x.flits }
  if y.volume ≤ x.flits ∧ !y.queue.isEmpty then nextGrant s1 n else s1

/-- Acknowledgements of the peer: those frames leave the replay buffer, and what waits goes on (21 R471, R477). -/
def Channel.takeAcks (x : Channel) (n : Nat) : Channel :=
  let a := min x.sentFrames (max x.acked n)
  { x with acked := a, frames := x.frames.filter fun e => decide (a ≤ e.1) }

/-- OPTICAL_FRAME_RECEIVE (21 R466, R476, R477; 19 R443, R444): a frame that its receive slot hears is answered: 1 for an
acknowledgement, 2 for a negative one, with 4 added when the answer confirms a width marker. A sound frame moves the channel's
counter on; one of an orbit lane belongs to no channel. -/
def execOpticalFrameReceive (c : Nat) (checksOk : Bool) (x : OpticalFrame) (s : State) : Answer :=
  let y := s.chan c
  let answer (s : State) : State := { s with reply := some [word (if checksOk then 1 + 4 * ofBool x.confirms else 2)] }
  if orbitHears s x then .next (answer s)
  else if y.st == ChanSt.off || y.st == ChanSt.dark || y.st == ChanSt.failed || y.peer != x.source || !hears s x then .next s
  else if checksOk then
    let s1 := useSlot s x
    .next (answer (setSending s1 c { ((s1.chan c).takeAcks x.acked) with sealFrom := nextSeal y.sealFrom }))
  else .next (answer s)

end Sys2Proof.Machine
end

