-- ==== Sys2Proof/Machine/Remote.lean ====
section
/-! DEFINITION. Requests between modules: arrival at most once and in number order, replies, the end-to-end timer, and
the commit of a re-plan (06 R161, R162, R176; 08 R224; 21 R477, R478, R480). -/

namespace Sys2Proof.Machine

/-! ### At the home -/

/-- Number `a` comes before number `b`, modulo 2^32 (21 R478). -/
def seqBefore (a b : Nat) : Bool := decide (0 < (b + 2 ^ 32 - a) % 2 ^ 32) && decide ((b + 2 ^ 32 - a) % 2 ^ 32 < 2 ^ 31)

/-- The home's end after a FLOOR has come: what lies below it is acknowledged and forgotten (21 R478). -/
def HomeEnd.raise (h : HomeEnd) (floor : Nat) : HomeEnd :=
  let f := if seqBefore h.floor floor then floor else h.floor
  { applied := h.applied.filter fun n => !seqBefore n f, replies := h.replies.filter fun r => !seqBefore r.1 f, floor := f }

/-- Every number from the floor up to one has been applied. -/
def HomeEnd.caughtUp (h : HomeEnd) (seq : Nat) : Bool :=
  (upFrom 0 ((seq + 2 ^ 32 - h.floor) % 2 ^ 32)).all fun i => h.applied.contains ((h.floor + i) % 2 ^ 32)

/-- A peer's request that this module can answer: a naturally aligned access to coherent memory, or so many bytes of a copy
command within one line. -/
def servable (s : State) (r : RemoteReq) : Bool :=
  moduleOf r.addr == s.module && isCoherent (localOf r.addr)
    && (if (remoteAccess r).copies then decide (0 < r.size) && decide (r.addr % 128 + r.size ≤ 128)
        else [1, 2, 4, 8].contains r.size && r.addr % r.size == 0)

/-- A request of a source waits in the list of its line (16 R401). -/
def peerWaits (s : State) (src seq : Nat) : Bool := s.sliceReqs.any fun x => match x.2 with
  | .peer p n _ => p == src && n == seq
  | _ => false

/-- A reply to a peer, over a channel to it where one sends (19 R441; log entry 92). -/
def answerPeer (s : State) (src : Nat) (ws : List Word) : State := { payTo s src with reply := some ws }

/-- A request from a peer arrives (21 R478): applied once and in number order, behind those that wait for its line (16 R401), a
duplicate answered from the cache, an abandoned number ignored. An address that is reserved here is answered so (R408). -/
def arriveHere (s : State) (src seq floor : Nat) (r : RemoteReq) : State :=
  let h := (mapGet HomeEnd.blank s.homes src).raise (floor % 2 ^ 32)
  let s1 := { s with homes := mapSet src h s.homes }
  if h.applied.contains seq then
    answerPeer s1 src (word seq :: (h.replies.lookup seq).getD [0])
  else if seqBefore seq h.floor || !h.caughtUp seq || !servable s r || peerWaits s src seq
      || (remoteReturns r && decide (1024 ≤ h.replies.length)) then s1
  else if isReserved s (localOf r.addr) then
    answerPeer { s1 with homes := mapSet src { h with applied := h.applied ++ [seq] } s1.homes } src
      [word seq, word (causeCode .addressRange)]
  else if busyRange s r.addr r.size then
    (if 2048 + 16384 ≤ waitingIn s (sliceOf (lineOf r.addr)) then s1.onHub fun h => { h with sfull := true }
    else joinSlice s1 (lineOf r.addr) (.peer src seq r))
  else
    let x := servePeer s1 src seq r
    answerPeer x src (word seq :: ((mapGet HomeEnd.blank x.homes src).replies.lookup seq).getD [0])

/-! ### At the source -/

/-- The requests to a module without replies. -/
def State.waitingFor (s : State) (m : Nat) : RemoteEnd := mapGet RemoteEnd.blank s.remote m

/-- A request of this module has been applied at its home. -/
def appliedThere (s : State) (id : Nat) : Bool :=
  match findFlight s.flight id with
  | none => true
  | some f => f.applied

/-- Requests numbered before one have been applied at the home (21 R478). -/
def inOrder (s : State) (seq : Nat) : List Await → Bool
  | [] => true
  | x :: rest => x.seq == seq || (appliedThere s x.id && inOrder s seq rest)

/-- A request of this module arrives at its home (06 R161, R176): applied once, in number order, once it has left. A
request that a re-plan abandoned may still be applied, once at most (21 R480). -/
def arriveThere (s : State) (home seq : Nat) : State :=
  let ws := (s.waitingFor home).waiting
  match ws.find? fun x => x.seq == seq with
  | some w =>
    match findFlight s.flight w.id with
    | none => s
    | some f =>
      if f.stage != Stage.sent || unleft s w.id || !inOrder s seq ws then s else (applyFlight s f).sweep
  | none =>
    match s.late.find? fun f => f.seq == seq && moduleOf f.addr == home with
    | none => s
    | some f =>
      let s1 := { s with late := s.late.filter fun g => g.id != f.id }
      if f.kind == AccKind.copy || f.kind == AccKind.flag then putHome s1 f.addr f.bulk
      else (applyAt s1 f.kind f.origin.world f.addr f.size f.data f.cmp).1

/-- REMOTE_REQUEST_ARRIVAL (21 R478; 06 R161, R174, R176). -/
def execRemoteRequestArrival (src home seq floor : Nat) (r : RemoteReq) (s : State) : Answer :=
  if home = s.module ∧ src ≠ s.module then .next (arriveHere s src (seq % 2 ^ 32) floor r)
  else if src = s.module ∧ home ≠ s.module then .next (arriveThere s home seq)
  else .next s

/-- A request no longer awaits its reply; FLOOR is the lowest number still awaited (21 R478). -/
def dropWaiting (s : State) (home seq : Nat) : State :=
  let r := s.waitingFor home
  let ws := r.waiting.filter fun x => x.seq != seq
  let floor := match ws with
    | [] => r.next
    | x :: _ => x.seq
  { s with remote := mapSet home { r with waiting := ws, floor := floor } s.remote }

/-- REMOTE_REPLY (06 R176): the first reply is taken; any later one is discarded. -/
def execRemoteReply (home seq : Nat) (s : State) : Answer :=
  match (s.waitingFor home).waiting.find? fun x => x.seq == seq with
  | none => .next s
  | some x => if appliedThere s x.id then .next (dropWaiting s home seq).sweep else .next s

/-- The error of an abandoned write of a copy command (11 R300, R303): its record, each command's once, and the failure of the
flags that cover it. -/
def abandonWrite (s : State) (f : Flight) : State :=
  let told := s.copies.any fun c => c.id == f.grp && c.said.contains .remoteFailed
  failWrites (failCopy (if told then s else asyncReport s f.origin false .remoteFailed 0 0) f.grp) f.origin f.agent f.grp
    (moduleOf f.addr)

/-- The error of an abandoned request (08 R224; 11 R300; 12 R332): a record; a copy command reports its own. A control hart or a
device gets the cause instead. -/
def abandonReport (s : State) (f : Flight) : State :=
  match f.kind with
  | .copy => abandonWrite s f
  | .copyRead => breakRead s f.grp
  | .flag => breakFlag s f.grp
  | .red _ => asyncReport s f.origin true .remoteFailed 0 f.addr
  | _ => if f.agent.home.isNone then s else asyncReport s f.origin false .remoteFailed 0 f.addr

/-- A flight abandoned with remote-failed (08 R224; 12 R332): what it returns is 0; an access not yet applied is not
made here. A flag's request is over; its `dflag` fails. -/
def abandon (s : State) (id : Nat) : State :=
  match findFlight s.flight id with
  | none => s
  | some f =>
    let fl := if f.agent.home.isNone then causeCode .remoteFailed else 0
    let s2 := (abandonReport s f).onFlight id fun g =>
      { g with stage := .applied, value := 0, flags := fl, fwd := none, counted := g.counted && g.kind != AccKind.flag,
               bulk := if g.kind == AccKind.copyRead then clean (List.replicate g.size 0) else g.bulk }
    (forgetLeaving s2 id).sweep

/-- E2E_TIMER_EXPIRY (21 R477): 50 µs after it left, the request is sent again, on the orbit lane when no channel is up; at the
fourth expiry it is abandoned. The timer of a request that waits to leave has not started (R476). -/
def execE2eTimerExpiry (home seq : Nat) (s : State) : Answer :=
  let r := s.waitingFor home
  match r.waiting.find? fun x => x.seq == seq with
  | none => .next s
  | some w =>
    if waitsToLeave s w.id || decide (s.now < w.since + 50000) then .next s
    else if w.tries < 3 then
      let ws := r.waiting.map fun x => if x.seq = seq then { x with tries := x.tries + 1 } else x
      .next (leaveFor { s with remote := mapSet home { r with waiting := ws } s.remote } home w.id false)
    else .next (abandon (dropWaiting s home seq) w.id)

/-! ### Re-plans (21 R480; 05 R148) -/

/-- Doubleword `j` of a table admits module 64 j + b for each bit b. -/
def admits (t : Map Word) (m : Nat) : Bool := (mapGet (0 : Word) t (m / 64)).getLsbD (m % 64)

/-- A module other than this one that the table in force admits and the staged one does not. -/
def removedBy (s : State) (m : Nat) : Bool := m != s.module && admits s.hub.reach m && !admits s.hub.reachStaged m

/-- A request of this module to a removed one that has not been sent: it cannot be sent any more (08 R240; 21 R480). -/
def unsentTo (s : State) (m : Nat) : List Nat :=
  (s.flight.filter fun f => f.remote s && moduleOf f.addr == m && !f.kind.isFence
    && (f.stage == Stage.issued || f.stage == Stage.posted)).map (·.id)

/-- Copy commands learn that a module is removed (21 R480): a flag that waits for its acknowledgement fails. -/
def cutCopies (s : State) (m : Nat) : State :=
  { s with copies := s.copies.map fun c => { c with cut := if c.cut.contains m then c.cut else m :: c.cut } }

/-- The requests to a removed module abandoned at once; one still on its way may be applied on arrival (21 R480). -/
def abandonAll (s : State) (m : Nat) : State :=
  let ws := (s.waitingFor m).waiting
  let open_ := ws.filterMap fun x => (findFlight s.flight x.id).bind fun f =>
    if f.applied || unleft s f.id then none else some f
  let s1 := { s with late := s.late ++ open_ }
  let s2 := ws.foldl (fun s x => abandon (dropWaiting s m x.seq) x.id) s1
  (unsentTo s2 m).foldl abandon (cutCopies s2 m)

/-- REACH_COMMIT (21 R480; 05 R148): the staged table binds; bindings, requests and channels to removed peers stop. -/
def execReachCommit (s : State) : Answer :=
  let gen := (s.hub.reachGen + 1) % 2 ^ 16
  let names := (boundNames s).filter fun x => removedBy s (bindingOf s x).peerMod
  let chans := (s.hub.chans.filter fun x => removedBy s x.2.peer && x.2.st != ChanSt.off).map (·.1)
  let mods := ((s.remote.map (·.1)) ++ (s.flight.map fun f => moduleOf f.addr)
    ++ s.copies.flatMap fun c => c.pieces.flatMap fun p => [p.src.module s, p.dst.module s]).eraseDups.filter (removedBy s)
  let s1 := s.onHub fun h => { h with reach := h.reachStaged, reachGen := gen }
  let s2 := trace s1 24 0x14 4 0xFFFF 0 gen 0
  let s3 := names.foldl (stopBinding true) s2
  let s4 := mods.foldl abandonAll s3
  .next (chans.foldl turnOff s4)

end Sys2Proof.Machine
end

