-- ==== Sys2Proof/Machine/Ports.lean ====
section
/-! DEFINITION. Ports: their states and registers, enumeration, capability tables (16 R388 to R398), the boot record
(19 R451), and the isolation agent's steps over a port (18 R436). -/

namespace Sys2Proof.Machine

/-! ### The boot record (19 R451) -/

/-- A record before any has been written. -/
def BootCopy.blank : BootCopy :=
  { boots := 0, step := 0, image := 0, rate := 0, ports := List.replicate 24 0, near := [], lasers := [], crcOk := true }

/-- The record in force, or an empty one. -/
def bootRecord (s : State) : BootCopy := (bootInForce s).getD BootCopy.blank

/-- The record written to the older copy (19 R451); each write raises MC_MGEN.GEN. -/
def writeBoot (s : State) (f : BootCopy → BootCopy) : State :=
  let r := bootRecord s
  let new := { f r with boots := (r.boots + 1) % 2 ^ 32, crcOk := true }
  bumpGen (s.onHub fun h => { h with bootRec := (bootInForce s).toList ++ [new] })

/-- The entry of a port in the record: 0 train at 64 GT/s, 1 at 32 GT/s, 2 out. -/
def BootCopy.port (b : BootCopy) (p : Nat) : Nat := nth 0 b.ports p

/-- The record with a port's entry. -/
def BootCopy.setPort (b : BootCopy) (p v : Nat) : BootCopy := { b with ports := setNth v b.ports p }

/-- The entry of a port that this boot goes by (19 R451). -/
def portEntry (s : State) (p : Nat) : Nat := nth 0 s.hub.entries p

/-- A port's entry of this boot moved, and written into the record (19 R451). -/
def moveEntry (s : State) (p v : Nat) : State :=
  writeBoot (s.onHub fun h => { h with entries := setNth v ((upFrom 0 24).map (nth 0 h.entries)) p }) fun b => b.setPort p v

/-! ### Chiplets -/

/-- The cores of the chiplet at a port (00 R1, R2; 16 R388). -/
def coresAt (p : Nat) : List (CoreKind × Nat) :=
  if 2 ≤ p ∧ p < 6 then (upFrom (48 * (p - 2)) 48).map fun c => (.lane, c)
  else if 6 ≤ p ∧ p < 16 then (upFrom (16 * (p - 6)) 16).map fun c => (.array, c)
  else []

/-- The chiplet has no resident unit. -/
def chipletEmpty (s : State) (p : Nat) : Bool := (coresAt p).all fun x => !coreResident s x.1 x.2

/-- The kind code of a port (16 R388, R392): CTL, LANE, ARR, LINK. -/
def kindOfPort (p : Nat) : Nat := if p < 2 then 0 else if p < 6 then 1 else if p < 16 then 2 else 3

/-- The channels of the link chiplet at a port. -/
def chansAt (s : State) (p : Nat) : List Nat :=
  if p < 16 then [] else (s.hub.chans.filter fun x => x.1 / 32 == p - 16).map (·.1)

/-- The chiplet at a port loses its state: cores empty and of no world, channels and reduction windows at reset,
mailboxes of harts empty. -/
def loseState (s : State) (p : Nat) : State :=
  let s1 := (coresAt p).foldl (fun s x => match x.1 with
    | .array => { s with arrays := mapErase x.2 s.arrays }
    | .lane => { s with lanes := mapErase x.2 s.lanes }) (dropHeld s p)
  let s2 := (chansAt s1 p).foldl (fun s c => (turnOff s c).onHub fun h => { h with chans := mapErase c h.chans }) s1
  s2.onHub fun h => { h with
    rwins := if p < 16 then h.rwins else h.rwins.filter fun x => x.1 / 128 != p - 16,
    cmbx := if p < 2 then h.cmbx.filter fun x => x.1 / 32 != p else h.cmbx,
    cmbxTgt := if p < 2 then h.cmbxTgt.filter fun x => x.1 / 32 != p else h.cmbxTgt,
    cmbxLast := if p < 2 then h.cmbxLast.filter fun x => x.1 / 32 != p else h.cmbxLast }

/-! ### Moves of a port -/

/-- A port changed. -/
def onPort (s : State) (p : Nat) (f : Port → Port) : State := s.setPort p (f (s.port p))

/-- The isolation agent moves a port to a state, with its trace. -/
def moveIso (s : State) (p : Nat) (st : IsoSt) (f : Port → Port) : State :=
  traceIso (onPort s p fun x => { f x with iso := st }) p st

/-- A port runs (16 R394; 19 R448, R452): locked, at power state 0; the isolation agent goes on to redispatch, which is
over at once when no unit was lost (18 R436). -/
def toRunning (s : State) (p : Nat) : State :=
  let run (x : Port) : Port := { x with st := .running, lock := true, pstate := 0, fromIso := false, beat := s.now }
  let s1 := bumpGen (onPort s p run)
  if (s1.port p).iso != IsoSt.retraining then s1
  else
    let s2 := moveIso s1 p .redispatching id
    if (s2.port p).lost.isEmpty then moveIso s2 p .idle id else s2

/-- A reset of the chiplet fails to bring it back (18 R436): another reset, or out after the third attempt. -/
def retry (s : State) (p : Nat) : State :=
  let x := s.port p
  if x.isoAttempt < 3 then moveIso s p .resetting fun x => { x with st := .down, isoAttempt := x.isoAttempt + 1 }
  else
    let s1 := moveIso s p .out fun x => { x with st := .fenced }
    topoEvent (moveEntry s1 p 2) p

/-- A port goes to training (16 R394). Its seal counters go on: no nonce repeats under one key (19 R443). -/
def toTraining (s : State) (p : Nat) : State := onPort s p fun x => { x with st := .training, sealRun := 0 }

/-- PORT_ENABLE (16 R394; 19 R451): ENABLE := 0 then 1 on a refused port trains it again, unless the boot record leaves the
port out. -/
def execPortEnable (p : Nat) (s : State) : Answer :=
  if (s.port p).st == PortSt.refused && (s.port p).iso == IsoSt.idle && portEntry s p != 2 then
    .next (toTraining (onPort s p fun x => { x with enable := true }) p)
  else .next s

/-- PORT_LINK_UP (16 R394). -/
def execPortLinkUp (p : Nat) (s : State) : Answer :=
  if (s.port p).st == PortSt.training then .next (onPort s p fun x => { x with st := .reading, lock := false }) else .next s

/-- A control chiplet that boot step 7 cannot run: left out by the boot record, or down or refused for good in this boot. -/
def controlOut (s : State) (p : Nat) : Bool :=
  let x := s.port p
  portEntry s p == 2 || x.iso == IsoSt.out || x.st == PortSt.refused || (x.st == PortSt.down && x.terr)

/-- Boot step 7 (19 R450): it is complete once control chiplet 0 runs, or chiplet 1 where chiplet 0 is out; DIR_SPILL is
locked then. With neither, STEP stays 6. -/
def bootSeven (s : State) : State :=
  let up (p : Nat) : Bool := (s.port p).st == PortSt.running
  if s.hub.bootStep = 6 ∧ (up 0 ∨ (controlOut s 0 ∧ up 1)) then
    (writeBoot s fun b => { b with step := 7 }).onHub fun h => { h with bootStep := 7, spillLock := true }
  else s

/-- PORT_TRAINING_FAIL (16 R394; 18 R436; 19 R450, R451): TERR and the port's entry raised one level; in isolation it is
one attempt of the agent. -/
def execPortTrainingFail (p : Nat) (s : State) : Answer :=
  if (s.port p).st != PortSt.training then .next s
  else
    let s1 := moveEntry (onPort s p fun x => { x with st := .down, terr := true }) p (min 2 (portEntry s p + 1))
    .next (bootSeven (if (s.port p).iso == IsoSt.retraining then retry s1 p else s1))

/-- PORT_RUN (16 R394): RUN := 1 in assigned. -/
def execPortRun (p : Nat) (s : State) : Answer :=
  if (s.port p).st == PortSt.assigned then .next (toRunning s p) else .next s

/-- A driver's request that the chiplet's units stand in the way of (16 R394). -/
def portBusy (s : State) (p : Nat) : State := onPort s p fun x => { x with busy := true }

/-- PORT_REENUM (16 R394, R398): REENUM := 1. -/
def execPortReenum (p : Nat) (s : State) : Answer :=
  match (s.port p).st with
  | .running =>
    if !chipletEmpty s p then .next (portBusy s p)
    else .next (bumpGen (onPort (recallPort s p) p fun x => { x with st := .reading, lock := false, fromIso := false }))
  | .off => .next (toTraining s p)
  | _ => .next s

/-- PORT_OFF (16 R394, R398; 19 R452): OFF := 1. -/
def execPortOff (p : Nat) (s : State) : Answer :=
  if (s.port p).st != PortSt.running then .next s
  else if !chipletEmpty s p then .next (portBusy s p)
  else
    let s1 := loseState (recallPort s p) p
    .next (bumpGen (onPort s1 p fun x => { x with st := .off, lock := false, pstate := 3, fromIso := false }))

/-! ### The capability table (16 R392, R395) -/

/-- MAGIC, CHECK and KIND match the port (16 R394). -/
def tableOk (p : Nat) (bs : List Byte) : Bool :=
  bs.length == 4096 && natOfBytes (bs.take 4) == 0x01424143 && natOfBytes ((bs.drop 4).take 1) == kindOfPort p
    && natOfBytes (bs.drop 0xFFC) == crc32 (bs.take 0xFFC)

/-- DIGEST of a table. -/
def tableDigest (bs : List Byte) : List Byte := (bs.drop 0x40).take 48

/-- At boot step 7 the management controller writes RUN for a control chiplet that is enumerated for the first time (16 R394;
19 R450). -/
def bootRuns (s : State) (p : Nat) : State := bootSeven (toRunning s p)

/-- CAPABILITY_TABLE_READ (16 R393 to R395; 18 R436): the table is checked and compared with the kept copy. -/
def execCapabilityTableRead (p : Nat) (bytes : List (BitVec 8)) (s : State) : Answer :=
  let x := s.port p
  if x.st != PortSt.reading then .next s
  else if !tableOk p bytes then
    let s1 := topoEvent (onPort s p fun x => { x with st := .refused }) p
    .next (bootSeven (if x.iso == IsoSt.retraining then retry s1 p else s1))
  else if x.table = some bytes then
    let s1 := onPort s p fun x => { x with st := .assigned }
    .next (if x.fromIso then toRunning s1 p else s1)
  else
    let s1 := onPort s p fun x =>
      { x with st := .assigned, table := some bytes, queueIds := some (64 * p), cclass := defaultClass p,
               gen := (x.gen + 1) % 256 }
    let s2 := topoEvent s1 p
    let s3 := if x.table.map tableDigest = some (tableDigest bytes) then s2 else bumpGen s2
    .next (if x.table = none ∧ p < 2 ∧ 6 ≤ s.hub.bootStep ∧ !x.fromIso then bootRuns s3 p else s3)

/-- The classes that a kind of chiplet may take (16 R397). -/
def classAllowed (p c : Nat) : Bool :=
  match kindOfPort p with
  | 2 => c == 1 || c == 2
  | 3 => c == 1
  | _ => c == 0

/-- The class that a write of CCLASS leaves (16 R396). -/
def newClass (x : Port) (p c : Nat) : Nat :=
  let has := match x.table with
    | some bs => bit (natOfBytes ((bs.drop 0x18).take 1)) c
    | none => false
  if !x.lock && c != 3 && classAllowed p c && has then c else x.cclass

/-- A write of PORT_CTL (16 R394, R396): the fields that are not locked, then the one request that it makes, OFF before REENUM
before RUN before ENABLE; a reserved RATE is ignored (log entry 52). A port that the boot record leaves out is never enabled
(19 R451). -/
def writePortCtl (s : State) (p : Nat) (v : Word) : Answer :=
  let n := v.toNat
  let x := s.port p
  let en := bit n 0
  let s1 := onPort s p fun x =>
    { x with cclass := newClass x p (bits n 10 2), rate := if x.lock || decide (2 ≤ bits n 8 2) then x.rate else bits n 8 2,
             enable := if x.lock then x.enable else en && portEntry s p != 2 }
  if bit n 4 then execPortOff p s1
  else if bit n 2 then execPortReenum p s1
  else if bit n 1 then execPortRun p s1
  else if en && !x.enable then execPortEnable p s1
  else .next s1

/-- PORT_STAT.STATE (16 R396). -/
def portNo : PortSt → Nat
  | .down => 0
  | .training => 1
  | .reading => 2
  | .assigned => 3
  | .running => 4
  | .fenced => 5
  | .refused => 6
  | .off => 7

/-- PORT_CTL as it reads. -/
def portCtl (s : State) (p : Nat) : Word :=
  let x := s.port p
  word (x.cclass * 2 ^ 10 + x.rate * 2 ^ 8 + ofBool x.lock * 8 + ofBool x.enable)

/-- PORT_STAT as it reads. -/
def portStat (s : State) (p : Nat) : Word :=
  let x := s.port p
  let index := p - (if p < 2 then 0 else if p < 6 then 2 else if p < 16 then 6 else 16)
  word (index * 2 ^ 24 + x.gen * 2 ^ 16 + x.pstate * 2 ^ 10 + ofBool x.busy * 2 ^ 9 + ofBool x.terr * 2 ^ 8 + portNo x.st)

/-- ISO_STAT of a port as it reads (18 R435). -/
def isoStat (s : State) (p : Nat) : Word :=
  let x := s.port p
  word (x.isoLost * 2 ^ 32 + x.isoAttempt * 2 ^ 24 + x.isoCount * 2 ^ 16 + isoNo x.iso)

end Sys2Proof.Machine
end

