-- ==== Sys2Proof/Machine/Isolation.lean ====
section
/-! DEFINITION. Chiplet isolation (18 R435 to R440): heartbeats, the fence, lost units, cleaning of the directory, reset
and redispatch; sealed UCIe frames (19 R443, R444). -/

namespace Sys2Proof.Machine

/-! ### The fence -/

/-- A request of a fenced chiplet that the hub has accepted no longer returns to anyone. -/
def orphan (p : Nat) (f : Flight) : Flight :=
  if f.chip == p && f.stage != Stage.issued && f.stage != Stage.queued then
    { f with agent := .pcie 24, born := .pcie 24, dest := none, counted := false, acq := false, rel := false }
  else f

/-- From the fence on nothing is taken from a port (18 R437, R438): accesses that the hub has not accepted are not made,
copies stop with what they have written, channels of a link chiplet stop, trace records on their way are lost (22 R495). -/
def fence (s : State) (p : Nat) : State :=
  let taken (f : Flight) : Bool := f.stage != Stage.issued && f.stage != Stage.posted && !f.kind.isFence
  let s1 := { s with
    copies := s.copies.filter fun c => c.chip != p,
    flight := (s.flight.filter fun f => f.chip != p || taken f).map (orphan p) }
  ((chansAt s1 p).filter fun c => (s1.chan c).st != ChanSt.off && (s1.chan c).st != ChanSt.failed).foldl failChannel
    (freeSlots (loseTrace s1.sweep p))

/-- Isolation of an idle, running port starts (18 R435, R436). -/
def isolate (s : State) (p : Nat) : State :=
  let x := s.port p
  if x.st != PortSt.running || x.iso != IsoSt.idle then s
  else
    let start (x : Port) : Port :=
      { x with st := .fenced, isoCount := (x.isoCount + 1) % 256, isoAttempt := 0, isoLost := 0, redone := false }
    fence (bumpGen (moveIso s p .fencing start)) p

/-- HEARTBEAT (18 R435). -/
def execHeartbeat (p : Nat) (s : State) : Answer := .next (onPort s p fun x => { x with beat := s.now })

/-- HEARTBEAT_LAPSE (18 R435): LAPSE µs without a heartbeat of a running port isolate it, or set TOPO_EVT. -/
def execHeartbeatLapse (p : Nat) (s : State) : Answer :=
  let x := s.port p
  if x.st != PortSt.running || decide (s.now < x.beat + 1000 * s.hub.isoLapse) then .next s
  else if s.hub.isoAuto then .next (isolate s p)
  else .next (topoEvent s p)

/-- REQUEST_NO_ANSWER (18 R435). -/
def execRequestNoAnswer (p : Nat) (s : State) : Answer := .next (isolate s p)

/-- ISO_CMD (18 R435). -/
def execIsoCmd (v : BitVec 64) (s : State) : Answer :=
  let p := v.toNat % 32
  if p < 24 then .next (isolate s p) else .next s

/-! ### Lost units (18 R438, R439; 20 R460) -/

/-- The class 5 record of a lost array task: the six positions. -/
def lostTask (s : State) (c : Nat) (t : Task) : State :=
  let r := unitReport t.info .array c t.idx.toNat 0xFF 0xFF .chipletIsolated 5 0 0 t.cursors.s.pc.toNat
  report s { r with cpos := t.cursors.list.map fun x => x.pc.toNat }

/-- The class 5 record of a lost warp: the pc of its lowest thread that has not ended, and no slot for a warp that has freed
its own. -/
def lostWarp (s : State) (c key : Nat) (w : Warp) (i : UnitInfo) : State :=
  let pc := match w.live with
    | (_, t) :: _ => t.pc.toNat
    | [] => 0
  report s (unitReport i .lane c w.idx.toNat (if key < 32 then key else 0xFF) 0xFF .chipletIsolated 5 0 0 pc)

/-- The launch of lost units after the loss of task or workgroup `n` (18 R439): it waits to be placed again, or the
launch is settled. `undone` warps of it had completed, and `bins` bin-launched ones are lost. -/
def loseUnit (s : State) (p : Nat) (i : UnitInfo) (n undone bins : Nat) : State :=
  match findLaunch s i.world i.job i.launch with
  | none => s
  | some l =>
    if l.cancelled then s
    else if i.record.replaySafe then
      let s1 := onUnitLaunch s i fun l =>
        { l with lost := l.lost ++ [n], doneUnits := l.doneUnits - undone, units := l.units - bins }
      onPort s1 p fun x => { x with lost := x.lost ++ [(i.world, i.job, i.launch, n)] }
    else onUnitLaunch s i fun l => { l with replayRefused := true }

/-- The task of a core is lost; its bindings are dissolved. -/
def loseTask (p : Nat) (s : State) (c : Nat) : State :=
  match (s.array c).task with
  | none => s
  | some t =>
    let s1 := loseUnit (lostTask s c t) p t.info t.idx.toNat 0 0
    let s2 := (upFrom 0 16).foldl (fun s q => dissolve s c q) s1
    onPort s2 p fun x => { x with isoLost := x.isoLost + 1 }

/-- The warps and workgroups of a core are lost. -/
def loseLane (p : Nat) (s : State) (c : Nat) : State :=
  let k := s.lane c
  let s1 := k.warps.foldl (fun s w => match mapGet? w.2.wg k.wgs with
    | some g => lostWarp s c w.1 w.2 g.info
    | none => s) s
  let s2 := k.wgs.foldl (fun s g =>
    let warps := k.warps.filter fun w => w.2.wg == g.1
    let placed := (warps.filter fun w => !w.2.spawned).length
    let r := g.2.info.record
    loseUnit s p g.2.info (g.2.first / r.warps) (r.warps - placed) (warps.length - placed)) s1
  onPort s2 p fun x => { x with isoLost := x.isoLost + k.warps.length }

/-- Every unit of a chiplet is lost; a save in progress there is over, its area left at STATE 1 (18 R440). -/
def loseUnits (s : State) (p : Nat) : State :=
  let s1 := (coresAt p).foldl (fun s x => match x.1 with
    | .array => loseTask p s x.2
    | .lane => loseLane p s x.2) s
  let here (v : Saved) : Bool := !v.done && (coresAt p).contains (v.kind, v.from?)
  loseState (s1.onHub fun h => { h with saved := h.saved.filter fun v => !here v }) p

/-- Launches settled by a loss that have no other unit running complete at once (18 R439). -/
def settleRefused (s : State) : State :=
  settle (s.hub.launches.foldl (fun s l =>
    if l.replayRefused && l.issued && !launchResident s l && effectsDone s l && journalOpen s then
      finishLaunch s l (launchStatus l)
    else s) s)

/-- FENCE_DRAINED (18 R436): nothing from the chiplet is in flight in the hub; its units are recorded lost and its
launches settled. -/
def execFenceDrained (p : Nat) (s : State) : Answer :=
  if (s.port p).iso != IsoSt.fencing || s.flight.any fun f => f.chip == p && f.stage == Stage.queued then .next s
  else .next (settleRefused (moveIso (loseUnits s p) p .cleaning id))

/-! ### Cleaning, reset and redispatch -/

/-- CLEAN_COMPLETE (18 R436, R437): every directory entry naming the port is cleaned and reset is asserted. -/
def execCleanComplete (p : Nat) (s : State) : Answer :=
  if (s.port p).iso != IsoSt.cleaning then .next s
  else
    let s1 := dropRegions (s.dir.foldl (cleanLine p) s) p
    .next (moveIso s1 p .resetting fun x => { x with st := .down, isoAttempt := x.isoAttempt + 1 })

/-- CHIPLET_RESET_RELEASE (18 R436; 16 R394; 19 R443): retraining starts, with the seal at epoch 0. -/
def execChipletResetRelease (p : Nat) (s : State) : Answer :=
  if (s.port p).iso != IsoSt.resetting then .next s
  else .next (toTraining (moveIso s p .retraining fun x =>
    { x with fromIso := true, pstate := 0, waking := false, sealFrom := (0, 0), sealTo := (0, 0) }) p)

/-- REDISPATCH (18 R439): one record for each launch counts the units that are placed again from now on. -/
def execRedispatch (p : Nat) (s : State) : Answer :=
  let x := s.port p
  if x.iso != IsoSt.redispatching || x.redone then .next s
  else
    let launches := (x.lost.map fun u => (u.1, u.2.1, u.2.2.1)).eraseDups
    let s1 := launches.foldl (fun s l =>
      let n := (x.lost.filter fun u => (u.1, u.2.1, u.2.2.1) == l).length
      let place := match findLaunch s l.1 l.2.1 l.2.2 with
        | some m => (m.graph, m.phase)
        | none => (0, 0)
      journal s { JRec.blank with kind := 9, world := l.1, job := l.2.1, launch := l.2.2, graph := place.1, phase := place.2,
                                  units := n }) s
    let s2 := onPort s1 p fun x => { x with redone := true }
    .next (dropLost s2 fun _ => false)

/-! ### Sealed frames (19 R443, R444) -/

/-- UCIE_FRAME_RECEIVE (19 R443, R444): a frame whose tag fails is discarded, counted and asked for again; after three
failures in a row the hub takes nothing more from the port. -/
def execUcieFrameReceive (p : Nat) (toHub tagOk : Bool) (s : State) : Answer :=
  let x := s.port p
  if x.st == PortSt.down || x.st == PortSt.off || x.st == PortSt.training || (toHub && decide (3 ≤ x.sealRun)) then .next s
  else if tagOk then
    .next (onPort s p fun x => if toHub then { x with sealRun := 0, sealFrom := nextSeal x.sealFrom }
      else { x with sealTo := nextSeal x.sealTo })
  else
    .next (onPort s p fun x =>
      { x with sealErr := min (2 ^ 32 - 1) (x.sealErr + 1), sealRun := if toHub then x.sealRun + 1 else x.sealRun })

end Sys2Proof.Machine
end

