-- ==== Sys2Proof/Machine/Registers.lean ====
section
/-! DEFINITION. The registers of the hub window and the link windows (16 R391, R396, R402, R405 to R407; 17 R409, R417,
R420; 18 R425 to R428, R435; 19 R448; 21 R470, R475, R479, R480; 22 R483, R491): what each reads and what a write does;
shootdowns (16 R406, 04 R124) and the mailboxes of control harts (16 R407). -/

namespace Sys2Proof.Machine

/-- The state that an answer goes on in. -/
def stateOf (s : State) (a : Answer) : State :=
  match a with
  | .next t => t
  | .fault _ => s
  | .refused _ => s

/-! ### Shootdowns (16 R406; 04 R124) -/

/-- A write of SDN_CTL (16 R406): SIZE and WORLD are stored; GO queues a shootdown, or is refused. -/
def writeSdn (s : State) (v : Word) : State :=
  let n := v.toNat
  let size := bits n 9 3
  let world := bits n 1 4
  let s1 := s.onHub fun h => { h with sdnSize := size, sdnWorld := world }
  let va := s.hub.sdnAddr
  let bad := decide (16 ≤ s.hub.sdnQueue.length) || decide (5 ≤ size)
    || (decide (size < 4) && va.toNat % 2 ^ sdnBits size != 0)
  if !bit n 0 then s1
  else if bad then s1.onHub fun h => { h with sdnRefused := true }
  else
    let k := (s.hub.sdnQueued + 1) % 2 ^ 16
    s1.onHub fun h => { h with sdnQueued := k, sdnQueue := h.sdnQueue ++ [(k, va, size, world, s.nextId)] }

/-- SDN_GO (16 R406): a write of SDN_CTL with GO set. -/
def execSdnGo (v : BitVec 64) (s : State) : Answer := .next (writeSdn s (v ||| 1))

/-- A page that a copy pins lies in the range of a shootdown (04 R123, R124). -/
def sdnPins (va size : Nat) (c : Copy) : Bool :=
  size == 4 || c.pins.any fun p =>
    overlaps (p / 4096 * 4096 % 2 ^ 57) (2 ^ (p % 4096)) (va % 2 ^ 57) (2 ^ sdnBits size)

/-- What a shootdown waits for (04 R124): lane accesses of its world and copies that pin pages of its range, issued
before it was queued, or before the last held translation of its range was dropped. -/
def sdnWaits (s : State) (q : Nat × Word × Nat × Nat × Nat) : Bool :=
  let (_, va, size, world, mark) := q
  s.flight.any (fun f => decide (f.id < mark) && f.origin.world == world && !f.agent.isTask && f.agent.home.isSome
      && !f.kind.isFence && f.space == Space.domain && (!f.applied || f.counted))
    || s.copies.any (fun c => decide (c.id < mark) && c.origin.world == world && !c.pins.isEmpty && sdnPins va.toNat size c)

/-- SHOOTDOWN_COMPLETE (04 R124; 16 R406): the translation caches drop the range of the oldest queued shootdown, and it
completes unless something issued before still waits; generation slots that waited for it may be freed (22 R495). -/
def execShootdownComplete (s : State) : Answer :=
  match s.hub.sdnQueue with
  | [] => .next s
  | q :: _ =>
    let s1 := dropPages s fun h => pageHit h q
    match s1.hub.sdnQueue with
    | [] => .next s1
    | q :: rest =>
      if sdnWaits s1 q then .next s1
      else .next (freeSlots (s1.onHub fun h => { h with sdnQueue := rest, sdnDone := q.1 }))

/-! ### Mailboxes of control harts (16 R407) -/

/-- A write of CMBX_SEND (16 R407): a message goes to the target that CMBX_TGT names, as `mbx.send` of world 0 would send
it; a target that does not exist takes none. -/
def hartMail (s : State) (hart : Nat) (data : Word) : State :=
  match mailTarget (mapGet 0 s.hub.cmbxTgt hart) with
  | none => s
  | some t =>
    let (s1, st) := sendMail s 0 t data
    s1.onHub fun h => { h with cmbxLast := mapSet hart st h.cmbxLast }

/-- CMBX_SEND (16 R407; 06 R168): the hart's message, once its fences are complete. -/
def execCmbxSend (hart : Nat) (data : BitVec 64) (s : State) : Answer :=
  .next (if fencesOpen s (.hart hart) || !hubHears s (Agent.port (.hart hart)) then s else hartMail s hart data)

/-- CMBX_POP (16 R407): the oldest message is removed and returned; 0 when there is none. -/
def execCmbxPop (hart : Nat) (s : State) : Answer :=
  match hartBox s hart with
  | [] => .next { s with reply := some [0] }
  | m :: rest => .next ({ s with reply := some [m] }.onHub fun h => { h with cmbx := mapSet hart rest h.cmbx })

/-! ### Reading -/

/-- STATE of WB_GST (22 R483). -/
def genNo : GenSt → Nat
  | .free => 0
  | .staged => 1
  | .measuring => 1
  | .measured => 2
  | .current => 3
  | .retiring => 4

/-- A writable register as it reads. -/
def readRw (s : State) (r : HubReg) (i : Nat) : Word :=
  let h := s.hub
  let q := s.dq (i / 64) (i % 64)
  let x := s.chan i
  let b := s.wbind i
  let g := (s.wbind (i / 4)).slot (i % 4)
  let l := s.flog i
  let t := mapGet TraceBuf.blank h.trace i
  let w := mapGet { base := 0, limit := 0 } h.rwins i
  match r with
  | .portCtl => portCtl s i
  | .portStat => portStat s i
  | .dirStat => dirStat s
  | .dirSpill => word (h.spillBase * 2 ^ 25 + ofBool h.spillLock)
  | .wtblRoot => mapGet 0 h.roots i
  | .sdnAddr => h.sdnAddr
  | .sdnCtl => word (h.sdnSize * 2 ^ 9 + h.sdnWorld * 2)
  | .sdnStat => word (h.sdnDone * 2 ^ 32 + h.sdnQueued * 2 ^ 16 + ofBool h.sdnRefused * 32 + h.sdnQueue.length)
  | .cmbxPop => (hartBox s i).headD 0
  | .cmbxTgt => mapGet 0 h.cmbxTgt i
  | .cmbxSend => 0
  | .topoCtl => h.topoCtl.setWidth 64
  | .topoEvt => h.topoEvt.setWidth 64
  | .dqBase => word q.base
  | .dqCtl => word (q.size * 2 ^ 16 + q.maxPrio * 2 ^ 8 + ofBool q.lock * 4 + ofBool q.pause * 2 + ofBool q.en)
  | .dqWptr => word q.wptr
  | .dqStat => word (ofBool q.overrun * 4 + ofBool q.full * 2 + ofBool (q.wptr == q.rptr))
  | .selJob => h.selJob
  | .selId => h.selId
  | .cancelReg => 0
  | .jrnlBase => word h.jBase
  | .jrnlCtl => word (ofBool h.jLock * 128 + ofBool h.jStall * 64 + h.jSize)
  | .jrnlAck => word h.jAck
  | .flogCtl => word (l.base + l.size * 16 + ofBool l.en)
  | .flogAck => word l.ack
  | .flogLost => word l.lost
  | .aflog => word (l.aflog.toNat * 256)
  | .unitSel => h.unitSel
  | .unitCmd => 0
  | .unitPc => h.unitPc
  | .unitCtx => h.unitCtx
  | .unitStat => unitStat s
  | .isoCtl => word (h.isoLapse * 256 + ofBool h.isoAuto)
  | .isoCmd => 0
  | .sealErr => word (s.port i).sealErr
  | .mcBoot => word (h.bootImage * 16 + h.bootStep)
  | .ftCtl => word h.ftDomain
  | .chanCtl => x.ctl
  | .chanWidth => word (x.park.toNat * 2 ^ 32 + x.locked.toNat * 2 ^ 24 + x.cur * 256 + x.req)
  | .allowHeld => word (x.expired.toNat * 2 ^ 16 + x.have_.toNat * 256 + x.hold.toNat)
  | .chanStat => word (x.retry * 2 ^ 16 + ofBool x.refused * 8 + chanNo x.st)
  | .reachTbl => mapGet 0 h.reachStaged i
  | .reachCtl => word (h.reachGen * 2 ^ 16)
  | .rwinBase => w.base
  | .rwinLimit => w.limit
  | .wbId => b.id
  | .wbCtl => word (b.ctl.toNat + ofBool b.locked * 2 ^ 29)
  | .wbDir => g.dir
  | .wbGst => word (g.pins * 2 ^ 32 + g.gen * 2 ^ 16 + genNo g.st * 16)
  | .wbStat => word (b.freed.toNat * 16 + ofBool b.err * 8)
  | .trcCtl => word (t.base + t.classes.toNat * 256 + ofBool t.en)
  | .trcLost => word t.lost

/-- A register as it reads; the copy of a capability table that is not held reads as zeros (16 R393; log entry 109). -/
def readReg (s : State) (r : RegName) (i : Nat) : Word :=
  let h := s.hub
  match r with
  | .rw r => readRw s r i
  | .hubId => 0x7102
  | .capTable => match (s.port (i / 512)).table with
    | some bs => word (natOfBytes ((bs.drop (8 * (i % 512))).take 8))
    | none => 0
  | .cmbxStat => word (mapGet 0 h.cmbxLast i * 256 + (hartBox s i).length)
  | .dqRptr => word (s.dq (i / 64) (i % 64)).rptr
  | .cntStat => cntStat s
  | .jrnlHead => word h.jHead
  | .jrnlTail => word h.jTail
  | .flogHead => word (s.flog i).head
  | .isoStat => isoStat s i
  | .mcMgen => word h.mgen
  | .mcArb => word (h.fuseB * 2 ^ 16 + h.fuseA * 2 ^ 8 + min h.fuseA h.fuseB)
  | .ftStat => word (ofBool h.ftLock * 2 ^ 32 + h.ftOffset.toNat)
  | .trcHead => let t := mapGet TraceBuf.blank h.trace i; word (t.headSeq * 2 ^ 32 + t.headOff)
  | .trcTail => let t := mapGet TraceBuf.blank h.trace i; word (t.tailSeq * 2 ^ 32 + t.tailOff)

/-- What reading a register does besides: CMBX_POP takes a message (16 R407). -/
def afterRead (s : State) (r : RegName) (i : Nat) : State :=
  match r with
  | .rw .cmbxPop => s.onHub fun h => { h with cmbx := mapSet i ((hartBox s i).drop 1) h.cmbx }
  | _ => s

/-! ### Writing -/

/-- A written 1 clears its bit (00 R10). -/
def w1c (old v : Nat) : Nat := (BitVec.ofNat 64 old &&& ~~~BitVec.ofNat 64 v).toNat

/-- A range of local addresses lies in near store. -/
def inNear (a n : Nat) : Bool := decide (0x20000000000 ≤ a) && decide (a + n ≤ 0x20200000000)

/-- A write of DQ_CTL (17 R409). -/
def writeDqCtl (s : State) (i n : Nat) : State :=
  let w := i / 64
  let q := i % 64
  let x := s.dq w q
  let size := bits n 16 4
  let y := { x with maxPrio := bits n 8 2, pause := bit n 1, size := if x.lock || decide (size < 4) then x.size else size }
  stateOf s (execDqEnable w q (bit n 0) (s.setDq w q y))

/-- A write of JRNL_BASE (17 R420): ignored once locked, or when the ring would leave near store. -/
def writeJrnlBase (s : State) (n : Nat) : State :=
  let a := bits n 12 30 * 4096
  if s.hub.jLock || !inNear a (64 * 2 ^ s.hub.jSize) then s else s.onHub fun h => { h with jBase := a }

/-- A write of JRNL_CTL (17 R420): SIZE is 10 to 24, and a set ring stays in near store. -/
def writeJrnlCtl (s : State) (n : Nat) : State :=
  let size := bits n 0 5
  let fits := decide (10 ≤ size) && decide (size ≤ 24) && (s.hub.jBase == 0 || inNear s.hub.jBase (64 * 2 ^ size))
  if s.hub.jLock then s
  else s.onHub fun h => { h with jStall := bit n 6, jSize := if fits then size else h.jSize }

/-- A write of FLOG_CTL (18 R425). -/
def writeFlogCtl (s : State) (i n : Nat) : State :=
  let l := s.flog i
  let size := bits n 4 5
  let l1 := if l.en then l
    else { l with base := bits n 12 30 * 4096, size := if 6 ≤ size ∧ size ≤ 20 then size else l.size }
  s.setFlog i { l1 with en := bit n 0 }

/-- A write of UNIT_CMD (18 R427, R428). -/
def writeUnitCmd (s : State) (op : Nat) : State :=
  match op with
  | 1 => stateOf s (execUnitResume s)
  | 2 => stateOf s (execUnitRedirect s)
  | 3 => stateOf s (execUnitDiscard s)
  | 4 => stateOf s (execUnitSave s)
  | _ => refuseUnit s

/-- A write of CHAN_WIDTH (21 R470). -/
def writeChanWidth (s : State) (c n : Nat) : State :=
  let req := bits n 0 4
  let s1 := if req = 1 ∨ req = 2 ∨ req = 4 ∨ req = 8 then s.setChan c { s.chan c with req := req } else s
  setPark s1 c (BitVec.ofNat 8 (n / 2 ^ 32))

/-- A write of WB_GST (22 R483, R484): the command for generation slot i mod 4 of binding i div 4. -/
def writeWbGst (s : State) (i n : Nat) : State :=
  match bits n 0 4 with
  | 1 => stateOf s (execWbStage (i / 4) (i % 4) s)
  | 2 => stateOf s (execWbMeasure (i / 4) (i % 4) s)
  | 3 => stateOf s (execWbSwitch (i / 4) (i % 4) s)
  | 4 => stateOf s (execWbDrop (i / 4) (i % 4) s)
  | _ => s

/-- A write of TRC_CTL (22 R491): a buffer that is enabled starts to count its lost records. -/
def writeTrcCtl (s : State) (i n : Nat) : State :=
  let t := mapGet TraceBuf.blank s.hub.trace i
  let a := bits n 24 18 * 2 ^ 24
  let t1 := { t with classes := BitVec.ofNat 8 (n / 256), base := if t.en || !inNear a (2 ^ 24) then t.base else a }
  let t2 := if bit n 0 && !t.en then { t1 with lost := 0, drop := 0 } else t1
  s.setTrace i { t2 with en := bit n 0, waiting := if bit n 0 then t2.waiting else [], phase := if bit n 0 then t2.phase else 0 }

/-- A write of a register of the hub (00 R10). -/
def writeReg (s : State) (r : HubReg) (i : Nat) (v : Word) : State :=
  let n := v.toNat
  let onP (f : Port → Port) : State := onPort s i f
  let onQ (f : DQueue → DQueue) : State := s.setDq (i / 64) (i % 64) (f (s.dq (i / 64) (i % 64)))
  let onC (f : Channel → Channel) : State := s.setChan i (f (s.chan i))
  match r with
  | .portCtl => stateOf s (writePortCtl s i v)
  | .portStat => onP fun x => { x with busy := x.busy && !bit n 9, terr := x.terr && !bit n 8 }
  | .dirStat => s.onHub fun h => { h with sfull := h.sfull && !bit n 33, lfull := h.lfull && !bit n 32 }
  | .dirSpill =>
    if s.hub.spillLock || !inNear (bits n 25 17 * 2 ^ 25) (2 ^ 25) then s
    else s.onHub fun h => { h with spillBase := bits n 25 17 }
  | .wtblRoot => s.onHub fun h => { h with roots := mapSet i (v &&& 0x00FFFFFFFFFFF001) h.roots }
  | .sdnAddr => s.onHub fun h => { h with sdnAddr := v &&& ~~~0xFFF }
  | .sdnCtl => writeSdn s v
  | .sdnStat => s.onHub fun h => { h with sdnRefused := h.sdnRefused && !bit n 5 }
  | .cmbxPop => s
  | .cmbxTgt => s.onHub fun h => { h with cmbxTgt := mapSet i v h.cmbxTgt }
  | .cmbxSend => hartMail s i v
  | .topoCtl => s.onHub fun h => { h with topoCtl := BitVec.ofNat 6 n }
  | .topoEvt => s.onHub fun h => { h with topoEvt := h.topoEvt &&& ~~~BitVec.ofNat 24 n }
  | .dqBase => onQ fun x => if x.lock || !isCoherent (bits n 12 30 * 4096) then x else { x with base := bits n 12 30 * 4096 }
  | .dqCtl => writeDqCtl s i n
  | .dqWptr => stateOf s (execDqDoorbell (i / 64) (i % 64) v s)
  | .dqStat => onQ fun x => { x with overrun := x.overrun && !bit n 2 }
  | .selJob => s.onHub fun h => { h with selJob := v &&& 0x3FFFFFFFFF }
  | .selId => s.onHub fun h => { h with selId := v &&& 0xFFFFFFFF }
  | .cancelReg => stateOf s (execCancel v s)
  | .jrnlBase => writeJrnlBase s n
  | .jrnlCtl => writeJrnlCtl s n
  | .jrnlAck => stateOf s (execJrnlAck v s)
  | .flogCtl => writeFlogCtl s i n
  | .flogAck => if n < (s.flog i).ack then s else s.setFlog i { s.flog i with ack := n }
  | .flogLost => s.setFlog i { s.flog i with lost := w1c (s.flog i).lost n }
  | .aflog => s.setFlog i { s.flog i with aflog := (s.flog i).aflog &&& ~~~BitVec.ofNat 6 (n / 256) }
  | .unitSel => s.onHub fun h => { h with unitSel := v &&& 0x1FF1F }
  | .unitCmd => writeUnitCmd s (bits n 0 3)
  | .unitPc => s.onHub fun h => { h with unitPc := v &&& ~~~3 }
  | .unitCtx => s.onHub fun h => { h with unitCtx := v &&& 0x000003FFFFFFF000 }
  | .unitStat => s.onHub fun h => { h with unitErr := h.unitErr && !bit n 3 }
  | .isoCtl => s.onHub fun h => { h with isoLapse := max 20 (bits n 8 8), isoAuto := bit n 0 }
  | .isoCmd => stateOf s (execIsoCmd v s)
  | .sealErr => onP fun x => { x with sealErr := w1c x.sealErr (n % 2 ^ 32) }
  | .mcBoot => if bit n 8 then s.onHub fun h => { h with bootClear := true } else s
  | .ftCtl => s.onHub fun h => { h with ftDomain := n % 256 }
  | .chanCtl => writeChanCtl s i v
  | .chanWidth => writeChanWidth s i n
  | .allowHeld => onC fun x => { x with expired := x.expired &&& ~~~BitVec.ofNat 8 (n / 2 ^ 16), hold := BitVec.ofNat 8 n }
  | .chanStat => onC fun x => { x with retry := w1c x.retry (bits n 16 16), refused := x.refused && !bit n 3 }
  | .reachTbl => s.onHub fun h => { h with reachStaged := mapSet i v h.reachStaged }
  | .reachCtl => if bit n 0 then stateOf s (execReachCommit s) else s
  | .rwinBase => stateOf s (execRwinWrite (i / 128) (i % 128) false v s)
  | .rwinLimit => stateOf s (execRwinWrite (i / 128) (i % 128) true v s)
  | .wbId => if (s.wbind i).locked then s else s.setWbind i { s.wbind i with id := v }
  | .wbCtl =>
    if (s.wbind i).locked then s else s.setWbind i { s.wbind i with ctl := v &&& 0x01FFFFFFC03FFFFF }
  | .wbDir =>
    let x := s.wbind (i / 4)
    s.setWbind (i / 4) (x.setSlot (i % 4) { x.slot (i % 4) with dir := v &&& 0x00FFFFFFFFFFF000 })
  | .wbGst => writeWbGst s i n
  | .wbStat => s.setWbind i { s.wbind i with freed := (s.wbind i).freed &&& ~~~BitVec.ofNat 4 (n / 16),
                                             err := (s.wbind i).err && !bit n 3 }
  | .trcCtl => writeTrcCtl s i n
  | .trcLost =>
    let t := mapGet TraceBuf.blank s.hub.trace i
    s.onHub fun h => { h with trace := mapSet i { t with lost := w1c t.lost (n % 2 ^ 32) } h.trace }

/-- How many registers of a name there are. -/
def regCount (r : HubReg) : Nat :=
  match r with
  | .portCtl => 24
  | .portStat => 24
  | .sealErr => 24
  | .wtblRoot => 16
  | .flogCtl => 16
  | .flogAck => 16
  | .flogLost => 16
  | .aflog => 16
  | .cmbxPop => 64
  | .cmbxTgt => 64
  | .cmbxSend => 64
  | .dqBase => 1024
  | .dqCtl => 1024
  | .dqWptr => 1024
  | .dqStat => 1024
  | .chanCtl => 256
  | .chanWidth => 256
  | .allowHeld => 256
  | .chanStat => 256
  | .reachTbl => 256
  | .rwinBase => 1024
  | .rwinLimit => 1024
  | .wbId => 64
  | .wbCtl => 64
  | .wbStat => 64
  | .wbDir => 256
  | .wbGst => 256
  | .trcCtl => 25
  | .trcLost => 25
  | _ => 1

/-- REGISTER_WRITE (00 R10): a privileged agent of world 0 writes a register. One of CMBX_SEND sends the hart's message, which
comes after its fences (06 R168). -/
def execRegisterWrite (r : HubReg) (idx : Nat) (v : BitVec 64) (s : State) : Answer :=
  if regCount r ≤ idx then .next s
  else match r with
    | .cmbxSend => execCmbxSend idx v s
    | _ => .next (writeReg s r idx v)

/-! ### Bytes of the hub window and the link windows -/

/-- Bits that a written 1 clears. -/
def w1cBits (r : HubReg) : Word :=
  match r with
  | .portStat => 0x300
  | .dirStat => 0x300000000
  | .sdnStat => 0x20
  | .topoEvt => 0xFFFFFF
  | .dqStat => 4
  | .flogLost => ~~~0
  | .aflog => 0x3F00
  | .unitStat => 8
  | .sealErr => 0xFFFFFFFF
  | .allowHeld => 0xFF0000
  | .chanStat => 0xFFFF0008
  | .wbStat => 0xF8
  | .trcLost => 0xFFFFFFFF
  | _ => 0

/-- Bytes at an offset of a register written: the bytes not covered leave their fields as they are. -/
def writePart (s : State) (r : RegName) (i o : Nat) (bs : List Byte) : State :=
  match r with
  | .rw r =>
    let old := (readRw s r i &&& ~~~w1cBits r).toNat
    writeReg s r i (word (patch old 8 0 (o % 8) bs))
  | _ => s

/-- The register of a hub or link window part. -/
def regOf (p : WinPart) : RegAt :=
  match p with
  | .hub o => hubAt o
  | .link n o => linkAt n o
  | _ => none

/-- The bytes of any window part, and the state after the read: `n` bytes that lie in one register, or in a part of a
core's window. -/
def winRead (s : State) (p : WinPart) (n : Nat) : State × List Byte :=
  match regOf p with
  | some (r, i) =>
    (afterRead s r i, ((bytesOfNat 8 (readReg s r i).toNat).drop (p.off % 8)).take n)
  | none => (s, coreWinRead s p n)

/-- Bytes written to any window part. Staged reachability is written through a running link chiplet (21 R480). -/
def winWrite (s : State) (p : WinPart) (bs : List Byte) : CoreWrite :=
  match regOf p with
  | some (r, i) =>
    let down := match p with
      | .link n _ => r == RegName.rw .reachTbl && (s.port (16 + n)).st != PortSt.running
      | _ => false
    { state := if down then s else writePart s r i p.off bs, faults := [], waits := false }
  | none => coreWinWrite s p bs

end Sys2Proof.Machine
end

