-- ==== Sys2Proof/Machine/Access.lean ====
section
/-! DEFINITION. Loads, stores, atomics and reductions as they issue (08 R221 to R226; 12 R331 to R337), register windows
(08 R210 to R214; 04 R127, R128), and the taking of an outcome (01 R36). -/

namespace Sys2Proof.Machine

/-! ### What a word asks of memory -/

/-- An access that a word makes for one thread. -/
structure MemOp where
  kind : AccKind
  addr : Word
  size : Nat
  ext : Bool
  dest : Option Nat
  data : Word
  cmp : Word
  scope : Nat
  acq : Bool
  rel : Bool
  deriving DecidableEq, Repr

/-- The permission that an access needs (08 R223; 12 R332). -/
def needOf (k : AccKind) : Need :=
  match k with
  | .load => .read
  | .store => .write
  | _ => .both

/-- An atomic or a reduction. -/
def AccKind.atomic (k : AccKind) : Bool :=
  match k with
  | .amo _ => true
  | .red _ => true
  | _ => false

/-- An atomic reaches no window (12 R332). -/
def noWindow (r : Except Cause Target) : Except Cause Target :=
  match r with
  | .ok (.window _) => .error .windowAccess
  | .error .windowBusy => .error .windowAccess
  | r => r

/-- An address that an array core's atomic names (12 R332). -/
def arrayAtomic (s : State) (i : UnitInfo) (va : Nat) : Except Cause Target :=
  if !isCanonical va then .error .nonCanonical
  else match apertureOff va with
    | some o => .ok (.core o)
    | none => match translate s i.world i.priv i.pin .both va with
      | .error c => .error c
      | .ok a => noWindow (physTarget s i.world i.priv a)

/-- The checks of an access in the order of 08 R223 and 12 R332; `scr` is the size of the scratchpad. -/
def memTarget (s : State) (x : Ctx) (scr : Nat) (m : MemOp) : Except Cause Target :=
  let va := m.addr.toNat
  if va % m.size ≠ 0 then .error .alignment
  else if x.isArray then (if m.kind.atomic then arrayAtomic s x.info va else arrayTarget va)
  else if m.kind.atomic then noWindow (laneTarget s x.info scr (needOf m.kind) va m.size)
  else laneTarget s x.info scr (needOf m.kind) va m.size

/-! ### Accesses that are made at issue -/

/-- An access to a tile table or a window, made at once for a world: the state with the faults that it raises, the value read
and the flags of an atomic; those of a reduction go to the atomic flag log (04 R119, R120; 02 R85). -/
def makeNow (s : State) (kind : CoreKind) (c world : Nat) (t : Target) (m : MemOp) : CoreWrite × Word × Flag :=
  let bytes := bytesOfNat m.size m.data.toNat
  let same (s : State) : CoreWrite := { state := s, faults := [], waits := false }
  match t with
  | .core o =>
    let old := natOfBytes (readCore s kind c o m.size)
    (match m.kind with
      | .load => (same s, word old, noFlag)
      | .store => (writeCore s kind c o bytes, 0, noFlag)
      | .amo op =>
        let r := amoNew op (8 * m.size) old m.data.toNat m.cmp.toNat
        (writeCore s kind c o (bytesOfNat m.size r.1), word old, r.2)
      | .red op =>
        let r := amoNew op (8 * m.size) old m.data.toNat 0
        let y := writeCore s kind c o (bytesOfNat m.size r.1)
        ({ y with state := raiseAflog y.state world r.2 }, 0, noFlag)
      | _ => (same s, 0, noFlag))
  | .window p =>
    (match m.kind with
      | .load => let (s1, bs) := winRead s p m.size; (same s1, word (natOfBytes bs), noFlag)
      | .store => (winWrite s p bytes, 0, noFlag)
      | _ => (same s, 0, noFlag))
  | .mem _ => (same s, 0, noFlag)

/-- The hub takes an access that is made at issue: one to a window comes to it through the port (19 R444). -/
def heardNow (s : State) (a : Agent) (t : Target) : Bool :=
  match t with
  | .window _ => hubHears s a.port
  | _ => true

/-- The access is made at issue: to a tile table or a window. -/
def isNow (s : State) (kind : CoreKind) (c : Nat) (t : Target) : Bool :=
  match t with
  | .core o => (tableAt s kind c o).isSome
  | .window _ => true
  | .mem _ => false

/-- Nothing earlier of the agent holds an access that is made at issue (06 R157, R158, R163). -/
def freeNow (s : State) (a : Agent) (m : MemOp) : Bool :=
  notHeld s.flight a s.nextId m.kind.writes && (!m.kind.reads || readsFree s.flight a s.nextId)
    && (earlier s.flight a s.nextId).all fun e =>
      (!m.kind.writes || !e.kind.reads || e.applied) && (!m.rel || performedAt s.flight m.scope e)
        && (e.space == Space.domain || e.kind.isFence || e.applied)

/-! ### Issue -/

/-- One thread's access, with where it goes. -/
structure Ask where
  lane : Nat
  agent : Agent
  origin : Origin
  op : MemOp
  target : Except Cause Target
  deriving Repr

/-- Where an access in flight goes. -/
def Target.place (t : Target) : Space × Nat :=
  match t with
  | .core o => (.core, o)
  | .mem a => (.domain, a)
  | .window p => (.domain, p.off)

/-- An access in flight (01 R50), with the flags of an atomic that is made already. -/
def flightOf (q : Ask) (t : Target) (id grp : Nat) (stage : Stage) (value : Word) (flags : Flag) : Flight :=
  { id := id, grp := grp, agent := q.agent, born := q.agent, origin := q.origin, kind := q.op.kind, space := t.place.1, dest := q.op.dest,
    ext := q.op.ext, addr := t.place.2, size := q.op.size, data := q.op.data, cmp := q.op.cmp, scope := q.op.scope,
    acq := q.op.acq, rel := q.op.rel, stage := stage, value := value, flags := flags, fwd := none, seq := 0,
    upTo := 0, post := 0, counted := true, bulk := [], batch := none, waited := false }

/-- The accesses of a word issued in lane order: the state, the faults, and whether the word waits. -/
def issueAll (kind : CoreKind) (c grp : Nat) : List Ask → State → State × List LaneFault × Bool
  | [], s => (s, [], false)
  | q :: rest, s =>
    let bad (f : Cause) : LaneFault :=
      { lane := q.lane, cause := f, value := q.op.addr, code := 0, addr := q.op.addr.toNat }
    match q.target with
    | .error f => let (s1, fs, w) := issueAll kind c grp rest s; (s1, bad f :: fs, w)
    | .ok t =>
      if isNow s kind c t then
        let (r, v, fl) := makeNow s kind c q.origin.world t q.op
        let hold := r.waits || !freeNow s q.agent q.op || !heardNow s q.agent t
        let s1 := { r.state with flight := r.state.flight ++ [flightOf q t s.nextId grp .applied v fl], nextId := s.nextId + 1 }
        let (s2, fs, w) := issueAll kind c grp rest s1
        (s2, (r.faults.take 1).map bad ++ fs, hold || w)
      else
        let s1 := { s with flight := s.flight ++ [flightOf q t s.nextId grp .issued 0 noFlag], nextId := s.nextId + 1 }
        issueAll kind c grp rest s1

/-- The effect of writes to tile-table entries that raise a fault (04 R120): the entry, not the word, takes it. -/
def faultEffects (kind : CoreKind) (c : Nat) (s : State) (q : Ask) : State :=
  match q.target with
  | .error _ => s
  | .ok t =>
    if isNow s kind c t then
      let r := (makeNow s kind c q.origin.world t q.op).1
      if r.faults.isEmpty then s else r.state
    else s

/-- The counter of an access (01 R50). -/
def counterOf (k : AccKind) : CounterName := if k.reads then .ld else .st

/-- The access that a word makes for one thread of a group. -/
def laneAsk (s : State) (k : LaneCore) (c slot : Nat) (w : Warp) (g : Workgroup) (pc : Word)
    (f : Ctx → Thread → Except Cause MemOp) (l : Nat) (t : Thread) : Ask :=
  let x := laneCtx k c slot l g
  let o : Origin := { world := g.info.world, job := g.info.job, launch := g.info.launch, kind := .lane, core := c,
                      idx := w.idx.toNat, slot := slot, key := slot, lane := l, pc := pc, cursor := 0xFF }
  match f x t with
  | .error e =>
    let none_ : MemOp := { kind := .load, addr := 0, size := 1, ext := false, dest := none, data := 0, cmp := 0,
                           scope := 0, acq := false, rel := false }
    { lane := l, agent := .lane c slot l, origin := o, op := none_, target := .error e }
  | .ok m =>
    let tg := match memTarget s x g.scrSize m with
      | .ok (.core off) => .ok (.core (g.scrBase + off))
      | r => r
    { lane := l, agent := .lane c slot l, origin := o, op := m, target := tg }

/-- The access that a word makes for an array task at a cursor. -/
def taskAsk (t : Task) (c : Nat) (cur : Cursor) (pc : Word) (m : MemOp) (tg : Target) : Ask :=
  let o : Origin := { world := t.info.world, job := t.info.job, launch := t.info.launch, kind := .array, core := c,
                      idx := t.idx.toNat, slot := 0xFF, key := 0xFF, lane := 0xFF, pc := pc,
                      cursor := cursorNo cur }
  { lane := 0xFF, agent := .task c, origin := o, op := m, target := .ok tg }

/-- The accesses of a group, in lane order. -/
def laneAsks (s : State) (k : LaneCore) (c slot : Nat) (w : Warp) (g : Workgroup) (pc : Word)
    (f : Ctx → Thread → Except Cause MemOp) (group : List Nat) : List Ask :=
  group.filterMap fun l => (mapGet? l w.threads).map (laneAsk s k c slot w g pc f l)

/-- The kind of the accesses of a word. -/
def asksKind : List Ask → AccKind
  | q :: _ => q.op.kind
  | [] => .load

/-- A memory word (01 R20, R50; 08 R222, R223; 04 R122): each thread of an issue group, or the task, makes its access;
when one thread faults, none does. -/
def memWord (s : State) (cur : Cursor) (f : Ctx → Thread → Except Cause MemOp) : Answer :=
  match s.sel with
  | .lane c slot lane =>
    match runningGroup s c slot lane with
    | none => .fault .noUnit
    | some (k, w, g, group) =>
      let pc := groupPc w group
      let asks := laneAsks s k c slot w g pc f group
      match issueAll .lane c s.nextId asks s with
      | (_, y :: ys, _) => .next (laneException (asks.foldl (faultEffects .lane c) s) c slot group pc pc (y :: ys))
      | (_, [], true) => .next s
      | (s1, [], false) =>
        let k1 := s1.lane c
        let s2 := s1.setLane c { k1 with warps := mapUpdate slot (fun w => advanceGroup w pc group) k1.warps }
        .next (countUp s2 .lane c slot (counterOf (asksKind asks)))
  | .array c cur' =>
    if cur' = cur then
      match runningTask s c cur with
      | none => .fault .noUnit
      | some (k, t) =>
        let pc := (t.cursors.get cur).pc
        match f (taskCtx k c t cur) k.th with
        | .error e => .next (arrayException s c cur e 0 0 0 pc)
        | .ok m =>
          match memTarget s (taskCtx k c t cur) 0 m with
          | .error e => .next (arrayException s c cur e m.addr 0 m.addr.toNat pc)
          | .ok tg =>
            let q := taskAsk t c cur pc m tg
            let s1 := { s with flight := s.flight ++ [flightOf q tg s.nextId s.nextId .issued 0 noFlag], nextId := s.nextId + 1 }
            let s2 := s1.setArray c { s1.array c with task := some (t.pass cur (pc + 4)) }
            .next (countUp s2 .array c 0 (counterOf m.kind))
    else .fault .noUnit

/-! ### Loads and stores (08 R221 to R226) -/

/-- A load. -/
def loadOp (size : Nat) (ext acq : Bool) (scope : Nat) (d a : BitVec 5) (off : Word) (x : Ctx) (t : Thread) : MemOp :=
  { kind := .load, addr := t.reg x.ring a + off, size := size, ext := ext, dest := some (t.phys x.ring d), data := 0,
    cmp := 0, scope := scope, acq := acq, rel := false }

/-- A plain load (08 R221). -/
def loadWord (size : Nat) (ext : Bool) (d a : BitVec 5) (imm : BitVec 12) (s : State) : Answer :=
  memWord s .S fun x t => .ok (loadOp size ext false 0 d a (imm.signExtend 64) x t)

/-- An acquire load (08 R221, 06 R163). -/
def acquireWord (size : Nat) (ext : Bool) (d a : BitVec 5) (scope : BitVec 3) (imm : BitVec 9) (s : State) : Answer :=
  memWord s .S fun x t =>
    if isScope scope then .ok (loadOp size ext true scope.toNat d a (imm.signExtend 64) x t) else .error .illegalOperand

/-- A store. -/
def storeOp (size : Nat) (rel : Bool) (scope : Nat) (d a : BitVec 5) (off : Word) (x : Ctx) (t : Thread) : MemOp :=
  { kind := .store, addr := t.reg x.ring a + off, size := size, ext := false, dest := none, data := t.reg x.ring d,
    cmp := 0, scope := scope, acq := false, rel := rel }

/-- A plain store (08 R221). -/
def storeWord (size : Nat) (d a : BitVec 5) (imm : BitVec 12) (s : State) : Answer :=
  memWord s .S fun x t => .ok (storeOp size false 0 d a (imm.signExtend 64) x t)

/-- A release store (08 R221, 06 R163). -/
def releaseWord (size : Nat) (d a : BitVec 5) (scope : BitVec 3) (imm : BitVec 9) (s : State) : Answer :=
  memWord s .S fun x t =>
    if isScope scope then .ok (storeOp size true scope.toNat d a (imm.signExtend 64) x t) else .error .illegalOperand

/-- `ld.b` (08 R221). -/
def execLdB (d a : BitVec 5) (imm : BitVec 12) (s : State) : Answer := loadWord 1 true d a imm s

/-- `ld.bu` (08 R221). -/
def execLdBu (d a : BitVec 5) (imm : BitVec 12) (s : State) : Answer := loadWord 1 false d a imm s

/-- `ld.h` (08 R221). -/
def execLdH (d a : BitVec 5) (imm : BitVec 12) (s : State) : Answer := loadWord 2 true d a imm s

/-- `ld.hu` (08 R221). -/
def execLdHu (d a : BitVec 5) (imm : BitVec 12) (s : State) : Answer := loadWord 2 false d a imm s

/-- `ld.w` (08 R221). -/
def execLdW (d a : BitVec 5) (imm : BitVec 12) (s : State) : Answer := loadWord 4 true d a imm s

/-- `ld.wu` (08 R221). -/
def execLdWu (d a : BitVec 5) (imm : BitVec 12) (s : State) : Answer := loadWord 4 false d a imm s

/-- `ld.d` (08 R221). -/
def execLdD (d a : BitVec 5) (imm : BitVec 12) (s : State) : Answer := loadWord 8 false d a imm s

/-- `ld.b.acq` (08 R221). -/
def execLdBAcq (d a : BitVec 5) (scope : BitVec 3) (imm : BitVec 9) (s : State) : Answer :=
  acquireWord 1 true d a scope imm s

/-- `ld.bu.acq` (08 R221). -/
def execLdBuAcq (d a : BitVec 5) (scope : BitVec 3) (imm : BitVec 9) (s : State) : Answer :=
  acquireWord 1 false d a scope imm s

/-- `ld.h.acq` (08 R221). -/
def execLdHAcq (d a : BitVec 5) (scope : BitVec 3) (imm : BitVec 9) (s : State) : Answer :=
  acquireWord 2 true d a scope imm s

/-- `ld.hu.acq` (08 R221). -/
def execLdHuAcq (d a : BitVec 5) (scope : BitVec 3) (imm : BitVec 9) (s : State) : Answer :=
  acquireWord 2 false d a scope imm s

/-- `ld.w.acq` (08 R221). -/
def execLdWAcq (d a : BitVec 5) (scope : BitVec 3) (imm : BitVec 9) (s : State) : Answer :=
  acquireWord 4 true d a scope imm s

/-- `ld.wu.acq` (08 R221). -/
def execLdWuAcq (d a : BitVec 5) (scope : BitVec 3) (imm : BitVec 9) (s : State) : Answer :=
  acquireWord 4 false d a scope imm s

/-- `ld.d.acq` (08 R221). -/
def execLdDAcq (d a : BitVec 5) (scope : BitVec 3) (imm : BitVec 9) (s : State) : Answer :=
  acquireWord 8 false d a scope imm s

/-- `st.b` (08 R221). -/
def execStB (d a : BitVec 5) (imm : BitVec 12) (s : State) : Answer := storeWord 1 d a imm s

/-- `st.h` (08 R221). -/
def execStH (d a : BitVec 5) (imm : BitVec 12) (s : State) : Answer := storeWord 2 d a imm s

/-- `st.w` (08 R221). -/
def execStW (d a : BitVec 5) (imm : BitVec 12) (s : State) : Answer := storeWord 4 d a imm s

/-- `st.d` (08 R221). -/
def execStD (d a : BitVec 5) (imm : BitVec 12) (s : State) : Answer := storeWord 8 d a imm s

/-- `st.b.rel` (08 R221). -/
def execStBRel (d a : BitVec 5) (scope : BitVec 3) (imm : BitVec 9) (s : State) : Answer :=
  releaseWord 1 d a scope imm s

/-- `st.h.rel` (08 R221). -/
def execStHRel (d a : BitVec 5) (scope : BitVec 3) (imm : BitVec 9) (s : State) : Answer :=
  releaseWord 2 d a scope imm s

/-- `st.w.rel` (08 R221). -/
def execStWRel (d a : BitVec 5) (scope : BitVec 3) (imm : BitVec 9) (s : State) : Answer :=
  releaseWord 4 d a scope imm s

/-- `st.d.rel` (08 R221). -/
def execStDRel (d a : BitVec 5) (scope : BitVec 3) (imm : BitVec 9) (s : State) : Answer :=
  releaseWord 8 d a scope imm s

/-! ### Atomics and reductions (12 R331 to R337) -/

/-- The bytes of an atomic's size field: 4 or 8 for integers, 4 for f32 (12 R331). -/
def amoSize (fp : Bool) (size : BitVec 2) : Option Nat :=
  match size.toNat with
  | 0 => some 4
  | 1 => if fp then none else some 8
  | _ => none

/-- An atomic that returns (12 R333, R334): integers are sign-extended, a comparand comes from s[d]. -/
def amoWord (op : AmoOp) (fp : Bool) (d a b : BitVec 5) (scope : BitVec 3) (size : BitVec 2) (s : State) : Answer :=
  memWord s .Y fun x t =>
    match amoSize fp size with
    | none => .error .illegalOperand
    | some n =>
      if isScope scope then
        .ok { kind := .amo op, addr := t.reg x.ring a, size := n, ext := !fp, dest := some (t.phys x.ring d),
              data := t.reg x.ring b, cmp := t.reg x.ring d, scope := scope.toNat, acq := false, rel := false }
      else .error .illegalOperand

/-- A reduction (12 R336); size 1 of an integer one is i64 (12 R320, R332; log entry 108). -/
def redWord (op : AmoOp) (fp : Bool) (a b : BitVec 5) (scope : BitVec 3) (size : BitVec 2) (s : State) : Answer :=
  memWord s .Y fun x t =>
    match amoSize fp size with
    | none => .error .illegalOperand
    | some n =>
      if isScope scope then
        .ok { kind := .red op, addr := t.reg x.ring a, size := n, ext := false, dest := none, data := t.reg x.ring b,
              cmp := 0, scope := scope.toNat, acq := false, rel := false }
      else .error .illegalOperand

/-- `amo.add` (12 R333). -/
def execAmoAdd (d a b : BitVec 5) (scope : BitVec 3) (size : BitVec 2) (s : State) : Answer :=
  amoWord .add false d a b scope size s

/-- `amo.and` (12 R333). -/
def execAmoAnd (d a b : BitVec 5) (scope : BitVec 3) (size : BitVec 2) (s : State) : Answer :=
  amoWord .and false d a b scope size s

/-- `amo.or` (12 R333). -/
def execAmoOr (d a b : BitVec 5) (scope : BitVec 3) (size : BitVec 2) (s : State) : Answer :=
  amoWord .or false d a b scope size s

/-- `amo.xor` (12 R333). -/
def execAmoXor (d a b : BitVec 5) (scope : BitVec 3) (size : BitVec 2) (s : State) : Answer :=
  amoWord .xor false d a b scope size s

/-- `amo.min` (12 R333). -/
def execAmoMin (d a b : BitVec 5) (scope : BitVec 3) (size : BitVec 2) (s : State) : Answer :=
  amoWord .min false d a b scope size s

/-- `amo.max` (12 R333). -/
def execAmoMax (d a b : BitVec 5) (scope : BitVec 3) (size : BitVec 2) (s : State) : Answer :=
  amoWord .max false d a b scope size s

/-- `amo.minu` (12 R333). -/
def execAmoMinu (d a b : BitVec 5) (scope : BitVec 3) (size : BitVec 2) (s : State) : Answer :=
  amoWord .minu false d a b scope size s

/-- `amo.maxu` (12 R333). -/
def execAmoMaxu (d a b : BitVec 5) (scope : BitVec 3) (size : BitVec 2) (s : State) : Answer :=
  amoWord .maxu false d a b scope size s

/-- `amo.swap` (12 R333). -/
def execAmoSwap (d a b : BitVec 5) (scope : BitVec 3) (size : BitVec 2) (s : State) : Answer :=
  amoWord .swap false d a b scope size s

/-- `amo.cas` (12 R333). -/
def execAmoCas (d a b : BitVec 5) (scope : BitVec 3) (size : BitVec 2) (s : State) : Answer :=
  amoWord .cas false d a b scope size s

/-- `amo.add.f32` (12 R334). -/
def execAmoAddF32 (d a b : BitVec 5) (scope : BitVec 3) (size : BitVec 2) (s : State) : Answer :=
  amoWord .fadd true d a b scope size s

/-- `amo.min.f32` (12 R334). -/
def execAmoMinF32 (d a b : BitVec 5) (scope : BitVec 3) (size : BitVec 2) (s : State) : Answer :=
  amoWord .fmin true d a b scope size s

/-- `amo.max.f32` (12 R334). -/
def execAmoMaxF32 (d a b : BitVec 5) (scope : BitVec 3) (size : BitVec 2) (s : State) : Answer :=
  amoWord .fmax true d a b scope size s

/-- `amo.cas.f32` (12 R334). -/
def execAmoCasF32 (d a b : BitVec 5) (scope : BitVec 3) (size : BitVec 2) (s : State) : Answer :=
  amoWord .fcas true d a b scope size s

/-- `red.add` (12 R333, R336). -/
def execRedAdd (a b : BitVec 5) (scope : BitVec 3) (size : BitVec 2) (s : State) : Answer :=
  redWord .add false a b scope size s

/-- `red.and` (12 R333, R336). -/
def execRedAnd (a b : BitVec 5) (scope : BitVec 3) (size : BitVec 2) (s : State) : Answer :=
  redWord .and false a b scope size s

/-- `red.or` (12 R333, R336). -/
def execRedOr (a b : BitVec 5) (scope : BitVec 3) (size : BitVec 2) (s : State) : Answer :=
  redWord .or false a b scope size s

/-- `red.xor` (12 R333, R336). -/
def execRedXor (a b : BitVec 5) (scope : BitVec 3) (size : BitVec 2) (s : State) : Answer :=
  redWord .xor false a b scope size s

/-- `red.min` (12 R333, R336). -/
def execRedMin (a b : BitVec 5) (scope : BitVec 3) (size : BitVec 2) (s : State) : Answer :=
  redWord .min false a b scope size s

/-- `red.max` (12 R333, R336). -/
def execRedMax (a b : BitVec 5) (scope : BitVec 3) (size : BitVec 2) (s : State) : Answer :=
  redWord .max false a b scope size s

/-- `red.minu` (12 R333, R336). -/
def execRedMinu (a b : BitVec 5) (scope : BitVec 3) (size : BitVec 2) (s : State) : Answer :=
  redWord .minu false a b scope size s

/-- `red.maxu` (12 R333, R336). -/
def execRedMaxu (a b : BitVec 5) (scope : BitVec 3) (size : BitVec 2) (s : State) : Answer :=
  redWord .maxu false a b scope size s

/-- `red.add.f32` (12 R334, R336). -/
def execRedAddF32 (a b : BitVec 5) (scope : BitVec 3) (size : BitVec 2) (s : State) : Answer :=
  redWord .fadd true a b scope size s

end Sys2Proof.Machine
end

