-- ==== Sys2Proof/Machine/RegWindow.lean ====
section
/-! DEFINITION. Register windows of lane threads and their spill area (08 R210 to R214; 04 R127, R128), and the taking of
an outcome (01 R36). -/

namespace Sys2Proof.Machine

/-! ### The spill area (04 R128) -/

/-- The address of an offset in a thread's spill area (04 R128). -/
def spillAddr (r : LaunchRec) (t : Thread) (off : Nat) : Word :=
  r.spillBase + word (r.spillSize * (32 * t.spillIndex + t.spillLane) + off)

/-- How a spill or a fill goes on: what it gives, or the fault with its address, or the word waits. -/
inductive SpillOut (α : Type) where
  | ok (a : α)
  | fault (c : Cause) (addr : Word)
  | wait
  deriving Repr

/-- The access of a spill or fill (08 R212, R213): thread scope, of 8 bytes. -/
def spillOp (k : AccKind) (a v : Word) : MemOp :=
  { kind := k, addr := a, size := 8, ext := false, dest := none, data := v, cmp := 0, scope := 0, acq := false, rel := false }

/-- An access made at once in the core's storage, in a tile table or in a window: with what it reads. -/
def directCore (s : State) (q : Ask) (base : Nat) (t : Target) : CoreWrite × Word :=
  let w := q.origin.world
  let now (t : Target) : CoreWrite × Word := let y := makeNow s .lane q.origin.core w t q.op; (y.1, y.2.1)
  match t with
  | .core o =>
    if (tableAt s .lane q.origin.core (base + o)).isSome then now (.core (base + o))
    else
      let y := applyCore s q.op.kind w .lane q.origin.core (base + o) 8 q.op.data 0
      ({ state := y.1, faults := [], waits := false }, y.2.1)
  | t => now t

/-- An access made and performed before its word completes: at its line's home, in the core's storage or in a window. It
waits while the line is busy. -/
def direct (s : State) (q : Ask) (base : Nat) (t : Target) : SpillOut (State × Word) :=
  match t with
  | .mem a =>
    let f := flightOf q (.mem a) s.nextId s.nextId .issued 0 noFlag
    let v := (applyAt s f.kind f.origin.world a 8 f.data 0).2.1
    if behindPosted s f then .wait
    else if moduleOf a = s.module then
      (if busyRange s a 8 || !hubHears s q.agent.port then .wait else .ok (serveFlight (cleanFenced s (lineOf a)) f, v))
    else .ok ((applyAt s f.kind f.origin.world a 8 f.data 0).1, v)
  | t =>
    let y := directCore s q base t
    if y.1.waits || !heardNow s q.agent t then .wait
    else match y.1.faults with
      | c :: _ => .fault c q.op.addr
      | [] => .ok (y.1.state, y.2)

/-- No access of an agent is in flight: a spill or fill keeps its order behind them by waiting for them. -/
def quietAgent (s : State) (a : Agent) : Bool :=
  s.flight.all fun f => f.agent != a || (f.applied && !f.counted)

/-- One 8-byte access of a thread's spill area. -/
def spillAccess (x : Ctx) (a : Agent) (o : Origin) (scr : Nat × Nat) (k : AccKind) (va v : Word) (s : State) :
    SpillOut (State × Word) :=
  let m := spillOp k va v
  match memTarget s x scr.2 m with
  | .error c => .fault c va
  | .ok t => if !quietAgent s a then .wait else direct s { lane := x.lane, agent := a, origin := o, op := m, target := .ok t } scr.1 t

/-- Values stored from an address on, 8 bytes each. -/
def storeWords (x : Ctx) (a : Agent) (o : Origin) (scr : Nat × Nat) : List Word → Word → State → SpillOut State
  | [], _, s => .ok s
  | v :: rest, va, s =>
    match spillAccess x a o scr .store va v s with
    | .ok (s1, _) => storeWords x a o scr rest (va + 8) s1
    | .fault c w => .fault c w
    | .wait => .wait

/-- `n` values loaded from an address on. -/
def loadWords (x : Ctx) (a : Agent) (o : Origin) (scr : Nat × Nat) : Nat → Word → State → SpillOut (State × List Word)
  | 0, _, s => .ok (s, [])
  | n + 1, va, s =>
    match spillAccess x a o scr .load va 0 s with
    | .fault c w => .fault c w
    | .wait => .wait
    | .ok (s1, v) =>
      match loadWords x a o scr n (va + 8) s1 with
      | .ok (s2, vs) => .ok (s2, v :: vs)
      | .fault c w => .fault c w
      | .wait => .wait

/-! ### Windows (08 R210 to R213) -/

/-- Registers held by resident windows. -/
def Windows.held (w : Windows) : Nat := w.resident.foldl (· + ·) 0

/-- The physical registers of `n` ring positions from `p` on. -/
def ringRegs (ring p n : Nat) : List Nat := (upFrom p n).map fun i => 32 + i % ring

/-- The ring position of the oldest resident window. -/
def Windows.oldest (w : Windows) (ring : Nat) : Nat := (w.wbase + w.cur + ring - w.held) % ring

/-- The oldest windows stored until `n` registers are free (08 R212): at most `fuel` of them. -/
def spillFor (x : Ctx) (a : Agent) (o : Origin) (scr : Nat × Nat) (n : Nat) : Nat → Thread → State →
    SpillOut (State × Thread)
  | 0, t, s => .ok (s, t)
  | fuel + 1, t, s =>
    let w := t.win
    if n ≤ x.ring - w.held then .ok (s, t)
    else match w.resident.reverse with
      | [] => .ok (s, t)
      | m :: rest =>
        let r := x.info.record
        if r.spillSize < w.spillOff + 8 * m + 8 then .fault .spillOverflow 0
        else
          let vs := (ringRegs x.ring (w.oldest x.ring) m).map fun p => t.preg p
          match storeWords x a o scr (vs ++ [word m]) (spillAddr r t w.spillOff) s with
          | .fault c v => .fault c v
          | .wait => .wait
          | .ok s1 =>
            let t1 := { t with win := { w with spillOff := w.spillOff + 8 * m + 8, resident := rest.reverse } }
            spillFor x a o scr n fuel t1 s1

/-- `callw` on a thread (08 R212). -/
def callThread (x : Ctx) (a : Agent) (o : Origin) (scr : Nat × Nat) (n : Nat) (t : Thread) (s : State) :
    SpillOut (State × Thread) :=
  if n < 8 ∨ 32 < n then .fault .illegalOperand 0
  else if t.win.depth = 4095 then .fault .spillOverflow 0
  else match spillFor x a o scr n (t.win.resident.length + 1) t s with
    | .fault c v => .fault c v
    | .wait => .wait
    | .ok (s1, t1) =>
      let w := t1.win
      let p := (w.wbase + w.cur) % x.ring
      let t2 := (ringRegs x.ring p n).foldl (fun (t : Thread) r => t.setPreg r 0) t1
      .ok (s1, { t2 with win := { w with wbase := p, cur := n, depth := w.depth + 1, resident := n :: w.resident } })

/-- `retw` on a thread (08 R213). -/
def returnThread (x : Ctx) (a : Agent) (o : Origin) (scr : Nat × Nat) (t : Thread) (s : State) :
    SpillOut (State × Thread) :=
  let w := t.win
  let r := x.info.record
  if w.depth = 0 then .fault .illegalOperand 0
  else if w.depth = 1 then .ok (s, { t with win := { w with cur := 0, wbase := 0, depth := 0, resident := [] } })
  else match w.resident with
    | _ :: m :: rest =>
      .ok (s, { t with win := { w with resident := m :: rest, wbase := (w.wbase + x.ring - m) % x.ring, cur := m,
                                       depth := w.depth - 1 } })
    | _ =>
      match spillAccess x a o scr .load (spillAddr r t w.spillOff - 8) 0 s with
      | .fault c v => .fault c v
      | .wait => .wait
      | .ok (s1, desc) =>
        let m := desc.toNat % 64
        if w.spillOff < 8 ∨ 64 ≤ desc.toNat ∨ m < 8 ∨ 32 < m ∨ w.spillOff < 8 * m + 8 then .fault .spillOverflow 0
        else
          let off := w.spillOff - (8 * m + 8)
          let p := (w.wbase + x.ring - m) % x.ring
          match loadWords x a o scr m (spillAddr r t off) s1 with
          | .fault c v => .fault c v
          | .wait => .wait
          | .ok (s2, vs) =>
            let t1 := ((ringRegs x.ring p m).zip vs).foldl (fun (t : Thread) y => t.setPreg y.1 y.2) t
            .ok (s2, { t1 with win := { w with spillOff := off, wbase := p, resident := [m], cur := m,
                                               depth := w.depth - 1 } })

/-- Threads of a group run a window word in lane order. -/
def windowLanes (f : Ctx → Agent → Origin → Nat × Nat → Thread → State → SpillOut (State × Thread)) (x : Ctx)
    (o : Origin) (scr : Nat × Nat) (w : Warp) : List Nat → State → State × Map Thread × List LaneFault × Bool
  | [], s => (s, [], [], false)
  | l :: rest, s =>
    match mapGet? l w.threads with
    | none => windowLanes f x o scr w rest s
    | some t =>
      let a : Agent := .lane x.core x.slot l
      match f { x with lane := l } a { o with lane := l } scr t s with
      | .ok (s1, t1) =>
        let (s2, ts, fs, b) := windowLanes f x o scr w rest s1
        (s2, (l, t1) :: ts, fs, b)
      | .fault c v =>
        let (s2, ts, fs, b) := windowLanes f x o scr w rest s
        (s2, ts, { lane := l, cause := c, value := v, code := 0, addr := v.toNat } :: fs, b)
      | .wait => let (s2, ts, fs, _) := windowLanes f x o scr w rest s; (s2, ts, fs, true)

/-- A window word (08 R212 to R214): on an array core it has no effect; on a lane core every thread of the group runs it,
or none. -/
def windowWord (s : State) (ok : Bool)
    (f : Ctx → Agent → Origin → Nat × Nat → Thread → State → SpillOut (State × Thread)) : Answer :=
  match s.sel with
  | .array _ _ => scalarWord s .S false fun _ t => if ok then .done t none else .fault .illegalOperand 0
  | .lane c slot lane =>
    match runningGroup s c slot lane with
    | none => .fault .noUnit
    | some (k, w, g, group) =>
      let pc := groupPc w group
      let x := laneCtx k c slot lane g
      let o : Origin := { world := g.info.world, job := g.info.job, launch := g.info.launch, kind := .lane, core := c,
                          idx := w.idx.toNat, slot := slot, key := slot, lane := lane, pc := pc, cursor := 0xFF }
      match windowLanes f x o (g.scrBase, g.scrSize) w group s with
      | (_, _, y :: ys, _) => .next (laneException s c slot group pc pc (y :: ys))
      | (_, _, [], true) => .next s
      | (s1, ts, [], false) =>
        let k1 := s1.lane c
        let put (w : Warp) : Warp :=
          { w with threads := ts.foldl (fun m y => mapSet y.1 { y.2 with pc := pc + 4 } m) w.threads }
        .next (s1.setLane c { k1 with warps := mapUpdate slot put k1.warps })

/-- `callw` (08 R212, R214). -/
def execCallw (n : BitVec 12) (s : State) : Answer :=
  windowWord s (decide (8 ≤ n.toNat) && decide (n.toNat ≤ 32)) fun x a o scr t s => callThread x a o scr n.toNat t s

/-- `retw` (08 R213, R214). -/
def execRetw (s : State) : Answer := windowWord s true fun x a o scr t s => returnThread x a o scr t s

/-! ### Outcomes (01 R36) -/

/-- A branch word appends an outcome (01 R36): branches and jumps, `lseq`, `lend` and `lbrk`. -/
def isBranchWord (i : Instr) : Bool :=
  match i with
  | .bEq _ _ _ => true
  | .bNe _ _ _ => true
  | .bLt _ _ _ => true
  | .bGe _ _ _ => true
  | .bLtu _ _ _ => true
  | .bGeu _ _ _ => true
  | .brot _ _ _ => true
  | .j _ _ => true
  | .jr _ _ _ => true
  | .lseq _ _ _ => true
  | .lseqRot _ _ _ => true
  | .lend _ => true
  | .lbrk _ _ => true
  | _ => false

/-- The word of the path where a cursor stands. -/
def Task.wordAt (t : Task) (cur : Cursor) : Option Instr :=
  match t.path.find? fun e => e.step == (t.cursors.get cur).step with
  | none => none
  | some e => match decodeWord e.raw with
    | .ok i => some i
    | .error _ => none

/-- A cursor may take an outcome: it is not S, it stands at a branch word, and one is there that it has not taken. -/
def Task.mayTake (t : Task) (cur : Cursor) : Bool :=
  cur != Cursor.S && (match t.wordAt cur with
    | some i => isBranchWord i
    | none => false)
    && decide ((t.cursors.get cur).taken < t.outBase + t.outq.length)

/-- OUTCOME_TAKE (01 R36): a cursor that waits at a branch word takes the oldest outcome that it has not taken. -/
def execOutcomeTake (core : Nat) (cur : Cursor) (s : State) : Answer :=
  match runningTask s core cur with
  | none => .next s
  | some (k, t) => if t.mayTake cur then .next (s.setArray core { k with task := some (t.take cur) }) else .next s

end Sys2Proof.Machine
end

