-- ==== Sys2Proof/Machine/Copy.lean ====
section
/-! DEFINITION. The words of the D engine (11 R290 to R307): the ranges that a copy command translates and pins (04 R123; 11
R292, R293), its issue, and batches (R304, R306). -/

namespace Sys2Proof.Machine

/-! ### Ranges (11 R292, R293; 04 R123) -/

/-- A part of a range: within one page, or within the local aperture. `page` is the page's virtual base plus the number of
its offset bits. -/
structure Seg where
  va : Nat
  len : Nat
  page : Option Nat
  need : Need
  deriving DecidableEq, Repr

/-- The page of a virtual address: its base plus the number of its offset bits; an address that no leaf maps counts as 4
KiB (log entry 22). -/
def pageOf (s : State) (i : UnitInfo) (va : Nat) : Nat :=
  let n := ((leafOf s i.world i.pin va).map (·.2)).getD 12
  va / 2 ^ n * 2 ^ n + n

/-- The parts of a range in ascending addresses, up to `fuel` of them; a part in a page ends where the aperture begins. -/
def segsFrom (s : State) (i : UnitInfo) (need : Need) : Nat → Nat → Nat → List Seg
  | 0, _, _ => []
  | fuel + 1, va, len =>
    if len = 0 then []
    else if (apertureOff va).isSome then [{ va := va, len := len, page := none, need := need }]
    else
      let p := pageOf s i va
      let end_ := p / 4096 * 4096 + 2 ^ (p % 4096)
      let n := min len ((if va < 0xFFFFFFFFF8000000 then min end_ 0xFFFFFFFFF8000000 else end_) - va)
      { va := va, len := n, page := some p, need := need } :: segsFrom s i need fuel ((va + n) % 2 ^ 64) (len - n)

/-- The parts of a range; more than 512 pages fail, however many more there are. -/
def segsOf (s : State) (i : UnitInfo) (need : Need) (va len : Nat) : List Seg := segsFrom s i need 515 va len

/-- A number added to a list that does not hold it. -/
def insertNew (ps : List Nat) (p : Nat) : List Nat := if ps.contains p then ps else ps ++ [p]

/-- The distinct pages of parts. -/
def pagesOf (gs : List Seg) : List Nat := gs.foldl (fun ps g => match g.page with
  | some p => insertNew ps p
  | none => ps) []

/-- A run of the window map meets a reserved byte (04 R116, R117). -/
def windowGap (l n : Nat) : Bool :=
  if l < 0x30000000000 + 160 * 0x10000000 then
    let o := (l - 0x30000000000) % 0x10000000
    overlaps o n 0x8148300 0x7D00 || overlaps o n 0x8160000 0x7EA0000
  else if 0x31000000000 ≤ l ∧ l < 0x31000000000 + 192 * 0x400000 then
    overlaps ((l - 0x31000000000) % 0x400000) n 0x1F0000 0x210000
  else (upFrom (l / 8) ((l + n - 1) / 8 + 1 - l / 8)).any fun c => (winPart (8 * c)).isNone

/-- A run of local addresses of this module meets a reserved byte (04 R114 to R117). -/
def runReserved (s : State) (l n : Nat) : Bool :=
  if isWindowMap l then windowGap l n
  else
    isReserved s l || (s.hub.spillLock && overlaps l n (s.hub.spillBase * 2 ^ 25) (2 ^ 25))
      || (badBlocks s).any fun b => overlaps l n (0x20000000000 + 0x200000 * b) 0x200000

/-- A task may access every window that a run meets (04 R118): each is a whole number of 4 MiB blocks. -/
def windowsAllowed (s : State) (i : UnitInfo) (l n : Nat) : Bool :=
  (upFrom (l / 0x400000) ((l + n - 1) / 0x400000 + 1 - l / 0x400000)).all fun k =>
    match winPart (max l (0x400000 * k)) with
    | some p => windowAllowed s i.world i.priv p
    | none => true

/-- A part of a range that lies in a page: where its first byte stands, or its fault (11 R292 step 3), each check made on
the whole part. A busy window is met later (04 R119). -/
def pagePlace (s : State) (i : UnitInfo) (g : Seg) : Except Cause Place :=
  if !isCanonical g.va then .error .nonCanonical
  else match translate s i.world i.priv i.pin g.need g.va with
    | .error c => .error c
    | .ok a =>
      let l := localOf a
      if moduleOf a = s.module then
        if runReserved s l g.len then .error .addressRange
        else if isWindowMap l && !windowsAllowed s i l g.len then .error .windowAccess
        else .ok (.mem a)
      else if isWindowMap l then (if windowGap l g.len then .error .addressRange else .error .windowAccess)
      else if !isCoherent l then .error .addressRange
      else if !reachable s (moduleOf a) then .error .peerUnreachable
      else .ok (.mem a)

/-- A part of a range in the local aperture: an offset in the core's storage, checked against the aperture alone (11 R292
step 4; 04 R125). -/
def aperturePlace (s : State) (x : Issuer) (g : Seg) : Except Cause Place :=
  match localAt s x 1 g.len (word g.va) with
  | .ok o => .ok (.core o)
  | .error c => .error c

/-- Places of the parts of a range. -/
abbrev Runs := List (Place × Nat)

/-- The first fault of parts, and where it stands, by a check. -/
def firstFault (f : Seg → Except Cause Place) : List Seg → Option (Cause × Nat)
  | [] => none
  | g :: rest => match f g with
    | .error c => some (c, g.va)
    | .ok _ => firstFault f rest

/-- Where the parts of a range stand. -/
def runsAt (s : State) (x : Issuer) (gs : List Seg) : Runs :=
  gs.filterMap fun g =>
    match (if g.page.isSome then pagePlace s x.info g else aperturePlace s x g) with
    | .ok p => some (p, g.len)
    | .error _ => none

/-- Two lists of runs of one length laid side by side. -/
def zipRuns : Nat → Runs → Runs → List Piece
  | 0, _, _ => []
  | _ + 1, [], _ => []
  | _ + 1, _, [] => []
  | fuel + 1, (p, m) :: ps, (q, n) :: qs =>
    let k := min m n
    let ps1 := if k < m then (p.plus k, m - k) :: ps else ps
    let qs1 := if k < n then (q.plus k, n - k) :: qs else qs
    { src := p, dst := q, len := k } :: zipRuns fuel ps1 qs1

/-- Pieces of two lists of runs. -/
def piecesOf (src dst : Runs) : List Piece := zipRuns (src.length + dst.length + 1) src dst

/-- The pages that a command pins: those outside the window map (04 R123). -/
def pinsOf (s : State) (x : Issuer) (gs : List Seg) : List Nat :=
  gs.foldl (fun ps g => match g.page with
    | none => ps
    | some p => match pagePlace s x.info g with
      | .ok (.mem a) => if isWindowMap (localOf a) then ps else insertNew ps p
      | _ => ps) []

/-- The pins of a core that copy commands hold. -/
def pinned (s : State) (x : Issuer) : Nat :=
  (s.copies.filter fun c => c.origin.kind == x.kind && c.origin.core == x.core).foldl (fun n c => n + c.pins.length) 0

/-- Steps 2 to 5 of 11 R292 on the ranges of a command, sources before destinations; then the word goes on. -/
def ranged (s : State) (x : Issuer) (gs : List Seg) (f : Issue) : Issue :=
  if 512 < (pagesOf gs).length then .fault .copyRange 0 0
  else match firstFault (pagePlace s x.info) (gs.filter fun g => g.page.isSome) with
    | some (c, a) => .fault c a 0
    | none => match firstFault (aperturePlace s x) (gs.filter fun g => g.page.isNone) with
      | some (c, a) => .fault c a 0
      | none => if 512 < pinned s x + (pinsOf s x gs).length then .wait else f

/-! ### Issue -/

/-- The batches of an agent changed. -/
def onBatch (s : State) (a : Agent) (f : Batches → Batches) : State := onThread s a fun t => { t with batch := f t.batch }

/-- A command joins the open batch (11 R304). -/
def Batches.join (b : Batches) (id : Option Nat) : Batches :=
  { b with openCount := b.openCount + 1, openCmds := match id with
      | some n => b.openCmds ++ [n]
      | none => b.openCmds }

/-- A command issues: CP counts it and it joins the open batch (11 R290). -/
def issueCopy (s : State) (x : Issuer) (k : CopyKind) (ps : List Piece) (pins : List Nat) (failed : Bool) : State :=
  let id := s.nextId
  let c : Copy := { id := id, agent := x.agent, origin := x.origin, wg := x.wg, kind := k, pieces := ps, pins := pins,
                    attempt := 0, version := 0, gen := x.info.pin, got := [], wrote := [], broken := false, cut := [], said := [],
                    failed := failed, written := false }
  x.count (onBatch { s with copies := s.copies ++ [c], nextId := id + 1 } x.agent fun b => b.join (some id)) .cp

/-- A command with an empty range is complete at issue (11 R293). -/
def issueEmpty (s : State) (x : Issuer) : State := onBatch s x.agent fun b => b.join none

/-- Where the image of an entry stands in its core's storage. -/
def imageAt (s : State) (x : Issuer) (n : Nat) : Nat := (x.tiles s).base + (x.entry s n).lsoff.toNat

/-- A destination entry goes to filling, in the order of its send queue (03 R97; 05 R138). -/
def startFill (s : State) (x : Issuer) (n : Nat) (q : Option Nat) : State :=
  let s1 := x.onTile s n fun e => { e with st := .filling }
  match q with
  | some q => onQueue s1 x.core q fun b => b.push n
  | none => s1

/-- `tld` (11 R294). -/
def execTld (td ta : BitVec 6) (s : State) : Answer :=
  unitWord s .D fun x s =>
    let d := tileName x.kind td
    if !isScalar6 ta then .no .illegalOperand
    else (pickDest s x d).bind fun n =>
      let a := (x.reg6 ta).toNat
      let cap := (x.entry s n).cap.toNat
      if a % 32 ≠ 0 then .fault .alignment a 0
      else if cap = 0 then .no .tileCapacity
      else
        let gs := segsOf s x.info .read a cap
        ranged s x gs
          (.done (issueCopy (startFill s x n d.sendQ) x (.tld n d.sendQ)
            (piecesOf (runsAt s x gs) [(.core (imageAt s x n), cap)]) (pinsOf s x gs) false))

/-- The tile that a draining word reads out leaves its queue and goes to draining (03 R97; 05 R136). -/
def startDrain (s : State) (x : Issuer) (n : Nat) (q : Option Nat) : State :=
  let s1 := match q with
    | some q => onQueue s x.core q fun b => { b with fifo := b.fifo.drop 1 }
    | none => s
  x.onTile s1 n fun e => { e with st := .draining }

/-- `tst` and `tst.f` (11 R295). -/
def tstWord (free : Bool) (ta tb : BitVec 6) (s : State) : Answer :=
  unitWord s .D fun x s =>
    let d := tileName x.kind ta
    if !isScalar6 tb then .no .illegalOperand
    else (pickSource s x d).bind fun n =>
      let a := (x.reg6 tb).toNat
      let e := x.entry s n
      let h := e.header
      let gs := segsOf s x.info .both a h.tlen
      if a % 32 ≠ 0 then .fault .alignment a 0
      else ranged s x gs
        (checked [⟨check1 e.hdr.toNat, .headerIntegrity, d.code⟩, ⟨h.check3, .headerMismatch, d.code⟩,
            ⟨(x.tiles s).inRange e, .tileCapacity, d.code⟩]
          (.done (issueCopy (startDrain s x n d.sendQ) x (.tst n free d.sendQ)
            (piecesOf [(.core (imageAt s x n), h.tlen)] (runsAt s x gs)) (pinsOf s x gs) false)))

/-- `tst` (11 R295). -/
def execTst (ta tb : BitVec 6) (s : State) : Answer := tstWord false ta tb s

/-- `tst.f` (11 R295): the entry is freed. -/
def execTstF (ta tb : BitVec 6) (s : State) : Answer := tstWord true ta tb s

/-- The row length in bytes (11 R296). -/
def rowBytes (h : Hdr) : Nat := runBytes h.fmt h.cols

/-- The row list at an offset of the core's storage (11 R296). -/
def rowList (s : State) (x : Issuer) (off rows : Nat) : List Nat :=
  (upFrom 0 rows).map fun i => natOfBytes (readCore s x.kind x.core (off + 4 * i) 4)

/-- The virtual address of a row (11 R297, R298). -/
def rowAddr (base : Word) (rb n : Nat) : Nat := (base + wordOfInt (signed 32 n * rb)).toNat

/-- The parts of the rows that a list names. -/
def rowSegs (s : State) (x : Issuer) (need : Need) (base : Word) (rb : Nat) (list : List Nat) : List Seg :=
  (list.filter fun n => n != 0xFFFFFFFF).flatMap fun n => segsOf s x.info need (rowAddr base rb n) rb

/-- The rows of an image and of memory side by side; a row that the list leaves out is zeros when it is gathered. -/
def rowPieces (s : State) (x : Issuer) (gather : Bool) (need : Need) (base : Word) (rb at_ : Nat) (list : List Nat) :
    List Piece :=
  (list.zip (upFrom 0 list.length)).flatMap fun y =>
    let here : Runs := [(.core (at_ + 32 + y.2 * rb), rb)]
    if y.1 = 0xFFFFFFFF then (if gather then piecesOf [(.zero, rb)] here else [])
    else
      let there := runsAt s x (segsOf s x.info need (rowAddr base rb y.1) rb)
      if gather then piecesOf there here else piecesOf here there

/-- ORDER 0, SPARSE 0 and SLAYOUT 0 or 1 (11 R296). -/
def rowsAllowed (h : Hdr) : Bool := h.order == 0 && h.sparse == 0 && decide (h.slayout ≤ 1)

/-- The checks that `tgat` and `tsct` make on their list and their rows (11 R292, R296). -/
def listed (s : State) (x : Issuer) (need : Need) (base list : Word) (h : Hdr) (f : Nat → List Seg → Issue) : Issue :=
  match localAt s x 4 (4 * h.rows) list with
  | .error c => .fault c list.toNat 0
  | .ok off =>
    let gs := rowSegs s x need base (rowBytes h) (rowList s x off h.rows)
    ranged s x gs (f off gs)

/-- `tgat` (11 R297). -/
def execTgat (td ta tb : BitVec 6) (s : State) : Answer :=
  unitWord s .D fun x s =>
    match tileName x.kind td with
    | .handle d =>
      if !isScalar6 ta || !isScalar6 tb then .no .illegalOperand
      else (pickHandle s x d).bind fun n =>
        let e := x.entry s n
        let h := e.header
        if e.readers ≠ 0 then .wait
        else listed s x .read (x.reg6 ta) (x.reg6 tb) h fun off gs =>
          checked [⟨check1 e.hdr.toNat, .headerIntegrity, 0⟩, ⟨rowsAllowed h, .unsupportedCombination, 0⟩,
              ⟨(x.tiles s).fits e h.tlen, .tileCapacity, 0⟩]
            (.done (issueCopy (startFill s x n none) x (.tgat n)
              (rowPieces s x true .read (x.reg6 ta) (rowBytes h) (imageAt s x n) (rowList s x off h.rows))
              (pinsOf s x gs) false))
    | _ => .no .illegalOperand

/-- `tsct` (11 R298). -/
def execTsct (td ta tb : BitVec 6) (s : State) : Answer :=
  unitWord s .D fun x s =>
    match tileName x.kind ta with
    | .handle d =>
      if !isScalar6 td || !isScalar6 tb then .no .illegalOperand
      else (pickHandle s x d).bind fun n =>
        let e := x.entry s n
        let h := e.header
        listed s x .write (x.reg6 tb) (x.reg6 td) h fun off gs =>
          checked [⟨check1 e.hdr.toNat, .headerIntegrity, 0⟩, ⟨rowsAllowed h, .unsupportedCombination, 0⟩,
              ⟨h.check3, .headerMismatch, 0⟩, ⟨(x.tiles s).inRange e, .tileCapacity, 0⟩]
            (.done (issueCopy (startDrain s x n none) x (.tsct n)
              (rowPieces s x false .write (x.reg6 tb) (rowBytes h) (imageAt s x n) (rowList s x off h.rows))
              (pinsOf s x gs) false))
    | _ => .no .illegalOperand

/-- `dcpy` (11 R299). -/
def execDcpy (d a b : BitVec 5) (s : State) : Answer :=
  unitWord s .D fun x s =>
    let n := (x.reg b).toNat
    let src := segsOf s x.info .read (x.reg a).toNat n
    let dst := segsOf s x.info .write (x.reg d).toNat n
    if n = 0 then .done (issueEmpty s x)
    else ranged s x (src ++ dst)
      (.done (issueCopy s x .dcpy (piecesOf (runsAt s x src) (runsAt s x dst)) (pinsOf s x (src ++ dst)) false))

/-- A command writes memory on a module; a `cflush` writes the lines of its range. -/
def Copy.writesOn (s : State) (m : Nat) (c : Copy) : Bool :=
  match c.kind with
  | .tld _ _ => false
  | .tgat _ => false
  | .cinval => false
  | .cflush => c.pieces.any fun p => p.src.module s == m
  | _ => c.pieces.any fun p => p.dst.module s == m

/-- `dflag` (11 R302): it covers the agent's earlier commands that write memory on the flag's module. -/
def execDflag (d a : BitVec 5) (scope : BitVec 3) (s : State) : Answer :=
  unitWord s .D fun x s =>
    let va := (x.reg d).toNat
    let gs := segsOf s x.info .write va 8
    if !(scope == 4 || scope == 5) then .no .illegalOperand
    else if va % 8 ≠ 0 then .fault .alignment va 0
    else ranged s x gs
      (let ps := piecesOf [(.zero, 8)] (runsAt s x gs)
       let m := match ps with
         | p :: _ => p.dst.module s
         | [] => s.module
       let covers := (s.copies.filter fun c => c.agent == x.agent && c.writesOn s m).map (·.id)
       .done (issueCopy s x (.dflag (x.reg a) (scope == 5) covers) ps (pinsOf s x gs) (x.th.batch.broken.contains m)))

/-- `cflush` and `cinval` (11 R305). -/
def lineWord (k : CopyKind) (a b : BitVec 5) (s : State) : Answer :=
  unitWord s .D fun x s =>
    let va := (x.reg a).toNat
    let n := (x.reg b).toNat
    let first := va / 128 * 128
    let gs := segsOf s x.info .read first ((va + n + 127) / 128 * 128 - first)
    let runs := runsAt s x gs
    if n = 0 then .done (issueEmpty s x)
    else ranged s x gs (.done (issueCopy s x k (piecesOf runs [(.zero, (runs.map (·.2)).sum)]) (pinsOf s x gs) false))

/-- `cflush` (11 R305). -/
def execCflush (a b : BitVec 5) (s : State) : Answer := lineWord .cflush a b s

/-- `cinval` (11 R305). -/
def execCinval (a b : BitVec 5) (s : State) : Answer := lineWord .cinval a b s

/-! ### Batches (11 R304, R306) -/

/-- The open batch sealed under the next number; one without commands in flight is complete. -/
def Batches.seal (b : Batches) : Batches :=
  let n := if b.last = 0xFFFF then 1 else b.last + 1
  { b with last := n, sealedCount := b.sealedCount + 1, openCount := 0, openCmds := [],
           pend := if b.openCmds.isEmpty then b.pend else b.pend ++ [(b.sealedCount + 1, b.openCmds)] }

/-- `dseal` (11 R304). -/
def execDseal (d : BitVec 5) (s : State) : Answer :=
  unitWord s .D fun x s =>
    let b := x.th.batch
    if 16 ≤ b.pend.length then .wait
    else .done (x.setReg (onBatch s x.agent Batches.seal) d (word b.seal.last))

/-- How many batches were sealed after the one with a number. -/
def Batches.age (b : Batches) (n : Nat) : Nat := (b.last + 65535 - n) % 65535

/-- The number names one of the latest 32,768 batches (11 R306). -/
def Batches.names (b : Batches) (n : Nat) : Bool := decide (b.age n < min 32768 b.sealedCount)

/-- The place, in the order of seals, of the batch with a number. -/
def Batches.place (b : Batches) (n : Nat) : Nat := b.sealedCount - b.age n

/-- The batch at a place and every earlier one are complete. -/
def Batches.doneTo (b : Batches) (i : Nat) : Bool := b.pend.all fun p => decide (i < p.1)

/-- A `dwait` has returned on the batches of an agent up to a place: what they have sent is ordered by the agent's later
words from now on (06 R170). -/
def waitedTo (s : State) (a : Agent) (i : Nat) : State :=
  { s with flight := s.flight.map fun f =>
      if f.agent = a ∧ f.batch.any (fun k => decide (k ≤ i)) then { f with waited := true } else f }

/-- `dwait` (11 R306). -/
def execDwait (a : BitVec 5) (s : State) : Answer :=
  unitWord s .D fun x s =>
    let b := x.th.batch
    let n := (x.reg a).toNat % 65536
    let i := if n = 0 then b.sealedCount else b.place n
    if n ≠ 0 ∧ !b.names n then .no .illegalOperand
    else if b.doneTo i then .done (waitedTo s x.agent i) else .wait

end Sys2Proof.Machine
end

