-- ==== Sys2Proof/Machine/CopyMove.lean ====
section
/-! DEFINITION. What copy commands do after issue (11 R291, R294 to R305): their reads and writes, unit by unit, their
completion (R301), and completion flags (R302, R303). -/

namespace Sys2Proof.Machine

/-! ### Reading -/

/-- A range of window addresses cut so that each part lies in one register or one 64-byte unit. -/
def winChunks : Nat → Nat → Nat → List (Nat × Nat)
  | 0, _, _ => []
  | fuel + 1, a, n =>
    if n = 0 then []
    else
      let unit := if localOf a < 0x32000000000 then 64 else 8
      let k := min n (unit - a % unit)
      (a, k) :: winChunks fuel (a + k) (n - k)

/-- The parts of a window range. -/
def winParts (a n : Nat) : List (Nat × Nat) := winChunks (n + 1) a n

/-- A read that gives zeros. -/
def zerosRead (n : Nat) (causes : List Cause) : ReadOut := { bytes := clean (List.replicate n 0), causes := causes }

/-- A stretch is read by a request to another module (11 R299). -/
def Span.far (s : State) (c : Copy) (r : Span) : Option Nat :=
  match r.place with
  | .mem a => if moduleOf a != s.module && isCoherent (localOf a) && !c.lostAt s a then some a else none
  | _ => none

/-- A copy's read of a stretch: memory of a removed module gives zeros (11 R300; 21 R480), and so does a busy window (04
R119); memory of another module gives what its request has returned. -/
def copyRead (s : State) (c : Copy) (r : Span) : ReadOut :=
  match r.place with
  | .zero => zerosRead r.len []
  | .core a => { bytes := clean (readCore s c.core.1 c.core.2 a r.len), causes := [] }
  | .mem a =>
    let n := r.len
    if c.lostAt s a then zerosRead n [.remoteFailed]
    else if isCoherent (localOf a) then
      let bs := if moduleOf a = s.module then homeBytes s a n else (readAnswer s c r.off).getD (clean (List.replicate n 0))
      { bytes := overlay ((ownBytes s c.chip a n).map fun b => b.map fun b => (b, false)) bs, causes := [] }
    else
      let rs := (winParts a n).map fun x =>
        match winPart (localOf x.1) with
        | none => zerosRead x.2 []
        | some w => if windowBusy s w then zerosRead x.2 [.windowBusy] else { bytes := clean (winRead s w x.2).2, causes := [] }
      { bytes := rs.flatMap (·.bytes), causes := (rs.flatMap (·.causes)).take 1 }

/-- Stretches read in order. -/
def readSpans (s : State) (c : Copy) : List Span → ReadOut
  | [] => { bytes := [], causes := [] }
  | r :: rest =>
    let x := copyRead s c r
    let y := readSpans s c rest
    { bytes := x.bytes ++ y.bytes, causes := x.causes ++ y.causes }

/-- The sources of a command's bytes between two offsets. -/
def Copy.sources (c : Copy) (lo hi : Nat) : List Span := c.parts (fun p => p.src) lo hi

/-- What reading stretches does to registers that it reads (16 R407), and to lines that a fenced port holds (18 R437). -/
def spanEffects (s : State) (rs : List Span) : State :=
  rs.foldl (fun s r => match r.place with
    | .mem a =>
      if isWindowMap (localOf a) then
        (winParts a r.len).foldl (fun s x => match winPart (localOf x.1) with
          | some w => (winRead s w x.2).1
          | none => s) s
      else cleanRange s a r.len
    | _ => s) s

/-- The requests for stretches on other modules that have not been made are made, while they may leave (21 R478). -/
def askFar (c : Copy) (s : State) (r : Span) : State :=
  match r.far s c with
  | none => s
  | some a => if (readAsked s c r.off).isSome || !mayLeave s (moduleOf a) then s else sendRead s c a r.len r.off

/-- A stretch can be read: one on another module when its request has returned. -/
def Span.here (s : State) (c : Copy) (r : Span) : Bool := (r.far s c).isNone || (readAnswer s c r.off).isSome

/-- The requests of a command for an offset have done their work. -/
def dropAsked (s : State) (c : Copy) (rs : List Span) : State :=
  { s with flight := s.flight.filter fun f =>
      !(f.kind == AccKind.copyRead && f.grp == c.id && f.applied && rs.any fun r => f.cmp == word r.off) }

/-! ### Writing -/

/-- What the writes of a command come to: the state, the errors reported, whether some write must wait, and the modules
at which a write failed. -/
structure CopyOut where
  state : State
  causes : List Cause
  waits : Bool
  lost : List Nat
  deriving DecidableEq, Repr

/-- One part of a window write. -/
def putWindow (r : CopyOut) (x : Nat × List Byte) : CopyOut :=
  match winPart (localOf x.1) with
  | none => r
  | some w =>
    if windowBusy r.state w then { r with causes := r.causes ++ [.windowBusy] }
    else
      let y := winWrite r.state w x.2
      { r with state := y.state, causes := r.causes ++ y.faults, waits := r.waits || y.waits }

/-- A command is a `dflag`, whose flag the hub of its home writes (11 R302). -/
def Copy.isFlag (c : Copy) : Bool := match c.kind with
  | .dflag _ _ _ => true
  | _ => false

/-- A write to coherent memory: kept by a non-coherent chiplet (06 R172), but for a store in phases (06 R173) and for
poisoned bytes; else applied at its home, or sent to another module, at most 1,024 requests being out (21 R478). -/
def putMem (c : Copy) (r : CopyOut) (a : Nat) (bs : List PByte) : CopyOut :=
  let s := r.state
  let p := c.chip
  let plain := bs.map (·.1)
  if c.isFlag then
    (if moduleOf a = s.module then { r with state := hubWrite s a plain }
    else if mayLeave s (moduleOf a) then { r with state := sendFlag s c a bs }
    else { r with waits := true })
  else if keepsWrites s p && !c.inPhases s && !bs.any (·.2) then
    { r with state := keepWrite s p a plain c.origin c.id c.agent true }
  else if moduleOf a = s.module then { r with state := putHome (passWrite s p a plain) a bs }
  else if mayLeave s (moduleOf a) then { r with state := sendPart (passWrite s p a plain) c a bs }
  else { r with waits := true }

/-- One write of a command: to memory, to a window or to its core's storage (11 R299, R300). -/
def putOne (c : Copy) (r : CopyOut) (w : CWrite) : CopyOut :=
  match w.dst with
  | .zero => r
  | .core a =>
    let y := writeCore r.state c.core.1 c.core.2 a (w.bytes.map (·.1))
    { r with state := y.state, causes := r.causes ++ y.faults, waits := r.waits || y.waits }
  | .mem a =>
    if c.lostAt r.state a then { r with causes := r.causes ++ [.remoteFailed], lost := moduleOf a :: r.lost }
    else if isCoherent (localOf a) then putMem c r a w.bytes
    else (winParts a w.bytes.length).foldl (fun r x =>
      putWindow r (x.1, ((w.bytes.drop (x.1 - a)).take x.2).map (·.1))) r

/-- Writes made in order. -/
def putAll (s : State) (c : Copy) (ws : List CWrite) : CopyOut :=
  ws.foldl (putOne c) { state := s, causes := [], waits := false, lost := [] }

/-- Two places with so many bytes share one. -/
def Place.meets (p : Place) (m : Nat) (q : Place) (n : Nat) : Bool :=
  match p, q with
  | .mem a, .mem b => overlaps a m b n
  | .core a, .core b => overlaps a m b n
  | _, _ => false

/-- The source and destination of a `dcpy` overlap (11 R299). -/
def Copy.selfMeets (c : Copy) : Bool :=
  c.kind == CopyKind.dcpy && c.pieces.any fun p => c.pieces.any fun q => p.src.meets p.len q.dst q.len

/-- A byte of an overlapping copy: its source byte from before the copy, or what stands there now; which of the two is left
open (11 R299). -/
def overlapByte (c : Copy) (x : State × List PByte) (y : Nat × PByte) : State × List PByte :=
  let ps := c.sources y.1 (y.1 + 1)
  let now := if ps.any fun r => (r.far x.1 c).isSome then y.2 else (readSpans x.1 c ps).bytes.headD y.2
  ({ x.1 with free := x.1.free + 1 }, x.2 ++ [if (Config.freeWord x.1.free).getLsbD 0 then now else y.2])

/-- The bytes that a unit takes. -/
def unitBytes (s : State) (c : Copy) (off : Nat) (bs : List PByte) : State × List PByte :=
  if c.selfMeets then ((upFrom off bs.length).zip bs).foldl (overlapByte c) (s, []) else (s, c.dataFor s off bs)

/-- A command as far as it has come, and what its writes have come to. -/
structure Moved where
  copy : Copy
  out : CopyOut
  deriving DecidableEq, Repr

/-- Nothing moved yet. -/
def Copy.moved (s : State) (c : Copy) : Moved := { copy := c, out := { state := s, causes := [], waits := false, lost := [] } }

/-- Stretches read and kept under an offset, unless they have been; the command waits for those on other modules. Lines that a
fenced port holds are cleaned first (18 R437). -/
def readAs (key : Nat) (ps : List Span) (m : Moved) : Moved :=
  if (m.copy.gotAt key).isSome then m
  else
    let s1 := ps.foldl (askFar m.copy) m.out.state
    if !ps.all (Span.here s1 m.copy) then { m with out := { m.out with state := s1, waits := true } }
    else
      let r := readSpans s1 m.copy ps
      { copy := { m.copy with got := mapSet key r.bytes m.copy.got },
        out := { m.out with state := dropAsked (spanEffects s1 ps) m.copy ps, causes := m.out.causes ++ r.causes } }

/-- One unit read, unless it has been. -/
def readUnit (m : Moved) (u : Nat × Nat) : Moved := readAs u.1 (m.copy.sources u.1 (u.1 + u.2)) m

/-- One unit written, unless it has been or an earlier one waits; a unit that must wait is not written at all. -/
def writeUnit (m : Moved) (u : Nat × Nat) : Moved :=
  if m.out.waits || m.copy.wrote.contains u.1 then m
  else
    let y := unitBytes m.out.state m.copy u.1 ((m.copy.gotAt u.1).getD [])
    let r := (m.copy.unitWrites u.1 y.2).foldl (putOne m.copy) { m.out with state := y.1 }
    if r.waits then { m with out := { m.out with waits := true } }
    else { copy := { m.copy with wrote := u.1 :: m.copy.wrote }, out := r }

/-- The units that a command moves now: all are read, then written. -/
def moveUnits (s : State) (c : Copy) : Moved :=
  let us := c.unitsNow s
  us.foldl writeUnit (us.foldl readUnit (c.moved s))

/-! ### What holds a command -/

/-- A command's turn at a line that is being served (16 R401). -/
def Copy.hasTurn (s : State) (c : Copy) (d : DirLine) : Bool :=
  match d.busy with
  | none => false
  | some i => mapGet? i s.sliceReqs == some (.copy c.id)

/-- A line of a range is being served, and not for this command. -/
def Copy.busyAt (s : State) (c : Copy) (a n : Nat) : Bool :=
  busyRange s a n && s.dir.any fun e =>
    e.2.busy.isSome && !c.hasTurn s e.2 && decide (lineOf a ≤ e.1) && decide (e.1 ≤ lineOf (a + n - 1))

/-- Nothing that comes before stands in the way of an access to a place: no earlier access of a lane thread there (06 R158),
no batch that a `dwait` has returned on (06 R170), no store that the agent's group, core or chiplet has taken or sent and
that no home has seen (06 R159, R161), and no line that is being served (16 R401). Words of different engines of an array
task are not ordered (06 R156). -/
def placeFree (s : State) (c : Copy) (write : Bool) (p : Place) (n : Nat) : Bool :=
  let first (e : Flight) : Bool :=
    (e.agent == c.agent && !c.agent.isTask && decide (e.id < c.id) && (write || e.kind.writes) && !e.kind.copies)
      || (e.agent == c.agent && e.waited) || (e.stage == Stage.posted && e.shows c.agent c.born)
      || (e.stage == Stage.sent && e.kind == AccKind.store && e.chip == c.chip)
  let quiet (sp : Space) (a : Nat) : Bool :=
    s.flight.all fun e => e.applied || e.space != sp || !overlaps e.addr e.size a n || !first e
  match p with
  | .mem a => !c.busyAt s a n && quiet .domain a
  | .core a => quiet .core a
  | .zero => true

/-- Acquires and fences before a command are performed (06 R163, R170), and the hub takes requests from its port. -/
def copyReady (s : State) (c : Copy) : Bool := notHeld s.flight c.agent c.id true && hubHears s c.chip

/-- Nothing holds a command. -/
def copyFree (s : State) (c : Copy) : Bool :=
  copyReady s c && c.pieces.all fun p => placeFree s c false p.src p.len && placeFree s c true p.dst p.len

/-- The lines of a command's turns go on to the requests behind it (16 R401). -/
def passTurns (s : State) (id : Nat) : State :=
  (s.dir.filter fun e => match e.2.busy with
    | none => false
    | some i => mapGet? i s.sliceReqs == some (.copy id)).foldl
    (fun s e => let d := s.dirLine e.1
      match d.busy with
      | none => s
      | some i => serveQueue e.1 d.queue { s with sliceReqs := mapErase i s.sliceReqs }) s

/-- The request of a unit for a line reaches its slice (16 R401): the line stands by for it, or it joins the list. -/
def askLine (c : Copy) (s : State) (line : Nat) : State :=
  let d := s.dirLine line
  if (d.busy.toList ++ d.queue).any fun i => mapGet? i s.sliceReqs == some (.copy c.id) then s
  else if d.busy.isSome then joinSlice s line (.copy c.id)
  else { s.setDir line { d with busy := some s.nextId } with sliceReqs := mapSet s.nextId (.copy c.id) s.sliceReqs,
                                                             nextId := s.nextId + 1 }

/-- The phase of a store in phases may begin: what the earlier ones sent to other modules is applied (03 R106). -/
def phaseOpen (s : State) (c : Copy) : Bool :=
  !c.inPhases s || (match c.attempt with
    | 2 => (sentParts s c.id).all fun f => tileDst c != Place.mem f.addr
    | 3 => !c.wrote.isEmpty || (sentParts s c.id).isEmpty
    | _ => true)

/-! ### Completion -/

/-- A command leaves its agent's batches (11 R304). -/
def Batches.finish (b : Batches) (id : Nat) : Batches :=
  { b with openCmds := b.openCmds.filter fun n => n != id,
           pend := (b.pend.map fun p => (p.1, p.2.filter fun n => n != id)).filter fun p => !p.2.isEmpty }

/-- A command is complete: its pins are released, CP falls and its batch goes on (11 R301; 04 R123); a generation slot that
waited for its pins may be freed (22 R484). -/
def finishCopy (s : State) (c : Copy) : State :=
  let s1 := { s with copies := s.copies.filter (fun x => x.id != c.id),
                     flight := s.flight.map fun f =>
                       if f.kind == AccKind.copyRead && f.grp == c.id then { f with counted := false } else f }
  let s2 := if unitThere s1 c.origin then onBatch s1 c.agent fun b => b.finish c.id else s1
  let s3 := countOut s2 c.origin .cp
  if c.gen.isSome then freeSlots s3 else s3

/-- The command with another state of its own. -/
def updateCopy (s : State) (c : Copy) : State := { s with copies := s.copies.map fun x => if x.id = c.id then c else x }

/-- Deferred errors of a command, each once (01 R57): the state, and the command with what it has said. -/
def reportCopy (s : State) (c : Copy) (causes : List Cause) : State × Copy :=
  let new := causes.eraseDups.filter fun x => !c.said.contains x
  (deferAll s c.origin new, { c with said := c.said ++ new })

/-- The errors of reads and writes that have been made are reported, one for reads that were abandoned (11 R300), and the flags
that cover a failed write fail (11 R303). -/
def settleMoved (m : Moved) : State × Copy :=
  let c := m.copy
  let s1 := m.out.lost.foldl (fun s x => failWrites s c.origin c.agent c.id x) m.out.state
  reportCopy s1 c (m.out.causes ++ if c.broken then [.remoteFailed] else [])

/-- A command goes on from where it has come to. -/
def keepMoved (m : Moved) : State := let x := settleMoved m; updateCopy x.1 x.2

/-- A command that must wait goes on from where it has come to; one that need not ends as `f` says. -/
def endMoved (m : Moved) (f : State → Copy → State) : State :=
  if m.out.waits then keepMoved m else let x := settleMoved m; f x.1 x.2

/-- The tile entry of a command changed, while it is in the state that the command gave it. -/
def onCopyTile (s : State) (c : Copy) (n : Nat) (st : TileSt) (f : TileEntry → TileEntry) : State :=
  if (c.entry s n).st == st then onTile s c.core.1 c.core.2 c.wg n f else s

/-- 32 header bytes with POISON set when asked, CHECK recomputed then (03 R110). -/
def poisonHdr (w : Nat) (poison : Bool) : Nat :=
  if poison then
    let body := bytesOfNat 30 (setBits w 25 1 1)
    natOfBytes (body ++ bytesOfNat 2 (crc16 body))
  else w

/-- The base of the storage that a command's tile entries lie in. -/
def Copy.entryAt (s : State) (c : Copy) (n : Nat) : Nat :=
  (tilesOf s c.core.1 c.core.2 c.wg).base + (c.entry s n).lsoff.toNat

/-! ### Loading a tile (11 R294; 03 R108, R110) -/

/-- A `tld` ends without a tile (11 R294): the entry is empty, and leaves its send queue. -/
def failLoad (s : State) (c : Copy) (n : Nat) (q : Option Nat) (cause : Cause) : State :=
  let s1 := onCopyTile s c n .filling fun e => { e with hdr := 0, st := .empty }
  let s2 := match q with
    | none => s1
    | some q =>
      let k := s1.array c.core.2
      let b := k.queue q
      let i := b.parked.length + b.taken.length + (b.fifo.takeWhile fun e => e != n).length
      if b.fifo.contains n then
        placeMarks (onQueue s1 c.core.2 q fun b =>
          { b with fifo := b.fifo.filter fun e => e != n,
                   marks := b.marks.map fun m => (if i < m.1 then m.1 - 1 else m.1, m.2) }) c.core.2 q
      else s1
  finishCopy (reportCopy s2 c [cause]).1 c

/-- The checks of a header that a `tld` reads (11 R294; 03 R111; 05 R138). -/
def loadFault (s : State) (c : Copy) (n : Nat) (q : Option Nat) (w : Nat) : Option Cause :=
  let h := hdrOf w
  let t := tilesOf s c.core.1 c.core.2 c.wg
  let tooBig := match q with
    | none => false
    | some q => let b := (s.array c.core.2).queue q; b.paired && decide (b.granted < h.tlen)
  if !check1 w then some .headerIntegrity
  else if !h.check2 then some .unsupportedCombination
  else if !h.check3 then some .headerMismatch
  else if !t.fits (t.entry n) h.tlen || tooBig then some .tileCapacity
  else none

/-- The tile of a `tld` through a send queue is whole: the entry drains and TO counts the send (11 R294; 05 R138). -/
def startSend (s : State) (c : Copy) (n q : Nat) : State :=
  let core := c.core.2
  if ((s.array core).queue q).fifo.contains n then
    let o : TileOp := { id := s.nextId, kind := .send q n, origin := c.origin, wg := 0, reads := [], heads := [], fill := none,
                        sendQ := some q, drain := none, imageAt := 0, image := [] }
    let k := s.array core
    let s1 := { s.setArray core { k with ops := k.ops ++ [o] } with nextId := s.nextId + 1 }
    let s2 := onTile s1 .array core 0 n fun e => { e with st := .draining }
    if unitThere s2 c.origin then countUp s2 .array core 0 .tl else s2
  else onTile s .array core 0 n fun e => { e with st := .empty }

/-- An attempt that failed (03 R108): the command reads again from the header, and the seventeenth failure is torn-tile. -/
def retryLoad (s : State) (c : Copy) (n : Nat) (q : Option Nat) : State :=
  if c.attempt = 16 then failLoad s c n q .tornTile
  else updateCopy s { c with attempt := c.attempt + 1, got := [], wrote := [] }

/-- An attempt that succeeded: the entry is ready with the image, or its tile is sent. -/
def keepTile (s : State) (c : Copy) (n : Nat) (q : Option Nat) (w : Nat) : State :=
  let s1 := writeStorage s c.core.1 c.core.2 (c.entryAt s n) (bytesOfNat 32 w)
  let s2 := onCopyTile s1 c n .filling fun e => { e with hdr := BitVec.ofNat 256 w, st := .ready }
  finishCopy (match q with
    | some q => startSend s2 c n q
    | none => s2) c

/-- The second read of VERSION, after every unit of the image (11 R294). -/
def readVersion (m : Moved) : Moved := readAs versionKey (m.copy.sources 8 10) m

/-- TO has no room for the send of a tile (01 R51). -/
def sendFull (s : State) (c : Copy) (q : Option Nat) : Bool :=
  q.isSome && (s.array c.core.2).task.any fun t => decide (63 ≤ t.cnt.tl)

/-- An attempt whose units are all read and written: it has failed where VERSION has changed (03 R108). A tile for a send queue
waits while TO is full (01 R51). -/
def closeLoad (m : Moved) (n : Nat) (q : Option Nat) (w : Nat) : State :=
  let x := settleMoved m
  let again := natOfBytes (((m.copy.gotAt versionKey).getD []).map (·.1))
  if again ≠ (hdrOf w).version then retryLoad x.1 x.2 n q
  else if sendFull x.1 x.2 q then updateCopy x.1 x.2
  else keepTile x.1 x.2 n q (poisonHdr w (m.copy.got.any fun y => y.2.any (·.2)))

/-- The image of an attempt is written, and VERSION is read again. -/
def putImage (m : Moved) (us : List (Nat × Nat)) (n : Nat) (q : Option Nat) (w : Nat) : State :=
  let m2 := readVersion (us.foldl writeUnit m)
  if m2.copy.broken || m2.out.causes.contains .remoteFailed then failLoad m2.out.state m2.copy n q .remoteFailed
  else if m2.out.waits then keepMoved m2
  else closeLoad m2 n q w

/-- The rest of an attempt after a header that passes its checks: the image is copied. -/
def loadImage (m : Moved) (n : Nat) (q : Option Nat) (w : Nat) : State :=
  let us := m.copy.imageUnits m.out.state
  let m1 := us.foldl readUnit m
  if m1.copy.broken || m1.out.causes.contains .remoteFailed then failLoad m1.out.state m1.copy n q .remoteFailed
  else if (m1.copy.entry m1.out.state n).st != TileSt.filling then let x := settleMoved m1; finishCopy x.1 x.2
  else if m1.out.waits then keepMoved m1
  else putImage m1 us n q w

/-- One attempt of a `tld` (11 R294), as far as it can go. -/
def loadTile (s : State) (c : Copy) (n : Nat) (q : Option Nat) : State :=
  let m := readUnit (c.moved s) (0, 32)
  if c.broken || m.out.causes.contains .remoteFailed then failLoad m.out.state c n q .remoteFailed
  else if m.out.waits then keepMoved m
  else
    let w := natOfBytes (((m.copy.gotAt 0).getD []).map (·.1))
    if (hdrOf w).version % 2 = 1 then (let x := settleMoved m; retryLoad x.1 x.2 n q)
    else match loadFault m.out.state c n q w with
      | some f => (let x := settleMoved m; failLoad x.1 x.2 n q f)
      | none => loadImage m n q w

/-! ### The other commands (11 R295 to R299, R305) -/

/-- The entry of a draining command at its end (03 R97; 11 R295): ready again where the drain failed, a queue head then at
the front of its queue; else empty for a queue head, whose credit returns, and for the freeing form. -/
def endDrain (s : State) (c : Copy) (n : Nat) (free : Bool) (q : Option Nat) (failed : Bool) : State :=
  if (c.entry s n).st != TileSt.draining then s
  else
    let set (f : TileEntry → TileEntry) : State := onTile s c.core.1 c.core.2 c.wg n f
    match q with
    | none => set fun e => { e with st := if free && !failed then .empty else .ready }
    | some q =>
      if failed then onQueue (set fun e => { e with st := .ready }) c.core.2 q fun b => { b with fifo := n :: b.fifo }
      else onQueue (set fun e => { e with st := .empty, readers := 0, qheld := false }) c.core.2 q fun b => b.giveBack 1

/-- A `tst` reads the VERSION at its destination (03 R106; 11 R295). -/
def startStore (s : State) (c : Copy) : Moved :=
  if c.attempt ≠ 0 then c.moved s
  else
    let m := readAs versionKey [{ place := (tileDst c).plus 8, off := versionKey, len := 2 }] (c.moved s)
    match m.copy.gotAt versionKey with
    | none => m
    | some bs => { m with copy := { m.copy with attempt := 1, version := natOfBytes (bs.map (·.1)),
                                                got := mapErase versionKey m.copy.got } }

/-- A store in phases whose phase is written goes on to the next. -/
def nextPhase (s : State) (c : Copy) : Copy :=
  if c.inPhases s && decide (1 ≤ c.attempt) && decide (c.attempt < 3) && (c.unitsNow s).all fun u => c.wrote.contains u.1 then
    { c with attempt := c.attempt + 1, wrote := [] }
  else c

/-- Units read, then written, from where a command has come to. -/
def goOn (m : Moved) : Moved :=
  let us := m.copy.unitsNow m.out.state
  us.foldl writeUnit (us.foldl readUnit m)

/-- A `tst`, one phase of it when its tile is stored in phases (11 R295; 03 R106). Its drain has failed when an error of its
accesses has been met (03 R97). -/
def storeTile (s : State) (c : Copy) (n : Nat) (free : Bool) (q : Option Nat) : State :=
  let m0 := startStore s c
  if m0.out.waits then keepMoved m0
  else if !phaseOpen m0.out.state m0.copy then s
  else
    let m := goOn m0
    let c2 := nextPhase m.out.state m.copy
    if m.out.lost.isEmpty && decide (m.copy.attempt < c2.attempt) then keepMoved { m with copy := c2 }
    else endMoved m fun s c => finishCopy (endDrain s c n free q (!c.said.isEmpty)) c

/-- A `tgat` (11 R297): the rows are in the entry, which is ready with VERSION 0. -/
def gatherRows (s : State) (c : Copy) (n : Nat) : State :=
  if (c.entry s n).st != TileSt.filling then finishCopy s c
  else
    endMoved (moveUnits s c) fun s c =>
      let poison := c.got.any fun x => x.2.any (·.2)
      let w := poisonHdr (natOfBytes (withVersion (c.entry s n).hdr 0)) poison
      let s1 := writeStorage s c.core.1 c.core.2 (c.entryAt s n) (bytesOfNat 32 w)
      finishCopy (onCopyTile s1 c n .filling fun e => { e with hdr := BitVec.ofNat 256 w, st := .ready }) c

/-- A `tsct` (11 R298): its rows are written in the order of the list. -/
def scatterRows (s : State) (c : Copy) (n : Nat) : State :=
  endMoved (moveUnits s c) fun s c => finishCopy (endDrain s c n false none (!c.said.isEmpty)) c

/-- A `dcpy` (11 R299). -/
def copyBytes (s : State) (c : Copy) : State := endMoved (moveUnits s c) fun s c => finishCopy s c

/-- A line that a `cflush` or `cinval` touches. -/
def Copy.touchesLine (c : Copy) (line : Nat) : Bool := c.pieces.any fun p => match p.src with
  | .mem a => decide (0 < p.len) && decide (lineOf a ≤ line) && decide (line ≤ lineOf (a + p.len - 1))
  | _ => false

/-- The lines of a command's range that its chiplet has written and not flushed. -/
def Copy.heldLines (s : State) (c : Copy) : List Nat :=
  ((mapGet [] s.kept c.chip).map fun x => lineOf x.1).eraseDups.filter c.touchesLine

/-- `cflush` of a chiplet of the non-coherent class (11 R305): every line of the range that it has written goes to its home,
and the command is complete when all of them are written there. -/
def flushLines (s : State) (c : Copy) : State :=
  let s1 := (c.heldLines s).foldl (fun s l => flushKept s c.chip l) s
  let open_ := s1.flight.any fun f =>
    f.kind == AccKind.copy && f.chip == c.chip && !f.applied && (linesOf f.addr f.size).any c.touchesLine
  if (c.heldLines s1).isEmpty && (!isNonCoherent s c.chip || !open_) then finishCopy s1 c else s1

/-- `cinval` of a chiplet of the non-coherent class (11 R305): every copy of a line of the range is dropped, and what the
chiplet has written there. -/
def invalLines (s : State) (c : Copy) : State :=
  let p := c.chip
  { s with lines := s.lines.filter fun x => !(x.port == p && c.touchesLine x.line),
           kept := mapSet p ((mapGet [] s.kept p).filter fun x => !c.touchesLine (lineOf x.1)) s.kept }

/-- What is left of a command's accesses, as far as they can be made. -/
def copyOn (s : State) (c : Copy) : State :=
  match c.kind with
  | .tld n q => loadTile s c n q
  | .tst n free q => storeTile s c n free q
  | .tgat n => gatherRows s c n
  | .tsct n => scatterRows s c n
  | .dcpy => copyBytes s c
  | .dflag _ _ _ => s
  | .cflush => flushLines s c
  | .cinval => finishCopy (invalLines s c) c

/-- COPY_COMPLETE (11 R301): what is left of a command's accesses is performed and it is complete; a `tld` makes one
attempt, an AON store one phase, and a command that must wait for a window, for requests to leave or for replies goes as far
as it can. -/
def execCopyComplete (id : Nat) (s : State) : Answer :=
  match s.copies.find? fun c => c.id == id with
  | none => .next s
  | some c => if !copyFree s c then .next s else .next (passTurns (copyOn s c) id)

/-! ### Units that move before their command completes (06 R155; 11 R291) -/

/-- A stretch may be accessed now. -/
def freeSpan (s : State) (c : Copy) (write : Bool) (r : Span) : Bool := placeFree s c write r.place r.len

/-- The header that a `tld` has read passes its checks, and the entry still waits for its tile. -/
def Copy.headerGood (s : State) (c : Copy) : Bool :=
  match c.kind with
  | .tld n q => (match c.gotHdr with
    | none => false
    | some w => (loadFault s c n q w).isNone && (c.entry s n).st == TileSt.filling)
  | _ => true

/-- The units that a command may read now: a `tld` that has its whole image reads VERSION again (11 R294). -/
def Copy.readsNow (s : State) (c : Copy) : List (Nat × Nat) :=
  match c.kind with
  | .tld _ _ =>
    let us := c.unitsNow s
    if c.gotHdr.isNone then us
    else if !c.headerGood s then []
    else if us.all fun u => c.wrote.contains u.1 then [(versionKey, 2)] else us
  | _ => c.unitsNow s

/-- A copy command reads one unit, or a store the VERSION at its destination; a unit on another module is asked for first. -/
def readEarly (s : State) (id off : Nat) : State :=
  match s.copies.find? fun c => c.id == id with
  | none => s
  | some c =>
    if !copyReady s c then s
    else if c.storesTile && c.attempt == 0 then
      (if freeSpan s c false { place := (tileDst c).plus 8, off := versionKey, len := 2 } then
        passTurns (keepMoved (startStore s c)) id else s)
    else match (c.readsNow s).find? fun u => u.1 == off with
      | none => s
      | some u =>
        if (c.sources u.1 (u.1 + u.2)).all (freeSpan s c false) then passTurns (keepMoved (readUnit (c.moved s) u)) id
        else s

/-- The units of a `tsct` that come before one in the list and write a byte of it are written (11 R298). -/
def rowsInOrder (s : State) (c : Copy) (u : Nat × Nat) : Bool :=
  let at_ (v : Nat × Nat) : List Span := c.parts (fun p => p.dst) v.1 (v.1 + v.2)
  match c.kind with
  | .tsct _ => (c.unitsNow s).all fun v => decide (u.1 ≤ v.1) || c.wrote.contains v.1
      || !(at_ v).any fun x => (at_ u).any fun y => x.place.meets x.len y.place y.len
  | _ => true

/-- A copy command that may write units one by one: not a `dcpy` onto its own source, a `tld` once its header has passed its
checks, a store once it knows its VERSION. -/
def Copy.writesEarly (s : State) (c : Copy) : Bool :=
  !c.selfMeets && c.headerGood s && (match c.kind with
    | .tst _ _ _ => decide (1 ≤ c.attempt)
    | _ => true)

/-- A copy command writes one unit that it has read. -/
def writeEarly (s : State) (id off : Nat) : State :=
  match s.copies.find? fun c => c.id == id with
  | none => s
  | some c =>
    match (c.unitsNow s).find? fun u => u.1 == off with
    | none => s
    | some u =>
      if copyReady s c && c.writesEarly s && (c.gotAt off).isSome && phaseOpen s c && rowsInOrder s c u
          && (c.parts (fun p => p.dst) u.1 (u.1 + u.2)).all (freeSpan s c true) then
        let m := writeUnit (c.moved s) u
        passTurns (keepMoved { m with copy := nextPhase m.out.state m.copy }) id
      else s

/-- The request of a unit of a copy command reaches the slices of its lines of this module (16 R401): those of its source until
it is read, then those of its destination. -/
def askEarly (s : State) (id off : Nat) : State :=
  match s.copies.find? fun c => c.id == id with
  | none => s
  | some c =>
    match (c.readsNow s).find? fun u => u.1 == off with
    | none => s
    | some u =>
      if !copyReady s c then s
      else
        let side : Piece → Place := if (c.gotAt off).isSome then fun p => p.dst else fun p => p.src
        ((c.parts side u.1 (u.1 + u.2)).flatMap fun r => match r.place with
          | .mem a => if moduleOf a = s.module ∧ isCoherent (localOf a) then linesOf a r.len else []
          | _ => []).foldl (askLine c) s

/-! ### Completion flags (11 R302, R303) -/

/-- Writes of the agent's earlier commands to the flag's module are still on their way: of commands in flight, sent, or kept
by a non-coherent chiplet (11 R302; 06 R172). -/
def flagWaits (s : State) (c : Copy) (m : Nat) (covers : List Nat) : Bool :=
  s.copies.any (fun x => covers.contains x.id)
    || s.flight.any (fun f => f.kind == AccKind.copy && f.agent == c.agent && decide (f.grp < c.id) && moduleOf f.addr == m && !f.applied)
    || s.kept.any fun k => k.2.any fun b => b.2.copied && b.2.agent == c.agent && decide (b.2.op < c.id) && moduleOf b.1 == m

/-- The home module of a flag. -/
def flagHome (s : State) (c : Copy) : Nat :=
  match c.pieces with
  | p :: _ => p.dst.module s
  | [] => s.module

/-- FLAG_WRITE (11 R302, R303): every covered write is applied and the hub of the flag's module writes the flag, or the
request for it leaves for that module; where a covered write failed, the flag is not written and the `dflag` fails. -/
def execFlagWrite (id : Nat) (s : State) : Answer :=
  match s.copies.find? fun c => c.id == id with
  | none => .next s
  | some c =>
    match c.kind with
    | .dflag v _ covers =>
      let home := flagHome s c
      if c.written || !copyFree s c || flagWaits s c home covers then .next s
      else if c.failed then .next (finishCopy (reportCopy s c [.remoteFailed]).1 c)
      else
        let r := putAll s c (layOver c.pieces 0 (clean (bytesOfNat 8 v.toNat)))
        if r.waits then .next s
        else if !r.lost.isEmpty then .next (finishCopy (settleMoved { copy := c, out := r }).1 c)
        else
          let x := reportCopy r.state c r.causes
          let s1 := updateCopy x.1 { x.2 with written := true }
          .next (if home = s.module then hubTrace s1 0x04 1 v.toNat c.origin.world else s1)
    | _ => .next s

/-- DFLAG_ACK (11 R301): the acknowledgement returns and the `dflag` is complete; from another module it is the reply to the
request. -/
def execDflagAck (id : Nat) (s : State) : Answer :=
  match s.copies.find? fun c => c.id == id with
  | none => .next s
  | some c =>
    match c.kind with
    | .dflag _ _ _ =>
      if !c.written then .next s
      else match flagAsked s id with
        | none => .next (finishCopy s c)
        | some f =>
          if f.applied && !awaitsReply s f then
            .next (finishCopy { s with flight := s.flight.filter fun g => g.id != f.id } c)
          else .next s
    | _ => .next s

end Sys2Proof.Machine
end

