-- ==== Sys2Proof/Machine/Caches.lean ====
section
/-! DEFINITION. What units do of themselves between two steps: the translation caches (04 R121, R124), the lines of chiplets
of the non-coherent class (06 R172), stores that are taken before their home has seen them (06 R159, R161), units of copy
commands (06 R155), and writes of peers to their own memory (06 R158, R160). -/

namespace Sys2Proof.Machine

/-- A generation slot serves launches that have pinned it (22 R484, R490). -/
def serving (s : State) (pin : Option (Nat × Nat)) : Bool :=
  match pin with
  | none => true
  | some (b, k) => let g := (s.wbind b).slot k; g.st == GenSt.current || g.st == GenSt.retiring

/-- What the tables give for an address now is kept: its leaf, or for 4 KiB that they give none (04 R124; 16 R405). Nothing is
kept under a generation that no launch can have pinned (22 R490). -/
def fetchPage (s : State) (world : Nat) (pin : Option (Nat × Nat)) (va : Nat) : State :=
  if !isCanonical va || !serving s pin then s
  else
    let x : Option Nat × Nat := match tableLeaf s world (pinnedDir s pin va) va with
      | none => (none, 12)
      | some (e, n) => (some e, n)
    { s with pages := s.pages ++ [{ world := world, pin := pinOf s pin va, base := va / 2 ^ x.2 * 2 ^ x.2, bits := x.2,
                                    leaf := x.1, used := true }] }

/-- A line of coherent memory kept by a chiplet, as its home gives it now (16 R397). A poisoned line is not kept. -/
def fetchLine (s : State) (p line : Nat) : State :=
  if isNonCoherent s p && (s.port p).st == PortSt.running && isCoherent (localOf (128 * line))
      && !isPoisoned s (128 * line) then
    let own := viewBytes s p (128 * line) (peek s (128 * line) 128)
    { s with lines := { port := p, line := line, bytes := own, used := true } :: s.lines }
  else s

/-- The entry of a list at a place changed. -/
def changeAt {α : Type} (f : α → α) : Nat → List α → List α
  | _, [] => []
  | 0, x :: rest => f x :: rest
  | n + 1, x :: rest => x :: changeAt f n rest

/-- An agent of another module writes memory of its own module or of another peer (06 R158, R160): what is read there from
then on is what it wrote. -/
def peerWrite (s : State) (a : Nat) (bs : List Byte) : State :=
  if moduleOf a != s.module && isCoherent (localOf a) && decide (bs.length ≤ 128 - a % 128) then poke s a bs else s

/-- A 16-byte block of LPDDR whose stored bits have been altered (19 R444): XTS carries no tag, so it decrypts to noise and no
error is raised. -/
def alterBlock (s : State) (b : Nat) : State :=
  let a := s.home (16 * b)
  if 2 ^ 40 ≤ 16 * b then s
  else
    let bs := bytesOfNat 8 (Config.freeWord s.free).toNat ++ bytesOfNat 8 (Config.freeWord (s.free + 1)).toNat
    { s with free := s.free + 2, mem := writeBytes (flushMerge s a 16).mem a bs, merge := (flushMerge s a 16).merge }

/-- One act. A translation that is not used, or not held any more, is walked afresh; a chiplet that does not
run does nothing. -/
def cacheAct (s : State) (a : CacheAct) : State :=
  match a with
  | .fetchPage w pin va => fetchPage s w pin va
  | .dropPage n => match s.pages[n]? with
    | some h => dropPages s fun x => x == h
    | none => s
  | .usePage n on => { s with pages := changeAt (fun h => { h with used := on }) n s.pages }
  | .fetchLine p line => fetchLine s p line
  | .dropLine n => { s with lines := s.lines.eraseIdx n }
  | .useLine n on => { s with lines := changeAt (fun h => { h with used := on }) n s.lines }
  | .holdWrites p on =>
    let rest := s.holding.filter fun x => x != p
    { s with holding := if on then p :: rest else rest }
  | .flushLine p line => if (s.port p).st == PortSt.running then flushKept s p line else s
  | .takeStore id scope => takeStore s id scope
  | .peerWrite a bs => peerWrite s a bs
  | .copyRead id off => readEarly s id off
  | .copyWrite id off => writeEarly s id off
  | .copyAsk id off => askEarly s id off
  | .writeBack p line drop => giveUpLine s p line drop
  | .holdTrace buf on => holdTrace s buf on
  | .writeTrace buf => traceStep s buf
  | .alterBlock b => alterBlock s b

/-- What units do before a step. -/
def runCaches (s : State) : State :=
  match s.acts with
  | [] => s
  | as :: rest => as.foldl cacheAct { s with acts := rest }

end Sys2Proof.Machine
end

