-- ==== Sys2Proof/Machine/Hart.lean ====
section
/-! DEFINITION. Accesses of the control harts (06 R169; 04 R118; 18 R431) and of the devices behind the PCIe root ports
(16 R390). A hart's own translation and registers are RISC-V's; here its access comes with a domain physical address. -/

namespace Sys2Proof.Machine

/-- The origin of an access that no unit makes: world 0, no core. -/
def outsideOrigin : Origin :=
  { world := 0, job := 0, launch := 0, kind := .array, core := 0xFFFF, idx := 0, slot := 0xFF, key := 0xFF, lane := 0xFF, pc := 0,
    cursor := 0xFF }

/-- What a hart's operation asks of memory (06 R169): aq is an acquire and rl a release at system scope. -/
def hartMemOp (op : HartOp) (addr size : Nat) (data : Word) : MemOp :=
  let m (k : AccKind) (cmp : Word) (aq rl : Bool) : MemOp :=
    { kind := k, addr := word addr, size := size, ext := false, dest := none, data := data, cmp := cmp, scope := 5,
      acq := aq, rel := rl }
  match op with
  | .load => m .load 0 false false
  | .store => m .store 0 false false
  | .amo op c aq rl => m (.amo op) c aq rl
  | .lr aq rl => m .load 0 aq rl
  | .sc aq rl => m .sc 0 aq rl
  | .fence _ _ _ _ => m .load 0 false false

/-- A fence of a hart appended to its accesses. -/
def addHartFence (h : Nat) (k : AccKind) (s : State) : State :=
  { s with flight := s.flight ++ [{ fenceFlight outsideOrigin (.hart h) s.nextId true true 5 with kind := k }],
           nextId := s.nextId + 1 }.sweep

/-- What a RISC-V FENCE does (06 R169). Both sets RW: `fence.sys`; a successor set RW: `fence.acq.sys`; a predecessor set RW:
`fence.rel.sys`; each with what RVWMO orders besides. Of the other sets, reads before writes need nothing (06 R157), reads
before reads are what an acquire gives, and writes before writes what a release gives. -/
def hartFence (h : Nat) (predR predW succR succW : Bool) (s : State) : State :=
  let pred := predR && predW
  let succ := succR && succW
  if (pred && succ) || (succ && predW) || (pred && succR) then addHartFence h (.fence true true) s
  else if succ || (predR && succR) then addHartFence h (.fence false true) s
  else if pred || (predW && succW) then addHartFence h (.fence true false) s
  else if predW && succR then addHartFence h .fenceWR s
  else s

/-- The answer to an access that ends at once: the cause of an error, or 0, and a value. -/
def outsideReply (s : State) (cause : Nat) (v : Word) : State := { s with reply := some [word cause, v] }

/-- An access of an agent that is no unit, to a place that its checks have found. A window access is made at once, in
its order; an access to memory is in flight. -/
def outsideAccess (a : Agent) (m : MemOp) (t : Except Cause Target) (s : State) : State :=
  match t with
  | .error c => outsideReply s (causeCode c) 0
  | .ok (.window p) =>
    if m.kind.atomic then outsideReply s (causeCode .windowAccess) 0
    else
      let (r, v, _) := makeNow s .array 0 0 (.window p) m
      if r.waits || !freeNow s a m || !hubHears s a.port then s
      else match r.faults with
        | [] => outsideReply r.state 0 v
        | c :: _ => outsideReply r.state (causeCode c) 0
  | .ok t =>
    let q : Ask := { lane := 0xFF, agent := a, origin := outsideOrigin, op := m, target := .ok t }
    let f := { flightOf q t s.nextId s.nextId .issued 0 0 with counted := m.kind.reads }
    { s with flight := s.flight ++ [f], nextId := s.nextId + 1 }

/-- A load-reserved holds its range from here on (06 R169): a write of one of its bytes ends the reservation. -/
def reserve (s : State) (hart addr size : Nat) : State := { s with reserves := mapSet hart (addr, size) s.reserves }

/-- A store-conditional of the hart is on its way. -/
def scOpen (s : State) (hart : Nat) : Bool :=
  s.flight.any fun f => f.agent == Agent.hart hart && f.kind == AccKind.sc && !f.applied

/-- An operation of a hart on the place that its checks have found. A store-conditional is an access in flight, decided where it
is applied; one that finds no reservation as it issues fails at once. A load-reserved waits for one on its way. Windows hold
no reservation. -/
def hartAccess (hart : Nat) (op : HartOp) (size : Nat) (m : MemOp) (t : Except Cause Target) (s : State) : State :=
  match op, t with
  | .lr _ _, .ok (.mem a) => if scOpen s hart then s else reserve (outsideAccess (.hart hart) m t s) hart a size
  | .sc _ _, .ok (.mem a) =>
    if scOpen s hart then s
    else if reserved s (.hart hart) a m.size then outsideAccess (.hart hart) m t s
    else outsideReply { s with reserves := mapErase hart s.reserves } 0 1
  | .sc _ _, .ok (.window _) => outsideReply s 0 1
  | _, _ => outsideAccess (.hart hart) m t s

/-- CONTROL_CORE_ACCESS (06 R169; 04 R118): a hart of a running control chiplet accesses memory or a window, or orders
its accesses. -/
def execControlCoreAccess (hart : Nat) (sup : Bool) (op : HartOp) (addr size : Nat) (data : BitVec 64) (s : State) :
    Answer :=
  if 64 ≤ hart ∨ (s.port (hart / 32)).st ≠ PortSt.running ∨ !hartOpOk op then .next s
  else match op with
    | .fence pr pw sr sw => .next (hartFence hart pr pw sr sw s)
    | op =>
      if isAccess addr size then
        .next (hartAccess hart op size (hartMemOp op addr size data) (physTarget s 0 sup addr) s)
      else .next s

/-- PCIE_DMA_REQUEST (16 R390): a device behind a root port accesses memory under world 0's tables, unprivileged. -/
def execPcieDmaRequest (port : Nat) (write : Bool) (va : BitVec 64) (size : Nat) (data : BitVec 64) (s : State) : Answer :=
  if 2 ≤ port ∨ (s.port port).st ≠ PortSt.running ∨ !isAccess va.toNat size then .next s
  else
    let op := if write then HartOp.store else HartOp.load
    let target := if !isCanonical va.toNat then .error .nonCanonical
      else match translate s 0 false none (if write then .write else .read) va.toNat with
        | .error c => .error c
        | .ok a => physTarget s 0 false a
    .next (outsideAccess (.pcie port) (hartMemOp op va.toNat size data) target s)

end Sys2Proof.Machine
end

