-- ==== Sys2Proof/Machine/Integer.lean ====
section
/-! DEFINITION. Integer arithmetic and logic, constants, and handle and predicate moves of the S engine (08 R215 to
R220). -/

namespace Sys2Proof.Machine

/-- A register form of major 0x0 (08 R215): s[d] := op(s[a], s[b]). -/
def intOp (op : Word → Word → Word) (d a b : BitVec 5) (s : State) : Answer :=
  writesReg s d fun x t => op (t.reg x.ring a) (t.reg x.ring b)

/-- An immediate form (08 R216): s[d] := op(s[a], sext(imm12, 12)). -/
def immOp (op : Word → Word → Word) (d a : BitVec 5) (imm : BitVec 12) (s : State) : Answer :=
  writesReg s d fun x t => op (t.reg x.ring a) (imm.signExtend 64)

/-- A shift by an immediate (08 R216); an amount over 63 is illegal-operand (07 R195). -/
def shiftImm (op : Word → Word → Word) (d a : BitVec 5) (imm : BitVec 12) (s : State) : Answer :=
  scalarWord s .S false fun x t =>
    if isShift imm then .done (t.setReg x.ring d (op (t.reg x.ring a) (imm.setWidth 64))) none
    else .fault .illegalOperand 0

/-- High half of the signed product (08 R215). -/
def opMulh (x y : Word) : Word := wordOfInt (x.toInt * y.toInt / 2 ^ 64)
/-- High half of the unsigned product (08 R215). -/
def opMulhu (x y : Word) : Word := word (x.toNat * y.toNat / 2 ^ 64)
/-- Signed quotient truncated towards zero; −1 for a zero divisor (08 R217). -/
def opDiv (x y : Word) : Word := if y = 0 then -1 else wordOfInt (x.toInt.tdiv y.toInt)
/-- Unsigned quotient; all ones for a zero divisor (08 R217). -/
def opDivu (x y : Word) : Word := if y = 0 then -1 else word (x.toNat / y.toNat)
/-- Signed remainder with the sign of x; x for a zero divisor (08 R217). -/
def opRem (x y : Word) : Word := if y = 0 then x else wordOfInt (x.toInt.tmod y.toInt)
/-- Unsigned remainder; x for a zero divisor (08 R217). -/
def opRemu (x y : Word) : Word := if y = 0 then x else word (x.toNat % y.toNat)
/-- Shift left by y[5:0]. -/
def opShl (x y : Word) : Word := x <<< (y.toNat % 64)
/-- Shift right with zeros by y[5:0]. -/
def opShr (x y : Word) : Word := x >>> (y.toNat % 64)
/-- Shift right with copies of bit 63 by y[5:0]. -/
def opSar (x y : Word) : Word := x.sshiftRight (y.toNat % 64)
/-- Signed less. -/
def opSlt (x y : Word) : Word := if x.toInt < y.toInt then 1 else 0
/-- Unsigned less. -/
def opSltu (x y : Word) : Word := if x.toNat < y.toNat then 1 else 0
/-- Signed lesser. -/
def opMin (x y : Word) : Word := if x.toInt < y.toInt then x else y
/-- Signed greater. -/
def opMax (x y : Word) : Word := if x.toInt < y.toInt then y else x
/-- Unsigned lesser. -/
def opMinu (x y : Word) : Word := if x.toNat < y.toNat then x else y
/-- Unsigned greater. -/
def opMaxu (x y : Word) : Word := if x.toNat < y.toNat then y else x
/-- Leading zero bits, 64 for zero. -/
def opClz (x : Word) : Word := if x = 0 then 64 else word (63 - x.toNat.log2)
/-- The one bits among the low `n`. -/
def popFrom (x : Nat) : Nat → Nat
  | 0 => 0
  | n + 1 => x / 2 ^ n % 2 + popFrom x n
/-- One bits. -/
def opPopc (x : Word) : Word := word (popFrom x.toNat 64)

/-- The predicate of `sel` and `pget` (08 R218, R220): the thread's pN, or element 0 of pN after rotation; none where
a lane thread has no such predicate. -/
def scalarPred (x : Ctx) (t : Thread) (n : Nat) : Option Bool :=
  if x.isArray then some ((mapGet 0 x.apreds (rotP x.base n)).getLsbD 0)
  else if n < 8 then some (t.preds.getLsbD n) else none

/-- `add` (08 R215). -/
def execAdd (d a b : BitVec 5) (s : State) : Answer :=
  intOp (· + ·) d a b s

/-- `sub` (08 R215). -/
def execSub (d a b : BitVec 5) (s : State) : Answer :=
  intOp (· - ·) d a b s

/-- `mul` (08 R215). -/
def execMul (d a b : BitVec 5) (s : State) : Answer :=
  intOp (· * ·) d a b s

/-- `mulh` (08 R215). -/
def execMulh (d a b : BitVec 5) (s : State) : Answer :=
  intOp opMulh d a b s

/-- `mulhu` (08 R215). -/
def execMulhu (d a b : BitVec 5) (s : State) : Answer :=
  intOp opMulhu d a b s

/-- `div` (08 R215). -/
def execDiv (d a b : BitVec 5) (s : State) : Answer :=
  intOp opDiv d a b s

/-- `divu` (08 R215). -/
def execDivu (d a b : BitVec 5) (s : State) : Answer :=
  intOp opDivu d a b s

/-- `rem` (08 R215). -/
def execRem (d a b : BitVec 5) (s : State) : Answer :=
  intOp opRem d a b s

/-- `remu` (08 R215). -/
def execRemu (d a b : BitVec 5) (s : State) : Answer :=
  intOp opRemu d a b s

/-- `and` (08 R215). -/
def execAnd (d a b : BitVec 5) (s : State) : Answer :=
  intOp (· &&& ·) d a b s

/-- `or` (08 R215). -/
def execOr (d a b : BitVec 5) (s : State) : Answer :=
  intOp (· ||| ·) d a b s

/-- `xor` (08 R215). -/
def execXor (d a b : BitVec 5) (s : State) : Answer :=
  intOp (· ^^^ ·) d a b s

/-- `shl` (08 R215). -/
def execShl (d a b : BitVec 5) (s : State) : Answer :=
  intOp opShl d a b s

/-- `shr` (08 R215). -/
def execShr (d a b : BitVec 5) (s : State) : Answer :=
  intOp opShr d a b s

/-- `sar` (08 R215). -/
def execSar (d a b : BitVec 5) (s : State) : Answer :=
  intOp opSar d a b s

/-- `slt` (08 R215). -/
def execSlt (d a b : BitVec 5) (s : State) : Answer :=
  intOp opSlt d a b s

/-- `sltu` (08 R215). -/
def execSltu (d a b : BitVec 5) (s : State) : Answer :=
  intOp opSltu d a b s

/-- `min` (08 R215). -/
def execMin (d a b : BitVec 5) (s : State) : Answer :=
  intOp opMin d a b s

/-- `max` (08 R215). -/
def execMax (d a b : BitVec 5) (s : State) : Answer :=
  intOp opMax d a b s

/-- `minu` (08 R215). -/
def execMinu (d a b : BitVec 5) (s : State) : Answer :=
  intOp opMinu d a b s

/-- `maxu` (08 R215). -/
def execMaxu (d a b : BitVec 5) (s : State) : Answer :=
  intOp opMaxu d a b s

/-- `clz` (08 R215). -/
def execClz (d a : BitVec 5) (s : State) : Answer :=
  writesReg s d fun x t => opClz (t.reg x.ring a)

/-- `popc` (08 R215). -/
def execPopc (d a : BitVec 5) (s : State) : Answer :=
  writesReg s d fun x t => opPopc (t.reg x.ring a)

/-- `sel` (08 R218). -/
def execSel (d a b : BitVec 5) (p : BitVec 4) (s : State) : Answer :=
  scalarWord s .S false fun x t =>
    match scalarPred x t p.toNat with
    | none => .fault .illegalOperand 0
    | some c => .done (t.setReg x.ring d (if c then t.reg x.ring a else t.reg x.ring b)) none

/-- `add` with an immediate (08 R216). -/
def execAddImm (d a : BitVec 5) (imm : BitVec 12) (s : State) : Answer :=
  immOp (· + ·) d a imm s

/-- `and` with an immediate (08 R216). -/
def execAndImm (d a : BitVec 5) (imm : BitVec 12) (s : State) : Answer :=
  immOp (· &&& ·) d a imm s

/-- `or` with an immediate (08 R216). -/
def execOrImm (d a : BitVec 5) (imm : BitVec 12) (s : State) : Answer :=
  immOp (· ||| ·) d a imm s

/-- `xor` with an immediate (08 R216). -/
def execXorImm (d a : BitVec 5) (imm : BitVec 12) (s : State) : Answer :=
  immOp (· ^^^ ·) d a imm s

/-- `slt` with an immediate (08 R216). -/
def execSltImm (d a : BitVec 5) (imm : BitVec 12) (s : State) : Answer :=
  immOp opSlt d a imm s

/-- `sltu` with an immediate (08 R216). -/
def execSltuImm (d a : BitVec 5) (imm : BitVec 12) (s : State) : Answer :=
  immOp opSltu d a imm s

/-- `min` with an immediate (08 R216). -/
def execMinImm (d a : BitVec 5) (imm : BitVec 12) (s : State) : Answer :=
  immOp opMin d a imm s

/-- `max` with an immediate (08 R216). -/
def execMaxImm (d a : BitVec 5) (imm : BitVec 12) (s : State) : Answer :=
  immOp opMax d a imm s

/-- `mul` with an immediate (08 R216). -/
def execMulImm (d a : BitVec 5) (imm : BitVec 12) (s : State) : Answer :=
  immOp (· * ·) d a imm s

/-- `shl` by an immediate (08 R216). -/
def execShlImm (d a : BitVec 5) (imm : BitVec 12) (s : State) : Answer :=
  shiftImm opShl d a imm s

/-- `shr` by an immediate (08 R216). -/
def execShrImm (d a : BitVec 5) (imm : BitVec 12) (s : State) : Answer :=
  shiftImm opShr d a imm s

/-- `sar` by an immediate (08 R216). -/
def execSarImm (d a : BitVec 5) (imm : BitVec 12) (s : State) : Answer :=
  shiftImm opSar d a imm s

/-- imm_c (07 R182): the 20-bit field shifted by 12 and sign-extended from 32 bits. -/
def immC (imm : BitVec 20) : Word := (imm ++ (0 : BitVec 12) : BitVec 32).signExtend 64

/-- `ldhi` (08 R219). -/
def execLdhi (d : BitVec 5) (imm : BitVec 20) (s : State) : Answer :=
  writesReg s d fun _ _ => immC imm

/-- `addpc` (08 R219): the address of its own word plus imm_c. -/
def execAddpc (d : BitVec 5) (imm : BitVec 20) (s : State) : Answer :=
  writesReg s d fun _ t => t.pc + immC imm

/-- `hset` (08 R220). -/
def execHset (d a : BitVec 5) (imm : BitVec 12) (s : State) : Answer :=
  scalarWord s .S false fun x t =>
    .done (t.setHandle d.toNat (t.reg x.ring a + imm.signExtend 64)) none

/-- `hget` (08 R220). -/
def execHget (d a : BitVec 5) (s : State) : Answer :=
  writesReg s d fun _ t => t.handle a.toNat

/-- Eight one-bit predicates with one set. -/
def setBit8 (p : BitVec 8) (n : Nat) (b : Bool) : BitVec 8 :=
  if b then p ||| BitVec.ofNat 8 (2 ^ n) else p &&& ~~~(BitVec.ofNat 8 (2 ^ n))

/-- `pset` on an array core (08 R220): every element of p[d]. -/
def psetArray (s : State) (d a : BitVec 5) : Answer :=
  match s.sel with
  | .array c _ =>
    match runningTask s c .S with
    | none => .fault .noUnit
    | some (k, t) =>
      let v : BitVec 128 := if k.th.reg 96 a ≠ 0 then BitVec.allOnes 128 else 0
      let k1 := { k with preds := mapSet (rotP (t.baseAt .S) d.toNat) v k.preds }
      .next (s.setArray c { k1 with task := some (t.pass .S (t.cursors.s.pc + 4)) })
  | .lane .. => .fault .noUnit

/-- `pset` (08 R220). -/
def execPset (d a : BitVec 5) (s : State) : Answer :=
  match s.sel, isPred5 d with
  | .array _ .S, true => psetArray s d a
  | _, _ =>
    scalarWord s .S false fun x t =>
      if d.toNat < 8 ∧ ¬ x.isArray then
        .done { t with preds := setBit8 t.preds d.toNat (t.reg x.ring a != 0) } none
      else .fault .illegalOperand 0

/-- `pget` (08 R220). -/
def execPget (d a : BitVec 5) (s : State) : Answer :=
  scalarWord s .S false fun x t =>
    if isPred5 a then
      match scalarPred x t a.toNat with
      | none => .fault .illegalOperand 0
      | some c => .done (t.setReg x.ring d (if c then 1 else 0)) none
    else .fault .illegalOperand 0

end Sys2Proof.Machine
end

