-- ==== Sys2Proof/Machine/Manage.lean ====
section
/-! DEFINITION. The management controller: attestation and sessions (19 R446 to R448), boot, the boot record and the
anti-rollback fuses (19 R450, R451, R453), power states (19 R452) and the loss of power. -/

namespace Sys2Proof.Machine

/-! ### Attestation (19 R446 to R448) -/

/-- The responder runs: boot has measured an image (19 R450 step 2); a boot halted before that answers PLDM only. -/
def responderUp (s : State) : Bool := decide (2 ≤ s.hub.bootStep)

/-- An SPDM response, by its code and fields; none while the responder does not run. The codes are those of DSP0274 (log
entry 23: PRESUMED). -/
def respond (s : State) (ws : List Word) : State := if responderUp s then { s with reply := some ws } else s

/-- ERROR with code SessionRequired (19 R448). -/
def sessionRequired : List Word := [0x7F, 0x0B]

/-- GET_VERSION (19 R446): SPDM 1.2 and 1.3. -/
def execGetVersion (s : State) : Answer := .next (respond s [0x04, 0x12, 0x13])

/-- Doublewords of bytes, little-endian. -/
def wordsOf : Nat → List Byte → List Word
  | 0, _ => []
  | n + 1, bs => word (natOfBytes (bs.take 8)) :: wordsOf n (bs.drop 8)

/-- The words of a signature over what a response holds (19 R446; log entry 23). -/
def withSignature (ws : List Word) : List Word := ws ++ (upFrom 0 12).map (Config.signature ws)

/-- The digest of a slot's certificate chain: SHA-384 of its bytes (19 R446). -/
def chainDigest (slot : Nat) : List Word := wordsOf 6 (sha384 ((Config.certChain slot).flatMap fun w => bytesOfNat 8 w.toNat))

/-- GET_CAPABILITIES (19 R446): the capabilities offered, in the bits of DSP0274: certificates, challenge, signed
measurements, encryption, authentication, key exchange, heartbeat and key update; neither mutual authentication nor PSK nor
chunking (log entry 23). -/
def execGetCapabilities (s : State) : Answer := .next (respond s [0x61, 0x62D6])

/-- The algorithms chosen from an offer (19 R446): ECDSA P-384, SHA-384, secp384r1 and AES-256-GCM, in the bits of DSP0274; none
where one is not offered. -/
def chosen (x : AlgoOffer) : Option (List Word) :=
  if bit x.sign 7 && bit x.hash 1 && bit x.dhe 4 && bit x.aead 1 then some [0x80, 0x2, 0x10, 0x2] else none

/-- NEGOTIATE_ALGORITHMS (19 R446): the algorithms chosen; otherwise ERROR. -/
def execNegotiateAlgorithms (offered : AlgoOffer) (s : State) : Answer :=
  .next (respond s (match chosen offered with
    | some ws => 0x63 :: ws
    | none => [0x7F, 0x01]))

/-- GET_DIGESTS (19 R446): the digest of the certificate chain. -/
def execGetDigests (s : State) : Answer := .next (respond s (0x01 :: chainDigest 0))

/-- GET_CERTIFICATE (19 R446): the certificate chain of the slot. -/
def execGetCertificate (slot : Nat) (s : State) : Answer := .next (respond s (0x02 :: word slot :: Config.certChain slot))

/-- CHALLENGE (19 R446): the requester's nonce and the digest of the certificate chain, signed. -/
def execChallenge (nonce : Nat) (s : State) : Answer := .next (respond s (withSignature (0x03 :: word nonce :: chainDigest 0)))

/-- A bitmap of `n` bytes with the bits of a list set. -/
def bitmap (n : Nat) (ks : List Nat) : List Byte :=
  (upFrom 0 n).map fun i => BitVec.ofNat 8 ((upFrom 0 8).foldl (fun b j => if ks.contains (8 * i + j) then b + 2 ^ j else b) 0)

/-- The 2,048 bytes of a boot record (19 R451). -/
def BootCopy.bytes (b : BootCopy) : List Byte :=
  let body := bytesOfNat 4 0x01524F42 ++ bytesOfNat 4 b.boots ++ bytesOfNat 1 b.step ++ bytesOfNat 1 b.image
    ++ bytesOfNat 1 b.rate ++ bytesOfNat 1 0 ++ (upFrom 0 24).flatMap (fun p => bytesOfNat 1 (b.port p))
    ++ bitmap 512 b.near ++ bitmap 512 b.lasers ++ List.replicate 984 0
  body ++ bytesOfNat 4 (crc32 body)

/-- A digest of 48 bytes as doublewords, the first bytes in the first. -/
def digestWords (d : BitVec 384) : List Word := (upFrom 0 6).map fun i => BitVec.ofNat 64 (d.toNat / 2 ^ (64 * i))

/-- The measurement of a weight binding: the digest of its current generation, with WB_CTL (22 R486, R487); zeros where no
slot is current, and where the current one was never measured (log entry 94). -/
def wbindMeasurement (s : State) (b : Nat) : List Word :=
  let x := s.wbind b
  digestWords (match x.current with
    | some k => BitVec.ofNat 384 (x.slot k).digest
    | none => 0) ++ [word (x.ctl.toNat + ofBool x.locked * 2 ^ 29)]

/-- A measurement (19 R447; 22 R486). -/
def measurement (s : State) (index : Nat) : List Word :=
  if index = 1 then digestWords s.hub.measured.1
  else if index = 2 then digestWords s.hub.measured.2
  else if 3 ≤ index ∧ index < 27 then
    let x := s.port (index - 3)
    match x.table with
    | some bs => if x.st = .running then wordsOf 6 (tableDigest bs) else List.replicate 6 0
    | none => List.replicate 6 0
  else if index = 27 then
    word (min s.hub.fuseA s.hub.fuseB) :: (upFrom 0 6).map Config.keyHash
  else if index = 28 then wordsOf 6 (sha384 (bootRecord s).bytes)
  else if index = 29 then [word s.hub.mgen]
  else if 32 ≤ index ∧ index < 96 then wbindMeasurement s (index - 32)
  else []

/-- The session of a message, when it has one, is open. -/
def sessionOpen (s : State) (session : Option Nat) : Bool :=
  match session with
  | none => true
  | some k => (mapGet? k s.hub.sessions).isSome

/-- GET_MEASUREMENTS (19 R447, R448): the measurement with the GEN of the instant. -/
def execGetMeasurements (session : Option Nat) (index : Nat) (s : State) : Answer :=
  .next (respond s (if sessionOpen s session then [0x60, word index, word s.hub.mgen] ++ measurement s index
    else sessionRequired))

/-- The sessions changed while the responder runs. -/
def onSessions (s : State) (f : Map Session → Map Session) : State :=
  if responderUp s then s.onHub fun h => { h with sessions := f h.sessions } else s

/-- KEY_EXCHANGE (19 R446, R448): a session is opened and records GEN; the responder's half of the exchange, signed. -/
def execKeyExchange (sid : Nat) (s : State) : Answer :=
  .next (respond (onSessions s fun m => mapSet sid { gen := s.hub.mgen, up := false, keys := 0 } m)
    (withSignature (0x64 :: word sid :: (upFrom 0 12).map (Config.exchange sid))))

/-- A message on a session: what it does to it and its response, or SessionRequired (19 R446, R448). -/
def onSession (s : State) (sid : Nat) (needsUp : Bool) (code : Word) (f : Session → Option Session) : State :=
  match mapGet? sid s.hub.sessions with
  | none => respond s sessionRequired
  | some x =>
    if needsUp != x.up then respond s sessionRequired
    else
      let s1 := onSessions s fun m => match f x with
        | some y => mapSet sid y m
        | none => mapErase sid m
      respond s1 [code, word sid]

/-- FINISH (19 R446): the session is established. -/
def execFinish (sid : Nat) (s : State) : Answer :=
  .next (onSession s sid false 0x65 fun x => some { x with up := true })

/-- HEARTBEAT of SPDM (19 R446). -/
def execSpdmHeartbeat (sid : Nat) (s : State) : Answer := .next (onSession s sid true 0x68 some)

/-- KEY_UPDATE (19 R446): the session's keys are replaced. -/
def execKeyUpdate (sid : Nat) (s : State) : Answer :=
  .next (onSession s sid true 0x69 fun x => some { x with keys := x.keys + 1 })

/-- END_SESSION (19 R446): the session is closed and its keys are erased. -/
def execEndSession (sid : Nat) (s : State) : Answer := .next (onSession s sid true 0x6C fun _ => none)

/-- The sensors (19 R446): one temperature for each of the 39 dies of the package (00 R1, R2), then one power for each of the
seven rows of 00 R4 (log entry 23). -/
def isSensor (n : Nat) : Bool := decide (n < 39 + 7)

/-- PLDM monitoring (19 R446): a sensor's reading is given; a number that is no sensor's is refused. -/
def execPldmPlatformMonitoring (sensor : Nat) (reading : BitVec 64) (s : State) : Answer :=
  .next { s with reply := some (if isSensor sensor then [word sensor, 0, reading] else [word sensor, 0x80]) }

/-- PLDM firmware update (19 R446): the secondary flash image is written. -/
def execPldmFirmwareUpdate (img : FlashImage) (s : State) : Answer :=
  .next { s.onHub (fun h => { h with secondary := img }) with reply := some [0] }

/-! ### Boot (19 R450, R451, R453) -/

/-- The module after a reset: flash, fuses and MC_BOOT.CLEAR stay; its own memory is not readable any more (19 R442) and
everything else is as at reset. -/
def moduleReset (s : State) : State :=
  let h := s.hub
  let mine (a : Nat) : Bool := moduleOf a == s.module
  { State.reset with
      module := s.module, inputs := s.inputs, sched := s.sched, sel := s.sel, elapsed := s.elapsed, free := s.free, acts := s.acts,
      nextId := s.nextId, mem := s.mem.filter fun c => !mine c.1, poison := s.poison.filter fun l => !mine (128 * l),
      hub := { Hub.reset with
        fuseA := h.fuseA, fuseB := h.fuseB, bootClear := h.bootClear, bootRec := h.bootRec, primary := h.primary,
        secondary := h.secondary } }

/-- A boot step is completed and its result stands in the record (19 R450). -/
def bootDone (s : State) (n : Nat) (f : BootCopy → BootCopy) : State :=
  (writeBoot s fun b => { f b with step := n }).onHub fun h => { h with bootStep := n }

/-- Several measured values change in turn. -/
def bumpTimes : Nat → State → State
  | 0, s => s
  | n + 1, s => bumpTimes n (bumpGen s)

/-- Step 1 (19 R450, R453): an interrupted increment is completed; any other difference of the banks halts the boot. -/
def bootFuses (s : State) : Option State :=
  let a := s.hub.fuseA
  let b := s.hub.fuseB
  if a = b then some s
  else if a = b + 1 then some (bumpGen (s.onHub fun h => { h with fuseB := b + 1 }))
  else none

/-- An image verifies against the fuses (19 R450 step 2); once the count is 255 a higher version is refused (R453). -/
def imageSound (h : Hub) (i : FlashImage) : Bool :=
  let n := min h.fuseA h.fuseB
  i.sigOk && decide (n ≤ i.version) && (n != 255 || decide (i.version ≤ 255))

/-- The fuses that a verified image has blown, when its commit flag is set: two for each step up to its version, and no
further than 255 (R453). -/
def fusesFor (h : Hub) (i : FlashImage) : Nat := if i.commit then 2 * (min 255 i.version - min h.fuseA h.fuseB) else 0

/-- The first `k` fuses of a raise blown, bank A before bank B at each step (R453). -/
def blowFuses (h : Hub) (k : Nat) : Hub := { h with fuseA := h.fuseA + (k + 1) / 2, fuseB := h.fuseB + k / 2 }

/-- A verified image raises the counter, one step at a time (R453). -/
def raiseCounter (s : State) (i : FlashImage) : State :=
  let k := fusesFor s.hub i
  bumpTimes k (s.onHub fun h => blowFuses h k)

/-- Step 3: every port whose entry does not leave it out is trained at its entry's rate (19 R450, R451; 16 R394). -/
def bootPorts (b : BootCopy) (s : State) : State :=
  (upFrom 0 24).foldl (fun s p =>
    let n := b.port p
    if 2 ≤ n then onPort s p fun x => { x with enable := false }
    else toTraining (onPort s p fun x => { x with rate := n }) p) s

/-- The highest 32 MiB run of near store whose 16 blocks are good (19 R450 step 5), as BASE of DIR_SPILL. -/
def spillRun (bad : List Nat) : Nat → Option Nat
  | 0 => none
  | k + 1 => if bad.any fun b => b / 16 == k then spillRun bad k else some (0x10000 + k)

/-- Steps 3 to 6 (19 R450) by a boot record: ports, LPDDR, near store, lasers. Step 7 follows when a control chiplet is
enumerated. -/
def bootHardware (b : BootCopy) (s : State) (r : BootReport) : State :=
  let s3 := bootDone (bootPorts b (s.onHub fun h => { h with entries := b.ports })) 3 id
  if !r.lpddrOk then (if b.rate = 0 then writeBoot s3 fun b => { b with rate := 1 } else writeBoot s3 id)
  else
    let s4 := bootDone s3 4 id
    let s5 := (bootDone s4 5 fun b => { b with near := r.badBlocks }).onHub fun h =>
      { h with spillBase := (spillRun r.badBlocks 256).getD h.spillBase }
    bootDone s5 6 fun b => { b with lasers := r.badLasers }

/-- The record that a boot goes by: MC_BOOT.CLEAR makes it take every port entry and the LPDDR rate as 0 (19 R451). The record
itself keeps them. -/
def clearedRecord (clear : Bool) (b : BootCopy) : BootCopy :=
  if clear then { b with ports := List.replicate 24 0, rate := 0 } else b

/-- BOOT (19 R450): the steps run one after another, as far as none halts the boot; each step's result is written into the
boot record. -/
def execBoot (r : BootReport) (s : State) : Answer :=
  let s0 := (moduleReset s).onHub fun h => { h with bootClear := false }
  match bootFuses s0 with
  | none => .next (writeBoot s0 fun b => { b with step := 0 })
  | some s1 =>
    let s2 := bootDone (drawBootKey s1) 1 id
    let second := (bootRecord s2).image == 1
    let img := if second then s2.hub.secondary else s2.hub.primary
    if !imageSound s2.hub img then
      .next (if second then writeBoot s2 id else writeBoot s2 fun b => { b with image := 1 })
    else
      let s3 := (raiseCounter s2 img).onHub fun h => { h with measured := (img.hubDigest, img.mcDigest) }
      let s4 := (bootDone s3 2 id).onHub fun h => { h with bootImage := ofBool second }
      .next (bootHardware (clearedRecord s.hub.bootClear (bootRecord s2)) s4 r)

/-- MC_BOOT_CLEAR (19 R448, R451): a write of MC_BOOT.CLEAR. -/
def execMcBootClear (s : State) : Answer := .next (s.onHub fun h => { h with bootClear := true })

/-- The older copy of the record spoilt by an interrupted write (19 R451). -/
def spoilOlder (cs : List BootCopy) : List BootCopy :=
  match cs with
  | [a, b] => if a.boots < b.boots then [{ a with crcOk := false }, b] else [a, { b with crcOk := false }]
  | cs => cs

/-- The fuses that the next boot would blow (19 R453), for the image that it takes. -/
def nextFuses (s : State) : Nat :=
  let img := if (bootRecord s).image = 1 then s.hub.secondary else s.hub.primary
  if s.hub.fuseA = s.hub.fuseB ∧ imageSound s.hub img then fusesFor s.hub img else 0

/-- POWER_LOSS (19 R451, R453): everything volatile is lost; a record being written stays as the older copy, spoilt; a
counter being raised is cut after as many fuses as were blown. -/
def execPowerLoss (midRecord : Bool) (blown : Nat) (s : State) : Answer :=
  let s1 := moduleReset s
  let s2 := if midRecord then s1.onHub fun h => { h with bootRec := spoilOlder h.bootRec } else s1
  .next (s2.onHub fun h => blowFuses h (min blown (nextFuses s2)))

/-! ### Power states (19 R452) -/

/-- The capability table of a port says that a power state is supported (16 R392). -/
def pstateOk (x : Port) (st : Nat) : Bool :=
  match x.table with
  | some bs => bit (natOfBytes ((bs.drop 0x1A).take 2)) st
  | none => false

/-- CHIPLET_GATE (19 R452): the power governor puts a chiplet of cores without a resident unit into state 1 or 2. -/
def execChipletGate (p st : Nat) (s : State) : Answer :=
  let x := s.port p
  if x.st != PortSt.running || x.waking || (coresAt p).isEmpty || !chipletEmpty s p || !(st == 1 || st == 2)
      || !pstateOk x st then .next s
  else .next (onPort s p fun x => { x with pstate := st })

/-- CHIPLET_WAKE_COMPLETE (19 R452): a chiplet on its way back is in state 0, and units placed there start. -/
def execChipletWakeComplete (p : Nat) (s : State) : Answer :=
  if (s.port p).waking then .next (onPort s p fun x => { x with waking := false, pstate := 0 }) else .next s

end Sys2Proof.Machine
end

