-- ==== Sys2Proof/Machine/ScalarFloat.lean ====
section
/-! DEFINITION. Scalar floating point of the S engine (08 R233 to R239). -/

namespace Sys2Proof.Machine

/-- The format of a type (08 R233). -/
def fmtOf : FType → Fmt
  | .f32 => fp32
  | .f64 => fp64

/-- A floating operand: s[x][31:0] or s[x][63:0] (08 R233). -/
def fpArg (ft : FType) (w : Word) : Nat :=
  match ft with
  | .f32 => w.toNat % 2 ^ 32
  | .f64 => w.toNat

/-- A word that writes a result and raises flags (08 R239). -/
def fpWord (d : BitVec 5) (s : State) (f : Ctx → Thread → Nat × Flag) : Answer :=
  scalarWord s .S false fun x t =>
    let (v, fl) := f x t
    .done ((t.setReg x.ring d (word v)).raise fl) none

/-- A word that rounds an arithmetic result by FPSTAT.RM (08 R234). -/
def fpArith (ft : FType) (d : BitVec 5) (s : State) (f : Nat → Ctx → Thread → FRes) : Answer :=
  fpWord d s fun x t =>
    let rm := rmOf t.fpstat
    let r := finishF (fmtOf ft) rm (f rm x t)
    (r.bits, r.flags)

/-- The value of a floating operand. -/
def fpVal (ft : FType) (x : Ctx) (t : Thread) (a : BitVec 5) : FVal := decodeF (fmtOf ft) (fpArg ft (t.reg x.ring a))

/-- `fadd` (08 R234). -/
def execFadd (d a b : BitVec 5) (ft : FType) (s : State) : Answer :=
  fpArith ft d s fun rm x t => addF rm (fpVal ft x t a) (fpVal ft x t b)

/-- `fsub` (08 R234). -/
def execFsub (d a b : BitVec 5) (ft : FType) (s : State) : Answer :=
  fpArith ft d s fun rm x t => subF rm (fpVal ft x t a) (fpVal ft x t b)

/-- `fmul` (08 R234). -/
def execFmul (d a b : BitVec 5) (ft : FType) (s : State) : Answer :=
  fpArith ft d s fun _ x t => mulF (fpVal ft x t a) (fpVal ft x t b)

/-- `fdiv` (08 R234). -/
def execFdiv (d a b : BitVec 5) (ft : FType) (s : State) : Answer :=
  fpArith ft d s fun _ x t => divF (fpVal ft x t a) (fpVal ft x t b)

/-- `fsqrt` (08 R234). -/
def execFsqrt (d a : BitVec 5) (ft : FType) (s : State) : Answer :=
  fpArith ft d s fun _ x t => sqrtF (fpVal ft x t a)

/-- `fmin` (08 R235). -/
def execFmin (d a b : BitVec 5) (ft : FType) (s : State) : Answer :=
  fpWord d s fun x t =>
    let r := minMaxF (fmtOf ft) false (fpArg ft (t.reg x.ring a)) (fpArg ft (t.reg x.ring b))
    (r.bits, r.flags)

/-- `fmax` (08 R235). -/
def execFmax (d a b : BitVec 5) (ft : FType) (s : State) : Answer :=
  fpWord d s fun x t =>
    let r := minMaxF (fmtOf ft) true (fpArg ft (t.reg x.ring a)) (fpArg ft (t.reg x.ring b))
    (r.bits, r.flags)

/-- `ffma` (08 R234): s[a] × s[b] + s[d]. -/
def execFfma (d a b : BitVec 5) (ft : FType) (s : State) : Answer :=
  fpArith ft d s fun rm x t => fmaF rm (fpVal ft x t a) (fpVal ft x t b) (fpVal ft x t d)

/-- `fcmp.eq` (08 R236). -/
def execFcmpEq (d a b : BitVec 5) (ft : FType) (s : State) : Answer :=
  fpWord d s fun x t =>
    let r := cmpF 0 (fpVal ft x t a) (fpVal ft x t b)
    (ofBool r.1, r.2)

/-- `fcmp.lt` (08 R236). -/
def execFcmpLt (d a b : BitVec 5) (ft : FType) (s : State) : Answer :=
  fpWord d s fun x t =>
    let r := cmpF 1 (fpVal ft x t a) (fpVal ft x t b)
    (ofBool r.1, r.2)

/-- `fcmp.le` (08 R236). -/
def execFcmpLe (d a b : BitVec 5) (ft : FType) (s : State) : Answer :=
  fpWord d s fun x t =>
    let r := cmpF 2 (fpVal ft x t a) (fpVal ft x t b)
    (ofBool r.1, r.2)

/-- `fcmp.un` (08 R236). -/
def execFcmpUn (d a b : BitVec 5) (ft : FType) (s : State) : Answer :=
  fpWord d s fun x t =>
    let r := cmpF 3 (fpVal ft x t a) (fpVal ft x t b)
    (ofBool r.1, r.2)

/-- The other floating type. -/
def otherType : FType → FType
  | .f32 => .f64
  | .f64 => .f32

/-- A conversion to an integer range, as the 64-bit word (08 R233, R237). -/
def toIntWord (ft : FType) (lo hi : Int) (d a : BitVec 5) (s : State) : Answer :=
  fpWord d s fun x t =>
    let r := toRange (rmOf t.fpstat) 0 true lo hi (fpVal ft x t a)
    ((wordOfInt r.1).toNat, r.2)

/-- A conversion from an integer, rounded by FPSTAT.RM (08 R237). -/
def fromIntWord (ft : FType) (v : Word → Int) (d a : BitVec 5) (s : State) : Answer :=
  fpArith ft d s fun _ x t => { val := ofInt (v (t.reg x.ring a)), flags := noFlag }

/-- `fcvt` between the floating types (08 R237): NaNs by 02 R74. -/
def execFcvtFloatFloat (d a : BitVec 5) (ft : FType) (s : State) : Answer :=
  fpWord d s fun x t =>
    let r := roundVal (fmtOf ft) (rmOf t.fpstat) false 0 (fpVal (otherType ft) x t a)
    (r.bits, r.flags)

/-- Conversion to an integer (08 R237). -/
def execFcvtFToI32 (d a : BitVec 5) (ft : FType) (s : State) : Answer :=
  toIntWord ft (-2 ^ 31) (2 ^ 31 - 1) d a s

/-- Conversion to an integer (08 R237). -/
def execFcvtuFToU32 (d a : BitVec 5) (ft : FType) (s : State) : Answer :=
  toIntWord ft 0 (2 ^ 32 - 1) d a s

/-- Conversion to an integer (08 R237). -/
def execFcvtFToI64 (d a : BitVec 5) (ft : FType) (s : State) : Answer :=
  toIntWord ft (-2 ^ 63) (2 ^ 63 - 1) d a s

/-- Conversion to an integer (08 R237). -/
def execFcvtuFToU64 (d a : BitVec 5) (ft : FType) (s : State) : Answer :=
  toIntWord ft 0 (2 ^ 64 - 1) d a s

/-- Conversion from an integer (08 R237). -/
def execFcvtI32ToF (d a : BitVec 5) (ft : FType) (s : State) : Answer :=
  fromIntWord ft (fun w => signed 32 w.toNat) d a s

/-- Conversion from an integer (08 R237). -/
def execFcvtuU32ToF (d a : BitVec 5) (ft : FType) (s : State) : Answer :=
  fromIntWord ft (fun w => (w.toNat % 2 ^ 32 : Nat)) d a s

/-- Conversion from an integer (08 R237). -/
def execFcvtI64ToF (d a : BitVec 5) (ft : FType) (s : State) : Answer :=
  fromIntWord ft (fun w => w.toInt) d a s

/-- Conversion from an integer (08 R237). -/
def execFcvtuU64ToF (d a : BitVec 5) (ft : FType) (s : State) : Answer :=
  fromIntWord ft (fun w => (w.toNat : Int)) d a s

/-- `fclass` (08 R238). -/
def execFclass (d a : BitVec 5) (ft : FType) (s : State) : Answer :=
  fpWord d s fun x t => (classF (fmtOf ft) (fpArg ft (t.reg x.ring a)), noFlag)

end Sys2Proof.Machine
end

