-- ==== Sys2Proof/Machine/Dispatch.lean ====
section
/-! DEFINITION. One arm for each step of the table: a direct call of its meaning. -/

namespace Sys2Proof.Machine

/-- The meaning of each word and event. -/
def exec (i : Instr) (s : State) : Host.Outcome State Fault Refusal :=
  match i with
  | .add d a b => Sys2Proof.Machine.execAdd d a b s
  | .sub d a b => Sys2Proof.Machine.execSub d a b s
  | .mul d a b => Sys2Proof.Machine.execMul d a b s
  | .mulh d a b => Sys2Proof.Machine.execMulh d a b s
  | .mulhu d a b => Sys2Proof.Machine.execMulhu d a b s
  | .div d a b => Sys2Proof.Machine.execDiv d a b s
  | .divu d a b => Sys2Proof.Machine.execDivu d a b s
  | .rem d a b => Sys2Proof.Machine.execRem d a b s
  | .remu d a b => Sys2Proof.Machine.execRemu d a b s
  | .and d a b => Sys2Proof.Machine.execAnd d a b s
  | .or d a b => Sys2Proof.Machine.execOr d a b s
  | .xor d a b => Sys2Proof.Machine.execXor d a b s
  | .shl d a b => Sys2Proof.Machine.execShl d a b s
  | .shr d a b => Sys2Proof.Machine.execShr d a b s
  | .sar d a b => Sys2Proof.Machine.execSar d a b s
  | .slt d a b => Sys2Proof.Machine.execSlt d a b s
  | .sltu d a b => Sys2Proof.Machine.execSltu d a b s
  | .min d a b => Sys2Proof.Machine.execMin d a b s
  | .max d a b => Sys2Proof.Machine.execMax d a b s
  | .minu d a b => Sys2Proof.Machine.execMinu d a b s
  | .maxu d a b => Sys2Proof.Machine.execMaxu d a b s
  | .clz d a => Sys2Proof.Machine.execClz d a s
  | .popc d a => Sys2Proof.Machine.execPopc d a s
  | .sel d a b p => Sys2Proof.Machine.execSel d a b p s
  | .addImm d a imm => Sys2Proof.Machine.execAddImm d a imm s
  | .andImm d a imm => Sys2Proof.Machine.execAndImm d a imm s
  | .orImm d a imm => Sys2Proof.Machine.execOrImm d a imm s
  | .xorImm d a imm => Sys2Proof.Machine.execXorImm d a imm s
  | .shlImm d a imm => Sys2Proof.Machine.execShlImm d a imm s
  | .shrImm d a imm => Sys2Proof.Machine.execShrImm d a imm s
  | .sarImm d a imm => Sys2Proof.Machine.execSarImm d a imm s
  | .sltImm d a imm => Sys2Proof.Machine.execSltImm d a imm s
  | .sltuImm d a imm => Sys2Proof.Machine.execSltuImm d a imm s
  | .minImm d a imm => Sys2Proof.Machine.execMinImm d a imm s
  | .maxImm d a imm => Sys2Proof.Machine.execMaxImm d a imm s
  | .mulImm d a imm => Sys2Proof.Machine.execMulImm d a imm s
  | .ldhi d imm => Sys2Proof.Machine.execLdhi d imm s
  | .addpc d imm => Sys2Proof.Machine.execAddpc d imm s
  | .ldB d a imm => Sys2Proof.Machine.execLdB d a imm s
  | .ldBu d a imm => Sys2Proof.Machine.execLdBu d a imm s
  | .ldH d a imm => Sys2Proof.Machine.execLdH d a imm s
  | .ldHu d a imm => Sys2Proof.Machine.execLdHu d a imm s
  | .ldW d a imm => Sys2Proof.Machine.execLdW d a imm s
  | .ldWu d a imm => Sys2Proof.Machine.execLdWu d a imm s
  | .ldD d a imm => Sys2Proof.Machine.execLdD d a imm s
  | .ldBAcq d a scope imm => Sys2Proof.Machine.execLdBAcq d a scope imm s
  | .ldBuAcq d a scope imm => Sys2Proof.Machine.execLdBuAcq d a scope imm s
  | .ldHAcq d a scope imm => Sys2Proof.Machine.execLdHAcq d a scope imm s
  | .ldHuAcq d a scope imm => Sys2Proof.Machine.execLdHuAcq d a scope imm s
  | .ldWAcq d a scope imm => Sys2Proof.Machine.execLdWAcq d a scope imm s
  | .ldWuAcq d a scope imm => Sys2Proof.Machine.execLdWuAcq d a scope imm s
  | .ldDAcq d a scope imm => Sys2Proof.Machine.execLdDAcq d a scope imm s
  | .stB d a imm => Sys2Proof.Machine.execStB d a imm s
  | .stH d a imm => Sys2Proof.Machine.execStH d a imm s
  | .stW d a imm => Sys2Proof.Machine.execStW d a imm s
  | .stD d a imm => Sys2Proof.Machine.execStD d a imm s
  | .stBRel d a scope imm => Sys2Proof.Machine.execStBRel d a scope imm s
  | .stHRel d a scope imm => Sys2Proof.Machine.execStHRel d a scope imm s
  | .stWRel d a scope imm => Sys2Proof.Machine.execStWRel d a scope imm s
  | .stDRel d a scope imm => Sys2Proof.Machine.execStDRel d a scope imm s
  | .bEq a b off => Sys2Proof.Machine.execBEq a b off s
  | .bNe a b off => Sys2Proof.Machine.execBNe a b off s
  | .bLt a b off => Sys2Proof.Machine.execBLt a b off s
  | .bGe a b off => Sys2Proof.Machine.execBGe a b off s
  | .bLtu a b off => Sys2Proof.Machine.execBLtu a b off s
  | .bGeu a b off => Sys2Proof.Machine.execBGeu a b off s
  | .brot a b off => Sys2Proof.Machine.execBrot a b off s
  | .j link off => Sys2Proof.Machine.execJ link off s
  | .jr d a imm => Sys2Proof.Machine.execJr d a imm s
  | .callw n => Sys2Proof.Machine.execCallw n s
  | .retw => Sys2Proof.Machine.execRetw s
  | .fadd d a b ft => Sys2Proof.Machine.execFadd d a b ft s
  | .fsub d a b ft => Sys2Proof.Machine.execFsub d a b ft s
  | .fmul d a b ft => Sys2Proof.Machine.execFmul d a b ft s
  | .fdiv d a b ft => Sys2Proof.Machine.execFdiv d a b ft s
  | .fsqrt d a ft => Sys2Proof.Machine.execFsqrt d a ft s
  | .fmin d a b ft => Sys2Proof.Machine.execFmin d a b ft s
  | .fmax d a b ft => Sys2Proof.Machine.execFmax d a b ft s
  | .ffma d a b ft => Sys2Proof.Machine.execFfma d a b ft s
  | .fcmpEq d a b ft => Sys2Proof.Machine.execFcmpEq d a b ft s
  | .fcmpLt d a b ft => Sys2Proof.Machine.execFcmpLt d a b ft s
  | .fcmpLe d a b ft => Sys2Proof.Machine.execFcmpLe d a b ft s
  | .fcmpUn d a b ft => Sys2Proof.Machine.execFcmpUn d a b ft s
  | .fcvtFloatFloat d a ft => Sys2Proof.Machine.execFcvtFloatFloat d a ft s
  | .fcvtFToI32 d a ft => Sys2Proof.Machine.execFcvtFToI32 d a ft s
  | .fcvtuFToU32 d a ft => Sys2Proof.Machine.execFcvtuFToU32 d a ft s
  | .fcvtFToI64 d a ft => Sys2Proof.Machine.execFcvtFToI64 d a ft s
  | .fcvtuFToU64 d a ft => Sys2Proof.Machine.execFcvtuFToU64 d a ft s
  | .fcvtI32ToF d a ft => Sys2Proof.Machine.execFcvtI32ToF d a ft s
  | .fcvtuU32ToF d a ft => Sys2Proof.Machine.execFcvtuU32ToF d a ft s
  | .fcvtI64ToF d a ft => Sys2Proof.Machine.execFcvtI64ToF d a ft s
  | .fcvtuU64ToF d a ft => Sys2Proof.Machine.execFcvtuU64ToF d a ft s
  | .fclass d a ft => Sys2Proof.Machine.execFclass d a ft s
  | .hset d a imm => Sys2Proof.Machine.execHset d a imm s
  | .hget d a => Sys2Proof.Machine.execHget d a s
  | .pset d a => Sys2Proof.Machine.execPset d a s
  | .pget d a => Sys2Proof.Machine.execPget d a s
  | .vaddF32 d a b m => Sys2Proof.Machine.execVaddF32 d a b m s
  | .vsubF32 d a b m => Sys2Proof.Machine.execVsubF32 d a b m s
  | .vmulF32 d a b m => Sys2Proof.Machine.execVmulF32 d a b m s
  | .vfmaF32 d a b m => Sys2Proof.Machine.execVfmaF32 d a b m s
  | .vminF32 d a b m => Sys2Proof.Machine.execVminF32 d a b m s
  | .vmaxF32 d a b m => Sys2Proof.Machine.execVmaxF32 d a b m s
  | .vabsF32 d a m => Sys2Proof.Machine.execVabsF32 d a m s
  | .vnegF32 d a m => Sys2Proof.Machine.execVnegF32 d a m s
  | .vaddI32 d a b m => Sys2Proof.Machine.execVaddI32 d a b m s
  | .vsubI32 d a b m => Sys2Proof.Machine.execVsubI32 d a b m s
  | .vmulI32 d a b m => Sys2Proof.Machine.execVmulI32 d a b m s
  | .vand d a b m => Sys2Proof.Machine.execVand d a b m s
  | .vor d a b m => Sys2Proof.Machine.execVor d a b m s
  | .vxor d a b m => Sys2Proof.Machine.execVxor d a b m s
  | .vshl d a b m => Sys2Proof.Machine.execVshl d a b m s
  | .vsar d a b m => Sys2Proof.Machine.execVsar d a b m s
  | .vexp2 d a m => Sys2Proof.Machine.execVexp2 d a m s
  | .vlog2 d a m => Sys2Proof.Machine.execVlog2 d a m s
  | .vrcp d a m => Sys2Proof.Machine.execVrcp d a m s
  | .vrsqrt d a m => Sys2Proof.Machine.execVrsqrt d a m s
  | .vtanh d a m => Sys2Proof.Machine.execVtanh d a m s
  | .vcmpEqF32 d a b m => Sys2Proof.Machine.execVcmpEqF32 d a b m s
  | .vcmpLtF32 d a b m => Sys2Proof.Machine.execVcmpLtF32 d a b m s
  | .vcmpLeF32 d a b m => Sys2Proof.Machine.execVcmpLeF32 d a b m s
  | .vcmpUnF32 d a b m => Sys2Proof.Machine.execVcmpUnF32 d a b m s
  | .vcmpEqI32 d a b m => Sys2Proof.Machine.execVcmpEqI32 d a b m s
  | .vcmpLtI32 d a b m => Sys2Proof.Machine.execVcmpLtI32 d a b m s
  | .vcmpLeI32 d a b m => Sys2Proof.Machine.execVcmpLeI32 d a b m s
  | .vcmpLtuI32 d a b m => Sys2Proof.Machine.execVcmpLtuI32 d a b m s
  | .vsel d a b m => Sys2Proof.Machine.execVsel d a b m s
  | .pand d a b m => Sys2Proof.Machine.execPand d a b m s
  | .por d a b m => Sys2Proof.Machine.execPor d a b m s
  | .pxor d a b m => Sys2Proof.Machine.execPxor d a b m s
  | .pnot d a m => Sys2Proof.Machine.execPnot d a m s
  | .vrsumF32 d a m => Sys2Proof.Machine.execVrsumF32 d a m s
  | .vrmaxF32 d a m => Sys2Proof.Machine.execVrmaxF32 d a m s
  | .vrminF32 d a m => Sys2Proof.Machine.execVrminF32 d a m s
  | .vrsumI32 d a m => Sys2Proof.Machine.execVrsumI32 d a m s
  | .vrmaxI32 d a m => Sys2Proof.Machine.execVrmaxI32 d a m s
  | .vrminI32 d a m => Sys2Proof.Machine.execVrminI32 d a m s
  | .vperm d a b m => Sys2Proof.Machine.execVperm d a b m s
  | .vbcast d a m => Sys2Proof.Machine.execVbcast d a m s
  | .vslup d a b m => Sys2Proof.Machine.execVslup d a b m s
  | .vsldn d a b m => Sys2Proof.Machine.execVsldn d a b m s
  | .vmov d a m => Sys2Proof.Machine.execVmov d a m s
  | .vlane d m => Sys2Proof.Machine.execVlane d m s
  | .vtrd td ta tb => Sys2Proof.Machine.execVtrd td ta tb s
  | .vtwr td ta tb => Sys2Proof.Machine.execVtwr td ta tb s
  | .vtrdc td ta tb => Sys2Proof.Machine.execVtrdc td ta tb s
  | .vtwrc td ta tb slot => Sys2Proof.Machine.execVtwrc td ta tb slot s
  | .mma td ta tb slot => Sys2Proof.Machine.execMma td ta tb slot s
  | .mmaZ td ta tb slot => Sys2Proof.Machine.execMmaZ td ta tb slot s
  | .mout td ta slot => Sys2Proof.Machine.execMout td ta slot s
  | .mclr td => Sys2Proof.Machine.execMclr td s
  | .mtr td ta => Sys2Proof.Machine.execMtr td ta s
  | .tcvt td ta slot => Sys2Proof.Machine.execTcvt td ta slot s
  | .thdrRd ta tb => Sys2Proof.Machine.execThdrRd ta tb s
  | .thdrWr td tb => Sys2Proof.Machine.execThdrWr td tb s
  | .cbld ta tbl => Sys2Proof.Machine.execCbld ta tbl s
  | .tzero td ta slot => Sys2Proof.Machine.execTzero td ta slot s
  | .tld td ta => Sys2Proof.Machine.execTld td ta s
  | .tst ta tb => Sys2Proof.Machine.execTst ta tb s
  | .tstF ta tb => Sys2Proof.Machine.execTstF ta tb s
  | .tgat td ta tb => Sys2Proof.Machine.execTgat td ta tb s
  | .tsct td ta tb => Sys2Proof.Machine.execTsct td ta tb s
  | .dcpy d a b => Sys2Proof.Machine.execDcpy d a b s
  | .dflag d a scope => Sys2Proof.Machine.execDflag d a scope s
  | .dseal d => Sys2Proof.Machine.execDseal d s
  | .dwait a => Sys2Proof.Machine.execDwait a s
  | .cflush a b => Sys2Proof.Machine.execCflush a b s
  | .cinval a b => Sys2Proof.Machine.execCinval a b s
  | .qbindS td ta => Sys2Proof.Machine.execQbindS td ta s
  | .qbindR td ta => Sys2Proof.Machine.execQbindR td ta s
  | .qunbind td => Sys2Proof.Machine.execQunbind td s
  | .qsend td ta => Sys2Proof.Machine.execQsend td ta s
  | .qsendF td ta => Sys2Proof.Machine.execQsendF td ta s
  | .qrecv td ta => Sys2Proof.Machine.execQrecv td ta s
  | .qmarkStart td ta => Sys2Proof.Machine.execQmarkStart td ta s
  | .qmarkEnd td ta => Sys2Proof.Machine.execQmarkEnd td ta s
  | .qwidth td width => Sys2Proof.Machine.execQwidth td width s
  | .qstat td ta => Sys2Proof.Machine.execQstat td ta s
  | .qdrop td => Sys2Proof.Machine.execQdrop td s
  | .fenceAcq scope => Sys2Proof.Machine.execFenceAcq scope s
  | .fenceRel scope => Sys2Proof.Machine.execFenceRel scope s
  | .fence scope => Sys2Proof.Machine.execFence scope s
  | .wcnt ld st cp tl => Sys2Proof.Machine.execWcnt ld st cp tl s
  | .bar => Sys2Proof.Machine.execBar s
  | .elect d => Sys2Proof.Machine.execElect d s
  | .mjoin k => Sys2Proof.Machine.execMjoin k s
  | .mleave k => Sys2Proof.Machine.execMleave k s
  | .mwait k => Sys2Proof.Machine.execMwait k s
  | .xchIdx d a b => Sys2Proof.Machine.execXchIdx d a b s
  | .xchUp d a b => Sys2Proof.Machine.execXchUp d a b s
  | .xchDown d a b => Sys2Proof.Machine.execXchDown d a b s
  | .xchXor d a b => Sys2Proof.Machine.execXchXor d a b s
  | .spawn d a imm => Sys2Proof.Machine.execSpawn d a imm s
  | .tnext d => Sys2Proof.Machine.execTnext d s
  | .amoAdd d a b scope size => Sys2Proof.Machine.execAmoAdd d a b scope size s
  | .amoAnd d a b scope size => Sys2Proof.Machine.execAmoAnd d a b scope size s
  | .amoOr d a b scope size => Sys2Proof.Machine.execAmoOr d a b scope size s
  | .amoXor d a b scope size => Sys2Proof.Machine.execAmoXor d a b scope size s
  | .amoMin d a b scope size => Sys2Proof.Machine.execAmoMin d a b scope size s
  | .amoMax d a b scope size => Sys2Proof.Machine.execAmoMax d a b scope size s
  | .amoMinu d a b scope size => Sys2Proof.Machine.execAmoMinu d a b scope size s
  | .amoMaxu d a b scope size => Sys2Proof.Machine.execAmoMaxu d a b scope size s
  | .amoSwap d a b scope size => Sys2Proof.Machine.execAmoSwap d a b scope size s
  | .amoCas d a b scope size => Sys2Proof.Machine.execAmoCas d a b scope size s
  | .amoAddF32 d a b scope size => Sys2Proof.Machine.execAmoAddF32 d a b scope size s
  | .amoMinF32 d a b scope size => Sys2Proof.Machine.execAmoMinF32 d a b scope size s
  | .amoMaxF32 d a b scope size => Sys2Proof.Machine.execAmoMaxF32 d a b scope size s
  | .amoCasF32 d a b scope size => Sys2Proof.Machine.execAmoCasF32 d a b scope size s
  | .redAdd a b scope size => Sys2Proof.Machine.execRedAdd a b scope size s
  | .redAnd a b scope size => Sys2Proof.Machine.execRedAnd a b scope size s
  | .redOr a b scope size => Sys2Proof.Machine.execRedOr a b scope size s
  | .redXor a b scope size => Sys2Proof.Machine.execRedXor a b scope size s
  | .redMin a b scope size => Sys2Proof.Machine.execRedMin a b scope size s
  | .redMax a b scope size => Sys2Proof.Machine.execRedMax a b scope size s
  | .redMinu a b scope size => Sys2Proof.Machine.execRedMinu a b scope size s
  | .redMaxu a b scope size => Sys2Proof.Machine.execRedMaxu a b scope size s
  | .redAddF32 a b scope size => Sys2Proof.Machine.execRedAddF32 a b scope size s
  | .mbxSend d a b => Sys2Proof.Machine.execMbxSend d a b s
  | .mbxRecv d => Sys2Proof.Machine.execMbxRecv d s
  | .trap c => Sys2Proof.Machine.execTrap c s
  | .svc c => Sys2Proof.Machine.execSvc c s
  | .brk c => Sys2Proof.Machine.execBrk c s
  | .halt => Sys2Proof.Machine.execHalt s
  | .eret => Sys2Proof.Machine.execEret s
  | .sysrd d r => Sys2Proof.Machine.execSysrd d r s
  | .syswr a r => Sys2Proof.Machine.execSyswr a r s
  | .lseq lvl trip len => Sys2Proof.Machine.execLseq lvl trip len s
  | .lseqRot lvl trip len => Sys2Proof.Machine.execLseqRot lvl trip len s
  | .lend lvl => Sys2Proof.Machine.execLend lvl s
  | .lfirst lvl n => Sys2Proof.Machine.execLfirst lvl n s
  | .llast lvl n => Sys2Proof.Machine.execLlast lvl n s
  | .lstride lvl k r x => Sys2Proof.Machine.execLstride lvl k r x s
  | .lbrk lvl x => Sys2Proof.Machine.execLbrk lvl x s
  | .issueGroupAged core slot lane => Sys2Proof.Machine.execIssueGroupAged core slot lane s
  | .binTimerExpiry core bin => Sys2Proof.Machine.execBinTimerExpiry core bin s
  | .binLaunch core bin slot => Sys2Proof.Machine.execBinLaunch core bin slot s
  | .warpMerge core slotA slotB => Sys2Proof.Machine.execWarpMerge core slotA slotB s
  | .outcomeTake core cur => Sys2Proof.Machine.execOutcomeTake core cur s
  | .entryShipment victim thief => Sys2Proof.Machine.execEntryShipment victim thief s
  | .loadDataReturn grp => Sys2Proof.Machine.execLoadDataReturn grp s
  | .storeAccept grp => Sys2Proof.Machine.execStoreAccept grp s
  | .matrixOpRetire u op => Sys2Proof.Machine.execMatrixOpRetire u op s
  | .copyComplete id => Sys2Proof.Machine.execCopyComplete id s
  | .unitComplete u => Sys2Proof.Machine.execUnitComplete u s
  | .deferredFaultReport u cause code addr place => Sys2Proof.Machine.execDeferredFaultReport u cause code addr place s
  | .tileEntryWindowWrite core entry off bytes => Sys2Proof.Machine.execTileEntryWindowWrite core entry off bytes s
  | .bindingPair core id peer grant => Sys2Proof.Machine.execBindingPair core id peer grant s
  | .peerUnpair core id => Sys2Proof.Machine.execPeerUnpair core id s
  | .tileFirstFlit core id => Sys2Proof.Machine.execTileFirstFlit core id s
  | .tileLastFlit core id image => Sys2Proof.Machine.execTileLastFlit core id image s
  | .creditReturn core id => Sys2Proof.Machine.execCreditReturn core id s
  | .linkTakeTile core id => Sys2Proof.Machine.execLinkTakeTile core id s
  | .sendRetire core id => Sys2Proof.Machine.execSendRetire core id s
  | .qmarkRx core id stepNo isEnd => Sys2Proof.Machine.execQmarkRx core id stepNo isEnd s
  | .qmarkAck core id => Sys2Proof.Machine.execQmarkAck core id s
  | .widthMarkerPlace c => Sys2Proof.Machine.execWidthMarkerPlace c s
  | .widthMarkerConfirm c => Sys2Proof.Machine.execWidthMarkerConfirm c s
  | .remoteRequestArrival src home seq floor r => Sys2Proof.Machine.execRemoteRequestArrival src home seq floor r s
  | .mergeEntryEvict addr => Sys2Proof.Machine.execMergeEntryEvict addr s
  | .remoteReply home seq => Sys2Proof.Machine.execRemoteReply home seq s
  | .e2eTimerExpiry home seq => Sys2Proof.Machine.execE2eTimerExpiry home seq s
  | .flagWrite id => Sys2Proof.Machine.execFlagWrite id s
  | .dflagAck id => Sys2Proof.Machine.execDflagAck id s
  | .homeRequest id => Sys2Proof.Machine.execHomeRequest id s
  | .probeResponse line => Sys2Proof.Machine.execProbeResponse line s
  | .sdnGo v => Sys2Proof.Machine.execSdnGo v s
  | .shootdownComplete => Sys2Proof.Machine.execShootdownComplete s
  | .portEnable p => Sys2Proof.Machine.execPortEnable p s
  | .portRun p => Sys2Proof.Machine.execPortRun p s
  | .portReenum p => Sys2Proof.Machine.execPortReenum p s
  | .portOff p => Sys2Proof.Machine.execPortOff p s
  | .portLinkUp p => Sys2Proof.Machine.execPortLinkUp p s
  | .portTrainingFail p => Sys2Proof.Machine.execPortTrainingFail p s
  | .capabilityTableRead p bytes => Sys2Proof.Machine.execCapabilityTableRead p bytes s
  | .cmbxSend hart data => Sys2Proof.Machine.execCmbxSend hart data s
  | .cmbxPop hart => Sys2Proof.Machine.execCmbxPop hart s
  | .dqDoorbell w q v => Sys2Proof.Machine.execDqDoorbell w q v s
  | .dqEnable w q en => Sys2Proof.Machine.execDqEnable w q en s
  | .packetAccept w q => Sys2Proof.Machine.execPacketAccept w q s
  | .launchIssue w job launch => Sys2Proof.Machine.execLaunchIssue w job launch s
  | .launchComplete w job launch => Sys2Proof.Machine.execLaunchComplete w job launch s
  | .cancel v => Sys2Proof.Machine.execCancel v s
  | .jrnlAck v => Sys2Proof.Machine.execJrnlAck v s
  | .placeUnit w job launch core => Sys2Proof.Machine.execPlaceUnit w job launch core s
  | .launchAged w job launch => Sys2Proof.Machine.execLaunchAged w job launch s
  | .unitResume => Sys2Proof.Machine.execUnitResume s
  | .unitRedirect => Sys2Proof.Machine.execUnitRedirect s
  | .unitDiscard => Sys2Proof.Machine.execUnitDiscard s
  | .unitSave => Sys2Proof.Machine.execUnitSave s
  | .saveComplete kind core => Sys2Proof.Machine.execSaveComplete kind core s
  | .unitRestore ctx core => Sys2Proof.Machine.execUnitRestore ctx core s
  | .heartbeat p => Sys2Proof.Machine.execHeartbeat p s
  | .heartbeatLapse p => Sys2Proof.Machine.execHeartbeatLapse p s
  | .requestNoAnswer p => Sys2Proof.Machine.execRequestNoAnswer p s
  | .isoCmd v => Sys2Proof.Machine.execIsoCmd v s
  | .fenceDrained p => Sys2Proof.Machine.execFenceDrained p s
  | .cleanComplete p => Sys2Proof.Machine.execCleanComplete p s
  | .chipletResetRelease p => Sys2Proof.Machine.execChipletResetRelease p s
  | .redispatch p => Sys2Proof.Machine.execRedispatch p s
  | .ucieFrameReceive p toHub tagOk => Sys2Proof.Machine.execUcieFrameReceive p toHub tagOk s
  | .getVersion => Sys2Proof.Machine.execGetVersion s
  | .getCapabilities => Sys2Proof.Machine.execGetCapabilities s
  | .negotiateAlgorithms offered => Sys2Proof.Machine.execNegotiateAlgorithms offered s
  | .getDigests => Sys2Proof.Machine.execGetDigests s
  | .getCertificate slot => Sys2Proof.Machine.execGetCertificate slot s
  | .challenge nonce => Sys2Proof.Machine.execChallenge nonce s
  | .getMeasurements session index => Sys2Proof.Machine.execGetMeasurements session index s
  | .keyExchange sid => Sys2Proof.Machine.execKeyExchange sid s
  | .finish sid => Sys2Proof.Machine.execFinish sid s
  | .spdmHeartbeat sid => Sys2Proof.Machine.execSpdmHeartbeat sid s
  | .keyUpdate sid => Sys2Proof.Machine.execKeyUpdate sid s
  | .endSession sid => Sys2Proof.Machine.execEndSession sid s
  | .pldmPlatformMonitoring sensor reading => Sys2Proof.Machine.execPldmPlatformMonitoring sensor reading s
  | .pldmFirmwareUpdate img => Sys2Proof.Machine.execPldmFirmwareUpdate img s
  | .boot r => Sys2Proof.Machine.execBoot r s
  | .mcBootClear => Sys2Proof.Machine.execMcBootClear s
  | .chipletGate p st => Sys2Proof.Machine.execChipletGate p st s
  | .chipletWakeComplete p => Sys2Proof.Machine.execChipletWakeComplete p s
  | .chanEnable c v => Sys2Proof.Machine.execChanEnable c v s
  | .chanDisable c => Sys2Proof.Machine.execChanDisable c s
  | .chanDark c => Sys2Proof.Machine.execChanDark c s
  | .chanUndark c => Sys2Proof.Machine.execChanUndark c s
  | .chanTuned c => Sys2Proof.Machine.execChanTuned c s
  | .chanDrained c => Sys2Proof.Machine.execChanDrained c s
  | .linkNak c frame => Sys2Proof.Machine.execLinkNak c frame s
  | .chanPark c mask => Sys2Proof.Machine.execChanPark c mask s
  | .chanUnpark c mask => Sys2Proof.Machine.execChanUnpark c mask s
  | .positionLocked c j => Sys2Proof.Machine.execPositionLocked c j s
  | .allowanceRequest c j sender => Sys2Proof.Machine.execAllowanceRequest c j sender s
  | .allowanceGrant c j volume life => Sys2Proof.Machine.execAllowanceGrant c j volume life s
  | .allowanceRenew x j => Sys2Proof.Machine.execAllowanceRenew x j s
  | .allowanceExpiry x j => Sys2Proof.Machine.execAllowanceExpiry x j s
  | .orbitSlot slot => Sys2Proof.Machine.execOrbitSlot slot s
  | .ptpSync master offset => Sys2Proof.Machine.execPtpSync master offset s
  | .ptpSyncTimeout => Sys2Proof.Machine.execPtpSyncTimeout s
  | .reachCommit => Sys2Proof.Machine.execReachCommit s
  | .rwinWrite link e isLimit v => Sys2Proof.Machine.execRwinWrite link e isLimit v s
  | .wbStage b k => Sys2Proof.Machine.execWbStage b k s
  | .wbMeasure b k => Sys2Proof.Machine.execWbMeasure b k s
  | .wbMeasureComplete b k => Sys2Proof.Machine.execWbMeasureComplete b k s
  | .wbSwitch b k => Sys2Proof.Machine.execWbSwitch b k s
  | .wbDrop b k => Sys2Proof.Machine.execWbDrop b k s
  | .pcieDmaRequest port write va size data => Sys2Proof.Machine.execPcieDmaRequest port write va size data s
  | .registerWrite r idx v => Sys2Proof.Machine.execRegisterWrite r idx v s
  | .controlCoreAccess hart sup op addr size data => Sys2Proof.Machine.execControlCoreAccess hart sup op addr size data s
  | .powerLoss midRecord blown => Sys2Proof.Machine.execPowerLoss midRecord blown s
  | .opticalFrameReceive c checksOk x => Sys2Proof.Machine.execOpticalFrameReceive c checksOk x s
  | .opticalCeilingLower v => Sys2Proof.Machine.execOpticalCeilingLower v s

end Sys2Proof.Machine
end

