-- ==== Sys2Proof/Machine/Fetch.lean ====
section
/-! DEFINITION. Between the bytes of a program and the meanings: fetching a word (07 R196, R198), the fate of words that
are none (07 R195, R197), the resources that a word names (01 R35), when a word may issue (01 R37, R38, R51; 08 R222; 11
R306; 12 R322, R323), the marks of the loop sequencer (09 R258), and what a step of a cursor or of an issue group does. -/

namespace Sys2Proof.Machine

/-! ### Fetch -/

/-- The bits of the word at an address (07 R196): the checks of the address, then the four bytes as the chiplet at a port
reads them (06 R172). After a store to the text the fetch returns the bytes performed so far: 07 R198 lets it return the
old or the new word, and the model settles which (DESIGN CHOICE, log entry 73). -/
def fetchRaw (s : State) (port : Nat) (i : UnitInfo) (pc : Word) : Except Cause Nat :=
  match fetchAddr s i pc with
  | .error c => .error c
  | .ok a => .ok (viewWord s port a 4 (if isPoisoned s a then 0 else word (peekNat s a 4))).toNat

/-- The engine code of a word (07 R180). -/
def engineOf (raw : Nat) : Nat := raw / 2 ^ 29 % 8

/-- The engine and major of a word, its bits [31:25] (07 R180). -/
def majorOf (raw : Nat) : Nat := raw / 2 ^ 25 % 128

/-- The cursor that executes a word (07 R180). -/
def ownerOf (raw : Nat) : Cursor :=
  match engineOf raw with
  | 1 => .V
  | 2 => .M
  | 3 => .D
  | 4 => .Q
  | 5 => .Y
  | _ => .S

/-- The first two rows of R195, which every cursor checks (07 R197). -/
def notAWord (kind : CoreKind) (raw : Nat) : Option Cause :=
  if raw = 0 ∨ engineOf raw = 7 then some .illegalInstruction
  else match kind with
    | .array => none
    | .lane => if engineOf raw = 1 ∨ engineOf raw = 4 ∨ engineOf raw = 6 then some .engineAbsent else none

/-- The fate of a word that decodes to nothing (07 R195). -/
def rejectCause : Reject → Cause
  | .operand => .illegalOperand
  | .notAWord => .illegalInstruction
  | .unassigned => .illegalInstruction
  | .short => .illegalInstruction

/-- A branch word by its major (07 R197): conditional branches, `j`, `jr`, `lseq`, `lend`, `lbrk`. -/
def isBranchMajor (raw : Nat) : Bool := [9, 10, 11, 96, 97, 101].contains (majorOf raw)

/-- An L word. -/
def isLoopWord (raw : Nat) : Bool := engineOf raw == 6

/-! ### What a word names -/

/-- A common resource (01 R35): the physical register after rotation, a handle, an entry by its number, an accumulator,
a queue. `book` is the codebooks (10 R284), written by `cbld`; `sys` a system register (12 R345), read or written by a
`sysrd` or `syswr`, or changed by another word. -/
inductive Res where
  | scalar (n : Nat) | vector (n : Nat) | pred (n : Nat) | handle (n : Nat) | entry (n : Nat) | acc (n : Nat)
  | queue (n : Nat) | book (load : Bool) | sys (n : Nat) (named : Bool)
  deriving DecidableEq, Repr

/-- Two words that name these must issue in path order (01 R35). Words that only change a system register are not
ordered by it, where flags are sticky and counts add up (08 R239); SR_STATE (0x009) is neither (12 R345). -/
def Res.clash (a b : Res) : Bool :=
  match a, b with
  | .book x, .book y => x || y
  | .sys m x, .sys n y => m == n && (x || y || m == 9)
  | a, b => a == b

/-- Scalar fields of a word, by their low bits. -/
def scalarAt (raw : Nat) (los : List Nat) : List Nat := los.map fun lo => fld raw lo 5

/-- The scalar registers that a word names (07 R185 to R193). -/
def scalarNames (raw : Nat) : List Nat :=
  let f := fld raw 0 10
  match majorOf raw with
  | 0 => scalarAt raw (if f = 0x28 ∨ f = 0x29 then [20, 15] else [20, 15, 10])
  | 1 => scalarAt raw [20, 15]
  | 2 => scalarAt raw [20, 15]
  | 3 => scalarAt raw [20]
  | 4 => scalarAt raw [20]
  | 5 => scalarAt raw [20, 15]
  | 6 => scalarAt raw [20, 15]
  | 7 => scalarAt raw [20, 15]
  | 8 => scalarAt raw [20, 15]
  | 9 => scalarAt raw [20, 15]
  | 10 => scalarAt raw [20]
  | 11 => scalarAt raw [20, 15]
  | 13 => scalarAt raw (if [4, 9, 10].contains (fld raw 4 4) then [20, 15] else [20, 15, 10])
  | 14 => scalarAt raw (if fld raw 12 3 = 0 ∨ fld raw 12 3 = 2 then [15] else [20])
  | 22 => scalarAt raw (match fld raw 0 3 with
    | 1 => [15]
    | 2 => [10]
    | 3 => [10]
    | _ => [])
  | 23 => scalarAt raw [7]
  | 37 => scalarAt raw [7]
  | 38 => scalarAt raw [13]
  | 48 => scalarAt raw [13]
  | 49 => scalarAt raw [7]
  | 50 => scalarAt raw [13, 7]
  | 51 => scalarAt raw [19, 7]
  | 52 => scalarAt raw [20, 15, 10]
  | 53 => scalarAt raw [20, 15]
  | 54 => scalarAt raw (if fld raw 12 3 = 0 then [20] else [15])
  | 55 => scalarAt raw [15, 10]
  | 64 => scalarAt raw [13]
  | 68 => scalarAt raw [13]
  | 70 => scalarAt raw [19]
  | 82 => scalarAt raw (if fld raw 12 3 = 1 then [20] else [])
  | 83 => scalarAt raw [20, 15, 10]
  | 84 => scalarAt raw [20, 15]
  | 85 => scalarAt raw [20]
  | 86 => scalarAt raw [20, 15, 10]
  | 87 => scalarAt raw [20, 15, 10]
  | 88 => scalarAt raw [15, 10]
  | 89 => scalarAt raw [15, 10]
  | 90 => scalarAt raw (if fld raw 0 10 = 0 then [20, 15, 10] else [20])
  | 92 => scalarAt raw (if fld raw 12 3 = 0 then [20] else [15])
  | 96 => scalarAt raw [17]
  | 100 => if fld raw 21 1 = 0 then scalarAt raw [16] else []
  | 101 => scalarAt raw [17]
  | _ => []

/-- A six-bit V field: its low five bits and its high bit (07 R188). -/
def vField (raw lo hi : Nat) : Nat := fld raw lo 5 + 32 * fld raw hi 1

/-- The d, a and b fields of a V word of format A. -/
def vFields (raw n : Nat) : List Nat := [vField raw 20 9, vField raw 15 8, vField raw 10 7].take n

/-- The vector registers that a word names (07 R188). -/
def vectorNames (raw : Nat) : List Nat :=
  let op := fld raw 0 3
  match majorOf raw with
  | 16 => vFields raw (if 6 ≤ op then 2 else 3)
  | 17 => vFields raw 3
  | 18 => vFields raw 2
  | 19 => (vFields raw 3).drop 1
  | 20 => if op = 0 then vFields raw 3 else []
  | 21 => vFields raw 2
  | 22 => vFields raw (match op with
    | 0 => 3
    | 2 => 2
    | 3 => 2
    | 4 => 2
    | _ => 1)
  | 23 => if fld raw 0 4 % 2 = 0 then [fld raw 19 6] else [fld raw 13 6]
  | _ => []

/-- The predicate registers that a word names (07 R186, R188; 08 R220). -/
def predNames (raw : Nat) : List Nat :=
  let op := fld raw 0 3
  let m := fld raw 3 4
  let mask := if m = 0 then [] else [m]
  match majorOf raw with
  | 0 => if 0x40 ≤ fld raw 0 10 then [fld raw 0 4] else []
  | 14 => if fld raw 12 3 = 2 then [fld raw 20 5] else if fld raw 12 3 = 3 then [fld raw 15 5] else []
  | 16 => mask
  | 17 => mask
  | 18 => mask
  | 19 => vField raw 20 9 :: mask
  | 20 => mask ++ (if op = 0 then [] else vFields raw (if op = 4 then 2 else 3))
  | 21 => mask
  | 22 => mask
  | _ => []

/-- The tile operand fields of a word (07 R183, R188 to R191): handles, queues and accumulators. -/
def tileFields (raw : Nat) : List Nat :=
  let td := fld raw 19 6
  let ta := fld raw 13 6
  let tb := fld raw 7 6
  match majorOf raw with
  | 23 => if fld raw 0 4 % 2 = 0 then [ta] else [td]
  | 32 => [td, ta, tb]
  | 33 => [td, ta]
  | 34 => [td]
  | 35 => [td, ta]
  | 36 => [td, ta]
  | 37 => if fld raw 0 4 = 0 then [ta] else [td]
  | 39 => [td, ta]
  | 48 => [td]
  | 49 => [ta]
  | 50 => [td]
  | 51 => [ta]
  | 64 => [td]
  | 65 => [td]
  | 66 => [td, ta]
  | 67 => [td, ta]
  | 68 => [td]
  | 69 => [td]
  | 70 => [ta]
  | 71 => [td]
  | _ => []

/-- Handles that a word moves or steps (08 R220; 09 R257). -/
def handleNames (raw : Nat) : List Nat :=
  match majorOf raw with
  | 14 => if fld raw 12 3 = 0 then [fld raw 20 5] else if fld raw 12 3 = 1 then [fld raw 15 5] else []
  | 100 => if fld raw 21 1 = 1 then [fld raw 16 5] else []
  | _ => []

/-- What a tile field names: a handle with its entry, a queue, an accumulator. -/
def tileRes (th : Thread) (n : Nat) : List Res :=
  if n < 32 then [.handle n, .entry (th.entryOf n)]
  else if n < 48 then [.queue (n - 32)]
  else if n < 56 then [.acc (n - 48)]
  else []

/-- Which counter a word raises (01 R50). -/
def countsIn (raw : Nat) : Option CounterName :=
  match majorOf raw with
  | 5 => some .ld
  | 6 => some .ld
  | 7 => some .st
  | 8 => some .st
  | 86 => some .ld
  | 87 => some .ld
  | 88 => some .st
  | 89 => some .st
  | 54 => none
  | _ => if engineOf raw = 3 then some .cp else if engineOf raw = 2 ∨ engineOf raw = 4 then some .tl else none

/-- System registers that a word reads or writes by name, or changes (12 R345): a branch word appends an outcome, which CUR_WIN
counts (01 R39). -/
def sysRes (raw : Nat) : List Res :=
  let m := majorOf raw
  let fp := m = 13 ∨ [16, 18, 19, 21, 22, 23, 32, 33, 36, 87].contains m
  let sr := [16, 23, 33, 36].contains m
  let count := match countsIn raw with
    | some _ => [Res.sys 1 false]
    | none => []
  if m = 92 then
    let r := fld raw 0 12
    if 0x110 ≤ r ∧ r < 0x120 then [.queue (r - 0x110)] else [.sys r true]
  else count ++ (if fp then [Res.sys 0 false] else []) ++ (if sr then [Res.sys 9 false] else [])
    ++ (if engineOf raw = 3 then [Res.sys 2 false] else []) ++ (if isBranchMajor raw then [Res.sys 0x100 false] else [])

/-- The registers that a `lend` steps (09 R256, R257). -/
def strideRes (levels : List Level) (raw : Nat) : List Res :=
  if majorOf raw = 97 then
    (nth Level.blank levels (fld raw 22 3)).slots.map fun x => if x.1 then Res.handle x.2.1 else Res.scalar x.2.1
  else []

/-- The common resources of a word at a place on the path of an array task (01 R35, R42). Register s0, which no word
changes, orders nothing. -/
def resOf (th : Thread) (levels : List Level) (base raw : Nat) : List Res :=
  ((scalarNames raw).filter (· != 0)).map .scalar ++ (vectorNames raw).map (fun n => .vector (rotV base n))
    ++ (predNames raw).map (fun n => .pred (rotP base n)) ++ (handleNames raw).map .handle
    ++ (tileFields raw).flatMap (tileRes th) ++ sysRes raw ++ strideRes levels raw
    ++ (if [32, 36].contains (majorOf raw) || (majorOf raw == 23 && fld raw 0 4 == 2) then [.book false] else [])
    ++ (if majorOf raw = 38 then [.book true] else [])

/-- A word accesses memory or local store (12 R322). -/
def touchesMemory (raw : Nat) : Bool :=
  let m := majorOf raw
  ([5, 6, 7, 8, 23, 64, 66, 67, 85, 86, 87, 88, 89].contains m)
    || (engineOf raw == 2 && m != 34) || (engineOf raw == 3 && m != 54)

/-- A word that holds back later accesses until it has completed: a fence, an acquire load, `dwait` (11 R306; 12 R322; 06
R163). -/
def holdsLater (raw : Nat) : Bool :=
  let m := majorOf raw
  m == 80 || m == 6 || (m == 54 && fld raw 12 3 == 1)

/-- A word whose effect takes in every access before it on the path: a fence or a release store (06 R163, 12 R322). -/
def takesEarlier (raw : Nat) : Bool := majorOf raw == 80 || majorOf raw == 8

/-- `wcnt` (12 R323). -/
def isWcnt (raw : Nat) : Bool := majorOf raw == 81

/-- A word at which every cursor gathers before the Y cursor executes it: `eret`, and `syswr` of ROT_BASE (12 R342, 01
R42). -/
def isGather (raw : Nat) : Bool := raw == 0xB6004000 || (majorOf raw == 92 && fld raw 12 3 == 1 && fld raw 0 12 == 0x101)

/-! ### The path of an array task -/

/-- The marks in force at a cursor hold, by the iteration state of its latest outcome (09 R258). -/
def marksHold (x : CursorSt) : Bool :=
  x.marks.all fun m =>
    let it := nth { active := false, trip := 0, iter := 0 } x.iters m.level
    if m.last then it.iter + 1 == it.trip else it.iter == 0

/-- The cursor stands inside a body of level 0 (09 R260). -/
def inBody (x : CursorSt) : Bool := (nth { active := false, trip := 0, iter := 0 } x.iters 0).active

/-- The word where a cursor stands: one that another cursor has reached before, whose address every cursor checks again, a
replayed word of the level-0 body, or one that is fetched (07 R197; 09 R260). After `eret` the S cursor may stand elsewhere than it did (12 R342). -/
def pathWord (s : State) (c : Nat) (t : Task) (cur : Cursor) : Except Cause (Task × PathEntry) :=
  let x := t.cursors.get cur
  let kept := if inBody x then mapGet? x.pc.toNat t.replay else none
  match t.path.find? fun e => e.step == x.step && e.pc == x.pc with
  | some e =>
    (match (if inBody x then .ok 0 else fetchAddr s t.info x.pc) with
      | .error cause => .error cause
      | .ok _ => .ok (t, e))
  | none =>
    let got : Except Cause Nat := match kept with
      | some w => .ok w
      | none => fetchRaw s (portOfCore .array c) t.info x.pc
    match got with
    | .error cause => .error cause
    | .ok raw =>
      let e : PathEntry := { step := x.step, pc := x.pc, raw := raw, skip := !marksHold x, base := x.base }
      let replay := if inBody x then mapSet x.pc.toNat raw t.replay else []
      .ok ({ t with path := t.path ++ [e], replay := replay }, e)

/-- A word on the path that has not issued: its own cursor has not passed it, and no mark makes it pass. -/
def Task.unissued (t : Task) (e : PathEntry) : Bool :=
  let x := t.cursors.get (ownerOf e.raw)
  !e.skip && (decide (x.step < e.step) || (x.step == e.step && x.pc == e.pc))

/-- The words before a step on the path that have not issued. -/
def Task.before (t : Task) (n : Nat) : List PathEntry := t.path.filter fun e => decide (e.step < n) && t.unissued e

/-- Some word before a step gives a handle a value, and a later one before that step uses it: entries are not known
yet. -/
def entriesOpen (es : List PathEntry) : Bool :=
  es.any fun h => majorOf h.raw == 14 && (handleNames h.raw).any fun n =>
    es.any fun e => decide (h.step < e.step) && (tileFields e.raw).contains n

/-- A word names a tile by a handle. -/
def usesHandle (raw : Nat) : Bool := (tileFields raw).any fun n => decide (n < 32)

/-- No word before this one on the path that has not issued shares a resource with it (01 R35). -/
def resourcesFree (k : ArrayCore) (t : Task) (es : List PathEntry) (e : PathEntry) : Bool :=
  let mine := resOf k.th t.levels e.base e.raw
  !(usesHandle e.raw && entriesOpen es)
    && es.all fun x => (resOf k.th t.levels x.base x.raw).all fun r => mine.all fun m => !r.clash m

/-- A load or atomic of an agent whose value has not returned writes one of these registers (08 R222). -/
def awaitsLoad (s : State) (a : Agent) (ps : List Nat) : Bool :=
  s.flight.any fun f => f.agent == a && f.counted && (match f.dest with
    | some p => p != 0 && ps.contains p
    | none => false)

/-- An acquire or a fence of an agent that has issued and not completed (06 R163, 12 R322). -/
def heldBack (s : State) (a : Agent) : Bool :=
  s.flight.any fun f => f.agent == a && (f.kind.isFence || (f.acq && !performedAt s.flight f.scope f))

/-- The scalar registers that a word reads or writes: those it names, and those that a `lend` steps (08 R222, 09 R257). -/
def scalarsUsed (levels : List Level) (raw : Nat) : List Nat :=
  scalarNames raw ++ (strideRes levels raw).filterMap fun r => match r with
    | .scalar n => some n
    | _ => none

/-- The order of memory along the path (11 R306; 12 R322; 06 R163). -/
def memoryFree (s : State) (c : Nat) (es : List PathEntry) (raw : Nat) : Bool :=
  (!touchesMemory raw || (es.all (fun x => !holdsLater x.raw) && !heldBack s (.task c)))
    && (!takesEarlier raw || es.all fun x => !touchesMemory x.raw)

/-- The counter of a word has room (01 R51). -/
def counterFree (c : Counters) (raw : Nat) : Bool :=
  match countsIn raw with
  | some n => decide (c.get n < 63)
  | none => true

/-- An array task's word may issue at its place on the path. -/
def mayIssueArray (s : State) (c : Nat) (k : ArrayCore) (t : Task) (e : PathEntry) : Bool :=
  let es := t.before e.step
  resourcesFree k t es e && memoryFree s c es e.raw && counterFree t.cnt e.raw
    && !awaitsLoad s (.task c) (scalarsUsed t.levels e.raw)
    && (!isWcnt e.raw || es.all fun x => (countsIn x.raw).isNone)
    && (!isBranchMajor e.raw || decide (t.outq.length < 64))

/-- The innermost active level ends at a word that is not its `lend` (09 R256). -/
def badEnd (t : Task) (pc : Word) (raw : Nat) : Bool :=
  let d := (t.levels.takeWhile (·.active)).length
  decide (0 < d) && (nth Level.blank t.levels (d - 1)).stop == pc && raw != 0xC2000000 + (d - 1) * 0x400000

/-- A cursor waits behind a `wcnt` that has not completed (12 R323). -/
def behindWcnt (t : Task) (n : Nat) : Bool := (t.before n).any fun e => isWcnt e.raw

/-- The limit in force for a word of the S cursor: a write of CUR_WIN further on in the path does not count yet (12 R345). -/
def limitAt (k : ArrayCore) (t : Task) (n : Nat) : Nat := ((t.limits.find? fun x => decide (n ≤ x.1)).map (·.2)).getD k.limit

/-- The slip window (01 R38): the S cursor passes a word only inside it. -/
def inWindowLimit (k : ArrayCore) (t : Task) (cur : Cursor) : Bool :=
  cur != Cursor.S || decide (t.cursors.s.step - t.cursors.least < limitAt k t t.cursors.s.step)

/-- What a cursor does at a word. -/
inductive Move where
  | wait
  | pass
  | mark (level : Nat) (last : Bool) (n : Nat)
  | take
  | stop
  | fault (c : Cause)
  | issue (i : Instr)
  deriving DecidableEq, Repr

/-- The words that only lane cores have (07 R194). -/
def laneOnly (raw : Nat) : Bool := majorOf raw == 82 || majorOf raw == 83 || majorOf raw == 84

/-- A word that user mode may not run: `eret`, or a system register of privileged mode (07 R195, 12 R346). -/
def needsPriv (i : Instr) : Bool :=
  match i with
  | .eret => true
  | .sysrd _ r => isPrivReg r
  | .syswr _ r => isPrivReg r
  | _ => false

/-- A word that names a system register which array cores do not have (12 R345). -/
def namesNoReg (i : Instr) : Bool :=
  match i with
  | .sysrd _ r => !assigned .array r
  | .syswr _ r => !assigned .array r
  | _ => false

/-- The rows of R195 that a decoded word of an array task fails (07 R195, R196 step 3): the word of the other core kind, an
operand field, the mode. -/
def failedRow (priv : Bool) (raw : Nat) (i : Instr) : Option Cause :=
  if laneOnly raw then some .illegalInstruction
  else if !i.wellFormed || namesNoReg i then some .illegalOperand
  else if needsPriv i && !priv then some .privilege
  else none

/-- A word stands where the loop sequencer allows none (09 R256, R258): at the end of the innermost level, or under a mark. -/
def badPlace (t : Task) (cur : Cursor) (e : PathEntry) : Bool :=
  ((t.cursors.get cur).taken == t.cursors.s.taken && badEnd t e.pc e.raw)
    || (cur == Cursor.S && t.cursors.s.marks != [] && (isLoopWord e.raw || isBranchMajor e.raw))

/-- What a cursor does at a word of another engine (01 R34, R36; 07 R197; 12 R344). -/
def foreignMove (t : Task) (cur : Cursor) (e : PathEntry) : Move :=
  if isBranchMajor e.raw then (if t.mayTake cur then .take else .wait)
  else match decodeWord e.raw with
    | .error _ => .pass
    | .ok i =>
      if e.skip || !i.wellFormed then .pass
      else match i with
        | .lfirst lvl n => .mark lvl.toNat false (n.toNat + 1)
        | .llast lvl n => .mark lvl.toNat true (n.toNat + 1)
        | .halt => .stop
        | _ => if isGather e.raw && t.unissued e then .wait else .pass

/-- What a cursor does where it stands: the checks of R196 in their order, those of rows 3 to 8 of R195 by the word's own
cursor alone, also at a word that a mark makes it pass (07 R197, 09 R258). -/
def moveOf (s : State) (c : Nat) (k : ArrayCore) (t : Task) (cur : Cursor) (e : PathEntry) : Move :=
  let own := ownerOf e.raw == cur
  match notAWord .array e.raw with
  | some cause => .fault cause
  | none =>
    if behindWcnt t e.step || !inWindowLimit k t cur then .wait
    else match decodeWord e.raw with
      | .error r => if own then .fault (rejectCause r) else foreignMove t cur e
      | .ok i =>
        let bad := badPlace t cur e
        match (if bad || e.skip then failedRow t.info.priv e.raw i else none) with
        | some cause => if own then .fault cause else foreignMove t cur e
        | none =>
          if bad then .fault .loopStructure
          else if !own then foreignMove t cur e
          else if e.skip then .pass
          else if mayIssueArray s c k t e then .issue i else .wait

/-- The units of a core may issue: its chiplet's port runs, in power state 0 (16 R394, 19 R452). -/
def coreAwake (s : State) (kind : CoreKind) (c : Nat) : Bool :=
  (s.port (portOfCore kind c)).st == PortSt.running && (s.port (portOfCore kind c)).pstate == 0

/-- A step of a cursor of an array task. -/
def stepArray (s : State) (c : Nat) (cur : Cursor) : Answer :=
  match (if coreAwake s .array c then runningTask s c cur else none) with
  | none => .next s
  | some (k, t) =>
    match pathWord s c t cur with
    | .error cause =>
      let pc := (t.cursors.get cur).pc
      .next (arrayException s c cur cause pc 0 pc.toNat pc)
    | .ok (t1, e) =>
      let put (t : Task) : State := s.setArray c { k with task := some t }
      match moveOf s c k t1 cur e with
      | .wait => .next (put t1)
      | .pass => .next (put (t1.pass cur (e.pc + 4)))
      | .mark l last n => .next (put ((t1.mark cur l last n).pass cur (e.pc + 4)))
      | .take => .next (put (t1.take cur))
      | .stop => .next (put { t1 with cursors := t1.cursors.set cur { t1.cursors.get cur with halted := true } })
      | .fault cause => .next (arrayException (put t1) c cur cause 0 0 0 e.pc)
      | .issue i => exec i (put t1)

/-! ### Issue groups of a lane core -/

/-- A thread of a group waits for a load that a word's registers depend on (08 R222); a window word waits for every load
to a windowed register. -/
def laneAwaits (s : State) (c slot : Nat) (ring : Nat) (w : Warp) (raw : Nat) (l : Nat) : Bool :=
  match mapGet? l w.threads with
  | none => false
  | some t =>
    let ps := (scalarNames raw).map fun n => t.phys ring (BitVec.ofNat 5 n)
    awaitsLoad s (.lane c slot l) (if majorOf raw = 12 then upFrom 32 ring else ps)

/-- A word whose engine reads or writes memory for the thread: it waits for an open fence or acquire of the thread, since
its accesses are made outside the queue of the thread's own (10 R281, 12 R322). -/
def engineMemory (raw : Nat) : Bool := touchesMemory raw && (engineOf raw == 2 || engineOf raw == 3)

/-- A word of a group may issue. -/
def mayIssueLane (s : State) (c slot : Nat) (k : LaneCore) (w : Warp) (group : List Nat) (raw : Nat) : Bool :=
  counterFree w.cnt raw && group.all fun l =>
    !laneAwaits s c slot (ringOf k.code) w raw l && !(engineMemory raw && heldBack s (.lane c slot l))

/-- A precise fault of every thread of a group. -/
def groupFault (group : List Nat) (cause : Cause) (a : Word) : List LaneFault :=
  group.map fun l => { lane := l, cause := cause, value := a, code := 0, addr := a.toNat }

/-- The marks of an aged group removed once it has issued (01 R23). -/
def unage (s : State) (c slot : Nat) (group : List Nat) : State :=
  let k := s.lane c
  s.setLane c { k with warps := mapUpdate slot (fun w => { w with aged := w.aged.filter fun x => !group.contains x.2 }) k.warps }

/-- A step of the issue group of a thread. -/
def stepGroup (s : State) (c slot lane : Nat) : Answer :=
  match (if coreAwake s .lane c then runningGroup s c slot lane else none) with
  | none => .next s
  | some (k, w, g, group) =>
    let pc := groupPc w group
    match fetchRaw s (portOfCore .lane c) g.info pc with
    | .error cause => .next (laneException s c slot group pc pc (groupFault group cause pc))
    | .ok raw =>
      match notAWord .lane raw with
      | some cause => .next (laneException s c slot group pc pc (groupFault group cause 0))
      | none => match decodeWord raw with
        | .error r => .next (laneException s c slot group pc pc (groupFault group (rejectCause r) 0))
        | .ok i => if mayIssueLane s c slot k w group raw then exec i s else .next s

/-- The groups of a lane core that are aged, each with the time of its mark, its slot and its lane. -/
def agedGroups (k : LaneCore) : List (Nat × Nat × Nat) := k.warps.flatMap fun w => w.2.aged.map fun x => (x.1, w.1, x.2)

/-- A group put among others, the oldest first. -/
def insertAged (x : Nat × Nat × Nat) : List (Nat × Nat × Nat) → List (Nat × Nat × Nat)
  | [] => [x]
  | y :: rest => if x.1 ≤ y.1 then x :: y :: rest else y :: insertAged x rest

/-- The step changed the warp in a slot: its group issued. -/
def issued (s t : State) (c slot : Nat) : Bool := decide (mapGet? slot (s.lane c).warps ≠ mapGet? slot (t.lane c).warps)

/-- The first of some groups that issues, and what it does; its mark is gone then (01 R23). -/
def firstAged (s : State) (c : Nat) : List (Nat × Nat × Nat) → Option Answer
  | [] => none
  | (_, slot, lane) :: rest =>
    match stepGroup { s with sel := .lane c slot lane } c slot lane with
    | .next t =>
      if issued s t c slot then
        some (.next (unage t c slot ((mapGet? slot (s.lane c).warps).elim [] fun w => groupOf w lane)))
      else firstAged s c rest
    | r => some r

/-- A step of a lane core for which the scheduler has named a group: an aged group that can issue is picked before it, the
oldest first (01 R20, R23). -/
def stepLane (s : State) (c slot lane : Nat) : Answer :=
  match firstAged s c ((agedGroups (s.lane c)).foldr insertAged []) with
  | some r => r
  | none => stepGroup { s with sel := .lane c slot lane } c slot lane

/-! ### A step of the machine -/

/-- A step of the agent that is selected. -/
def stepAgent (s : State) : Answer :=
  match s.sel with
  | .array c cur => stepArray s c cur
  | .lane c slot lane => stepLane s c slot lane

/-- An instruction word, which comes from memory and never from outside. -/
def isWord (i : Instr) : Bool := (encode i).isSome

/-- Fabric time moved on by what passes before a step, as far as it is not held (21 R475). -/
def advanceTime (s : State) : State :=
  match s.elapsed with
  | [] => s
  | n :: rest =>
    let hold := min n s.hub.ftHold
    { s with time := s.time + (n - hold), elapsed := rest }.onHub fun h => { h with ftHold := h.ftHold - hold }

/-- The scheduler's choice for a step. -/
def chooseAgent (s : State) : State :=
  match s.sched with
  | [] => s
  | x :: rest => { s with sel := x, sched := rest }

/-- One step: the event that comes next, or else a word of the agent that the scheduler picks. -/
def stepMachine (s : State) : Answer :=
  let s1 := runCaches (advanceTime s)
  match s1.inputs with
  | i :: rest =>
    let s2 := { s1 with inputs := rest }
    if isWord i then .next s2 else exec i s2
  | [] => stepAgent (chooseAgent s1)

/-! ### A word placed for the next step (log entry 7) -/

/-- The tables, the text page and its virtual address that a placed word uses. -/
def placedPage : Nat := 0x6000

/-- The launch record of a placed word: its text is the word alone. -/
def placedRecord : LaunchRec :=
  { textBase := word placedPage, textLimit := word (placedPage + 4), variants := [], argPtr := 0, gotBase := 0, schedPtr := 0,
    stackBase := 0, spillBase := 0, initPtr := 0, wbind := 0, stackSize := 0, spillSize := 0, ttCount := 0, binTimer := 0,
    seed := 0, qbMask := 0, qbDir := 0, wgThreads := 1, scratch := 8192, mergeThr := 0, split := 0, replaySafe := false,
    priv := false, slots := [] }

/-- The unit that runs a placed word. -/
def placedInfo : UnitInfo :=
  { world := 0, job := 0, launch := 0, priv := false, launchId := 0, code := 0, record := placedRecord, pin := none }

/-- Memory with the word and the five table levels that map its page, executable, for world 0 (16 R404). -/
def placeMemory (s : State) (raw : Nat) : Memory :=
  let entry (m : Memory) (table index target flags : Nat) : Memory :=
    writeNat m (s.home (table + 8 * index)) 8 (s.home target + flags)
  let m0 := writeNat s.mem (s.home placedPage) 4 raw
  let m1 := entry m0 0x1000 0 0x2000 1
  let m2 := entry m1 0x2000 0 0x3000 1
  let m3 := entry m2 0x3000 0 0x4000 1
  let m4 := entry m3 0x4000 0 0x5000 1
  entry m4 0x5000 (placedPage / 4096) placedPage 0b1011

/-- The module with nothing pending, the word in memory and the chiplet of a core running. -/
def placeCommon (s : State) (raw : Nat) (kind : CoreKind) (sel : Sel) : State :=
  let p := portOfCore kind 0
  let s1 := s.setPort p { s.port p with st := .running, pstate := 0 }
  { s1.onHub fun h => { h with roots := mapSet 0 (word (s.home 0x1000 + 1)) h.roots } with
      mem := placeMemory s raw, poison := [], merge := [], acts := [], pages := [], lines := [], kept := [], inputs := [], sched := [], elapsed := [], sel := sel }

/-- A word placed where the next step fetches it: a one-word task on array core 0, with the word's cursor selected, or for
a word of lane cores a one-thread warp in slot 0 of lane core 0. -/
def placeWord (s : State) (raw : Nat) : State :=
  if laneOnly raw then
    let s1 := placeCommon s raw .lane (.lane 0 0 0)
    let k := s1.lane 0
    let w := newWarp [(0, { Thread.blank with pc := word placedPage })] false 0 0
    let g : Workgroup := { info := placedInfo, scrBase := 0, scrSize := 8192, tiles := [], first := 0, pair := none, released := false }
    s1.setLane 0 { k with warps := [(0, w)], wgs := [(0, g)], sealing := false, saving := false }
  else
    let s1 := placeCommon s raw .array (.array 0 (ownerOf raw))
    let k := s1.array 0
    let levels := List.replicate 6 Level.blank
    let t := { startTask placedInfo 0 [] with cursors := Cursors.at (word placedPage) k.rotBase (itersOf levels) }
    s1.setArray 0 { k with task := some t, sealing := false, saving := false }

end Sys2Proof.Machine
end

