-- ==== Sys2Proof/Machine/Step.lean ====
section
/-! DEFINITION. The step of the machine, and a word placed for the next step. -/

namespace Sys2Proof.Machine

/-- One step of the module: an event from outside or of an asynchronous part, or one word. -/
def step : State → Host.Outcome State Fault Refusal
  | s => stepMachine s

/-- The state with a word stored where the next step fetches (log entry 7). Every word has 32 bits. -/
def State.withFetchWord (s : State) (_nbits w : Nat) : State := placeWord s w

end Sys2Proof.Machine
end

