-- ==== Sys2Proof/Safety.lean ====
section
/-! DEFINITION. The terms in which claims are stated: what counts as a safe run, the invariant of the memory, and the
next state of a word that completes: for the threads of an issue group or the task (`State.ran`), for a word that one
agent issues for its unit (`State.issuer`, `Issuer.passed`), and for a word that makes accesses (`State.accessed`). -/

namespace Sys2Proof.Machine

/-- A step answers a next state. -/
def State.Goes (s : State) : Prop := ∃ t, step s = .next t

/-- The storage that a saved context holds is in its canonical form. -/
def Saved.StoreOk (v : Saved) : Prop :=
  (∀ k, v.task = some k → k.localStore.wf = true) ∧ (∀ k, v.lane = some k → k.scratch.wf = true)

/-- The memory of the module is in its canonical form, and so is the storage of every core and of every saved context. -/
def State.MemoryOk (s : State) : Prop :=
  s.mem.wf = true ∧ (∀ k ∈ s.arrays, k.2.localStore.wf = true) ∧ (∀ k ∈ s.lanes, k.2.scratch.wf = true)
    ∧ ∀ v ∈ s.hub.saved, v.StoreOk

/-- A run of `n` steps is safe: every step of it answers a next state. -/
def SafeFor : Nat → State → Prop
  | 0, _ => True
  | n + 1, s => ∃ t, step s = .next t ∧ SafeFor n t

/-- The byte that the module's memory holds at an address. -/
def State.byte (s : State) (a : Nat) : Byte := readByte s.mem a

/-- Two states hold the same but for lane core `c`. -/
def State.onlyLane (s t : State) (c : Nat) : Prop := t = { s with lanes := t.lanes } ∧ ∀ d, d ≠ c → t.lane d = s.lane d

/-- Two states hold the same but for array core `c`. -/
def State.onlyArray (s t : State) (c : Nat) : Prop := t = { s with arrays := t.arrays } ∧ ∀ d, d ≠ c → t.array d = s.array d

/-! ### A word that each thread runs on its own registers -/

/-- Every thread of a group has run a word: its thread after it, at the next word or at a target. -/
def allDone (f : Ctx → Thread → Thread × Option Word) (x : Ctx) (w : Warp) : List Nat → Warp
  | [] => w
  | l :: rest =>
    match mapGet? l w.threads with
    | none => allDone f x w rest
    | some t =>
      let r := f { x with lane := l } t
      allDone f x { w with threads := mapSet l { r.1 with pc := r.2.getD (t.pc + 4) } w.threads } rest

/-- The next state of a word that each thread of the selected issue group, or the selected task, runs on its own
registers; none where no running unit stands at it. `branch` marks a branch word. -/
def State.ran (s : State) (branch : Bool) (f : Ctx → Thread → Thread × Option Word) : Option State :=
  match s.sel with
  | .lane c slot lane =>
    (runningGroup s c slot lane).map fun x =>
      s.setLane c { x.1 with warps := mapSet slot (allDone f (laneCtx x.1 c slot lane x.2.2.1) x.2.1 x.2.2.2) x.1.warps }
  | .array c .S =>
    (runningTask s c .S).map fun x =>
      let pc := x.2.cursors.s.pc
      let r := f (taskCtx x.1 c x.2 .S) { x.1.th with pc := pc }
      let next := r.2.getD (pc + 4)
      let t1 := if branch then (x.2.leave r.2).branch (x.2.baseAt .S) next else x.2.pass .S next
      s.setArray c { x.1 with th := { r.1 with pc := x.1.th.pc }, task := some t1 }
  | .array _ _ => none

/-- A word that writes s[d] and goes on. -/
def setting (d : BitVec 5) (v : Ctx → Thread → Word) : Ctx → Thread → Thread × Option Word :=
  fun x t => (t.setReg x.ring d (v x t), none)

/-- The state in which the threads of the selected issue group, or the selected task, have taken the fault that `f` names
for each, with the address of its record; none where no running unit stands at the word. -/
def State.faulted (s : State) (cur : Cursor) (f : Ctx → Thread → Cause × Word) : Option State :=
  match s.sel with
  | .lane c slot lane =>
    (runningGroup s c slot lane).map fun x =>
      let pc := groupPc x.2.1 x.2.2.2
      laneException s c slot x.2.2.2 pc pc (x.2.2.2.filterMap fun l => (mapGet? l x.2.1.threads).map fun t =>
        let r := f { laneCtx x.1 c slot lane x.2.2.1 with lane := l } t
        { lane := l, cause := r.1, value := r.2, code := 0, addr := r.2.toNat })
  | .array c cur' =>
    if cur' = cur then
      (runningTask s c cur).map fun x =>
        let pc := (x.2.cursors.get cur).pc
        let r := f (taskCtx x.1 c x.2 cur) { x.1.th with pc := pc }
        arrayException s c cur r.1 r.2 0 r.2.toNat pc
    else none

/-- A word whose fault is the same for every thread and has no address. -/
def refusing (c : Cause) : Ctx → Thread → Cause × Word := fun _ _ => (c, 0)

/-! ### Results of the floating-point words -/

/-- An arithmetic result rounded to the type, with its flags. -/
def fpRounded (ft : FType) (rm : Nat) (r : FRes) : Nat × Flag := let o := finishF (fmtOf ft) rm r; (o.bits, o.flags)

/-- A result that is already in its format. -/
def fpBits (r : Rounded) : Nat × Flag := (r.bits, r.flags)

/-- A comparison, as the word 1 or 0. -/
def fpTruth (r : Bool × Flag) : Nat × Flag := (if r.1 then 1 else 0, r.2)

/-- An integer result, as a 64-bit word. -/
def fpInt (r : Int × Flag) : Nat × Flag := ((wordOfInt r.1).toNat, r.2)

/-- An integer as an exact arithmetic result. -/
def fpExact (v : Int) : FRes := { val := ofInt v, flags := noFlag }

/-! ### A word that one agent issues for its unit -/

/-- The agent of the word at which the selected unit stands: the elected thread of an issue group, or an array task at a
cursor; none where no running unit stands there. -/
def State.issuer (s : State) (cur : Cursor) : Option Issuer :=
  match s.sel with
  | .lane c slot lane => (runningGroup s c slot lane).map fun x => laneIssuer x.1 c slot x.2.1 x.2.2.1 x.2.2.2
  | .array c cur' => if cur' = cur then (runningTask s c cur).map fun x => arrayIssuer x.1 c x.2 cur else none

/-- The state with the agent's unit past the word. -/
def Issuer.passed (x : Issuer) (cur : Cursor) (s : State) : State :=
  match x.kind with
  | .lane =>
    let k := s.lane x.core
    s.setLane x.core { k with warps := mapUpdate x.slot (fun w => advanceGroup w x.pc x.group) k.warps }
  | .array =>
    let k := s.array x.core
    s.setArray x.core { k with task := k.task.map fun t => t.pass cur (x.pc + 4) }

/-- The state in which the agent's unit has taken a precise fault of the word, with the address and the code of its
record. -/
def Issuer.trapped (x : Issuer) (cur : Cursor) (s : State) (cause : Cause) (a code : Nat) : State :=
  match x.kind with
  | .lane => laneException s x.core x.slot x.group x.pc x.pc
      [{ lane := x.lane, cause := cause, value := word a, code := code, addr := a }]
  | .array => arrayException s x.core cur cause (word a) code a x.pc

/-- Every check passes. -/
def allPass (cs : List Check) : Bool := cs.all (·.ok)

/-- The first check that fails. -/
def firstBad (cs : List Check) : Option Check := cs.find? fun c => !c.ok

/-- The ranges of a copy command may be accessed, and its pins fit: at most 512 pages, each part reachable with its
permission, at most 512 pins held (11 R292, 04 R123). -/
abbrev rangesPass (s : State) (x : Issuer) (gs : List Seg) : Prop :=
  (pagesOf gs).length ≤ 512 ∧ firstFault (pagePlace s x.info) (gs.filter fun g => g.page.isSome) = none ∧
  firstFault (aperturePlace s x) (gs.filter fun g => g.page.isNone) = none ∧ pinned s x + (pinsOf s x gs).length ≤ 512

/-- The fault of a copy command's ranges, with its address, in the order of 11 R292; none where they pass. -/
def rangeFault (s : State) (x : Issuer) (gs : List Seg) : Option (Cause × Nat) :=
  if 512 < (pagesOf gs).length then some (.copyRange, 0)
  else (firstFault (pagePlace s x.info) (gs.filter fun g => g.page.isSome)).or
    (firstFault (aperturePlace s x) (gs.filter fun g => g.page.isNone))

/-! ### A word that makes accesses -/

/-- The accesses in flight that a word leaves, numbered from `id` on; `grp` names the word. -/
def flightsOf (grp : Nat) : Nat → List Ask → List Flight
  | _, [] => []
  | id, q :: rest =>
    match q.target with
    | .ok t => flightOf q t id grp .issued 0 noFlag :: flightsOf grp (id + 1) rest
    | .error _ => flightsOf grp id rest

/-- The accesses that a word makes: one for each thread of the selected group, or one for the task at a cursor. -/
def State.asks (s : State) (cur : Cursor) (f : Ctx → Thread → Except Cause MemOp) : Option (List Ask) :=
  match s.sel with
  | .lane c slot lane =>
    (runningGroup s c slot lane).map fun x => laneAsks s x.1 c slot x.2.1 x.2.2.1 (groupPc x.2.1 x.2.2.2) f x.2.2.2
  | .array c cur' =>
    if cur' = cur then
      match runningTask s c cur with
      | none => none
      | some (k, t) => match f (taskCtx k c t cur) k.th with
        | .error _ => none
        | .ok m => match memTarget s (taskCtx k c t cur) 0 m with
          | .error _ => none
          | .ok tg => some [taskAsk t c cur (t.cursors.get cur).pc m tg]
    else none

/-- Every access of a word goes to plain storage: none raises a fault, none is made at once in a tile table or a
window. -/
def plainAsks (s : State) (qs : List Ask) : Bool :=
  qs.all fun q => match q.target with
    | .error _ => false
    | .ok t => match q.agent with
      | .lane c _ _ => !isNow s .lane c t
      | _ => true

/-- The next state of a word whose accesses `qs` all go to plain storage: they are in flight, the counter of the word
counts it, and the unit is past it. -/
def State.accessed (s : State) (cur : Cursor) (qs : List Ask) : State :=
  let s1 := { s with flight := s.flight ++ flightsOf s.nextId s.nextId qs, nextId := s.nextId + qs.length }
  match s.sel with
  | .lane c slot lane =>
    match runningGroup s c slot lane with
    | none => s
    | some (_, w, _, group) =>
      let k := s1.lane c
      let s2 := s1.setLane c
        { k with warps := mapUpdate slot (fun y => advanceGroup y (groupPc w group) group) k.warps }
      countUp s2 .lane c slot (counterOf (asksKind qs))
  | .array c _ =>
    match runningTask s c cur with
    | none => s
    | some (k, t) =>
      countUp (s1.setArray c { k with task := some (t.pass cur ((t.cursors.get cur).pc + 4)) }) .array c 0
        (counterOf (asksKind qs))

/-- The state after the one access of a word that is made at issue, in a tile table or a window (04 R119, R120): it is
done, its value returns later, and the unit is past the word. -/
def State.accessedNow (s : State) (q : Ask) (tg : Target) : State :=
  match s.sel with
  | .lane c slot lane =>
    match runningGroup s c slot lane with
    | none => s
    | some (_, w, _, group) =>
      let (r, v, fl) := makeNow s .lane c q.origin.world tg q.op
      let s1 := { r.state with flight := r.state.flight ++ [flightOf q tg s.nextId s.nextId .applied v fl],
                               nextId := s.nextId + 1 }
      let k := s1.lane c
      countUp (s1.setLane c
        { k with warps := mapUpdate slot (fun y => advanceGroup y (groupPc w group) group) k.warps }) .lane c slot
        (counterOf q.op.kind)
  | _ => s

/-- The faults of accesses that are not made, in lane order. -/
def askFaults (qs : List Ask) : List LaneFault :=
  qs.filterMap fun q => match q.target with
    | .error e => some { lane := q.lane, cause := e, value := q.op.addr, code := 0, addr := q.op.addr.toNat }
    | .ok _ => none

/-- The state in which the selected unit has taken the faults of a word's accesses: of a group, each thread whose access
faults, and no access is made; none where every access may be made or one is made at issue. -/
def State.accessTrap (s : State) (cur : Cursor) (f : Ctx → Thread → Except Cause MemOp) : Option State :=
  match s.sel with
  | .lane c slot lane =>
    match runningGroup s c slot lane with
    | none => none
    | some (k, w, g, group) =>
      let pc := groupPc w group
      let qs := laneAsks s k c slot w g pc f group
      let atIssue := qs.any fun q => match q.target with
        | .error _ => false
        | .ok t => isNow s .lane c t
      if askFaults qs = [] ∨ atIssue then none else some (laneException s c slot group pc pc (askFaults qs))
  | .array c cur' =>
    if cur' = cur then
      match runningTask s c cur with
      | none => none
      | some (k, t) =>
        let pc := (t.cursors.get cur).pc
        match f (taskCtx k c t cur) k.th with
        | .error e => some (arrayException s c cur e 0 0 0 pc)
        | .ok m => match memTarget s (taskCtx k c t cur) 0 m with
          | .error e => some (arrayException s c cur e m.addr 0 m.addr.toNat pc)
          | .ok _ => none
    else none

/-- The plain loads and stores, with the access that each makes for a thread (08 R221). -/
def plainAccesses (d a : BitVec 5) (imm : BitVec 12) : List (Instr × (Ctx → Thread → MemOp)) :=
  let off := imm.signExtend 64
  [(.ldB d a imm, loadOp 1 true false 0 d a off), (.ldBu d a imm, loadOp 1 false false 0 d a off),
   (.ldH d a imm, loadOp 2 true false 0 d a off), (.ldHu d a imm, loadOp 2 false false 0 d a off),
   (.ldW d a imm, loadOp 4 true false 0 d a off), (.ldWu d a imm, loadOp 4 false false 0 d a off),
   (.ldD d a imm, loadOp 8 false false 0 d a off), (.stB d a imm, storeOp 1 false 0 d a off),
   (.stH d a imm, storeOp 2 false 0 d a off), (.stW d a imm, storeOp 4 false 0 d a off),
   (.stD d a imm, storeOp 8 false 0 d a off)]

/-- The acquire loads and release stores, with the access that each makes for a thread at a scope (08 R221). -/
def orderedAccesses (d a : BitVec 5) (scope : BitVec 3) (imm : BitVec 9) : List (Instr × (Ctx → Thread → MemOp)) :=
  let off := imm.signExtend 64
  let n := scope.toNat
  [(.ldBAcq d a scope imm, loadOp 1 true true n d a off), (.ldBuAcq d a scope imm, loadOp 1 false true n d a off),
   (.ldHAcq d a scope imm, loadOp 2 true true n d a off), (.ldHuAcq d a scope imm, loadOp 2 false true n d a off),
   (.ldWAcq d a scope imm, loadOp 4 true true n d a off), (.ldWuAcq d a scope imm, loadOp 4 false true n d a off),
   (.ldDAcq d a scope imm, loadOp 8 false true n d a off), (.stBRel d a scope imm, storeOp 1 true n d a off),
   (.stHRel d a scope imm, storeOp 2 true n d a off), (.stWRel d a scope imm, storeOp 4 true n d a off),
   (.stDRel d a scope imm, storeOp 8 true n d a off)]

/-- The access of an atomic or a reduction of `n` bytes for a thread (12 R331 to R336). -/
def updateOp (kind : AccKind) (n : Nat) (ext : Bool) (dest : Option (BitVec 5)) (a b : BitVec 5) (scope : Nat) (x : Ctx)
    (t : Thread) : MemOp :=
  { kind := kind, addr := t.reg x.ring a, size := n, ext := ext, dest := dest.map (t.phys x.ring),
    data := t.reg x.ring b, cmp := dest.elim 0 (t.reg x.ring), scope := scope, acq := false, rel := false }

/-- The integer atomics and reductions, of 4 bytes at size 0 and of 8 at size 1 (12 R331). -/
def integerUpdates (d a b : BitVec 5) (sc : BitVec 3) (sz : BitVec 2) : List (Instr × (Ctx → Thread → MemOp)) :=
  let amo (op : AmoOp) := updateOp (.amo op) (4 * 2 ^ sz.toNat) true (some d) a b sc.toNat
  let red (op : AmoOp) := updateOp (.red op) (4 * 2 ^ sz.toNat) false none a b sc.toNat
  [(.amoAdd d a b sc sz, amo .add), (.amoAnd d a b sc sz, amo .and), (.amoOr d a b sc sz, amo .or),
   (.amoXor d a b sc sz, amo .xor), (.amoMin d a b sc sz, amo .min), (.amoMax d a b sc sz, amo .max),
   (.amoMinu d a b sc sz, amo .minu), (.amoMaxu d a b sc sz, amo .maxu), (.amoSwap d a b sc sz, amo .swap),
   (.amoCas d a b sc sz, amo .cas), (.redAdd a b sc sz, red .add), (.redAnd a b sc sz, red .and),
   (.redOr a b sc sz, red .or), (.redXor a b sc sz, red .xor), (.redMin a b sc sz, red .min),
   (.redMax a b sc sz, red .max), (.redMinu a b sc sz, red .minu), (.redMaxu a b sc sz, red .maxu)]

/-- The floating-point atomics and the floating-point reduction, of 4 bytes (12 R334). -/
def floatUpdates (d a b : BitVec 5) (sc : BitVec 3) (sz : BitVec 2) : List (Instr × (Ctx → Thread → MemOp)) :=
  let amo (op : AmoOp) := updateOp (.amo op) 4 false (some d) a b sc.toNat
  [(.amoAddF32 d a b sc sz, amo .fadd), (.amoMinF32 d a b sc sz, amo .fmin), (.amoMaxF32 d a b sc sz, amo .fmax),
   (.amoCasF32 d a b sc sz, amo .fcas), (.redAddF32 a b sc sz, updateOp (.red .fadd) 4 false none a b sc.toNat)]

/-- Every word that makes accesses, in the forms that the specification gives it, with its cursor. -/
def memoryWords (d a b : BitVec 5) (imm : BitVec 12) (imm9 : BitVec 9) (sc : BitVec 3) (sz : BitVec 2) :
    List (Instr × Cursor × (Ctx → Thread → MemOp)) :=
  let onS (p : Instr × (Ctx → Thread → MemOp)) := (p.1, Cursor.S, p.2)
  let onY (p : Instr × (Ctx → Thread → MemOp)) := (p.1, Cursor.Y, p.2)
  (plainAccesses d a imm).map onS ++
  (if sc.toNat < 6 then (orderedAccesses d a sc imm9).map onS else []) ++
  (if sc.toNat < 6 ∧ sz.toNat < 2 then (integerUpdates d a b sc sz).map onY else []) ++
  (if sc.toNat < 6 ∧ sz.toNat = 0 then (floatUpdates d a b sc sz).map onY else [])

end Sys2Proof.Machine
end

