-- ==== Sys2Proof/Certificates/Slice0/Obligations.lean ====
section
/-! DEFINITION. The statements for the provers: what each word and each event does to the module, what taking a fault and
returning from it do, what reset leaves, and what every step keeps. Each docstring names the rules that the statement
formalises. -/

section
open Sys2Proof Sys2Proof.Machine

/-! ### The step, the words, reset and the memory -/

/-- 01 R20, R21, R23, R30, R34; 07 R196: a step with no event before it runs the word of the unit that the scheduler picks.
On a lane core the word at the lowest lane's place, decoded, runs where it may issue; the aged groups stand before it, the
oldest first, and the first of them that issues is picked and its marks go; that an aged group which cannot issue is passed
over is the model's reading (log entry 74), and that an event comes before any word is its choice (log entry 1). On an array core a cursor of the word's engine runs the word at its place on the path where it may
issue there. An event that comes first is run in place of a word, and is removed. -/
def Obligations.StepRunsDecoded : Prop :=
  ∀ (s : State) (i : Instr) (raw : Nat),
    let s0 := runCaches (advanceTime s)
    let s1 := chooseAgent s0
    (∀ (c slot lane : Nat) (k : LaneCore) (w : Warp) (g : Workgroup) (group : List Nat), s0.inputs = [] →
      s1.sel = .lane c slot lane → agedGroups (s1.lane c) = [] → coreAwake s1 .lane c = true →
      runningGroup s1 c slot lane = some (k, w, g, group) → fetchRaw s1 (portOfCore .lane c) g.info (groupPc w group) = .ok raw →
      notAWord .lane raw = none → decodeWord raw = .ok i → mayIssueLane s1 c slot k w group raw = true →
      step s = exec i s1) ∧
    (∀ (c slot lane time slot' lane' : Nat) (pre rest : List (Nat × Nat × Nat)) (k : LaneCore) (w : Warp) (g : Workgroup)
      (group : List Nat) (t : State),
      let s2 := { s1 with sel := .lane c slot' lane' }
      s0.inputs = [] → s1.sel = .lane c slot lane →
      (agedGroups (s1.lane c)).foldr insertAged [] = pre ++ (time, slot', lane') :: rest →
      (∀ x ∈ pre, ∃ u, stepGroup { s1 with sel := .lane c x.2.1 x.2.2 } c x.2.1 x.2.2 = .next u ∧
        issued s1 u c x.2.1 = false) →
      coreAwake s2 .lane c = true → runningGroup s2 c slot' lane' = some (k, w, g, group) →
      fetchRaw s2 (portOfCore .lane c) g.info (groupPc w group) = .ok raw → notAWord .lane raw = none → decodeWord raw = .ok i →
      mayIssueLane s2 c slot' k w group raw = true → exec i s2 = .next t → issued s1 t c slot' = true →
      step s = .next (unage t c slot' ((mapGet? slot' (s1.lane c).warps).elim [] fun y => groupOf y lane'))) ∧
    (∀ (c : Nat) (cur : Cursor) (k : ArrayCore) (t u : Task) (e : PathEntry), s0.inputs = [] →
      s1.sel = .array c cur → coreAwake s1 .array c = true → runningTask s1 c cur = some (k, t) →
      pathWord s1 c t cur = .ok (u, e) → e.raw = raw → notAWord .array raw = none → e.skip = false →
      badPlace u cur e = false → behindWcnt u e.step = false → inWindowLimit k u cur = true → ownerOf raw = cur →
      decodeWord raw = .ok i → mayIssueArray s1 c k u e = true →
      step s = exec i (s1.setArray c { k with task := some u })) ∧
    (∀ rest, s0.inputs = i :: rest → isWord i = false → step s = exec i { s0 with inputs := rest })

/-- 07 R180, R185 to R193, R195 and the examples of 07: words written out from their encodings decode to the instructions
that they stand for, and words that have no encoding decode to none. -/
def Obligations.WordsDecode : Prop :=
  (∀ p ∈ ([
      (0x00429800, .add 4 5 6), (0x02420FF8, .addImm 4 4 0xFF8), (0x06312345, .ldhi 3 0x12345),
      (0x12401FFD, .bNe 4 0 0xFFD), (0xA207E000, .wcnt 0 63 0 0)] : List (Nat × Instr)),
    decodeWord p.1 = .ok p.2 ∧ encode p.2 = some p.1) ∧
  (∀ w ∈ ([0x00000000, 0xE0000000, 0xFFFFFFFF] : List Nat), decodeWord w = .error .notAWord)

/-- 07 R181 to R193: decoding the word of a well-formed instruction gives that instruction back, with every operand at
every value that the encoding admits. -/
def Obligations.EncodedWordsDecode : Prop :=
  ∀ (i : Instr) (w : Nat), i.wellFormed = true → encode i = some w → decodeWord w = .ok i

/-- 07 R195: a 32-bit word that decodes is the word of the instruction that it decodes to, so no bit of it is ignored and
no two words stand for one instruction. -/
def Obligations.DecodedWordsEncode : Prop :=
  ∀ (i : Instr) (w : Nat), w < 2 ^ 32 → decodeWord w = .ok i → encode i = some w

/-- 01 R39; 12 R352; 16 R396, R402; 17 R409, R417, R420; 18 R425, R435; 19 R448; 21 R470, R474; 22 R491: the values other
than zero that the tables give for reset; memory lists nothing, so that every byte reads as log entry 2 says. -/
def Obligations.ResetState : Prop :=
  let r (n : RegName) (i : Nat) : Nat := (readReg State.reset n i).toNat
  (∀ p, p < 24 → r (.rw .portCtl) p % 2 = 1 ∧ r (.rw .portCtl) p / 2 ^ 10 = (if p < 6 then 0 else 1) ∧
    r (.rw .portStat) p / 2 ^ 24 = (if p < 2 then p else if p < 6 then p - 2 else if p < 16 then p - 6 else p - 16)) ∧
  (∀ c, (State.reset.array c).limit = 1024 ∧ freeThreads (State.reset.lane c) = 1024) ∧ State.reset.hub.ceiling = 2048 ∧
  r (.rw .dirSpill) 0 = 0x100FF * 2 ^ 25 ∧
  (∀ q, q < 256 → r (.rw .dqCtl) q = 4 * 2 ^ 16 ∧ r (.rw .dqStat) q = 1) ∧
  r .cntStat 0 / 2 ^ 56 = 0xFF ∧
  r (.rw .jrnlCtl) 0 = 16 ∧ r .jrnlHead 0 = 1 ∧ r .jrnlTail 0 = 1 ∧
  (∀ w, w < 16 → r (.rw .flogCtl) w = 10 * 16 ∧ r .flogHead w = 1) ∧
  r (.rw .isoCtl) 0 = 40 * 256 + 1 ∧ r .mcMgen 0 = 1 ∧
  (∀ d, d < 128 → r (.rw .chanWidth) d % 16 = 8) ∧
  (∀ w, w < 16 → r (.rw .trcCtl) w = 0xFF * 256 ∧ r .trcHead w / 2 ^ 32 = 1 ∧ r .trcTail w / 2 ^ 32 = 1) ∧
  State.reset.mem = [] ∧ State.reset.poison = []

/-- The memory of the module and the storage of every core and saved context are in canonical form after reset. -/
def Obligations.ResetMemoryOk : Prop := State.reset.MemoryOk

/-- Every step, whatever it runs, keeps the memory of the module and the storage of every core and saved context in canonical
form. -/
def Obligations.StepKeepsMemoryOk : Prop := ∀ s t : State, s.MemoryOk → step s = .next t → t.MemoryOk

/-- 00 R9: in a memory in canonical form, bytes read where they were written are the bytes written, and a number
is read back up to its width, its byte i, bits 8i + 7 to 8i, standing at the i-th address; every byte outside the written range reads as before; and a write of what is
there already changes nothing. -/
def Obligations.WrittenBytesReadBack : Prop :=
  ∀ (m : Memory) (a n v c : Nat) (bs : List Byte), m.wf = true →
    readBytes (writeBytes m a bs) a bs.length = bs ∧
    readNat (writeNat m a n v) a n = v % 2 ^ (8 * n) ∧
    (∀ i, i < n → readByte (writeNat m a n v) (a + i) = BitVec.ofNat 8 (v / 2 ^ (8 * i))) ∧
    (c < a ∨ a + bs.length ≤ c → readByte (writeBytes m a bs) c = readByte m c) ∧
    writeBytes m a (readBytes m a n) = m

/-! ### The scalar engine -/

/-- 08 R215, R217: the register forms of the integer words. Where a running unit stands at the word, `exec` answers the
state in which each thread of the issue group, or the task, has s[d] set to the function of s[a] and s[b] and goes on.
Division by 0 and the overflowing signed division give the values of the table of R217 and raise no fault. -/
def Obligations.IntegerRegisterFormsComplete : Prop :=
  ∀ (s t : State) (d a b : BitVec 5), ∀ p ∈ ([
      (.add d a b, fun x y => x + y),
      (.sub d a b, fun x y => x - y),
      (.mul d a b, fun x y => x * y),
      (.mulh d a b, fun x y => BitVec.ofInt 64 (x.toInt * y.toInt / 2 ^ 64)),
      (.mulhu d a b, fun x y => BitVec.ofNat 64 (x.toNat * y.toNat / 2 ^ 64)),
      (.div d a b, fun x y =>
        if y = 0 then 0xFFFFFFFFFFFFFFFF
        else if x = 0x8000000000000000 ∧ y = 0xFFFFFFFFFFFFFFFF then 0x8000000000000000
        else BitVec.ofInt 64 (x.toInt.tdiv y.toInt)),
      (.divu d a b, fun x y => if y = 0 then 0xFFFFFFFFFFFFFFFF else BitVec.ofNat 64 (x.toNat / y.toNat)),
      (.rem d a b, fun x y =>
        if y = 0 then x
        else if x = 0x8000000000000000 ∧ y = 0xFFFFFFFFFFFFFFFF then 0
        else x - y * BitVec.ofInt 64 (x.toInt.tdiv y.toInt)),
      (.remu d a b, fun x y => if y = 0 then x else x - y * BitVec.ofNat 64 (x.toNat / y.toNat)),
      (.and d a b, fun x y => x &&& y),
      (.or d a b, fun x y => x ||| y),
      (.xor d a b, fun x y => x ^^^ y),
      (.shl d a b, fun x y => x <<< (y.toNat % 64)),
      (.shr d a b, fun x y => x >>> (y.toNat % 64)),
      (.sar d a b, fun x y => x.sshiftRight (y.toNat % 64)),
      (.slt d a b, fun x y => if x.toInt < y.toInt then 1 else 0),
      (.sltu d a b, fun x y => if x.toNat < y.toNat then 1 else 0),
      (.min d a b, fun x y => if x.toInt < y.toInt then x else y),
      (.max d a b, fun x y => if x.toInt < y.toInt then y else x),
      (.minu d a b, fun x y => if x.toNat < y.toNat then x else y),
      (.maxu d a b, fun x y => if x.toNat < y.toNat then y else x)] : List (Instr × (Word → Word → Word))),
    s.ran false (setting d fun x th => p.2 (th.reg x.ring a) (th.reg x.ring b)) = some t → exec p.1 s = .next t

/-- 08 R216: the immediate forms. A shift takes an amount of 0 to 63. -/
def Obligations.IntegerImmediateFormsComplete : Prop :=
  ∀ (s t : State) (d a : BitVec 5) (imm : BitVec 12), (∀ p ∈ ([
      (.addImm d a imm, fun x y => x + y),
      (.andImm d a imm, fun x y => x &&& y),
      (.orImm d a imm, fun x y => x ||| y),
      (.xorImm d a imm, fun x y => x ^^^ y),
      (.sltImm d a imm, fun x y => if x.toInt < y.toInt then 1 else 0),
      (.sltuImm d a imm, fun x y => if x.toNat < y.toNat then 1 else 0),
      (.minImm d a imm, fun x y => if x.toInt < y.toInt then x else y),
      (.maxImm d a imm, fun x y => if x.toInt < y.toInt then y else x),
      (.mulImm d a imm, fun x y => x * y)] : List (Instr × (Word → Word → Word))),
    s.ran false (setting d fun x th => p.2 (th.reg x.ring a) (imm.signExtend 64)) = some t → exec p.1 s = .next t) ∧
  (∀ p ∈ ([
      (.shlImm d a imm, fun x => x <<< imm.toNat),
      (.shrImm d a imm, fun x => x >>> imm.toNat),
      (.sarImm d a imm, fun x => x.sshiftRight imm.toNat)] : List (Instr × (Word → Word))),
    imm.toNat < 64 → s.ran false (setting d fun x th => p.2 (th.reg x.ring a)) = some t → exec p.1 s = .next t)

/-- 08 R215, R218 to R220: counts of bits, selection, constants, and handle and predicate moves. `sel`, `pset` and `pget`
name a predicate of the core's kind: p0 to p7 on a lane core, p0 to p15 on an array core. -/
def Obligations.MovesAndConstantsComplete : Prop :=
  ∀ (s t : State) (d a b : BitVec 5) (imm : BitVec 12) (imm20 : BitVec 20) (n : BitVec 4),
    (∀ p ∈ ([
        (.clz d a, fun x th => BitVec.ofNat 64 (if th.reg x.ring a = 0 then 64 else 63 - (th.reg x.ring a).toNat.log2)),
        (.popc d a, fun x th => BitVec.ofNat 64 (((List.range 64).filter (th.reg x.ring a).getLsbD).length)),
        (.ldhi d imm20, fun _ _ => (imm20.setWidth 32 <<< 12).signExtend 64),
        (.addpc d imm20, fun _ th => th.pc + (imm20.setWidth 32 <<< 12).signExtend 64),
        (.hget d a, fun _ th => th.handle a.toNat)] : List (Instr × (Ctx → Thread → Word))),
      s.ran false (setting d p.2) = some t → exec p.1 s = .next t) ∧
    (s.ran false (fun x th => (th.setHandle d.toNat (th.reg x.ring a + imm.signExtend 64), none)) = some t →
      exec (.hset d a imm) s = .next t) ∧
    (n.toNat < 8 → (∀ c cur, s.sel ≠ .array c cur) →
      s.ran false (setting d fun x th => if th.preds.getLsbD n.toNat then th.reg x.ring a else th.reg x.ring b) = some t →
      exec (.sel d a b n) s = .next t) ∧
    (n.toNat < 8 → (∀ c cur, s.sel ≠ .array c cur) →
      s.ran false (setting d fun _ th => if th.preds.getLsbD n.toNat then 1 else 0) = some t →
      exec (.pget d (n.setWidth 5)) s = .next t) ∧
    (n.toNat < 8 → (∀ c cur, s.sel ≠ .array c cur) →
      s.ran false (fun x th => ({ th with preds := setBit8 th.preds n.toNat (th.reg x.ring a != 0) }, none)) = some t →
      exec (.pset (n.setWidth 5) a) s = .next t) ∧
    (∀ c k tk, s.sel = .array c .S → runningTask s c .S = some (k, tk) →
      let elem := (mapGet 0 k.preds (rotP tk.cursors.s.base n.toNat)).getLsbD 0
      exec (.sel d a b n) s = .next (s.setArray c
        { k with th := k.th.setReg 96 d (if elem then k.th.reg 96 a else k.th.reg 96 b),
                 task := some (tk.pass .S (tk.cursors.s.pc + 4)) }) ∧
      exec (.pget d (n.setWidth 5)) s = .next (s.setArray c
        { k with th := k.th.setReg 96 d (if elem then 1 else 0), task := some (tk.pass .S (tk.cursors.s.pc + 4)) }) ∧
      exec (.pset (n.setWidth 5) a) s = .next (s.setArray c
        { k with preds := mapSet (rotP tk.cursors.s.base n.toNat)
                   (if k.th.reg 96 a = 0 then 0 else BitVec.allOnes 128) k.preds,
                 task := some (tk.pass .S (tk.cursors.s.pc + 4)) }))

/-- 08 R209, R210: s0 reads as zero and a write to it is discarded; another register reads what was written to it, and
writing it changes no other physical register; a name resolves to a global or to a position of the window ring, never to a
register that no thread has. -/
def Obligations.RegisterNamesResolve : Prop :=
  (∀ (ring : Nat) (th : Thread) (n m : BitVec 5) (v : Word),
    th.reg ring 0 = 0 ∧ th.setReg ring 0 v = th ∧
    (th.phys ring n ≠ 0 → (th.setReg ring n v).reg ring n = v) ∧
    (th.phys ring m ≠ th.phys ring n → (th.setReg ring n v).reg ring m = th.reg ring m)) ∧
  (∀ (ring cur wbase : Nat) (n : BitVec 5), 0 < ring → cur ≤ 32 →
    physReg ring cur wbase 0 = 0 ∧
    (n ≠ 0 → n.toNat < 32 - cur ∨ cur = 0 → physReg ring cur wbase n.toNat = n.toNat) ∧
    (n ≠ 0 → cur ≠ 0 → 32 - cur ≤ n.toNat →
      physReg ring cur wbase n.toNat = 32 + (wbase + n.toNat - (32 - cur)) % ring) ∧
    physReg ring cur wbase n.toNat < 32 + ring)

/-- What an integer word that writes s[d] leaves unchanged: the memory and every part of the machine but the cores; of a
core all but the scalar registers and the place of its unit; and of the registers all but the one that d names. -/
def Obligations.IntegerWordFrame : Prop :=
  ∀ (s t : State) (d a b : BitVec 5) (imm : BitVec 12) (imm20 : BitVec 20), ∀ i ∈ ([
      .add d a b, .sub d a b, .mul d a b, .mulh d a b, .mulhu d a b, .div d a b, .divu d a b, .rem d a b, .remu d a b,
      .and d a b, .or d a b, .xor d a b, .shl d a b, .shr d a b, .sar d a b, .slt d a b, .sltu d a b, .min d a b,
      .max d a b, .minu d a b, .maxu d a b, .clz d a, .popc d a, .addImm d a imm, .andImm d a imm, .orImm d a imm,
      .xorImm d a imm, .sltImm d a imm, .sltuImm d a imm, .minImm d a imm, .maxImm d a imm, .mulImm d a imm,
      .ldhi d imm20, .addpc d imm20, .hget d a] : List Instr),
    exec i s = .next t →
      t = { s with arrays := t.arrays, lanes := t.lanes } ∧
      (∀ adr, t.byte adr = s.byte adr) ∧
      (∀ c, t.array c = { s.array c with th := { (s.array c).th with regs := (t.array c).th.regs },
                                         task := (t.array c).task }) ∧
      (∀ c p, p ≠ (s.array c).th.phys 96 d → (t.array c).th.preg p = (s.array c).th.preg p) ∧
      (∀ c, t.lane c = { s.lane c with warps := (t.lane c).warps }) ∧
      (∀ c slot l w th, mapGet? slot (s.lane c).warps = some w → mapGet? l w.threads = some th →
        ∃ w' th', mapGet? slot (t.lane c).warps = some w' ∧ mapGet? l w'.threads = some th' ∧
          w' = { w with threads := w'.threads } ∧
          th' = { th with pc := th'.pc, regs := th'.regs } ∧
          ∀ p, p ≠ th.phys (ringOf (s.lane c).code) d → th'.preg p = th.preg p)

/-- 08 R227: the conditional branches, on both kinds of core. A branch that is taken continues at its target, another at
the next word; on an array core either outcome is appended for the other cursors (01 R36, 08 R231). -/
def Obligations.ConditionalBranchesComplete : Prop :=
  ∀ (s t : State) (a b : BitVec 5) (off : BitVec 12), ∀ p ∈ ([
      (.bEq a b off, fun x y => decide (x = y)),
      (.bNe a b off, fun x y => decide (x ≠ y)),
      (.bLt a b off, fun x y => decide (x.toInt < y.toInt)),
      (.bGe a b off, fun x y => decide (y.toInt ≤ x.toInt)),
      (.bLtu a b off, fun x y => decide (x.toNat < y.toNat)),
      (.bGeu a b off, fun x y => decide (y.toNat ≤ x.toNat))] : List (Instr × (Word → Word → Bool))),
    s.ran true (fun x th => (th, if p.2 (th.reg x.ring a) (th.reg x.ring b)
      then some (th.pc + 4 * off.signExtend 64) else none)) = some t →
    exec p.1 s = .next t

/-- 08 R228, R230: jumps write the link and continue at the target formed from the old register; `brot` on an array core
lowers ROT_BASE.BASE by one modulo 32, taken or not, and branches on inequality. -/
def Obligations.JumpsComplete : Prop :=
  ∀ (s t : State) (d a b : BitVec 5) (imm off : BitVec 12) (off20 : BitVec 20),
    (s.ran true (fun x th => (th.setReg x.ring d (th.pc + 4), some (th.pc + 4 * off20.signExtend 64))) = some t →
      exec (.j d off20) s = .next t) ∧
    (s.ran true (fun x th => (th.setReg x.ring d (th.pc + 4),
        some ((th.reg x.ring a + imm.signExtend 64) &&& 0xFFFFFFFFFFFFFFFC))) = some t →
      exec (.jr d a imm) s = .next t) ∧
    (∀ c k tk, s.sel = .array c .S → runningTask s c .S = some (k, tk) →
      let target := if k.th.reg 96 a ≠ k.th.reg 96 b then some (tk.cursors.s.pc + 4 * off.signExtend 64) else none
      let base := (tk.cursors.s.base + 31) % 32
      exec (.brot a b off) s = .next (s.setArray c
        { k with rotBase := base, task := some ((tk.leave target).branch base (target.getD (tk.cursors.s.pc + 4))) }))

/-- 08 R233 to R239: the scalar floating-point words complete on every operand: s[d] is the result rounded by FPSTAT.RM,
and its flags are raised in FPSTAT. -/
def Obligations.ScalarFloatWordsComplete : Prop :=
  ∀ (s t : State) (d a b : BitVec 5) (ft : FType), ∀ p ∈ ([
      (.fadd d a b ft, fun rm x th => fpRounded ft rm (addF rm (fpVal ft x th a) (fpVal ft x th b))),
      (.fsub d a b ft, fun rm x th => fpRounded ft rm (subF rm (fpVal ft x th a) (fpVal ft x th b))),
      (.fmul d a b ft, fun rm x th => fpRounded ft rm (mulF (fpVal ft x th a) (fpVal ft x th b))),
      (.fdiv d a b ft, fun rm x th => fpRounded ft rm (divF (fpVal ft x th a) (fpVal ft x th b))),
      (.fsqrt d a ft, fun rm x th => fpRounded ft rm (sqrtF (fpVal ft x th a))),
      (.ffma d a b ft, fun rm x th => fpRounded ft rm (fmaF rm (fpVal ft x th a) (fpVal ft x th b) (fpVal ft x th d))),
      (.fmin d a b ft, fun _ x th => fpBits (minMaxF (fmtOf ft) false (fpArg ft (th.reg x.ring a)) (fpArg ft (th.reg x.ring b)))),
      (.fmax d a b ft, fun _ x th => fpBits (minMaxF (fmtOf ft) true (fpArg ft (th.reg x.ring a)) (fpArg ft (th.reg x.ring b)))),
      (.fcmpEq d a b ft, fun _ x th => fpTruth (cmpF 0 (fpVal ft x th a) (fpVal ft x th b))),
      (.fcmpLt d a b ft, fun _ x th => fpTruth (cmpF 1 (fpVal ft x th a) (fpVal ft x th b))),
      (.fcmpLe d a b ft, fun _ x th => fpTruth (cmpF 2 (fpVal ft x th a) (fpVal ft x th b))),
      (.fcmpUn d a b ft, fun _ x th => fpTruth (cmpF 3 (fpVal ft x th a) (fpVal ft x th b))),
      (.fcvtFloatFloat d a ft, fun rm x th => fpBits (roundVal (fmtOf ft) rm false 0 (fpVal (otherType ft) x th a))),
      (.fcvtFToI32 d a ft, fun rm x th => fpInt (toRange rm 0 true (-2 ^ 31) (2 ^ 31 - 1) (fpVal ft x th a))),
      (.fcvtuFToU32 d a ft, fun rm x th => fpInt (toRange rm 0 true 0 (2 ^ 32 - 1) (fpVal ft x th a))),
      (.fcvtFToI64 d a ft, fun rm x th => fpInt (toRange rm 0 true (-2 ^ 63) (2 ^ 63 - 1) (fpVal ft x th a))),
      (.fcvtuFToU64 d a ft, fun rm x th => fpInt (toRange rm 0 true 0 (2 ^ 64 - 1) (fpVal ft x th a))),
      (.fcvtI32ToF d a ft, fun rm x th => fpRounded ft rm (fpExact (signed 32 (th.reg x.ring a).toNat))),
      (.fcvtuU32ToF d a ft, fun rm x th => fpRounded ft rm (fpExact ((th.reg x.ring a).toNat % 2 ^ 32 : Nat))),
      (.fcvtI64ToF d a ft, fun rm x th => fpRounded ft rm (fpExact (th.reg x.ring a).toInt)),
      (.fcvtuU64ToF d a ft, fun rm x th => fpRounded ft rm (fpExact ((th.reg x.ring a).toNat : Int))),
      (.fclass d a ft, fun _ x th => (classF (fmtOf ft) (fpArg ft (th.reg x.ring a)), noFlag))] :
        List (Instr × (Nat → Ctx → Thread → Nat × Flag))),
    s.ran false (fun x th =>
      let r := p.2 (rmOf th.fpstat) x th
      ((th.setReg x.ring d (BitVec.ofNat 64 r.1)).raise r.2, none)) = some t →
    exec p.1 s = .next t
/-- 08 R216, R218, R220, R230 and 07 R194, R195: the forms of words that no thread of the core's kind executes. A shift by
more than 63 and, on a lane core, a predicate above p7 are illegal-operand, and a word that
only the other kind of core has is illegal-instruction: `brot`, `tnext` and `cbld` on a lane core, and the masks, barriers,
exchanges and `spawn` on an array core; no thread of the group executes the word. -/
def Obligations.ScalarFormsRefused : Prop :=
  ∀ (s t : State) (d a b : BitVec 5) (imm : BitVec 12) (n : BitVec 4),
    (64 ≤ imm.toNat → s.faulted .S (refusing .illegalOperand) = some t →
      ∀ i ∈ ([.shlImm d a imm, .shrImm d a imm, .sarImm d a imm] : List Instr), exec i s = .next t) ∧
    ((∀ c cur, s.sel ≠ .array c cur) → 8 ≤ n.toNat → s.faulted .S (refusing .illegalOperand) = some t →
      ∀ i ∈ ([.sel d a b n, .pget d (n.setWidth 5), .pset (n.setWidth 5) a] : List Instr), exec i s = .next t) ∧
    ((∀ c cur, s.sel ≠ .array c cur) → s.faulted .S (refusing .illegalInstruction) = some t →
      exec (.brot a b imm) s = .next t) ∧
    (∀ x, s.issuer .Y = some x → x.kind = .lane →
      exec (.tnext d) s = .next (x.trapped .Y s .illegalInstruction 0 0)) ∧
    (∀ x, s.issuer .M = some x → x.kind = .lane → unitFull s x = false → ∀ (ta : BitVec 6) (tbl : BitVec 3),
      exec (.cbld ta tbl) s = .next (x.trapped .M s .illegalInstruction 0 0)) ∧
    (∀ x, s.issuer .Y = some x → x.kind = .array →
      ∀ i ∈ ([.bar, .elect d, .mjoin n, .mleave n, .mwait n, .xchIdx d a b, .xchUp d a b, .xchDown d a b, .xchXor d a b,
          .spawn d a imm] : List Instr),
        exec i s = .next (x.trapped .Y s .illegalInstruction 0 0))

/-! ### Loads, stores, atomics and reductions -/

/-- 08 R221, R222: where each thread's access goes to plain storage, a load or a store completes: its accesses are in
flight in lane order, the word's counter (LD for a load, ST for a store) counts it, and the unit is at the next word. The words are the eleven of
`plainAccesses` (ld.b to st.d) and the eleven of `orderedAccesses` (ld.b.acq to st.d.rel). -/
def Obligations.LoadsAndStoresComplete : Prop :=
  ∀ (s : State) (d a : BitVec 5) (imm : BitVec 12) (imm9 : BitVec 9) (sc : BitVec 3) (qs : List Ask),
    (∀ p ∈ plainAccesses d a imm, s.asks .S (fun x t => .ok (p.2 x t)) = some qs → plainAsks s qs = true →
      exec p.1 s = .next (s.accessed .S qs)) ∧
    (sc.toNat < 6 → ∀ p ∈ orderedAccesses d a sc imm9, s.asks .S (fun x t => .ok (p.2 x t)) = some qs →
      plainAsks s qs = true → exec p.1 s = .next (s.accessed .S qs))

/-- 12 R331 to R336: where each thread's access goes to plain storage, an atomic or a reduction completes: its accesses
are in flight, LD counts an atomic and ST a reduction, and the unit is at the next word. The words are the eighteen of
`integerUpdates` (amo.add to red.maxu) and the five of `floatUpdates` (amo.add.f32 to red.add.f32). -/
def Obligations.AtomicsComplete : Prop :=
  ∀ (s : State) (d a b : BitVec 5) (sc : BitVec 3) (sz : BitVec 2) (qs : List Ask),
    (sc.toNat < 6 → sz.toNat < 2 → ∀ p ∈ integerUpdates d a b sc sz, s.asks .Y (fun x t => .ok (p.2 x t)) = some qs →
      plainAsks s qs = true → exec p.1 s = .next (s.accessed .Y qs)) ∧
    (sc.toNat < 6 → sz.toNat = 0 → ∀ p ∈ floatUpdates d a b sc sz, s.asks .Y (fun x t => .ok (p.2 x t)) = some qs →
      plainAsks s qs = true → exec p.1 s = .next (s.accessed .Y qs))

/-- 04 R119, R120: the access of a one-thread group to a tile table or to a window. That it is made in the step of its word,
once the thread's earlier accesses allow it (06 R157, R163) and the hub takes an access to a window (19 R444), is the model's
reading (log entry 57); a larger group, whose accesses are made in lane order, is not spoken of here. -/
def Obligations.TableAndWindowAccessesComplete : Prop :=
  ∀ (s : State) (d a b : BitVec 5) (imm : BitVec 12) (imm9 : BitVec 9) (sc : BitVec 3) (sz : BitVec 2) (q : Ask)
    (tg : Target) (c slot l : Nat),
    ∀ p ∈ memoryWords d a b imm imm9 sc sz,
      s.asks p.2.1 (fun x t => .ok (p.2.2 x t)) = some [q] → q.target = .ok tg → s.sel = .lane c slot l →
      isNow s .lane c tg = true → freeNow s q.agent q.op = true → heardNow s q.agent tg = true →
      (makeNow s .lane c q.origin.world tg q.op).1.waits = false → (makeNow s .lane c q.origin.world tg q.op).1.faults = [] →
      exec p.1 s = .next (s.accessedNow q tg)

/-- 08 R223, 12 R332, 04 R122: when the access of one thread of a group fails its checks, none is made, and each thread
that failed takes its fault, with the address that it computed; a form with a scope of 6 or 7 or a size that the word
does not have is illegal-operand. -/
def Obligations.AccessFaultsArePrecise : Prop :=
  ∀ (s t : State) (d a b : BitVec 5) (imm : BitVec 12) (imm9 : BitVec 9) (sc : BitVec 3) (sz : BitVec 2),
    (∀ p ∈ memoryWords d a b imm imm9 sc sz, s.accessTrap p.2.1 (fun x th => .ok (p.2.2 x th)) = some t →
      exec p.1 s = .next t) ∧
    (6 ≤ sc.toNat → s.accessTrap .S (fun _ _ => .error .illegalOperand) = some t →
      ∀ p ∈ orderedAccesses d a sc imm9, exec p.1 s = .next t) ∧
    (6 ≤ sc.toNat ∨ 2 ≤ sz.toNat → s.accessTrap .Y (fun _ _ => .error .illegalOperand) = some t →
      ∀ p ∈ integerUpdates d a b sc sz, exec p.1 s = .next t) ∧
    (6 ≤ sc.toNat ∨ sz.toNat ≠ 0 → s.accessTrap .Y (fun _ _ => .error .illegalOperand) = some t →
      ∀ p ∈ floatUpdates d a b sc sz, exec p.1 s = .next t)

/-- 08 R223, 12 R332, 16 R404, 04 R118, R119, R125, R130, 22 R487: the checks of an access in their order. An address that is
not a multiple of the access size is an alignment fault before any other check; then one that is not canonical is
non-canonical-address; on an array core a load or a store outside the local aperture is local-only; on a lane core an
access in the aperture that passes the scratchpad's end is scratch-bound. Another address that no leaf maps is a translation
fault, and one whose leaf refuses the access, or that a weight binding maps and the access writes, a permission fault. Then
come the reserved ranges of the module, its windows, which an atomic never reaches, and the other modules. -/
def Obligations.AccessChecksInOrder : Prop :=
  ∀ (s : State) (x : Ctx) (scr : Nat) (m : MemOp) (o e n : Nat) (p : WinPart),
    let va := m.addr.toNat
    let need := needOf m.kind
    let plain : Prop := va % m.size = 0 ∧ isCanonical va = true
    let mapped : Prop := plain ∧ apertureOff va = none ∧ (x.isArray = false ∨ m.kind.atomic = true)
    let refused : Prop := need ≠ .write ∧ bit e 1 = false ∨ need ≠ .read ∧ bit e 2 = false ∨
      need ≠ .read ∧ ((pinnedDir s x.info.pin va).isSome = true ∨ inBinding s va = true) ∨
      bit e 6 = true ∧ x.info.priv = false
    let a := e / 4096 % 2 ^ 44 * 4096 / 2 ^ n * 2 ^ n + va % 2 ^ n
    let l := localOf a
    let here : Prop := moduleOf a = s.module
    (va % m.size ≠ 0 → memTarget s x scr m = .error .alignment) ∧
    (va % m.size = 0 → isCanonical va = false → memTarget s x scr m = .error .nonCanonical) ∧
    (plain → x.isArray = true → m.kind.atomic = false → apertureOff va = none → memTarget s x scr m = .error .localOnly) ∧
    (plain → x.isArray = true → apertureOff va = some o → memTarget s x scr m = .ok (.core o)) ∧
    (plain → x.isArray = false → apertureOff va = some o →
      memTarget s x scr m = if o + m.size ≤ scr then .ok (.core o) else .error .scratchBound) ∧
    (mapped → leafOf s x.info.world x.info.pin va = none → memTarget s x scr m = .error .translation) ∧
    (mapped → leafOf s x.info.world x.info.pin va = some (e, n) → refused → memTarget s x scr m = .error .permission) ∧
    (mapped → leafOf s x.info.world x.info.pin va = some (e, n) → ¬refused →
      (here → isReserved s l = true → memTarget s x scr m = .error .addressRange) ∧
      (here → isReserved s l = false → isWindowMap l = false → memTarget s x scr m = .ok (.mem a)) ∧
      (here → isReserved s l = false → isWindowMap l = true → winPart l = some p →
        memTarget s x scr m =
          if windowAllowed s x.info.world x.info.priv p = false ∨ m.kind.atomic = true then .error .windowAccess
          else if windowBusy s p = true then .error .windowBusy else .ok (.window p)) ∧
      (¬here → isWindowMap l = true →
        memTarget s x scr m = .error (if winPart l = none then .addressRange else .windowAccess)) ∧
      (¬here → isWindowMap l = false →
        memTarget s x scr m =
          if isCoherent l = false then .error .addressRange
          else if reachable s (moduleOf a) = false then .error .peerUnreachable else .ok (.mem a)))

/-- 12 R333, R334: what an atomic or a reduction leaves at its location, from the `n` bits there and the operand: the new
value, for integers of `n` bits and for f32 of 32. -/
def Obligations.AtomicUpdates : Prop :=
  ∀ (n old v cmp : Nat),
    let o := old % 2 ^ n
    let x := v % 2 ^ n
    amoNew .add n old v cmp = ((o + x) % 2 ^ n, noFlag) ∧ amoNew .and n old v cmp = (o &&& x, noFlag) ∧
    amoNew .or n old v cmp = (o ||| x, noFlag) ∧ amoNew .xor n old v cmp = (o ^^^ x, noFlag) ∧
    amoNew .min n old v cmp = (if signed n o ≤ signed n x then o else x, noFlag) ∧
    amoNew .max n old v cmp = (if signed n x ≤ signed n o then o else x, noFlag) ∧
    amoNew .minu n old v cmp = (Nat.min o x, noFlag) ∧ amoNew .maxu n old v cmp = (Nat.max o x, noFlag) ∧
    amoNew .swap n old v cmp = (x, noFlag) ∧
    amoNew .cas n old v cmp = (if o = cmp % 2 ^ n then x else o, noFlag) ∧
    amoNew .fcas 32 old v cmp = (if old % 2 ^ 32 = cmp % 2 ^ 32 then v % 2 ^ 32 else old % 2 ^ 32, noFlag) ∧
    amoNew .fadd 32 old v cmp =
      fpBits (finishF fp32 0 (addF 0 (decodeF fp32 (old % 2 ^ 32)) (decodeF fp32 (v % 2 ^ 32)))) ∧
    amoNew .fmin 32 old v cmp = fpBits (minMaxF fp32 false (old % 2 ^ 32) (v % 2 ^ 32)) ∧
    amoNew .fmax 32 old v cmp = fpBits (minMaxF fp32 true (old % 2 ^ 32) (v % 2 ^ 32))

/-- What a word that makes accesses leaves unchanged as it issues to plain storage: every byte of memory and every part of
the machine but the accesses in flight and the core's units; of a thread all but its place. -/
def Obligations.MemoryWordFrame : Prop :=
  ∀ (s t : State) (d a b : BitVec 5) (imm : BitVec 12) (imm9 : BitVec 9) (sc : BitVec 3) (sz : BitVec 2) (qs : List Ask),
    ∀ p ∈ memoryWords d a b imm imm9 sc sz,
      s.asks p.2.1 (fun x th => .ok (p.2.2 x th)) = some qs → plainAsks s qs = true → exec p.1 s = .next t →
      t = { s with arrays := t.arrays, lanes := t.lanes, flight := t.flight, nextId := t.nextId } ∧
      (∀ adr, t.byte adr = s.byte adr) ∧
      (∀ c, t.array c = { s.array c with task := (t.array c).task }) ∧
      (∀ c, t.lane c = { s.lane c with warps := (t.lane c).warps }) ∧
      (∀ c slot l w th, mapGet? slot (s.lane c).warps = some w → mapGet? l w.threads = some th →
        ∃ w' th', mapGet? slot (t.lane c).warps = some w' ∧ mapGet? l w'.threads = some th' ∧
          w' = { w with threads := w'.threads, cnt := w'.cnt } ∧ th' = { th with pc := th'.pc })

/-! ### Fences, masks, exchange, spawning, mailboxes, traps, ends, system registers and windows -/

/-- 12 R322, R323; 06 R163: a fence enters the order of each of its agents, one with a release waiting for the M operations of
its core; `wcnt` passes where every counter is at or below its operand, and else waits. That the M operations of a lane group
count for a thread that has ended too is log entry 100. -/
def Obligations.FencesAndWaitsComplete : Prop :=
  ∀ (s : State) (x : Issuer) (scope : BitVec 3) (ld st cp tl : BitVec 6), s.issuer .Y = some x →
    let fenced (waitAll holdAll : Bool) : State := (appendFences x waitAll holdAll scope.toNat x.agents s).sweep
    let c := unitCounters s x
    (scope.toNat < 6 → exec (.fenceAcq scope) s = .next (x.passed .Y (fenced false true))) ∧
    (scope.toNat < 6 → matrixBusy s x = false →
      exec (.fenceRel scope) s = .next (x.passed .Y (fenced true false)) ∧
      exec (.fence scope) s = .next (x.passed .Y (fenced true true))) ∧
    (scope.toNat < 6 → matrixBusy s x = true → exec (.fenceRel scope) s = .next s ∧ exec (.fence scope) s = .next s) ∧
    (6 ≤ scope.toNat → ∀ i ∈ ([.fenceAcq scope, .fenceRel scope, .fence scope] : List Instr),
      exec i s = .next (x.trapped .Y s .illegalOperand 0 0)) ∧
    (c.ld ≤ ld.toNat → c.st ≤ st.toNat → c.cp ≤ cp.toNat → c.tl ≤ tl.toNat →
      exec (.wcnt ld st cp tl) s = .next (x.passed .Y s)) ∧
    (ld.toNat < c.ld ∨ st.toNat < c.st ∨ cp.toNat < c.cp ∨ tl.toNat < c.tl → exec (.wcnt ld st cp tl) s = .next s)

/-- 01 R25 to R27, 12 R324, 06 R168: `mjoin` and `mleave` put the group's lanes into a mask register or take them out and
pass; a member of the mask waits at `mwait` and another thread passes it, once the group's accesses are performed at workgroup
scope and its M operations are done; release is evaluated after each, and where every live thread then waits at an `mwait` the
lowest waiting lane takes mask-deadlock at its `mwait`, its arrival withdrawn. `bar` makes the group wait until every warp of
the workgroup that was not spawned has arrived, and a spawned warp passes it; the bins of a workgroup whose warps all wait are
due (01 R30). That the arrival is withdrawn is log entry 25, and that the last arrival releases in its own step log entry 102. -/
def Obligations.MasksAndBarriersComplete : Prop :=
  (∀ (s : State) (x : Issuer) (w : Warp) (k : BitVec 4), s.issuer .Y = some x → x.kind = .lane →
    mapGet? x.slot (s.lane x.core).warps = some w →
    let n := k.toNat
    let g := groupMask x.group
    let members := x.group.filter fun l => (w.mask n).getLsbD l
    let others := x.group.filter fun l => !(w.mask n).getLsbD l
    (n < 12 →
      exec (.mjoin k) s = .next (putWarp s x (evalMask
        (advanceGroup { w with masks := mapSet n (w.mask n ||| g) w.masks } x.pc x.group) n)) ∧
      exec (.mleave k) s = .next (putWarp s x (evalMask
        (advanceGroup { w with masks := mapSet n (w.mask n &&& ~~~g) w.masks,
                               arrivals := mapSet n (w.arrived n &&& ~~~g) w.arrivals } x.pc x.group) n))) ∧
    (n < 12 → groupPerformed s x 1 = true → matrixBusy s x = false →
      exec (.mwait k) s = .next (putWarp s x (evalMask
        { advanceGroup w x.pc others with
            threads := mapAll (fun l t => if members.contains l then { t with run := .atMask n } else t)
              (advanceGroup w x.pc others).threads,
            arrivals := mapSet n (w.arrived n ||| groupMask members) w.arrivals } n))) ∧
    (n < 12 → groupPerformed s x 1 = false ∨ matrixBusy s x = true → exec (.mwait k) s = .next s) ∧
    (12 ≤ n → ∀ i ∈ ([.mjoin k, .mleave k, .mwait k] : List Instr),
      exec i s = .next (x.trapped .Y s .illegalOperand 0 0)) ∧
    (w.spawned = true → exec .bar s = .next (x.passed .Y s)) ∧
    (w.spawned = false → groupPerformed s x 2 = false ∨ matrixBusy s x = true → exec .bar s = .next s) ∧
    (w.spawned = false → groupPerformed s x 2 = true → matrixBusy s x = false →
      let held := mapAll (fun l t => if x.group.contains l then { t with run := .atBar } else t) w.threads
      exec .bar s = .next (s.setLane x.core ((evalBar
        { s.lane x.core with warps := mapSet x.slot { w with threads := held } (s.lane x.core).warps } x.wg).latch x.wg)))) ∧
  (∀ (w : Warp) (n : Nat), w.frozenLanes = 0 →
    (w.mask n ≠ 0 → w.mask n &&& ~~~w.arrived n = 0 →
      (evalMask w n).arrived n = 0 ∧ (evalMask w n).masks = w.masks ∧
      ∀ l t, mapGet? l w.threads = some t → mapGet? l (evalMask w n).threads =
        some (if (w.arrived n).getLsbD l && t.run == .atMask n then { t with run := .ready, pc := t.pc + 4 } else t)) ∧
    (w.mask n = 0 ∨ w.mask n &&& ~~~w.arrived n ≠ 0 → evalMask w n = w)) ∧
  (∀ (s : State) (x : Issuer) (w : Warp) (l m : Nat) (th : Thread) (rest : List (Nat × Thread)),
    let k := LaneCore.latch { s.lane x.core with warps := mapSet x.slot w (s.lane x.core).warps } w.wg
    putWarp s x w = (if deadlocked w then raiseDeadlock (s.setLane x.core k) x.core x.slot else s.setLane x.core k) ∧
    (mapGet? x.slot (s.lane x.core).warps = some w → (w.threads.filter fun t => t.2.run != Run.ended) = (l, th) :: rest →
      th.run = .atMask m →
      let w1 := { w with threads := mapSet l { th with run := .ready } w.threads,
                         arrivals := mapSet m (w.arrived m &&& ~~~laneBit l) w.arrivals }
      raiseDeadlock s x.core x.slot = laneException
        (s.setLane x.core { s.lane x.core with warps := mapSet x.slot w1 (s.lane x.core).warps }) x.core x.slot [l] th.pc th.pc
        [{ lane := l, cause := .maskDeadlock, value := 0, code := 0, addr := 0 }]) ∧
    (deadlocked w = true ↔ (w.threads.filter fun t => t.2.run != Run.ended) ≠ [] ∧
      ∀ y ∈ w.threads, y.2.run ≠ .ended → y.2.frozen = false ∧ ∃ n, y.2.run = .atMask n))

/-- 12 R326, R327: each thread of the issue group gets its value in s[d] and goes on. `elect` gives 1 to the lowest lane;
an exchange gives s[a] of the source lane's thread where that is in the group, and else the thread's own. -/
def Obligations.ElectionAndExchangeComplete : Prop :=
  ∀ (s : State) (x : Issuer) (w : Warp) (d a b : BitVec 5), s.issuer .Y = some x → x.kind = .lane →
    mapGet? x.slot (s.lane x.core).warps = some w →
    let taken (l : Nat) (src : Option Nat) : Word := match src with
      | some m => if x.group.contains m then laneReg x w m a else laneReg x w l a
      | none => laneReg x w l a
    let n (l : Nat) : Nat := (laneReg x w l b).toNat
    ∀ p ∈ ([
        (.elect d, fun l => if l = x.lane then 1 else 0),
        (.xchIdx d a b, fun l => taken l (some (n l % 32))),
        (.xchUp d a b, fun l => taken l (if n l ≤ l then some (l - n l) else none)),
        (.xchDown d a b, fun l => taken l (if l + n l ≤ 31 then some (l + n l) else none)),
        (.xchXor d a b, fun l => taken l (some (l ^^^ (n l % 32))))] : List (Instr × (Nat → Word))),
      ∃ t, exec p.1 s = .next t ∧ s.onlyLane t x.core ∧
        (∀ slot, slot ≠ x.slot → mapGet? slot (t.lane x.core).warps = mapGet? slot (s.lane x.core).warps) ∧
        ∀ l th, mapGet? l w.threads = some th →
          ((mapGet? x.slot (t.lane x.core).warps).bind fun y => mapGet? l y.threads) =
            some (if x.group.contains l then { th.setReg x.ring d (p.2 l) with pc := x.pc + 4 } else th)

/-- 01 R28, R29, R45, R46; 12 R328 to R330: `spawn` with its target in the text spawns a thread for each of the group, in
ascending lane order, to start after the spawner's earlier accesses and M operations; `tnext` takes the task's next entry, own
ones first, gives −1 when the donation group has none, and else asks; a victim that is asked ships the last half of its
unstarted entries. The entries of a schedule table are those that stood there at the placement (log entry 87). -/
def Obligations.SpawningAndSchedulingComplete : Prop :=
  ∀ (s : State) (x : Issuer) (d a : BitVec 5) (imm : BitVec 12) (t : Task),
    (s.issuer .Y = some x → x.kind = .lane → (mapGet? x.slot (s.lane x.core).warps).isSome →
      let entry := x.pc + 4 * imm.signExtend 64
      (x.info.record.textBase.toNat ≤ entry.toNat → entry.toNat < x.info.record.textLimit.toNat →
        exec (.spawn d a imm) s = .next (x.passed .Y (spawnLanes x d a entry x.group s))) ∧
      (entry.toNat < x.info.record.textBase.toNat ∨ x.info.record.textLimit.toNat ≤ entry.toNat →
        exec (.spawn d a imm) s = .next (x.trapped .Y s .illegalOperand 0 0))) ∧
    (s.issuer .Y = some x → x.kind = .array → (s.array x.core).task = some t →
      let put (u : Task) : State := s.setArray x.core { s.array x.core with task := some u }
      (∀ e rest, t.entries = e :: rest →
        exec (.tnext d) s = .next (x.passed .Y (x.setReg (put { t with entries := rest }) d e))) ∧
      (∀ e rest, t.entries = [] → t.shipped = e :: rest →
        exec (.tnext d) s = .next (x.passed .Y (x.setReg (put { t with shipped := rest }) d e))) ∧
      (t.entries = [] → t.shipped = [] → groupEmpty s t.info x.core = true →
        exec (.tnext d) s = .next (x.passed .Y (x.setReg (put { t with asking := none }) d (-1)))) ∧
      (t.entries = [] → t.shipped = [] → groupEmpty s t.info x.core = false → t.asking = none →
        exec (.tnext d) s = .next (put { t with asking := some (victims s t.info x.core) }))) ∧
    (∀ (v thief : Nat) (rest : List Nat) (u : Task), v ≠ thief → (s.array thief).task = some t → t.asking = some (v :: rest) →
      (s.array v).saving = false → groupTask s t.info v = some u →
      2 ≤ u.unstarted.length →
      let all := u.unstarted
      let kept := all.take (all.length - all.length / 2)
      let u1 := { u with entries := kept.take u.entries.length, shipped := kept.drop u.entries.length }
      let t1 := { t with shipped := t.shipped ++ lastN (all.length / 2) all, asking := none }
      exec (.entryShipment v thief) s = .next
        ((s.setArray v { s.array v with task := some u1 }).setArray thief { s.array thief with task := some t1 }))

/-- 12 R338, R339: a message to a core or a hart that exists gives its status in s[d]; a core takes it when its mailbox holds
fewer than 16 entries and it has no other world; receiving takes the oldest entry, and waits while there is none. A message
leaves once the sender's earlier fences are done and while the hub takes requests from its port; a fenced chiplet takes none
(log entry 56). -/
def Obligations.MailboxesComplete : Prop :=
  ∀ (s : State) (x : Issuer) (d a b : BitVec 5), s.issuer .Y = some x →
    (∀ tg, mailTarget (x.reg a) = some tg → fencesOpen s x.agent = false → hubHears s x.agent.port = true →
      exec (.mbxSend d a b) s = .next (x.passed .Y
        (x.setReg (sendMail s x.info.world tg (x.reg b)).1 d (word (sendMail s x.info.world tg (x.reg b)).2)))) ∧
    (mailTarget (x.reg a) = none → exec (.mbxSend d a b) s = .next (x.trapped .Y s .illegalOperand 0 0)) ∧
    (∀ v rest, x.kind = .array → (s.array x.core).mailbox = v :: rest →
      exec (.mbxRecv d) s = .next (x.passed .Y
        (x.setReg (s.setArray x.core { s.array x.core with mailbox := rest }) d v))) ∧
    (∀ v rest, x.kind = .lane → (s.lane x.core).mailbox = v :: rest →
      exec (.mbxRecv d) s = .next (x.passed .Y
        (x.setReg (s.setLane x.core { s.lane x.core with mailbox := rest }) d v))) ∧
    (coreBox s x = [] → exec (.mbxRecv d) s = .next s) ∧
    (∀ c w v, (s.array c).world = none ∨ (s.array c).world = some w ∨ w = 0 → isFenced s .array c = false →
      sendMail s w (0, c) v =
        if 16 ≤ (s.array c).mailbox.length then (s, 1)
        else (s.setArray c { s.array c with mailbox := (s.array c).mailbox ++ [v] }, 0)) ∧
    (∀ c w u v, (s.array c).world = some u → u ≠ w → w ≠ 0 → sendMail s w (0, c) v = (s, 2))

/-- 12 R340, R341: a trap word takes its exception. In a unit that may not enter a handler the word completes and the unit
stops, class 1, in a handler too; in one that may, the thread at the word enters its handler, and that the other threads of the group stay at the
word is the model's reading (log entry 86). On a core that its software has sealed for a save, the stop is pending from
UNIT_SAVE on (19 R449; log entry 37). -/
def Obligations.TrapWordsComplete : Prop :=
  ∀ (s : State) (x : Issuer) (c : BitVec 12), s.issuer .Y = some x →
    ∀ p ∈ ([(.trap c, .trap), (.svc c, .svc), (.brk c, .brk)] : List (Instr × Cause)),
      let stop : Stop := { cause := p.2, cls := 1, code := c.setWidth 16, pc := x.pc, lanes := x.group }
      let trapped := (s.array x.core).task.map fun t => t.pass .Y (x.pc + 4)
      (x.kind = .array → (s.array x.core).sealing = false →
        exec p.1 s = .next (arrayException
          (s.setArray x.core { s.array x.core with task := trapped.map fun t => { t with pend := none } })
          x.core .Y p.2 (c.setWidth 64) c.toNat 0 x.pc)) ∧
      (x.kind = .array → (s.array x.core).sealing = true →
        exec p.1 s = .next (s.setArray x.core
          { s.array x.core with task := trapped.map fun t => { t with pend := some stop } })) ∧
      (∀ w, x.kind = .lane → (s.lane x.core).sealing = false → mapGet? x.slot (s.lane x.core).warps = some w →
        let w1 := if mayEnter x.info.priv x.th then w else advanceGroup w x.pc x.group
        exec p.1 s = .next (laneException
          (s.setLane x.core { s.lane x.core with warps := mapSet x.slot { w1 with pend := none } (s.lane x.core).warps })
          x.core x.slot x.group x.pc (x.pc + 4)
          [{ lane := x.lane, cause := p.2, value := c.setWidth 64, code := c.toNat, addr := 0 }])) ∧
      (∀ w, x.kind = .lane → (s.lane x.core).sealing = true → mapGet? x.slot (s.lane x.core).warps = some w →
        exec p.1 s = .next (s.setLane x.core
          { s.lane x.core with warps := mapSet x.slot { w with pend := some stop } (s.lane x.core).warps }))

/-- 12 R341, R343: what entering a handler saves and where it goes. ESTAT.CAUSE is the cause, EVAL the value, EPC the resume
address, ESTAT.IN is set and the thread goes on at EVEC; every other register of the thread stays. On a lane core every other
thread of the warp is held; on an array core every cursor goes on at EVEC, the stop point is held and the loop levels are
closed. A unit that is not privileged, whose EVEC is 0 or that runs a handler does not enter one. That stride registers stay
in force in the handler is log entry 106, and that the six step counts start at 0 log entry 90. -/
def Obligations.HandlerEntry : Prop :=
  ∀ (s : State) (c slot : Nat) (w : Warp) (g : Workgroup) (th : Thread) (group : List Nat) (pc resume : Word) (f : LaneFault)
    (fs : List LaneFault) (t : Task) (cur : Cursor) (cause : Cause) (value : Word) (code addr : Nat),
    (∀ (u : Thread) (p : Bool), mayEnter p u = true ↔ p = true ∧ u.evec ≠ 0 ∧ u.inHandler = false) ∧
    (∀ u : Thread, u.enter cause value resume =
      { u with estatCause := BitVec.ofNat 8 (causeCode cause), eval := value, epc := resume, inHandler := true,
               pc := u.evec }) ∧
    (mapGet? slot (s.lane c).warps = some w → mapGet? w.wg (s.lane c).wgs = some g → mapGet? f.lane w.threads = some th →
      mayEnter g.info.priv th = true →
      ∃ t' w', laneException s c slot group pc resume (f :: fs) = t' ∧ s.onlyLane t' c ∧
        mapGet? slot (t'.lane c).warps = some w' ∧ mapGet? f.lane w'.threads = some (th.enter f.cause f.value resume) ∧
        ∀ l u, l ≠ f.lane → mapGet? l w.threads = some u → mapGet? l w'.threads = some { u with frozen := true }) ∧
    ((s.array c).task = some t → mayEnter t.info.priv (s.array c).th = true →
      ∃ t' u, arrayException s c cur cause value code addr pc = t' ∧ s.onlyArray t' c ∧
        (t'.array c).th = (s.array c).th.enter cause value t.cursors.s.pc ∧ (t'.array c).task = some u ∧
        (∀ x ∈ u.cursors.list, x.pc = (s.array c).th.evec) ∧ u.stop = t.stop ∧
        u.held = some { cursors := t.cursors, outq := t.outq, outBase := t.outBase, path := t.path, levels := t.levels,
                        replay := t.replay, limits := t.limits } ∧
        (∀ l ∈ u.levels, l.active = false))

/-- 12 R342, R343: `eret` of a privileged unit in its handler. A lane thread goes on at EPC, ESTAT.IN is clear and the
held threads of the warp are released; an array task takes up its held stop point with EPC in the S cursor. Outside a handler it is
illegal-operand, and without privilege it is a privilege fault. -/
def Obligations.HandlerReturnComplete : Prop :=
  ∀ (s : State) (x : Issuer), s.issuer .Y = some x →
    (x.info.priv = false → exec .eret s = .next (x.trapped .Y s .privilege 0 0)) ∧
    (x.info.priv = true → x.th.inHandler = false → exec .eret s = .next (x.trapped .Y s .illegalOperand 0 0)) ∧
    (∀ w, x.info.priv = true → x.th.inHandler = true → x.kind = .lane → mapGet? x.slot (s.lane x.core).warps = some w →
      let w1 := evalMasks (x.group.foldl laneReturn w)
      deadlocked w1 = false →
      exec .eret s = .next (s.setLane x.core
        (evalBar { s.lane x.core with warps := mapSet x.slot w1 (s.lane x.core).warps } x.wg))) ∧
    (∀ t h, x.info.priv = true → x.th.inHandler = true → x.kind = .array → (s.array x.core).task = some t →
      gathered t.cursors = true → t.held = some h →
      exec .eret s = .next (s.setArray x.core
        { s.array x.core with
            th := { (s.array x.core).th with inHandler := false },
            task := some { t with cursors := { h.cursors with s := { h.cursors.s with pc := (s.array x.core).th.epc } },
                                  outq := h.outq, outBase := h.outBase, path := h.path, levels := h.levels,
                                  replay := h.replay, limits := h.limits, held := none } })) ∧
    (∀ (w : Warp) (l : Nat) (th : Thread), mapGet? l w.threads = some th →
      mapGet? l (laneReturn w l).threads = some { th with pc := th.epc, inHandler := false, frozen := false })

/-- 12 R344: `halt`. The threads of a lane group end, their mask bits are cleared, release is evaluated and a warp that has
ended frees its slot (01 R18); an array task ends at its Y cursor once every other cursor has halted, and waits before. What a
workgroup gives up with its last warp is log entry 24. -/
def Obligations.HaltComplete : Prop :=
  ∀ (s : State) (x : Issuer), s.issuer .Y = some x →
    (∀ w, x.kind = .lane → mapGet? x.slot (s.lane x.core).warps = some w → deadlocked (endThreads w x.group) = false →
      exec .halt s = .next (leaveSlot (s.setLane x.core
        ((evalBar { s.lane x.core with warps := mapSet x.slot (endThreads w x.group) (s.lane x.core).warps } x.wg).latch
          x.wg)) x.core x.slot)) ∧
    (∀ t, x.kind = .array → (s.array x.core).task = some t → othersHalted t.cursors = true →
      exec .halt s = .next (endBindings (s.setArray x.core
        { s.array x.core with task := some { t with
            cursors := { t.cursors with y := { t.cursors.y with halted := true } }, ended := true } }) x.core)) ∧
    (∀ t, x.kind = .array → (s.array x.core).task = some t → othersHalted t.cursors = false → exec .halt s = .next s) ∧
    (∀ (w : Warp) (group : List Nat) (l : Nat) (th : Thread), l ∈ group → mapGet? l w.threads = some th →
      ∃ th', mapGet? l (endThreads w group).threads = some th' ∧ th'.run = .ended)

/-- 12 R345 to R351: a read of a system register that the core assigns, by a unit that may read it, gives each thread its
value in s[d]; a write gives the register's writable fields the value. A register that the core does not assign is
illegal-operand, and one of the handler registers is a privilege fault in a unit without privilege. The second part gives the
values of the registers that both kinds of core have and of an array core's own, of those that hardware shows while the window
has written nothing over them (log entry 89), and what a write of each leaves: a handler address without its two low bits,
FPSTAT with its rounding mode and without the flags that are written as 1, a generator that is never 0, and nothing in a
register that cannot be written. -/
def Obligations.SystemRegistersComplete : Prop :=
  (∀ (s : State) (x : Issuer) (d : BitVec 5) (r : BitVec 12), s.issuer .Y = some x →
    (assigned x.kind r = true → isPrivReg r = false ∨ x.info.priv = true →
      exec (.sysrd d r) s = .next (x.passed .Y (x.agents.foldl (readSys x d r.toNat) s))) ∧
    (assigned x.kind r = true → isPrivReg r = false ∨ x.info.priv = true → r ≠ 0x101 →
      exec (.syswr d r) s = .next (x.passed .Y (x.agents.foldl (writeSys x d r.toNat) s))) ∧
    (∀ t, x.kind = .array → (s.array x.core).task = some t → gathered t.cursors = true →
      exec (.syswr d 0x101) s = .next (x.passed .Y (x.agents.foldl (writeSys x d 0x101) s))) ∧
    (assigned x.kind r = false → ∀ i ∈ ([.sysrd d r, .syswr d r] : List Instr),
      exec i s = .next (x.trapped .Y s .illegalOperand 0 0)) ∧
    (assigned x.kind r = true → isPrivReg r = true → x.info.priv = false →
      ∀ i ∈ ([.sysrd d r, .syswr d r] : List Instr), exec i s = .next (x.trapped .Y s .privilege 0 0))) ∧
  (∀ (s : State) (x : Issuer) (l : Nat) (th : Thread) (ra : BitVec 5) (c : Nat),
    let read (n : Nat) : Word := sysValue s x l th n
    let fresh (n : Nat) : Prop := match x.kind with
      | .array => mapGet? n (s.array x.core).shadow = none
      | .lane => mapGet? (laneSysBase + n) (s.lane x.core).shadow = none
    read 0x000 = th.fpstat ∧ read 0x008 = th.timeFrac.setWidth 64 ∧
    read 0x010 = word (th.estatCause.toNat * 256 + (if th.inHandler then 1 else 0)) ∧ read 0x011 = th.epc ∧
    read 0x012 = th.eval ∧ read 0x013 = th.evec ∧
    (x.kind = .lane ∨ (s.array x.core).task.isSome = true →
      read 0x003 = word (x.info.world + 256 * (if x.info.priv then 1 else 0)) ∧ read 0x005 = x.info.launchId ∧
      read 0x006 = word x.idx) ∧
    (fresh 0x004 → read 0x004 = word (s.module * 2 ^ 32 + (if x.kind = .lane then 256 else 0) + x.core)) ∧
    (fresh 0x007 → read 0x007 = word (s.time / 65536)) ∧
    (fresh 0x00A → read 0x00A = word (coreBox s x).length) ∧
    (x.kind = .lane ∨ (s.array x.core).task.isSome = true →
      let cnt := unitCounters s x
      read 0x001 = word (cnt.ld + cnt.st * 2 ^ 8 + cnt.cp * 2 ^ 16 + cnt.tl * 2 ^ 24)) ∧
    (fresh 0x002 → read 0x002 =
      word (th.batch.last + th.batch.pend.length * 2 ^ 16 + min th.batch.openCount 63 * 2 ^ 32)) ∧
    read 0x009 = (srOf s x).setWidth 64 ∧
    (∀ tk, x.kind = .array → (s.array x.core).task = some tk →
      let it (n : Nat) : Iter := nth { active := false, trip := 0, iter := 0 } tk.cursors.y.iters n
      (fresh 0x100 → read 0x100 = word ((s.array x.core).limit + tk.outq.length * 2 ^ 16)) ∧
      read 0x101 = word x.base ∧
      (fresh 0x102 → ∀ n, n < 6 → (read 0x102).getLsbD n = (it n).active) ∧
      (∀ n, n < 6 → fresh (0x103 + n) → read (0x103 + n) = word ((it n).trip * 2 ^ 32 + (it n).iter)) ∧
      (∀ q, q < 16 → read (0x110 + q) = qstateShown s x.core q ∧ (fresh (0x110 + q) → read (0x110 + q) = qstate s x.core q))) ∧
    (x.kind = .array → x.core = c →
      (writeSys x ra 0x000 s (.task c)).array c = { s.array c with th := { (s.array c).th with
        fpstat := writeFpstat (s.array c).th.fpstat ((s.array c).th.reg x.ring ra) } }) ∧
    (∀ v : Word, writeFpstat th.fpstat v =
      (th.fpstat &&& 0x3F00 &&& ~~~(v &&& 0x3F00)) ||| (if v.toNat % 8 < 5 then v &&& 7 else 0)) ∧
    (let v := ((threadOf s (.task c)).reg x.ring ra).setWidth 16
     srOf (writeSys x ra 0x009 s (.task c)) x = if v = 0 then 1 else v) ∧
    (x.kind = .lane → read 0x200 = word l ∧ read 0x205 = x.info.record.spillBase ∧
      read 0x206 = word x.info.record.spillSize) ∧
    (x.kind = .array → x.core = c →
      (writeSys x ra 0x011 s (.task c)).array c =
        { s.array c with th := { (s.array c).th with epc := (s.array c).th.reg x.ring ra &&& 0xFFFFFFFFFFFFFFFC } } ∧
      (writeSys x ra 0x013 s (.task c)).array c =
        { s.array c with th := { (s.array c).th with evec := (s.array c).th.reg x.ring ra &&& 0xFFFFFFFFFFFFFFFC } }) ∧
    (∀ n ∈ ([0x001, 0x002, 0x003, 0x004, 0x005, 0x006, 0x007, 0x008, 0x00A, 0x010, 0x012] : List Nat),
      writeSys x ra n s (.task c) = s))

/-- 08 R212 to R214: the register windows. `callw`, where the ring of every thread of the group has room for `n` registers,
opens on each of them a window of `n` registers that read as zero; `retw`, where every thread stands at depth 1 or has its
caller's window resident, returns each of them to it, at depth 1 to no window at all; and the group goes on at the next word.
A thread alone in its group also completes where windows are stored or loaded. On an array core both words only pass. That
such a thread first waits for its accesses is log entry 58. -/
def Obligations.RegisterWindowsComplete : Prop :=
  let opened (ring n : Nat) (u : Thread) : Thread :=
    let p := (u.win.wbase + u.win.cur) % ring
    { (ringRegs ring p n).foldl (fun (y : Thread) r => y.setPreg r 0) u with
        win := { u.win with wbase := p, cur := n, depth := u.win.depth + 1, resident := n :: u.win.resident } }
  let returned (ring : Nat) (u : Thread) : Thread :=
    if u.win.depth = 1 then { u with win := { u.win with cur := 0, wbase := 0, depth := 0, resident := [] } }
    else
      let m := nth 0 u.win.resident 1
      { u with win := { u.win with resident := u.win.resident.drop 1, wbase := (u.win.wbase + ring - m) % ring, cur := m,
                                   depth := u.win.depth - 1 } }
  ∀ (s : State) (n : BitVec 12) (c slot lane : Nat) (k : LaneCore) (w : Warp) (g : Workgroup) (th th1 : Thread) (s1 : State),
    (∀ (group : List Nat), s.sel = .lane c slot lane → runningGroup s c slot lane = some (k, w, g, group) →
      let ring := ringOf k.code
      let each (f : Thread → Thread) : List (Nat × Thread) := group.filterMap fun l =>
        (mapGet? l w.threads).map fun u => (l, { f u with pc := groupPc w group + 4 })
      let all (f : Thread → Thread) : State := s.setLane c
        { k with warps := mapSet slot { w with threads := (each f).foldl (fun m y => mapSet y.1 y.2 m) w.threads } k.warps }
      (8 ≤ n.toNat → n.toNat ≤ 32 →
        (∀ l ∈ group, ∀ u, mapGet? l w.threads = some u → u.win.depth ≠ 4095 ∧ n.toNat ≤ ring - u.win.held) →
        exec (.callw n) s = .next (all (opened ring n.toNat))) ∧
      ((∀ l ∈ group, ∀ u, mapGet? l w.threads = some u →
          u.win.depth = 1 ∨ 1 < u.win.depth ∧ 2 ≤ u.win.resident.length) →
        exec .retw s = .next (all (returned ring)))) ∧
    (8 ≤ n.toNat → n.toNat ≤ 32 → (∀ c k tk, s.sel = .array c .S → runningTask s c .S = some (k, tk) →
      exec (.callw n) s = .next (s.setArray c { k with task := some (tk.pass .S (tk.cursors.s.pc + 4)) }) ∧
      exec .retw s = .next (s.setArray c { k with task := some (tk.pass .S (tk.cursors.s.pc + 4)) }))) ∧
    (s.sel = .lane c slot lane → runningGroup s c slot lane = some (k, w, g, [lane]) → mapGet? lane w.threads = some th →
      let x := laneCtx k c slot lane g
      let o : Origin := { world := g.info.world, job := g.info.job, launch := g.info.launch, kind := .lane, core := c,
                          idx := w.idx.toNat, slot := slot, key := slot, lane := lane, pc := th.pc, cursor := 0xFF }
      let a : Agent := .lane c slot lane
      let put (y : Thread) (z : Warp) : Warp := { z with threads := mapSet lane { y with pc := th.pc + 4 } z.threads }
      let done (u : State) (y : Thread) : State :=
        u.setLane c { u.lane c with warps := mapUpdate slot (put y) (u.lane c).warps }
      (callThread x a o (g.scrBase, g.scrSize) n.toNat th s = .ok (s1, th1) →
        exec (.callw n) s = .next (done s1 th1)) ∧
      (returnThread x a o (g.scrBase, g.scrSize) th s = .ok (s1, th1) →
        exec .retw s = .next (done s1 th1))) ∧
    (∀ u, n.toNat < 8 ∨ 32 < n.toNat → s.faulted .S (refusing .illegalOperand) = some u → exec (.callw n) s = .next u) ∧
    (∀ (x : Ctx) (a : Agent) (o : Origin) (scr : Nat × Nat),
      (8 ≤ n.toNat → n.toNat ≤ 32 → th.win.depth ≠ 4095 → n.toNat ≤ x.ring - th.win.held →
        callThread x a o scr n.toNat th s = .ok (s, opened x.ring n.toNat th)) ∧
      (th.win.depth = 0 → returnThread x a o scr th s = .fault .illegalOperand 0) ∧
      (th.win.depth = 1 ∨ 1 < th.win.depth ∧ 2 ≤ th.win.resident.length →
        returnThread x a o scr th s = .ok (s, returned x.ring th)) ∧
      (n.toNat < 8 ∨ 32 < n.toNat → callThread x a o scr n.toNat th s = .fault .illegalOperand 0))

/-! ### Loops -/

/-- 09 R255 to R259: the loop words of an array task. `lseq` opens its level for a trip count of 1 to 2^32 - 1 and passes
over the loop for 0; `lend` applies the level's strides, goes back or closes the level, and lowers the rotating base of a
rotating loop; `lfirst` and `llast` put a mark on the words behind them; `lstride` sets, replaces or removes a stride of a
level that is not active; `lbrk` leaves the loop where its register is not zero. -/
def Obligations.LoopWordsComplete : Prop :=
  ∀ (s : State) (c : Nat) (k : ArrayCore) (t : Task) (lvl : BitVec 3) (r : BitVec 5) (len m : BitVec 8) (h : BitVec 1)
    (stride : BitVec 16),
    s.sel = .array c .S → runningTask s c .S = some (k, t) → lvl.toNat < 6 →
    let n := lvl.toNat
    let pc := t.cursors.s.pc
    let base := t.cursors.s.base
    let l := t.level n
    let count := (k.th.reg 96 r).toNat
    let stop := pc + word (4 * (len.toNat + 1))
    let branch (k1 : ArrayCore) (t1 : Task) (b : Nat) (addr : Word) : State :=
      s.setArray c { k1 with rotBase := b, task := some (t1.branch b addr) }
    let pass (t1 : Task) : State := s.setArray c { k with task := some (t1.pass .S (pc + 4)) }
    (∀ p ∈ ([(.lseq lvl r len, false), (.lseqRot lvl r len, true)] : List (Instr × Bool)),
      (n = 0 ∨ (t.level (n - 1)).active = true ∧ stop.toNat < (t.level (n - 1)).stop.toNat) → l.active = false →
      (count = 0 → exec p.1 s = .next (branch k t base (stop + 4))) ∧
      (0 < count → count < 2 ^ 32 → exec p.1 s = .next (branch k (t.setLevel n
        { l with active := true, trip := count, iter := 0, rotate := p.2, start := pc + 4, stop := stop }) base (pc + 4))) ∧
      (2 ^ 32 ≤ count → exec p.1 s = .next (arrayException s c .S .loopStructure 0 0 0 pc))) ∧
    (l.active = true → (t.level (n + 1)).active = false → pc = l.stop →
      let k1 := { k with th := l.slots.foldl applyStride k.th }
      let b := if l.rotate then (base + 31) % 32 else base
      (l.iter + 1 < l.trip → exec (.lend lvl) s = .next (branch k1 (t.setLevel n { l with iter := l.iter + 1 }) b l.start)) ∧
      (l.trip ≤ l.iter + 1 → exec (.lend lvl) s = .next (branch k1 (t.setLevel n l.close) b (pc + 4)))) ∧
    (∀ p ∈ ([(.lfirst lvl m, false), (.llast lvl m, true)] : List (Instr × Bool)),
      m ≠ 0 → l.active = true → pc.toNat + 4 * m.toNat < l.stop.toNat →
      exec p.1 s = .next (pass (t.mark .S n p.2 (m.toNat + 1)))) ∧
    (l.active = false →
      let rest := l.slots.filter fun y => !(y.1 == (h == 1) && y.2.1 == r.toNat)
      (stride = 0 → exec (.lstride lvl h r stride) s = .next (pass (t.setLevel n { l with slots := rest }))) ∧
      (stride ≠ 0 → rest.length < 4 → exec (.lstride lvl h r stride) s =
        .next (pass (t.setLevel n { l with slots := rest ++ [(h == 1, r.toNat, stride)] })))) ∧
    (l.active = true →
      (count = 0 → exec (.lbrk lvl r) s = .next (branch k t base (pc + 4))) ∧
      (count ≠ 0 → exec (.lbrk lvl r) s =
        .next (branch k { t with levels := closeFrom n t.levels } base (l.stop + 4))))

/-- 09 R255 to R259, 07 R180, R193: where a loop word faults. Levels 6 and 7 are illegal-operand; a word that does not fit
the loops that are open is loop-structure: a body not wholly inside the enclosing level's, a trip count of 2^32 or more, a
`lend` while an inner level is active or at a place that is not its level's end, a fifth stride register, a mark that reaches
its level's end; so is, at its place on the path, a word that stands at the end of the innermost level and is no `lend` of it,
and a marked loop or branch word. Every loop word is engine-absent on a lane core. -/
def Obligations.LoopWordsRefused : Prop :=
  ∀ (s u : State) (c : Nat) (k : ArrayCore) (t : Task) (lvl : BitVec 3) (r : BitVec 5) (len m : BitVec 8) (h : BitVec 1)
    (stride : BitVec 16),
    let words : List Instr := [.lseq lvl r len, .lseqRot lvl r len, .lend lvl, .lfirst lvl m, .llast lvl m,
      .lstride lvl h r stride, .lbrk lvl r]
    ((∀ d cur, s.sel ≠ .array d cur) → s.faulted .S (refusing .engineAbsent) = some u → ∀ i ∈ words, exec i s = .next u) ∧
    (s.sel = .array c .S → runningTask s c .S = some (k, t) →
      let fault (cause : Cause) : State := arrayException s c .S cause 0 0 0 t.cursors.s.pc
      let n := lvl.toNat
      (6 ≤ n → ∀ i ∈ words, exec i s = .next (fault .illegalOperand)) ∧
      (n < 6 → 0 < n → (t.level (n - 1)).active = false →
        exec (.lseq lvl r len) s = .next (fault .loopStructure) ∧ exec (.lseqRot lvl r len) s = .next (fault .loopStructure)) ∧
      (n < 6 → (t.level n).active = true →
        exec (.lseq lvl r len) s = .next (fault .loopStructure) ∧ exec (.lseqRot lvl r len) s = .next (fault .loopStructure) ∧
        exec (.lstride lvl h r stride) s = .next (fault .loopStructure)) ∧
      (n < 6 → (t.level n).active = false →
        exec (.lend lvl) s = .next (fault .loopStructure) ∧ exec (.lbrk lvl r) s = .next (fault .loopStructure) ∧
        (m ≠ 0 → exec (.lfirst lvl m) s = .next (fault .loopStructure) ∧
          exec (.llast lvl m) s = .next (fault .loopStructure))) ∧
      (n < 6 → m = 0 → exec (.lfirst lvl m) s = .next (fault .illegalOperand) ∧
        exec (.llast lvl m) s = .next (fault .illegalOperand)) ∧
      (n < 6 → 0 < n → (t.level (n - 1)).active = true →
        (t.level (n - 1)).stop.toNat ≤ (t.cursors.s.pc + word (4 * (len.toNat + 1))).toNat →
        exec (.lseq lvl r len) s = .next (fault .loopStructure) ∧ exec (.lseqRot lvl r len) s = .next (fault .loopStructure)) ∧
      (n < 6 → 2 ^ 32 ≤ (k.th.reg 96 r).toNat →
        exec (.lseq lvl r len) s = .next (fault .loopStructure) ∧ exec (.lseqRot lvl r len) s = .next (fault .loopStructure)) ∧
      (n < 6 → (t.level (n + 1)).active = true ∨ t.cursors.s.pc ≠ (t.level n).stop →
        exec (.lend lvl) s = .next (fault .loopStructure)) ∧
      (n < 6 → stride ≠ 0 →
        4 ≤ ((t.level n).slots.filter fun y => !(y.1 == (h == 1) && y.2.1 == r.toNat)).length →
        exec (.lstride lvl h r stride) s = .next (fault .loopStructure)) ∧
      (n < 6 → m ≠ 0 → (t.level n).stop.toNat ≤ t.cursors.s.pc.toNat + 4 * m.toNat →
        exec (.lfirst lvl m) s = .next (fault .loopStructure) ∧ exec (.llast lvl m) s = .next (fault .loopStructure))) ∧
    (∀ (cur : Cursor) (e : PathEntry) (i : Instr), notAWord .array e.raw = none → behindWcnt t e.step = false →
      inWindowLimit k t cur = true → decodeWord e.raw = .ok i → failedRow t.info.priv e.raw i = none →
      ((t.cursors.get cur).taken = t.cursors.s.taken ∧ badEnd t e.pc e.raw = true ∨
        cur = .S ∧ t.cursors.s.marks ≠ [] ∧ (isLoopWord e.raw = true ∨ isBranchMajor e.raw = true)) →
      moveOf s c k t cur e = .fault .loopStructure)

/-! ### The vector engine -/

/-- 09 R242 to R250: the words that write a vector register of an array core. Each active lane of v[d] takes its result and
every other lane keeps its value; flags of active lanes are raised in FPSTAT; the poison bit of v[d] is that of the sources,
and its own where a lane keeps its value. No other register changes. The functions of 02 R82 are log entry 10, and a NaN that
`vabs` and `vneg` leave as it is log entry 111. -/
def Obligations.VectorWordsComplete : Prop :=
  ∀ (s : State) (x : Issuer) (d a b : BitVec 6) (m : BitVec 4), s.issuer .V = some x → x.kind = .array →
    let k := s.array x.core
    let rm := rmOf k.th.fpstat
    let u (n : BitVec 6) (l : Nat) : Nat := vget x k n l
    let fp (n : BitVec 6) (l : Nat) : FVal := decodeF fp32 (u n l)
    let w (n : BitVec 6) (l : Nat) : BitVec 32 := b32 (u n l)
    let lane32 (v : BitVec 32) : Nat × Flag := (v.toNat, noFlag)
    let rounded (r : FRes) : Nat × Flag := fpRounded .f32 rm r
    let nearest (g : VFun) (l : Nat) : Nat × Flag := fpRounded .f32 0 (vfunF g (fp a l))
    let tree (identity : Nat) (f : Nat → Nat → Nat × Flag) : Nat × Flag :=
      let r := treeReduce f 7 (laneNos.map fun l => if active x k m l then some (u a l) else none) noFlag
      (r.1.getD identity, r.2)
    ∀ p ∈ ([
        (.vaddF32 d a b m, m, [a, b], fun l => rounded (addF rm (fp a l) (fp b l))),
        (.vsubF32 d a b m, m, [a, b], fun l => rounded (subF rm (fp a l) (fp b l))),
        (.vmulF32 d a b m, m, [a, b], fun l => rounded (mulF (fp a l) (fp b l))),
        (.vfmaF32 d a b m, m, [a, b, d], fun l => rounded (fmaF rm (fp a l) (fp b l) (fp d l))),
        (.vminF32 d a b m, m, [a, b], fun l => fpBits (minMaxF fp32 false (u a l) (u b l))),
        (.vmaxF32 d a b m, m, [a, b], fun l => fpBits (minMaxF fp32 true (u a l) (u b l))),
        (.vabsF32 d a m, m, [a], fun l => lane32 (keepNaN (w a l) (w a l &&& 0x7FFFFFFF))),
        (.vnegF32 d a m, m, [a], fun l => lane32 (keepNaN (w a l) (w a l ^^^ 0x80000000))),
        (.vaddI32 d a b m, m, [a, b], fun l => lane32 (w a l + w b l)),
        (.vsubI32 d a b m, m, [a, b], fun l => lane32 (w a l - w b l)),
        (.vmulI32 d a b m, m, [a, b], fun l => lane32 (w a l * w b l)),
        (.vand d a b m, m, [a, b], fun l => lane32 (w a l &&& w b l)),
        (.vor d a b m, m, [a, b], fun l => lane32 (w a l ||| w b l)),
        (.vxor d a b m, m, [a, b], fun l => lane32 (w a l ^^^ w b l)),
        (.vshl d a b m, m, [a, b], fun l => lane32 (w a l <<< (u b l % 32))),
        (.vsar d a b m, m, [a, b], fun l => lane32 ((w a l).sshiftRight (u b l % 32))),
        (.vexp2 d a m, m, [a], nearest .exp2),
        (.vlog2 d a m, m, [a], nearest .log2),
        (.vrcp d a m, m, [a], nearest .rcp),
        (.vrsqrt d a m, m, [a], nearest .rsqrt),
        (.vtanh d a m, m, [a], nearest .tanh),
        (.vperm d a b m, m, [a, b], fun l => (u a (u b l % 128), noFlag)),
        (.vmov d a m, m, [a], fun l => (u a l, noFlag)),
        (.vlane d m, m, [], fun l => (l, noFlag)),
        (.vrsumF32 d a m, 0, [a], fun _ => tree 0 fun y z => rounded (addF rm (decodeF fp32 y) (decodeF fp32 z))),
        (.vrmaxF32 d a m, 0, [a], fun _ => tree 0xFF800000 fun y z => fpBits (minMaxF fp32 true y z)),
        (.vrminF32 d a m, 0, [a], fun _ => tree 0x7F800000 fun y z => fpBits (minMaxF fp32 false y z)),
        (.vrsumI32 d a m, 0, [a], fun _ => tree 0 fun y z => lane32 (b32 y + b32 z)),
        (.vrmaxI32 d a m, 0, [a],
          fun _ => tree 0x80000000 fun y z => (if signed 32 y < signed 32 z then z else y, noFlag)),
        (.vrminI32 d a m, 0, [a],
          fun _ => tree 0x7FFFFFFF fun y z => (if signed 32 z < signed 32 y then z else y, noFlag))] ++
        (if m = 0 then [] else
          [(.vsel d a b m, 0, [a, b], fun l => (if active x k m l then u a l else u b l, noFlag))]) ++
        (if 32 ≤ a.toNat then [] else
          [(.vbcast d a m, m, [], fun _ => ((x.reg6 a).toNat % 2 ^ 32, noFlag))]) ++
        (if 32 ≤ b.toNat then [] else
          [(.vslup d a b m, m, [a], fun l => (if (x.reg6 b).toNat ≤ l then u a (l - (x.reg6 b).toNat) else 0, noFlag)),
           (.vsldn d a b m, m, [a],
             fun l => (if l + (x.reg6 b).toNat ≤ 127 then u a (l + (x.reg6 b).toNat) else 0, noFlag))]) :
        List (Instr × BitVec 4 × List (BitVec 6) × (Nat → Nat × Flag))),
      let on (l : Nat) : Bool := active x k p.2.1 l
      ∃ t, exec p.1 s = .next t ∧ s.onlyArray t x.core ∧
        let k1 := t.array x.core
        (∀ l, l < 128 → k1.vlane (rotV x.base d.toNat) l =
          if on l then BitVec.ofNat 32 (p.2.2.2 l).1 else k.vlane (rotV x.base d.toNat) l) ∧
        (∀ n l, l < 128 → n ≠ rotV x.base d.toNat → k1.vlane n l = k.vlane n l) ∧
        (∀ n, mapGet false k1.vpoison n =
          if n = rotV x.base d.toNat then
            p.2.2.1.any (vpoisoned x k) || mapGet false k.vpoison n && laneNos.any fun l => !on l
          else mapGet false k.vpoison n) ∧
        k1 = { k with
          vregs := k1.vregs, vpoison := k1.vpoison,
          th := k.th.raise (laneNos.foldl (fun n l => if on l then n ||| (p.2.2.2 l).2 else n) noFlag),
          task := k.task.map fun y => y.pass .V (x.pc + 4) }

/-- 09 R242, R247, R248: the words that write a predicate of an array core. Each active element of p[d] takes its result
and every other element is 0; flags of active lanes are raised in FPSTAT; nothing else changes. -/
def Obligations.PredicateWordsComplete : Prop :=
  ∀ (s : State) (x : Issuer) (d a b : BitVec 6) (m : BitVec 4), s.issuer .V = some x → x.kind = .array → d.toNat < 16 →
    let k := s.array x.core
    let u (n : BitVec 6) (l : Nat) : Nat := vget x k n l
    let fp (n : BitVec 6) (l : Nat) : FVal := decodeF fp32 (u n l)
    let bit (n : BitVec 6) (l : Nat) : Bool := (k.pred (rotP x.base n.toNat)).getLsbD l
    ∀ p ∈ ([
        (.vcmpEqF32 d a b m, fun l => cmpF 0 (fp a l) (fp b l)),
        (.vcmpLtF32 d a b m, fun l => cmpF 1 (fp a l) (fp b l)),
        (.vcmpLeF32 d a b m, fun l => cmpF 2 (fp a l) (fp b l)),
        (.vcmpUnF32 d a b m, fun l => cmpF 3 (fp a l) (fp b l)),
        (.vcmpEqI32 d a b m, fun l => (u a l == u b l, noFlag)),
        (.vcmpLtI32 d a b m, fun l => (decide (signed 32 (u a l) < signed 32 (u b l)), noFlag)),
        (.vcmpLeI32 d a b m, fun l => (decide (signed 32 (u a l) ≤ signed 32 (u b l)), noFlag)),
        (.vcmpLtuI32 d a b m, fun l => (decide (u a l < u b l), noFlag))] ++
        (if 16 ≤ a.toNat then [] else [(.pnot d a m, fun l => (!bit a l, noFlag))]) ++
        (if 16 ≤ a.toNat ∨ 16 ≤ b.toNat then [] else
          [(.pand d a b m, fun l => (bit a l && bit b l, noFlag)),
           (.por d a b m, fun l => (bit a l || bit b l, noFlag)),
           (.pxor d a b m, fun l => (bit a l ^^ bit b l, noFlag))]) : List (Instr × (Nat → Bool × Flag))),
      ∃ t, exec p.1 s = .next t ∧ s.onlyArray t x.core ∧
        let k1 := t.array x.core
        (∀ l, l < 128 → (k1.pred (rotP x.base d.toNat)).getLsbD l = (active x k m l && (p.2 l).1)) ∧
        (∀ n, n ≠ rotP x.base d.toNat → k1.pred n = k.pred n) ∧
        k1 = { k with
          preds := k1.preds,
          th := k.th.raise (laneNos.foldl (fun n l => if active x k m l then n ||| (p.2 l).2 else n) noFlag),
          task := k.task.map fun y => y.pass .V (x.pc + 4) }

/-- 09 R251 to R253: the row moves of an array core between a vector register and a row of a tile that is ready, or of an
accumulator, where the tile passes their checks. A row is written into a tile that no operation reads. -/
def Obligations.RowMovesComplete : Prop :=
  ∀ (s s1 : State) (x : Issuer) (vd ta tb : BitVec 6) (slot : BitVec 3) (h n a : Nat),
    s.issuer .V = some x → x.kind = .array → tb.toNat < 32 →
    let k := s.array x.core
    let r := (rowOperand (x.reg6 tb)).1
    let c0 := (rowOperand (x.reg6 tb)).2
    let e := x.entry s n
    let hd := e.header
    let img := (x.tiles s).image e
    let plain := (hd.fmt == 1 || hd.fmt == 14) && hd.sparse == 0
    let f := x.fslot slot
    (tileName x.kind ta = .handle h → pickHandle s x h = .ok n →
      ((rowChecks s x e r c0 plain).all (·.ok) = true →
        readRow s x k vd (hd.cols - c0) hd.poison 0 (fun l _ => (((hd.rawAt img r (c0 + l)).map (·.1)).getD 0, noFlag))
          = .done s1 →
        exec (.vtrd vd ta tb) s = .next (x.passed .V s1)) ∧
      ((rowChecks s x e r c0 true).all (·.ok) = true →
        readRow s x k vd (hd.cols - c0) hd.poison (if isIntFmt hd.fmt ∧ hd.slayout = 0 then 0 else rmFull k.th.fpstat)
          (fun l st => decodedLane hd k.books img (rmFull k.th.fpstat) r (c0 + l) st) = .done s1 →
        exec (.vtrdc vd ta tb) s = .next (x.passed .V s1)) ∧
      (e.readers = 0 → (rowChecks s x e r c0 plain).all (·.ok) = true →
        writeRow s x k n r c0 vd 0 (fun l _ => (vget x k vd l, noFlag)) = .done s1 →
        exec (.vtwr ta vd tb) s = .next (x.passed .V s1)) ∧
      (e.readers = 0 →
        (rowChecks s x e r c0 (hd.fmt != fmtCb2 && hd.fmt != fmtA56 && hd.sparse == 0 && hd.slayout == 0)).all (·.ok) = true →
        f.admits 1 = true → f.fmt = hd.fmt →
        writeRow s x k n r c0 vd f.rm (fun l st =>
          let v := roundElem hd.fmt f.rm f.saten st.toNat (decodeF fp32 (vget x k vd l))
          (v.bits, v.flags)) = .done s1 →
        exec (.vtwrc ta vd tb slot) s = .next (x.passed .V s1))) ∧
    (tileName x.kind ta = .acc a → r ≤ 127 → c0 ≤ 127 →
      let acc := mapGet Acc.blank k.accs a
      let cols := match acc.extent with
        | some (m, n) => if r < m then n - c0 else 0
        | none => 0
      readRow s x k vd cols acc.poison (rmFull k.th.fpstat) (fun l st =>
        let v := roundVal fp32 (rmFull k.th.fpstat) false st.toNat (decodeF a56 (acc.at r (c0 + l)))
        (v.bits, v.flags)) = .done s1 →
      exec (.vtrd vd ta tb) s = .next (x.passed .V s1))

/-! ### The matrix engine -/

/-- 10 R268 to R271: `mma`, `mma.z` and `mclr` on operands that pass their checks. The accumulator takes its sums with the
flags NV and OF, `mma.z` starting from a cleared one, and the operation holds its operands until it retires. -/
def Obligations.ProductsComplete : Prop :=
  ∀ (s : State) (x : Issuer) (td ta tb : BitVec 6) (slot : BitVec 3) (key ea eb : Nat),
    s.issuer .M = some x → unitFull s x = false → accOf s x td = some key →
    let na := tileName x.kind ta
    let nb := tileName x.kind tb
    (pickSource s x na = .ok ea → pickSource s x nb = .ok eb →
      ∀ p ∈ ([(.mma td ta tb slot, getAcc s x key), (.mmaZ td ta tb slot, Acc.blank)] : List (Instr × Acc)),
        allPass (mmaChecks s x (x.fslot slot) na nb ea eb p.2) = true →
        exec p.1 s = .next (x.passed .M (mmaIssue s x key na nb ea eb p.2))) ∧
    exec (.mclr td) s = .next (x.passed .M (issueOp (setAcc s x key Acc.blank) x (TileOp.blank x s.nextId .matrix)))

/-- 10 R273 to R282: the matrix words that build a tile, write or read a header, or load a codebook, on operands that pass
their checks: the result is built from the operands at once, its flags are raised, and it is stored when the operation
retires. The rounding of A56 elements is log entry 19, and the bits left over in a transposed bitmap are log entry 18. -/
def Obligations.TileWordsComplete : Prop :=
  ∀ (s : State) (x : Issuer) (td ta tb : BitVec 6) (slot tbl : BitVec 3) (key n ea h : Nat),
    s.issuer .M = some x → unitFull s x = false →
    let f := x.fslot slot
    let d := tileName x.kind td
    let a := tileName x.kind ta
    let hdr := (x.entry s ea).header
    let img := (x.tiles s).image (x.entry s ea)
    let stored (srcs : List (TileName × Nat)) (b : Built) : State := issueOp s x (resultOp s x d n srcs b.hdr.word b.image)
    (d.isDest = true → accOf s x ta = some key → pickDest s x d = .ok n →
      allPass (moutChecks s x f d n (getAcc s x key)) = true →
      exec (.mout td ta slot) s = .next (x.passed .M (issueBuilt s x d n [] (moutTile s x f (getAcc s x key))))) ∧
    (d.isDest = true → a.isDest = true → pickSource s x a = .ok ea → pickDest s x d = .ok n →
      (allPass (tcvtChecks s x f d a n ea) = true →
        exec (.tcvt td ta slot) s = .next (x.passed .M (issueBuilt s x d n [(a, ea)] (tcvtTile s x f ea)))) ∧
      (allPass (mtrChecks s x d a n ea) = true →
        exec (.mtr td ta) s = .next (x.passed .M (stored [(a, ea)] (transpose hdr img))))) ∧
    (d.isDest = true → a = .handle h → pickHandle s x h = .ok ea → pickDest s x d = .ok n →
      allPass (tzeroChecks s x f d n ea) = true →
      exec (.tzero td ta slot) s = .next (x.passed .M (stored [(a, ea)] (zeroTile f hdr.rows hdr.cols)))) ∧
    (∀ o, a.isDest = true → tb.toNat < 32 → pickSource s x a = .ok ea → localAt s x 32 32 (x.reg6 tb) = .ok o →
      exec (.thdrRd ta tb) s = .next (x.passed .M (issueOp s x { TileOp.blank x s.nextId .matrix with
        imageAt := o, image := bytesOfNat 32 (x.entry s ea).hdr.toNat }))) ∧
    (∀ o, d = .handle h → tb.toNat < 32 → pickFill s x h = .ok n → localAt s x 32 32 (x.reg6 tb) = .ok o →
      let w := natOfBytes (readCore s x.kind x.core o 32)
      allPass (thdrChecks s x n w) = true →
      exec (.thdrWr td tb) s = .next (x.passed .M
        (issueOp s x (resultOp s x d n [] (retyped w).word (retyped w).bytes)))) ∧
    (∀ o, x.kind = .array → ta.toNat < 32 → tbl ≠ 0 → localAt s x 128 1024 (x.reg6 ta) = .ok o →
      exec (.cbld ta tbl) s = .next (x.passed .M (issueOp (loadBook s x tbl o) x (TileOp.blank x s.nextId .matrix))))

/-- 03 R104, R105; 07 R189; 10 R266, R273 to R282: a matrix word makes its checks in their order and takes the fault of the
first that fails, with the queue of the operand as its code where that is a queue head; operands of a wrong kind fault before
a tile is looked at; `thdr.rd`, `thdr.wr` and `cbld` name an aligned place in the core's own storage; an M word of a lane core
waits while 16 M words have issued and not retired (10 R287). That the code is the index of the queue is log entry 27. -/
def Obligations.MatrixFaultsInOrder : Prop :=
  ∀ (s : State) (x : Issuer) (td ta tb : BitVec 6) (slot : BitVec 3) (key n ea eb h o : Nat) (c : Check) (cause : Cause),
    s.issuer .M = some x →
    let f := x.fslot slot
    let d := tileName x.kind td
    let na := tileName x.kind ta
    let nb := tileName x.kind tb
    let fault : State := x.trapped .M s c.cause 0 c.code
    (unitFull s x = true → ∀ i ∈ ([.mma td ta tb slot, .mmaZ td ta tb slot, .mout td ta slot, .mclr td, .mtr td ta,
      .tcvt td ta slot, .thdrRd ta tb, .thdrWr td tb, .cbld ta slot, .tzero td ta slot] : List Instr), exec i s = .next s) ∧
    (unitFull s x = false →
      (accOf s x td = some key → pickSource s x na = .ok ea → pickSource s x nb = .ok eb →
        ∀ p ∈ ([(.mma td ta tb slot, getAcc s x key), (.mmaZ td ta tb slot, Acc.blank)] : List (Instr × Acc)),
          firstBad (mmaChecks s x f na nb ea eb p.2) = some c → exec p.1 s = .next fault) ∧
      (accOf s x td = none → ∀ i ∈ ([.mma td ta tb slot, .mmaZ td ta tb slot, .mclr td] : List Instr),
        exec i s = .next (x.trapped .M s .illegalOperand 0 0)) ∧
      ((na.isDest && nb.isDest) = false → ∀ i ∈ ([.mma td ta tb slot, .mmaZ td ta tb slot] : List Instr),
        exec i s = .next (x.trapped .M s .illegalOperand 0 0)) ∧
      (d.isDest = true → accOf s x ta = some key → pickDest s x d = .ok n →
        firstBad (moutChecks s x f d n (getAcc s x key)) = some c → exec (.mout td ta slot) s = .next fault) ∧
      (d.isDest = true → na.isDest = true → pickSource s x na = .ok ea → pickDest s x d = .ok n →
        (firstBad (tcvtChecks s x f d na n ea) = some c → exec (.tcvt td ta slot) s = .next fault) ∧
        (firstBad (mtrChecks s x d na n ea) = some c → exec (.mtr td ta) s = .next fault)) ∧
      (d.isDest = true → na = .handle h → pickHandle s x h = .ok ea → pickDest s x d = .ok n →
        firstBad (tzeroChecks s x f d n ea) = some c → exec (.tzero td ta slot) s = .next fault) ∧
      (na.isDest = true → tb.toNat < 32 → pickSource s x na = .ok ea → localAt s x 32 32 (x.reg6 tb) = .error cause →
        exec (.thdrRd ta tb) s = .next (x.trapped .M s cause (x.reg6 tb).toNat 0)) ∧
      (d = .handle h → tb.toNat < 32 → pickFill s x h = .ok n →
        (localAt s x 32 32 (x.reg6 tb) = .error cause →
          exec (.thdrWr td tb) s = .next (x.trapped .M s cause (x.reg6 tb).toNat 0)) ∧
        (localAt s x 32 32 (x.reg6 tb) = .ok o →
          firstBad (thdrChecks s x n (natOfBytes (readCore s x.kind x.core o 32))) = some c →
          exec (.thdrWr td tb) s = .next fault)) ∧
      (x.kind = .array → ta.toNat < 32 → slot ≠ 0 → localAt s x 128 1024 (x.reg6 ta) = .error cause →
        exec (.cbld ta slot) s = .next (x.trapped .M s cause (x.reg6 ta).toNat 0)) ∧
      (d.isDest = false ∨ accOf s x ta = none → exec (.mout td ta slot) s = .next (x.trapped .M s .illegalOperand 0 0)) ∧
      ((d.isDest && na.isDest) = false → ∀ i ∈ ([.tcvt td ta slot, .mtr td ta] : List Instr),
        exec i s = .next (x.trapped .M s .illegalOperand 0 0)) ∧
      (d.isDest = false ∨ (∀ m, na ≠ .handle m) → exec (.tzero td ta slot) s = .next (x.trapped .M s .illegalOperand 0 0)) ∧
      (na.isDest = false ∨ 32 ≤ tb.toNat → exec (.thdrRd ta tb) s = .next (x.trapped .M s .illegalOperand 0 0)) ∧
      ((∀ m, d ≠ .handle m) ∨ 32 ≤ tb.toNat → exec (.thdrWr td tb) s = .next (x.trapped .M s .illegalOperand 0 0)) ∧
      (x.kind = .array → 32 ≤ ta.toNat ∨ slot = 0 → exec (.cbld ta slot) s = .next (x.trapped .M s .illegalOperand 0 0)))

/-! ### The copy engine -/

/-- 11 R292 to R298: the words that move a tile or its rows between a core's storage and memory, where their ranges and their
tile pass the checks. The entry is filling or draining, and the command, with its pieces and its pins, is counted in CP until
it completes. Row bytes of a format code that names none are log entry 107. -/
def Obligations.TileCopiesComplete : Prop :=
  ∀ (s : State) (x : Issuer) (td ta tb : BitVec 6) (n h off : Nat), s.issuer .D = some x →
    let d := tileName x.kind td
    let a := (x.reg6 ta).toNat
    let e := x.entry s n
    let cap := e.cap.toNat
    let tlen := e.header.tlen
    let image (len : Nat) : Runs := [(.core (imageAt s x n), len)]
    let rows := rowList s x off e.header.rows
    let rb := rowBytes e.header
    (ta.toNat < 32 → pickDest s x d = .ok n → a % 32 = 0 → cap ≠ 0 →
      let gs := segsOf s x.info .read a cap
      rangesPass s x gs →
      exec (.tld td ta) s = .next (x.passed .D (issueCopy (startFill s x n d.sendQ) x (.tld n d.sendQ)
        (piecesOf (runsAt s x gs) (image cap)) (pinsOf s x gs) false))) ∧
    (ta.toNat < 32 → pickSource s x d = .ok n → a % 32 = 0 →
      let gs := segsOf s x.info .both a tlen
      rangesPass s x gs → check1 e.hdr.toNat = true → e.header.check3 = true → (x.tiles s).inRange e = true →
      ∀ p ∈ ([(.tst td ta, false), (.tstF td ta, true)] : List (Instr × Bool)),
        exec p.1 s = .next (x.passed .D (issueCopy (startDrain s x n d.sendQ) x (.tst n p.2 d.sendQ)
          (piecesOf (image tlen) (runsAt s x gs)) (pinsOf s x gs) false))) ∧
    (d = .handle h → ta.toNat < 32 → tb.toNat < 32 → pickHandle s x h = .ok n →
      check1 e.hdr.toNat = true → rowsAllowed e.header = true → localAt s x 4 (4 * e.header.rows) (x.reg6 tb) = .ok off →
      (e.readers = 0 → (x.tiles s).fits e tlen = true →
        let gs := rowSegs s x .read (x.reg6 ta) rb rows
        rangesPass s x gs →
        exec (.tgat td ta tb) s = .next (x.passed .D (issueCopy (startFill s x n none) x (.tgat n)
          (rowPieces s x true .read (x.reg6 ta) rb (imageAt s x n) rows) (pinsOf s x gs) false))) ∧
      (e.header.check3 = true → (x.tiles s).inRange e = true →
        let gs := rowSegs s x .write (x.reg6 ta) rb rows
        rangesPass s x gs →
        exec (.tsct tb td ta) s = .next (x.passed .D (issueCopy (startDrain s x n none) x (.tsct n)
          (rowPieces s x false .write (x.reg6 ta) rb (imageAt s x n) rows) (pinsOf s x gs) false))))

/-- 11 R299 to R306: plain copies, flags, and the words on cache lines, where their ranges pass the checks; a length of 0
completes at once. `dseal` seals the open batch and gives its number; `dwait` passes once its batch and every earlier one, for
0 every sealed one, is complete, and orders what they sent before the agent's later words. That order is log entry 98. -/
def Obligations.CopiesAndBatchesComplete : Prop :=
  ∀ (s : State) (x : Issuer) (d a b : BitVec 5) (scope : BitVec 3), s.issuer .D = some x →
    let n := (x.reg b).toNat
    let src := segsOf s x.info .read (x.reg a).toNat n
    let dst := segsOf s x.info .write (x.reg d).toNat n
    let at_ := (x.reg d).toNat
    let flag := segsOf s x.info .write at_ 8
    let first := (x.reg a).toNat / 128 * 128
    let lines := segsOf s x.info .read first (((x.reg a).toNat + n + 127) / 128 * 128 - first)
    let batch := x.th.batch
    let num := (x.reg a).toNat % 65536
    (n ≠ 0 → rangesPass s x (src ++ dst) →
      exec (.dcpy d a b) s = .next (x.passed .D (issueCopy s x .dcpy (piecesOf (runsAt s x src) (runsAt s x dst))
        (pinsOf s x (src ++ dst)) false))) ∧
    (n = 0 → ∀ i ∈ ([.dcpy d a b, .cflush a b, .cinval a b] : List Instr),
      exec i s = .next (x.passed .D (issueEmpty s x))) ∧
    (scope = 4 ∨ scope = 5 → at_ % 8 = 0 → rangesPass s x flag →
      let pieces := piecesOf [(.zero, 8)] (runsAt s x flag)
      let m := match pieces with
        | p :: _ => p.dst.module s
        | [] => s.module
      let covers := (s.copies.filter fun c => c.agent == x.agent && c.writesOn s m).map (·.id)
      exec (.dflag d a scope) s = .next (x.passed .D (issueCopy s x (.dflag (x.reg a) (scope == 5) covers) pieces
        (pinsOf s x flag) (batch.broken.contains m)))) ∧
    (n ≠ 0 → rangesPass s x lines →
      let runs := runsAt s x lines
      let pieces := piecesOf runs [(.zero, (runs.map (·.2)).sum)]
      exec (.cflush a b) s = .next (x.passed .D (issueCopy s x .cflush pieces (pinsOf s x lines) false)) ∧
      exec (.cinval a b) s = .next (x.passed .D (issueCopy s x .cinval pieces (pinsOf s x lines) false))) ∧
    (batch.pend.length < 16 →
      exec (.dseal d) s = .next (x.passed .D (x.setReg (onBatch s x.agent Batches.seal) d (word batch.seal.last)))) ∧
    (16 ≤ batch.pend.length → exec (.dseal d) s = .next s) ∧
    (num = 0 ∨ batch.names num = true →
      let i := if num = 0 then batch.sealedCount else batch.place num
      exec (.dwait a) s = .next (if batch.doneTo i then x.passed .D (waitedTo s x.agent i) else s)) ∧
    (num ≠ 0 → batch.names num = false → exec (.dwait a) s = .next (x.trapped .D s .illegalOperand 0 0))

/-- 11 R292 to R299, R302, R305: where the ranges of a copy command fail, or an address or a row list is not aligned or lies
outside the core's storage, or a tile fails its checks, or a `dflag` names a scope that it does not have, or an operand is of
a wrong kind, the word takes a precise fault and has no effect. The cause of a range that runs past the top of the local
aperture is log entry 63, and the count of pages that no leaf maps log entry 22. -/
def Obligations.CopyFaultsArePrecise : Prop :=
  ∀ (s : State) (x : Issuer) (d a b : BitVec 5) (td ta tb : BitVec 6) (scope : BitVec 3) (n h off : Nat) (c : Cause)
    (adr : Nat) (ck : Check), s.issuer .D = some x →
    let len := (x.reg b).toNat
    let src := segsOf s x.info .read (x.reg a).toNat len
    let dst := segsOf s x.info .write (x.reg d).toNat len
    let at_ := (x.reg d).toNat
    let flag := segsOf s x.info .write at_ 8
    let first := (x.reg a).toNat / 128 * 128
    let lines := segsOf s x.info .read first (((x.reg a).toNat + len + 127) / 128 * 128 - first)
    let name := tileName x.kind td
    let va := (x.reg6 ta).toNat
    let e := x.entry s n
    let hd := e.header
    let trap (c : Cause) (adr code : Nat) : State := x.trapped .D s c adr code
    let list := x.reg6 tb
    let rows := rowList s x off hd.rows
    let rowsOf (need : Need) : List Seg := rowSegs s x need (x.reg6 ta) (rowBytes hd) rows
    let image : List Check := [⟨check1 e.hdr.toNat, .headerIntegrity, name.code⟩, ⟨hd.check3, .headerMismatch, name.code⟩,
      ⟨(x.tiles s).inRange e, .tileCapacity, name.code⟩]
    (len ≠ 0 → rangeFault s x (src ++ dst) = some (c, adr) → exec (.dcpy d a b) s = .next (trap c adr 0)) ∧
    (len ≠ 0 → rangeFault s x lines = some (c, adr) →
      exec (.cflush a b) s = .next (trap c adr 0) ∧ exec (.cinval a b) s = .next (trap c adr 0)) ∧
    (scope ≠ 4 → scope ≠ 5 → exec (.dflag d a scope) s = .next (trap .illegalOperand 0 0)) ∧
    (scope = 4 ∨ scope = 5 → at_ % 8 ≠ 0 → exec (.dflag d a scope) s = .next (trap .alignment at_ 0)) ∧
    (scope = 4 ∨ scope = 5 → at_ % 8 = 0 → rangeFault s x flag = some (c, adr) →
      exec (.dflag d a scope) s = .next (trap c adr 0)) ∧
    (ta.toNat < 32 → pickDest s x name = .ok n →
      (va % 32 ≠ 0 → exec (.tld td ta) s = .next (trap .alignment va 0)) ∧
      (va % 32 = 0 → e.cap.toNat = 0 → exec (.tld td ta) s = .next (trap .tileCapacity 0 0)) ∧
      (va % 32 = 0 → e.cap.toNat ≠ 0 → rangeFault s x (segsOf s x.info .read va e.cap.toNat) = some (c, adr) →
        exec (.tld td ta) s = .next (trap c adr 0))) ∧
    (ta.toNat < 32 → pickSource s x name = .ok n →
      let gs := segsOf s x.info .both va hd.tlen
      ∀ i ∈ ([.tst td ta, .tstF td ta] : List Instr),
        (va % 32 ≠ 0 → exec i s = .next (trap .alignment va 0)) ∧
        (va % 32 = 0 → rangeFault s x gs = some (c, adr) → exec i s = .next (trap c adr 0)) ∧
        (va % 32 = 0 → rangesPass s x gs → firstBad image = some ck → exec i s = .next (trap ck.cause 0 ck.code))) ∧
    (name = .handle h → ta.toNat < 32 → tb.toNat < 32 → pickHandle s x h = .ok n →
      ∀ p ∈ ([(.tgat td ta tb, .read, [⟨check1 e.hdr.toNat, .headerIntegrity, 0⟩, ⟨rowsAllowed hd, .unsupportedCombination, 0⟩,
            ⟨(x.tiles s).fits e hd.tlen, .tileCapacity, 0⟩]),
          (.tsct tb td ta, .write, [⟨check1 e.hdr.toNat, .headerIntegrity, 0⟩, ⟨rowsAllowed hd, .unsupportedCombination, 0⟩,
            ⟨hd.check3, .headerMismatch, 0⟩, ⟨(x.tiles s).inRange e, .tileCapacity, 0⟩])] :
          List (Instr × Need × List Check)), (p.2.1 = .read → e.readers = 0) →
        (localAt s x 4 (4 * hd.rows) list = .error c → exec p.1 s = .next (trap c list.toNat 0)) ∧
        (localAt s x 4 (4 * hd.rows) list = .ok off →
          (rangeFault s x (rowsOf p.2.1) = some (c, adr) → exec p.1 s = .next (trap c adr 0)) ∧
          (rangesPass s x (rowsOf p.2.1) → firstBad p.2.2 = some ck → exec p.1 s = .next (trap ck.cause 0 ck.code)))) ∧
    (32 ≤ ta.toNat → ∀ i ∈ ([.tld td ta, .tst td ta, .tstF td ta, .tgat td ta tb, .tsct tb td ta] : List Instr),
      exec i s = .next (trap .illegalOperand 0 0)) ∧
    (32 ≤ tb.toNat ∨ (∀ m, name ≠ .handle m) → ∀ i ∈ ([.tgat td ta tb, .tsct tb td ta] : List Instr),
      exec i s = .next (trap .illegalOperand 0 0))

/-! ### The queue engine -/

/-- 11 R308 to R317: the queue words of an array core, on a queue that no `qunbind` is dissolving. A descriptor that passes
its checks binds the name; unbinding and dropping discard the tiles that the link has not taken; a send copies a ready tile
behind the queue and a receive copies its head; markers, widths and the status read complete at once. What an operation still
fills or claims makes `qunbind` and `qdrop` wait (log entries 17 and 84). -/
def Obligations.QueueWordsComplete : Prop :=
  ∀ (s : State) (x : Issuer) (tq ta tt : BitVec 6) (width : BitVec 4) (h n src o : Nat),
    s.issuer .Q = some x → x.kind = .array → 32 ≤ tq.toNat → tq.toNat < 48 →
    let q := tq.toNat - 32
    let k := s.array x.core
    let b := k.queue q
    let plain : TileOp := TileOp.blank x s.nextId .matrix
    let e := x.entry s src
    let bytes := readCore s .array x.core e.lsoff.toNat e.header.tlen
    (unbinding k q = false → ta.toNat < 32 → localAt s x 16 16 (x.reg6 ta) = .ok o →
      let d := qdescOf (natOfBytes (readCore s .array x.core o 16))
      bindable s x.core q d = true → channelReady s d = true →
      let bound (dir : Dir) : State := bindQueue s x.core q dir d
      let o1 : TileOp := TileOp.blank x (bound .send).nextId .matrix
      (bound .receive).nextId = (bound .send).nextId ∧
      exec (.qbindS tq ta) s = .next (x.passed .Q (issueOp (bound .send) x o1)) ∧
      exec (.qbindR tq ta) s = .next (x.passed .Q (issueOp (bound .receive) x o1))) ∧
    (unbinding k q = false → forming k b = false →
      (b.dir = .send →
        exec (.qunbind tq) s = .next (x.passed .Q
          (issueOp (discardUntaken s x.core q) x (TileOp.blank x s.nextId (.unbind q)))) ∧
        exec (.qdrop tq) s = .next (x.passed .Q (placeMarks (issueOp (discardUntaken s x.core q) x plain) x.core q))) ∧
      (b.dir = .receive →
        let ready := b.fifo.filter fun i => (mapGet TileEntry.blank k.tiles i).st == .ready
        let s1 := ready.foldl (fun s i => onTile s .array x.core 0 i fun y => { y with st := .empty }) s
        exec (.qunbind tq) s = .next (x.passed .Q
          (issueOp (onQueue s x.core q fun b => { b with fifo := [], filling := none }) x
            (TileOp.blank x s.nextId (.unbind q)))) ∧
        exec (.qdrop tq) s = .next (x.passed .Q
          (issueOp (onQueue s1 x.core q fun b => { b with fifo := b.filling.toList }.giveBack ready.length) x plain)))) ∧
    (tileName x.kind tt = .handle h → check1 e.hdr.toNat = true → e.header.check3 = true → (x.tiles s).inRange e = true →
      (pickHandle s x h = .ok src → pickSend s x q = .ok n → fitsDest s x (.queue q) n e.header.tlen = true →
        ∀ p ∈ ([(.qsend tq tt, false), (.qsendF tq tt, true)] : List (Instr × Bool)),
          exec p.1 s = .next (x.passed .Q (issueOp s x
            { resultOp s x (.queue q) n [] e.hdr bytes with drain := some (src, p.2) }))) ∧
      (pickHead s x q = .ok src → pickFill s x h = .ok n → fitsDest s x (.handle h) n e.header.tlen = true →
        exec (.qrecv tt tq) s = .next (x.passed .Q
          (issueOp s x (resultOp s x (.handle h) n [(.queue q, src)] e.hdr bytes))))) ∧
    (unbinding k q = false → sendCheck b = none →
      (ta.toNat < 32 →
        let place := b.parked.length + b.fifo.length + b.taken.length
        ∀ p ∈ ([(.qmarkStart tq ta, false), (.qmarkEnd tq ta, true)] : List (Instr × Bool)),
          let mark := (place, BitVec.ofNat 16 (x.reg6 ta).toNat, p.2, false)
          exec p.1 s = .next (x.passed .Q (placeMarks (issueOp
            (onQueue s x.core q fun b => { b with marks := b.marks ++ [mark] }) x (TileOp.blank x s.nextId (.mark q)))
            x.core q))) ∧
      (width.toNat ∈ [1, 2, 4, 8] →
        exec (.qwidth tq width) s = .next (x.passed .Q (issueOp
          (if b.paired then s.setChan b.chan { s.chan b.chan with req := width.toNat }
           else onQueue s x.core q fun b => { b with wantWidth := some width.toNat }) x plain)))) ∧
    (unbinding k q = false → ta.toNat < 32 →
      exec (.qstat ta tq) s = .next (x.passed .Q (issueOp (x.setReg s (low5 ta) (qstateShown s x.core q)) x plain)))

/-- 11 R310 to R318, 05 R133, R144: where a queue word faults, with its queue as the code. An unbound name is queue-unbound, a
name bound the other way queue-direction, a stopped one queue-stopped or peer-unreachable; a descriptor outside the core's
storage or not aligned, or one that fails its own checks, faults, and one whose peer or channel is not there is
peer-unreachable. `qsend` and `qrecv` take the fault of their handle, then the queue's, or the other way round, and then that
of the first check that their tile fails: its header, its dimensions, and its room. That the code is the index of the queue is
log entry 27. -/
def Obligations.QueueFaults : Prop :=
  ∀ (s : State) (x : Issuer) (tq ta tt : BitVec 6) (width : BitVec 4) (o h n src code : Nat) (c : Cause) (ck : Check),
    s.issuer .Q = some x → x.kind = .array → 32 ≤ tq.toNat → tq.toNat < 48 →
    let q := tq.toNat - 32
    let k := s.array x.core
    let b := k.queue q
    let e := x.entry s src
    let tile (d : TileName) (code : Nat) : List Check := [⟨check1 e.hdr.toNat, .headerIntegrity, code⟩,
      ⟨e.header.check3, .headerMismatch, code⟩,
      ⟨(x.tiles s).inRange e && fitsDest s x d n e.header.tlen, .tileCapacity, code⟩]
    unbinding k q = false →
    (sendCheck b = if b.dir = .unbound then some .queueUnbound else if b.dir = .receive then some .queueDirection
      else if b.xoff = true then some (stopCause b) else none) ∧
    (b.dir = .unbound → receiveCheck k b = some .queueUnbound) ∧ (b.dir = .send → receiveCheck k b = some .queueDirection) ∧
    (tileName x.kind tt = .handle h →
      (∀ i ∈ ([.qsend tq tt, .qsendF tq tt] : List Instr),
        (pickHandle s x h = .fault c code → exec i s = .next (x.trapped .Q s c 0 code)) ∧
        (pickHandle s x h = .ok src →
          (sendCheck b = some c → exec i s = .next (x.trapped .Q s c 0 q)) ∧
          (pickSend s x q = .ok n → firstBad (tile (.queue q) 0) = some ck →
            exec i s = .next (x.trapped .Q s ck.cause 0 ck.code)))) ∧
      (receiveCheck k b = some c → exec (.qrecv tt tq) s = .next (x.trapped .Q s c 0 q)) ∧
      (pickHead s x q = .ok src →
        (pickFill s x h = .fault c code → exec (.qrecv tt tq) s = .next (x.trapped .Q s c 0 code)) ∧
        (pickFill s x h = .ok n → firstBad (tile (.handle h) q) = some ck →
          exec (.qrecv tt tq) s = .next (x.trapped .Q s ck.cause 0 ck.code)))) ∧
    ((∀ m, tileName x.kind tt ≠ .handle m) → ∀ i ∈ ([.qsend tq tt, .qsendF tq tt, .qrecv tt tq] : List Instr),
      exec i s = .next (x.trapped .Q s .illegalOperand 0 0)) ∧
    (ta.toNat < 32 → localAt s x 16 16 (x.reg6 ta) = .error c → ∀ i ∈ ([.qbindS tq ta, .qbindR tq ta] : List Instr),
      exec i s = .next (x.trapped .Q s c (x.reg6 ta).toNat 0)) ∧
    (b.dir = .unbound → forming k b = false →
      exec (.qunbind tq) s = .next (x.trapped .Q s .queueUnbound 0 q) ∧
      exec (.qdrop tq) s = .next (x.trapped .Q s .queueUnbound 0 q)) ∧
    (sendCheck b = some c →
      (ta.toNat < 32 → exec (.qmarkStart tq ta) s = .next (x.trapped .Q s c 0 q) ∧
        exec (.qmarkEnd tq ta) s = .next (x.trapped .Q s c 0 q)) ∧
      (width.toNat ∈ [1, 2, 4, 8] → exec (.qwidth tq width) s = .next (x.trapped .Q s c 0 q))) ∧
    (ta.toNat < 32 → localAt s x 16 16 (x.reg6 ta) = .ok o →
      let d := qdescOf (natOfBytes (readCore s .array x.core o 16))
      ∀ i ∈ ([.qbindS tq ta, .qbindR tq ta] : List Instr),
        (bindable s x.core q d = false → exec i s = .next (x.trapped .Q s .illegalOperand 0 0)) ∧
        (bindable s x.core q d = true → channelReady s d = false →
          exec i s = .next (x.trapped .Q s .peerUnreachable 0 q)))

/-- 07 R180: a word of an engine that lane cores do not have is engine-absent there, for its whole issue group. -/
def Obligations.AbsentEngines : Prop :=
  ∀ (s : State) (x : Issuer) (cur : Cursor) (d a b : BitVec 6) (m : BitVec 4) (slot : BitVec 3),
    s.issuer cur = some x → x.kind = .lane →
    ∀ i ∈ ([
      .vaddF32 d a b m, .vsubF32 d a b m, .vmulF32 d a b m, .vfmaF32 d a b m, .vminF32 d a b m, .vmaxF32 d a b m,
      .vabsF32 d a m, .vnegF32 d a m, .vaddI32 d a b m, .vsubI32 d a b m, .vmulI32 d a b m, .vand d a b m, .vor d a b m,
      .vxor d a b m, .vshl d a b m, .vsar d a b m, .vexp2 d a m, .vlog2 d a m, .vrcp d a m, .vrsqrt d a m, .vtanh d a m,
      .vcmpEqF32 d a b m, .vcmpLtF32 d a b m, .vcmpLeF32 d a b m, .vcmpUnF32 d a b m, .vcmpEqI32 d a b m,
      .vcmpLtI32 d a b m, .vcmpLeI32 d a b m, .vcmpLtuI32 d a b m, .vsel d a b m, .pand d a b m, .por d a b m,
      .pxor d a b m, .pnot d a m, .vrsumF32 d a m, .vrmaxF32 d a m, .vrminF32 d a m, .vrsumI32 d a m, .vrmaxI32 d a m,
      .vrminI32 d a m, .vperm d a b m, .vbcast d a m, .vslup d a b m, .vsldn d a b m, .vmov d a m, .vlane d m,
      .vtrd d a b, .vtwr d a b, .vtrdc d a b, .vtwrc d a b slot, .qbindS d a, .qbindR d a, .qunbind d, .qsend d a,
      .qsendF d a, .qrecv d a, .qmarkStart d a, .qmarkEnd d a, .qwidth d m, .qstat d a, .qdrop d] : List Instr),
      exec i s = .next (x.trapped cur s .engineAbsent 0 0)

/-! ### Events of units, traffic and tile queues -/

/-- 01 R23, R30 to R33, R36, R48, R57; 04 R120: the events of units where they are enabled. A ready group is marked as aged
and a bin as due; a bin becomes a warp in a free slot; two warps that wait at one mask merge into the lower slot; a cursor
takes its next outcome; a unit that has ended with its counters zero and its batches complete leaves its core; an engine's
error is recorded without a stop; and a privileged write of a tile-table entry is made, its causes given as the reply. A warp
that has ended stands outside the slots until it leaves (log entry 24), and what a bad header written leaves is log entry 59. -/
def Obligations.UnitEventsComplete : Prop :=
  ∀ (s : State) (c slot lane bin a b n m core entry off : Nat) (k : LaneCore) (w wa wb : Warp) (g : Workgroup)
    (group : List Nat) (x : Bin) (cur : Cursor) (t : Task) (cause : Cause) (code : BitVec 16) (addr : BitVec 64)
    (place : WordPlace)
    (bytes : List (BitVec 8)),
    (runningGroup s c slot lane = some (k, w, g, group) → (∀ y ∈ w.aged, y.2 ∉ group) →
      exec (.issueGroupAged c slot lane) s = .next (s.setLane c
        { k with warps := mapSet slot { w with aged := w.aged ++ [(s.time, group.headD 0)] } k.warps })) ∧
    (mapGet? bin (s.lane c).bins = some x →
      exec (.binTimerExpiry c bin) s = .next (s.setLane c
        { s.lane c with bins := mapSet bin { x with due := true } (s.lane c).bins }) ∧
      (mapGet? x.wg (s.lane c).wgs = some g → binReady x = true → slot < 32 →
        (∀ i ∈ x.after, match findFlight s.flight i with
          | some f => performedAt s.flight 2 f = true
          | none => ∀ o ∈ (s.lane c).ops, o.id ≠ i) →
        isFenced s .lane c = false → mapGet? slot (s.lane c).warps = none → (s.lane c).sealing = false → (s.lane c).saving = false →
        let idx := match findLaunch s g.info.world g.info.job g.info.launch with
          | some l => l.binIndex
          | none => 0
        let y := newWarp (lanesFrom idx 0 x.threads) true idx x.wg
        let s1 := s.setLane c { s.lane c with warps := mapSet slot y (s.lane c).warps, bins := mapErase bin (s.lane c).bins }
        let s2 := onUnitLaunch s1 g.info fun l => { l with binIndex := l.binIndex + 1, units := l.units + 1 }
        exec (.binLaunch c bin slot) s = .next (traceUnit s2 true .lane c g.info.world idx g.info.launch))) ∧
    (a < b → mapGet? a (s.lane c).warps = some wa → mapGet? b (s.lane c).warps = some wb → wb.wg = wa.wg →
      mapGet? wa.wg (s.lane c).wgs = some g → wa.gatheredAt = some n → wb.gatheredAt = some n →
      g.info.record.mergeThr ≠ 0 → mergeable wa g.info.record.mergeThr = true → mergeable wb g.info.record.mergeThr = true →
      wa.live.length + wb.live.length ≤ 32 → (s.lane c).sealing = false → (s.lane c).saving = false →
      isFenced s .lane c = false →
      let s1 := s.setLane c { s.lane c with warps := mapErase b (mapSet a (mergedWarp wa wb n) (s.lane c).warps) }
      let s2 := ({ s1 with nextId := s.nextId + 1 }.rename (endedAgent c a b s.nextId wa wb) id).rename
        (moveAgent c a b (mergeLanes wa wb)) id
      exec (.warpMerge c a b) s = .next
        (countDone (traceUnit s2 false .lane c g.info.world wb.idx.toNat g.info.launch) g.info)) ∧
    (∀ ka, runningTask s core cur = some (ka, t) → t.mayTake cur = true →
      exec (.outcomeTake core cur) s = .next (s.setArray core { ka with task := some (t.take cur) })) ∧
    ((s.array core).task = some t → t.ended = true → t.cnt.zero = true → (s.array core).th.batchesDone = true →
      (s.array core).saving = false → isFenced s .array core = false →
      let s1 := (upFrom 0 16).foldl (fun s q => dissolve s core q) s
      let s2 := s1.setArray core
        { s1.array core with task := none, tiles := [], queues := [], ops := [], sealing := false }
      let s3 := dropSave ({ s2 with nextId := s2.nextId + 1 }.rename (Agent.leaving .array core s2.nextId) id) core
      exec (.unitComplete { kind := .array, core := core, slot := m }) s = .next
        (countDone (traceUnit s3 false .array core t.info.world t.idx.toNat t.info.launch) t.info)) ∧
    (mapGet? slot (s.lane c).warps = some w → mapGet? w.wg (s.lane c).wgs = some g → w.ended = true → w.cnt.zero = true →
      w.threads.all (fun y => y.2.batchesDone) = true → isFenced s .lane c = false →
      let k1 := releaseGroup { s.lane c with warps := mapErase slot (s.lane c).warps } w.wg
      exec (.unitComplete { kind := .lane, core := c, slot := slot }) s = .next
        (countDone (traceUnit (s.setLane c k1) false .lane c g.info.world w.idx.toNat g.info.launch) g.info)) ∧
    (isDeferred cause = true → hubHears s (portOfCore .array core) = true → (s.array core).task = some t →
      exec (.deferredFaultReport { kind := .array, core := core, slot := m } cause code addr place) s = .next
        (deferred s t.info .array core t.idx.toNat 0xFF cause code.toNat addr.toNat place.pc.toNat (cursorNo place.cur))) ∧
    (isDeferred cause = true → hubHears s (portOfCore .lane c) = true → mapGet? slot (s.lane c).warps = some w →
      mapGet? w.wg (s.lane c).wgs = some g →
      exec (.deferredFaultReport { kind := .lane, core := c, slot := slot } cause code addr place) s = .next
        (deferred s g.info .lane c w.idx.toNat (if slot < 32 then slot else 0xFF) cause code.toNat addr.toNat place.pc.toNat
          0xFF)) ∧
    (core < 160 → entry < 4096 → off + bytes.length ≤ 64 → bytes ≠ [] → isFenced s .array core = false →
      let r := coreWinWrite s (.arrayTile core entry off) bytes
      r.waits = false →
      exec (.tileEntryWindowWrite core entry off bytes) s = .next
        { r.state with reply := some (r.faults.map fun y => word (causeCode y)) })

/-- 01 R50; 06 R155 to R176; 08 R222; 16 R401; 21 R477, R478: the events of memory traffic where they are enabled. An access
reaches its home in the order that its agent's earlier ones allow, is served at the directory or leaves for another module;
data returns to the registers and LD falls, a store is accepted and ST falls; a merge entry is written out; a request is
applied once at its home, answered, and, 50 µs after it left each time, sent again or at the fourth expiry of its timer
abandoned. Stores that are taken before their home has seen them are log entry 97, the lists of busy lines log entry 110, and
the grain of a copy's requests log entry 65. -/
def Obligations.TrafficEventsComplete : Prop :=
  ∀ (s s1 : State) (grp id line home seq src floor adr : Nat) (f : Flight) (fs : List Flight) (r : RemoteReq)
    (e : Nat × Word) (w : Await),
    (groupOfWord s grp = f :: fs → f.kind.reads = true → readyAll s ((f :: fs).map (·.id)) = some s1 →
      exec (.loadDataReturn grp) s = .next
        (countOut ((((groupOfWord s1 grp).foldl writeBack s1).uncount grp).sweep) f.origin .ld)) ∧
    (groupOfWord s grp = f :: fs → f.kind.reads = false → acceptAll s ((f :: fs).map (·.id)) = some s1 →
      exec (.storeAccept grp) s = .next (countOut (s1.uncount grp).sweep f.origin .st)) ∧
    (findFlight s.flight id = some f → f.stage = .issued ∨ f.stage = .posted → f.space = .domain → f.kind.isFence = false →
      mayPerform s f = true → hubHears s f.chip = true → chipletServes s f = none →
      (f.remote s = false → behindPosted s f = false → exec (.homeRequest id) s = .next (reachHome s f)) ∧
      (f.remote s = true → f.kind ≠ .load ∨ lastTaken (sentStores s f) = none →
        (f.kind.writes = true → behindPosted s f = false) → mayLeave s (moduleOf f.addr) = true →
        exec (.homeRequest id) s = .next (sendRemote s f)) ∧
      (∀ g, f.remote s = true → lastTaken (sentStores s f) = some g → f.kind = .load →
        covered f.addr f.size g.addr g.size = true →
        exec (.homeRequest id) s = .next (s.onFlight id fun x =>
          { x with stage := .applied, value := takeFrom g x, fwd := some g.id }).sweep)) ∧
    ((s.dirLine line).busy = some id →
      (findFlight s.flight id = some f → (probed s line f.chip f.kind.writes).all (answersProbe s) = true →
        exec (.probeResponse line) s = .next
          (serveQueue line (s.dirLine line).queue (serveFlight (cleanFenced s line) f)).sweep) ∧
      (findFlight s.flight id = some f → (probed s line f.chip f.kind.writes).all (answersProbe s) = false →
        exec (.probeResponse line) s = .next s) ∧
      (findFlight s.flight id = none →
        exec (.probeResponse line) s = .next
          (serveQueue line (s.dirLine line).queue { s with sliceReqs := mapErase id s.sliceReqs }).sweep)) ∧
    (mapGet? adr s.merge = some e →
      exec (.mergeEntryEvict adr) s = .next
        { s with merge := mapErase adr s.merge, mem := writeNat s.mem adr e.1 e.2.toNat }) ∧
    (home = s.module → src ≠ s.module →
      exec (.remoteRequestArrival src home seq floor r) s = .next (arriveHere s src (seq % 2 ^ 32) floor r)) ∧
    (src = s.module → home ≠ s.module →
      exec (.remoteRequestArrival src home seq floor r) s = .next (arriveThere s home seq)) ∧
    ((s.waitingFor home).waiting.find? (fun x => x.seq == seq) = some w →
      (appliedThere s w.id = true → exec (.remoteReply home seq) s = .next (dropWaiting s home seq).sweep) ∧
      (appliedThere s w.id = false → exec (.remoteReply home seq) s = .next s) ∧
      (waitsToLeave s w.id = true ∨ s.now < w.since + 50000 → exec (.e2eTimerExpiry home seq) s = .next s) ∧
      (waitsToLeave s w.id = false → w.since + 50000 ≤ s.now →
        (w.tries < 3 →
          let ws := (s.waitingFor home).waiting.map fun x => if x.seq = seq then { x with tries := x.tries + 1 } else x
          exec (.e2eTimerExpiry home seq) s = .next
            (leaveFor { s with remote := mapSet home { s.waitingFor home with waiting := ws } s.remote } home w.id false)) ∧
        (3 ≤ w.tries → exec (.e2eTimerExpiry home seq) s = .next (abandon (dropWaiting s home seq) w.id))))

/-- 01 R51, R52; 03 R106 to R110; 10 R263; 11 R294 to R303: the ends of operations, where the command's accesses may be made.
A tile operation stores its result and retires; a `tld` makes one attempt and a storing command its writes; a line word
completes; a `dflag` writes its flag once every write that it covers is applied, and completes when it is acknowledged; and
the lines that wait for a command's turn go on. When the units of a command move is log entry 9, the attempts and phases of
AON tiles log entry 78, and a drain that fails log entry 60. -/
def Obligations.OperationEndsComplete : Prop :=
  ∀ (s : State) (id : Nat) (c : Copy) (u : UnitRef) (o : TileOp) (v : Word) (sys : Bool) (covers : List Nat),
    (s.copies.find? (fun y => y.id == id) = some c → copyFree s c = true →
      (∀ n q, c.kind = .tld n q → exec (.copyComplete id) s = .next (passTurns (loadTile s c n q) id)) ∧
      (∀ n free q, c.kind = .tst n free q → exec (.copyComplete id) s = .next (passTurns (storeTile s c n free q) id)) ∧
      (∀ n, c.kind = .tgat n → exec (.copyComplete id) s = .next (passTurns (gatherRows s c n) id)) ∧
      (∀ n, c.kind = .tsct n → exec (.copyComplete id) s = .next (passTurns (scatterRows s c n) id)) ∧
      (c.kind = .dcpy → exec (.copyComplete id) s = .next (passTurns (copyBytes s c) id)) ∧
      (c.kind = .cflush → exec (.copyComplete id) s = .next (passTurns (flushLines s c) id)) ∧
      (c.kind = .cinval → exec (.copyComplete id) s = .next (passTurns (finishCopy (invalLines s c) c) id)) ∧
      (c.kind = .dflag v sys covers → c.written = false →
        let r := putAll s c (layOver c.pieces 0 (clean (bytesOfNat 8 v.toNat)))
        let home := flagHome s c
        let x := reportCopy r.state c r.causes
        let s2 := updateCopy x.1 { x.2 with written := true }
        flagWaits s c home covers = false →
        (c.failed = false → r.waits = false → r.lost = [] → exec (.flagWrite id) s = .next
          (if home = s.module then hubTrace s2 0x04 1 v.toNat c.origin.world else s2)) ∧
        (c.failed = true → exec (.flagWrite id) s = .next (finishCopy (reportCopy s c [.remoteFailed]).1 c)))) ∧
    (s.copies.find? (fun y => y.id == id) = some c → c.kind = .dflag v sys covers → c.written = true →
      (flagAsked s id = none → exec (.dflagAck id) s = .next (finishCopy s c)) ∧
      (∀ f, flagAsked s id = some f → f.applied = true → awaitsReply s f = false →
        exec (.dflagAck id) s = .next (finishCopy { s with flight := s.flight.filter fun g => g.id != f.id } c))) ∧
    (retiring s u id = some o → o.kind = .matrix →
      let r := writeCore s u.kind u.core o.imageAt o.image
      let s2 := deferAll (storeResult r.state u.kind u.core o) o.origin r.faults
      r.waits = false →
      (u.kind = .array → (o.sendQ = none ∨ o.fill = none) →
        exec (.matrixOpRetire u id) s = .next (retireArray s2 u.core o)) ∧
      (∀ q e st, u.kind = .array → o.sendQ = some q → o.fill = some (e, st) → ((s.array u.core).queue q).fifo.contains e = true →
        exec (.matrixOpRetire u id) s = .next (becomeSend s2 u.core o q e)) ∧
      (u.kind = .lane →
        let s3 := s2.setLane u.core { s2.lane u.core with ops := (s2.lane u.core).ops.drop 1 }
        exec (.matrixOpRetire u id) s = .next (countOut (releaseTiles s3 .lane u.core o) o.origin .tl))) ∧
    (∀ q, retiring s u id = some o → o.kind = .unbind q → ((s.array u.core).queue q).taken = [] →
      claiming (s.array u.core) q = false →
      exec (.matrixOpRetire u id) s = .next (retireArray (dissolve s u.core q) u.core o))

/-- 05 R135 to R147, 11 R312 to R314: the events of a link-tile queue, whether its task is resident or saved. A binding pairs
with the peer that its registers name and is taken down; a tile arrives under a credit in the lowest empty entry of its pool
and becomes ready; the link takes the next draining tile of a paired send queue with one credit, its flits leave while
allowances pay for them, and its send retires with the last; markers are delivered and acknowledged in order. The entry that
an arriving tile takes is log entry 15, when a marker is placed log entry 82, and that the link takes tiles only while its
channel is up log entry 16. -/
def Obligations.LinkTileEventsComplete : Prop :=
  ∀ (s : State) (id core q e : Nat) (h : Holder) (rest : List Nat) (image : List (BitVec 8)) (stepNo : BitVec 16)
    (isEnd : Bool) (peer : PeerEnd) (grant : Nat × Nat) (m : Nat × BitVec 16 × Bool × Bool)
    (ms : List (Nat × BitVec 16 × Bool × Bool)),
    bindingHolder s id = some (h, q) →
    let k := holderCore s h
    let b := k.queue q
    let free := b.pool - heldCount k b
    (mayPair s h q k b peer = true →
      let s1 := match b.wantWidth with
        | some w => s.setChan b.chan { s.chan b.chan with req := w }
        | none => s
      (b.dir = .send → exec (.bindingPair b.core id peer grant) s = .next (placeHeld (setHolder s1 h (k.onQueue q fun b =>
        { b with paired := true, granted := grant.1, credit := grant.2, wantWidth := none })) h q)) ∧
      (b.dir = .receive → exec (.bindingPair b.core id peer grant) s = .next (placeHeld (setHolder
        { s1 with reply := some [word free, word b.cap] } h (k.onQueue q fun b =>
        { b with paired := true, lent := free, wantWidth := none })) h q))) ∧
    (b.paired = true →
      exec (.peerUnpair b.core id) s = .next (setHolder s h
        ((k.dropMarks q).onQueue q fun b => { b with paired := false, credit := 0, lent := 0 }))) ∧
    (b.dir = .receive → b.paired = true → b.xoff = false → b.filling = none → b.lent ≠ 0 → freeEntry k b = some e →
      let y := { mapGet TileEntry.blank k.tiles e with st := .filling, qheld := true, qidx := q }
      exec (.tileFirstFlit b.core id) s = .next (setHolder s h
        { k with tiles := mapSet e y k.tiles,
                 queues := mapSet q { b with fifo := b.fifo ++ [e], filling := some e, lent := b.lent - 1 } k.queues })) ∧
    (b.filling = some e →
      let x := mapGet TileEntry.blank k.tiles e
      let y := { x with hdr := BitVec.ofNat 256 (natOfBytes (image.take 32)), st := .ready }
      exec (.tileLastFlit b.core id image) s = .next (setHolder s h
        { k with localStore := writeBytes k.localStore x.lsoff.toNat (image.take b.cap),
                 top := max k.top (x.lsoff.toNat + (image.take b.cap).length), tiles := mapSet e y k.tiles,
                 queues := mapSet q { b with filling := none } k.queues })) ∧
    (b.dir = .send → b.paired = true →
      exec (.creditReturn b.core id) s = .next (setHolder s h (k.onQueue q fun b => { b with credit := b.credit + 1 }))) ∧
    (h = .core core → b.nextTile = some e → b.dir = .send → b.paired = true → b.xoff = false → b.credit ≠ 0 →
      (mapGet TileEntry.blank k.tiles e).st = .draining → unbinding k q = false → (s.chan b.chan).st = .up →
      hubHears s (portOfCore .array core) = true → hubHears s (16 + b.chan / 32) = true →
      (mapGet TileEntry.blank k.tiles e).header.tlen ≤ b.granted →
      exec (.linkTakeTile b.core id) s = .next (placeMarks (onQueue s core q fun b =>
        { b.dropNext with credit := b.credit - 1, taken := b.taken ++ [e] }) core q)) ∧
    (b.taken = e :: rest →
      let n := flitsOf (mapGet TileEntry.blank k.tiles e).header.tlen - b.sent
      let r := (s.chan b.chan).charge n
      let s1 := s.setChan b.chan r.1
      (r.2 < n → exec (.sendRetire b.core id) s = .next
        (setHolder s1 h (k.onQueue q fun b => { b with sent := b.sent + r.2 }))) ∧
      (n ≤ r.2 → exec (.sendRetire b.core id) s = .next
        (placeHeld (setHolder s1 h ((k.discardSend q e).onQueue q fun b =>
        { b with taken := rest, sent := 0, marks := b.marks.map fun y => (y.1 - 1, y.2) })) h q))) ∧
    (b.dir = .receive → b.paired = true → b.xoff = false → b.filling = none →
      exec (.qmarkRx b.core id stepNo isEnd) s = .next (traceMark s 2 k.taskWorld q b stepNo isEnd)) ∧
    (b.marks = m :: ms → m.2.2.2 = true → m.1 = 0 → b.paired = true →
      let k1 := match k.ops.find? fun o => o.kind == .mark q with
        | some o => k.retire o
        | none => k
      exec (.qmarkAck b.core id) s = .next (setHolder (traceMark s 3 k.taskWorld q b m.2.1 m.2.2.1) h
        (k1.onQueue q fun b => { b with marks := ms })))

/-! ### Events of the hub, the sequencer, management and the fabric -/

/-- 04 R124; 16 R393 to R398, R406, R407; 19 R452: the events of the ports and of the hub's commands where they are enabled:
training, the reading of a capability table, running, re-enumeration and power; shootdowns in the order of their numbers; and
the mailboxes of the control harts. What boot step 7 runs is log entry 49, and what a shootdown waits for log entry 55. -/
def Obligations.HubEventsComplete : Prop :=
  ∀ (s : State) (p hart st n : Nat) (v data : BitVec 64) (bytes : List (BitVec 8)) (r : HubReg) (q : Nat × Word × Nat × Nat × Nat)
    (rest : List (Nat × Word × Nat × Nat × Nat)) (tg : Nat × Nat) (m : Word) (ms : List Word),
    let x := s.port p
    (x.st = .refused → x.iso = .idle → portEntry s p ≠ 2 →
      exec (.portEnable p) s = .next (toTraining (onPort s p fun y => { y with enable := true }) p)) ∧
    (x.st = .assigned → exec (.portRun p) s = .next (toRunning s p)) ∧
    (x.st = .running → chipletEmpty s p = true →
      exec (.portReenum p) s = .next (bumpGen (onPort (recallPort s p) p fun y =>
        { y with st := .reading, lock := false, fromIso := false })) ∧
      exec (.portOff p) s = .next (bumpGen (onPort (loseState (recallPort s p) p) p fun y =>
        { y with st := .off, lock := false, pstate := 3, fromIso := false }))) ∧
    (x.st = .running → chipletEmpty s p = false →
      exec (.portReenum p) s = .next (portBusy s p) ∧ exec (.portOff p) s = .next (portBusy s p)) ∧
    (x.st = .off → exec (.portReenum p) s = .next (toTraining s p)) ∧
    (x.st = .training →
      exec (.portLinkUp p) s = .next (onPort s p fun y => { y with st := .reading, lock := false }) ∧
      (let s1 := moveEntry (onPort s p fun y => { y with st := .down, terr := true }) p (min 2 (portEntry s p + 1))
       exec (.portTrainingFail p) s = .next (bootSeven (if x.iso = .retraining then retry s1 p else s1)))) ∧
    (x.st = .reading →
      (tableOk p bytes = false → x.iso ≠ .retraining →
        exec (.capabilityTableRead p bytes) s = .next
          (bootSeven (topoEvent (onPort s p fun y => { y with st := .refused }) p))) ∧
      (tableOk p bytes = true → x.table = some bytes → x.fromIso = false →
        exec (.capabilityTableRead p bytes) s = .next (onPort s p fun y => { y with st := .assigned })) ∧
      (tableOk p bytes = true → x.table ≠ some bytes → x.table ≠ none ∨ 2 ≤ p →
        let s1 := topoEvent (onPort s p fun y => { y with
          st := .assigned, table := some bytes, queueIds := some (64 * p), cclass := defaultClass p, gen := (y.gen + 1) % 256 }) p
        exec (.capabilityTableRead p bytes) s = .next
          (if x.table.map tableDigest = some (tableDigest bytes) then s1 else bumpGen s1)) ∧
      (tableOk p bytes = true → x.table = none → p < 2 → 6 ≤ s.hub.bootStep → x.fromIso = false →
        let s1 := topoEvent (onPort s p fun y => { y with
          st := .assigned, table := some bytes, queueIds := some (64 * p), cclass := defaultClass p, gen := (y.gen + 1) % 256 }) p
        exec (.capabilityTableRead p bytes) s = .next (bootSeven (toRunning (bumpGen s1) p)))) ∧
    exec (.sdnGo v) s = .next (writeSdn s (v ||| 1)) ∧
    (∀ q0, s.hub.sdnQueue.head? = some q0 →
      let s0 := dropPages s fun h => pageHit h q0
      (∀ h ∈ s0.pages, pageHit h q0 = false) ∧
      (s0.hub.sdnQueue = q :: rest → sdnWaits s0 q = false →
      exec .shootdownComplete s = .next (freeSlots (s0.onHub fun h => { h with sdnQueue := rest, sdnDone := q.1 })))) ∧
    (mailTarget (mapGet 0 s.hub.cmbxTgt hart) = some tg → fencesOpen s (.hart hart) = false →
      hubHears s (hart / 32) = true → ∀ i ∈ [Instr.cmbxSend hart data] ++ (if hart < regCount .cmbxSend then
        [.registerWrite .cmbxSend hart data] else []),
      exec i s = .next ((sendMail s 0 tg data).1.onHub fun h =>
        { h with cmbxLast := mapSet hart (sendMail s 0 tg data).2 h.cmbxLast })) ∧
    (hartBox s hart = m :: ms →
      exec (.cmbxPop hart) s = .next ({ s with reply := some [m] }.onHub fun h => { h with cmbx := mapSet hart ms h.cmbx })) ∧
    (hartBox s hart = [] → exec (.cmbxPop hart) s = .next { s with reply := some [0] }) ∧
    (n < regCount r → r ≠ .cmbxSend → exec (.registerWrite r n v) s = .next (writeReg s r n v)) ∧
    (x.st = .running → x.waking = false → coresAt p ≠ [] → chipletEmpty s p = true → st = 1 ∨ st = 2 → pstateOk x st = true →
      exec (.chipletGate p st) s = .next (onPort s p fun y => { y with pstate := st })) ∧
    (x.waking = true →
      exec (.chipletWakeComplete p) s = .next (onPort s p fun y => { y with waking := false, pstate := 0 }))

/-- 18 R435 to R439, 19 R443, R444: the events of chiplet isolation where they are enabled, from a heartbeat that lapses to
the redispatch of the units that were lost, and the frames of a chiplet's link. Training failures in isolation are log entry
48, the program counter of a lost task log entry 47, and the counters of a retrained port log entry 93. -/
def Obligations.IsolationEventsComplete : Prop :=
  ∀ (s : State) (p : Nat) (v : BitVec 64) (toHub : Bool),
    let x := s.port p
    exec (.heartbeat p) s = .next (onPort s p fun y => { y with beat := s.now }) ∧
    (x.st = .running → x.beat + 1000 * s.hub.isoLapse ≤ s.now →
      exec (.heartbeatLapse p) s = .next (if s.hub.isoAuto then isolate s p else topoEvent s p)) ∧
    exec (.requestNoAnswer p) s = .next (isolate s p) ∧
    (v.toNat % 32 < 24 → exec (.isoCmd v) s = .next (isolate s (v.toNat % 32))) ∧
    (x.iso = .fencing → (∀ f ∈ s.flight, f.chip = p → f.stage ≠ .queued) →
      exec (.fenceDrained p) s = .next (settleRefused (moveIso (loseUnits s p) p .cleaning id))) ∧
    (x.iso = .cleaning →
      exec (.cleanComplete p) s = .next (moveIso (dropRegions (s.dir.foldl (cleanLine p) s) p) p .resetting fun y =>
        { y with st := .down, isoAttempt := y.isoAttempt + 1 })) ∧
    (x.iso = .resetting →
      exec (.chipletResetRelease p) s = .next
        (toTraining (moveIso s p .retraining fun y =>
          { y with fromIso := true, pstate := 0, waking := false, sealFrom := (0, 0), sealTo := (0, 0) }) p)) ∧
    (x.iso = .redispatching → x.redone = false →
      let launches := (x.lost.map fun u => (u.1, u.2.1, u.2.2.1)).eraseDups
      let lost (l : Nat × Nat × Nat) : Nat := (x.lost.filter fun u => (u.1, u.2.1, u.2.2.1) == l).length
      let place (s : State) (l : Nat × Nat × Nat) : Nat × Nat := match findLaunch s l.1 l.2.1 l.2.2 with
        | some m => (m.graph, m.phase)
        | none => (0, 0)
      let s1 := launches.foldl (fun s l => journal s { JRec.blank with
        kind := 9, world := l.1, job := l.2.1, launch := l.2.2, graph := (place s l).1, phase := (place s l).2,
        units := lost l }) s
      exec (.redispatch p) s = .next (dropLost (onPort s1 p fun y => { y with redone := true }) fun _ => false)) ∧
    (x.st ≠ .down → x.st ≠ .off → x.st ≠ .training → toHub = false ∨ x.sealRun < 3 →
      exec (.ucieFrameReceive p toHub true) s = .next (onPort s p fun y =>
        if toHub then { y with sealRun := 0, sealFrom := nextSeal y.sealFrom } else { y with sealTo := nextSeal y.sealTo }) ∧
      exec (.ucieFrameReceive p toHub false) s = .next (onPort s p fun y =>
        { y with sealErr := min (2 ^ 32 - 1) (y.sealErr + 1), sealRun := if toHub then y.sealRun + 1 else y.sealRun }))

/-- 17 R409 to R420, 13 R368: the events of the dispatch sequencer, where they are enabled. A WPTR write keeps the launch records
of the packets that it submits, and an accepted launch takes its own with it (log entry 91). -/
def Obligations.SequencerEventsComplete : Prop :=
  ∀ (s : State) (w q job launch core n : Nat) (v : BitVec 64) (en : Bool) (l : Launch) (r : LaunchRec) (kind : CoreKind)
    (pin : Option (Nat × Nat)),
    let x := s.dq w q
    let ahead := (v.toNat % 2 ^ 32 + 2 ^ 32 - x.rptr) % 2 ^ 32
    let next := { x with rptr := (x.rptr + 1) % 2 ^ 32, full := false, records := mapErase x.rptr x.records }
    let p := packetAt s x x.rptr
    (w < 16 → q < 64 →
      (ahead ≤ 2 ^ x.size → exec (.dqDoorbell w q v) s = .next (s.setDq w q (x.submit s (v.toNat % 2 ^ 32)))) ∧
      (2 ^ x.size < ahead → exec (.dqDoorbell w q v) s = .next (s.setDq w q { x with overrun := true })) ∧
      exec (.dqEnable w q en) s = .next (s.setDq w q { x with en := en, lock := en })) ∧
    (x.en = true → x.pause = false → x.rptr ≠ x.wptr → journalOpen s = true →
      (refusal s w x p ≠ 0 → exec (.packetAccept w q) s = .next
        (settle (refusePacket (s.setDq w q next) w q x.rptr p (refusal s w x p)))) ∧
      (refusal s w x p = 0 → tableRoom s w p = false →
        exec (.packetAccept w q) s = .next (s.setDq w q { x with full := true })) ∧
      (refusal s w x p = 0 → tableRoom s w p = true →
        let rec_ := { JRec.blank with kind := 1, world := w, queue := q, launch := p.launch, job := p.job, graph := p.graph,
                                      phase := p.phase, index := x.rptr }
        exec (.packetAccept w q) s = .next (settle (applyPacket (journal (s.setDq w q next) rec_) q (mapGet? x.rptr x.records) p)))) ∧
    (findLaunch s w job launch = some l → l.issued = false → l.cancelled = false → mayIssue s l = true →
      journalOpen s = true →
      (issueRecord s l = none → exec (.launchIssue w job launch) s = .next (settle (finishLaunch s l .refused))) ∧
      (issueRecord s l = some (r, pin) →
        let units := match variantKind (r.variant l.code) with
          | some .lane => l.grid * r.warps
          | _ => l.grid
        let s1 := s.onLaunch w job launch fun l =>
          { l with issued := true, placedAt := s.time / 65536, rec? := some r, units := units, binIndex := units, pin := pin }
        let s2 := journal s1 { JRec.blank with kind := 3, world := w, launch := launch, job := job, graph := l.graph,
                                               phase := l.phase, units := units }
        let s3 := trace s2 24 0x0A 2 0xFFFF l.queue (launch + 2 ^ 32 * job) w
        exec (.launchIssue w job launch) s = .next (match pin with
          | some p => pinGen s3 w launch p
          | none => s3))) ∧
    (findLaunch s w job launch = some l → l.issued = true →
      l.cancelled = true ∨ l.replayRefused = true ∨ (l.lost = [] ∧ l.nextUnit = l.grid) → launchResident s l = false →
      effectsDone s l = true → journalOpen s = true →
      exec (.launchComplete w job launch) s = .next (settle (finishLaunch s l (launchStatus l)))) ∧
    (let lv := (selectedLevel s).1
     let cw := (selectedLevel s).2.1
     let cj := (selectedLevel s).2.2.1
     let ci := (selectedLevel s).2.2.2
     v.getLsbD 0 = true → levelLive s lv cw cj ci = true →
      let s1 := s.onHub fun h => { h with
        launches := h.launches.map fun y => if inLevel lv cw cj ci y then { y with cancelled := true, lost := [] } else y,
        jobs := h.jobs.map fun j => if j.world = cw ∧ j.num = cj then cancelLevel lv ci j else j }
      let s2 := dropLost s1 fun y => match findLaunch s1 y.1 y.2.1 y.2.2.1 with
        | some z => z.cancelled
        | none => true
      exec (.cancel v) s = .next
        (settle (cleanReserved (pruneSaved (discardCancelled (journal s2 (cancelRecord s lv cw cj ci))))))) ∧
    (s.hub.jAck ≤ v.toNat →
      exec (.jrnlAck v) s = .next
        (settle (journalDrain s.hub.jPending (s.onHub fun h => { h with jAck := v.toNat })))) ∧
    (findLaunch s w job launch = some l → l.rec? = some r → l.kind = some kind → l.next s = some n → l.placing s = true →
      eligible s l core = true → hasTurn s l kind core = true →
      let s1 := cleanReserved ((wakeFor (setWorld s kind core w) kind core).onLaunch w job launch (placedOne n (s.time / 65536)))
      let s2 := s1.onHub fun h => { h with
        lastQueue := mapSet l.prio (w * 64 + l.queue) h.lastQueue,
        reserved := h.reserved.filter fun e => !(decide (kind = .lane) && e.2 == core) }
      let s3 := dropLost s2 fun x => x == (w, job, launch, n)
      exec (.placeUnit w job launch core) s = .next (match kind with
        | .array => placeTask s3 (l.info r) core n
        | .lane => placeGroup s3 (l.info r) core n)) ∧
    (findLaunch s w job launch = some l → l.placing s = true → l.aged = none → l.placedAt + 1000000 ≤ s.time / 65536 →
      l.kind = some .array ∨ (l.rec? = some r ∧ l.kind = some .lane ∧ (mapGet? r.split s.hub.reserved).isSome = true) →
      exec (.launchAged w job launch) s = .next (s.onLaunch w job launch fun l => { l with aged := some s.time }))

/-- 18 R428 to R434: the commands on the unit that UNIT_SEL names. A stopped unit resumes, is redirected to UNIT_PC or is
discarded as faulted; a unit that runs or has stopped is saved, its area's header at STATE 1 and its core sealed; once the
core has drained its sections and its header at STATE 2 are written and the core is empty; and a sound context goes to a core
that may take it. A command on a unit that is not in a state for it sets UNIT_CMD.ERR. That a save begins at UNIT_SAVE and is
written at SAVE_COMPLETE is log entry 37, and which lanes are redirected log entry 40. -/
def Obligations.UnitCommandsComplete : Prop :=
  ∀ (s : State) (kind : CoreKind) (core ctx : Nat) (v old : Saved) (k : ArrayCore) (w : Warp) (t : Task) (i : UnitInfo),
    let u := selectedUnit s
    let refused := s.onHub fun h => { h with unitErr := true }
    (unitState s u ≠ 2 → ∀ e ∈ ([.unitResume, .unitRedirect, .unitDiscard] : List Instr), exec e s = .next refused) ∧
    (unitState s u = 2 →
      (u.kind = .array → s.array u.core = k → k.task = some t →
        exec .unitResume s = .next (s.setArray u.core { k with task := some { t with stop := none } }) ∧
        exec .unitRedirect s = .next (s.setArray u.core { k with task := some (redirectTask k s.hub.unitPc t) })) ∧
      (u.kind = .lane → mapGet? u.slot (s.lane u.core).warps = some w →
        let lanes := match w.stop with
          | some y => y.lanes
          | none => []
        let put (y : Warp) : State := s.setLane u.core { s.lane u.core with warps := mapSet u.slot y (s.lane u.core).warps }
        exec .unitResume s = .next (put { w with stop := none }) ∧
        exec .unitRedirect s = .next (put { w with
          stop := none,
          threads := mapAll (fun l y => if lanes.contains l then { y with pc := s.hub.unitPc } else y) w.threads })) ∧
      (unitInfo s u = some i →
        exec .unitDiscard s = .next (discardUnit (countFault s i (unitIndex s u)) u))) ∧
    (mayBeSaved s u = true → savingHere s u.kind u.core = false → isCoherent s.hub.unitCtx.toNat = true →
      isReserved s s.hub.unitCtx.toNat = false → chipletTakes s u.kind u.core = true →
      let c := contextOf s s.nextId s.hub.unitCtx.toNat u.kind u.core false
      let s1 := { s with nextId := s.nextId + 1 }.onHub fun h => { h with saved := h.saved ++ [c] }
      exec .unitSave s = .next (setSealing (hubWrite s1 (s.home s.hub.unitCtx.toNat) (headerBytes c 1 0 [] false))
        u.kind u.core true false)) ∧
    (savingHere s kind core = true → isFenced s kind core = false →
      let s0 := setSealing s kind core true true
      s.hub.saved.find? (fun v => !v.done && v.kind == kind && v.from? == core) = some old →
      (match kind with
        | .array => taskDrained s0 core
        | .lane => laneDrained s0 core) = true →
      let s1 := prepareCore s0 kind core
      let c := contextOf s1 old.id old.addr kind core true
      busyRange s0 (s0.home c.addr) (areaSize c) = false →
      let s2 := hubWrite (writeSections s1 c kind core) (s.home c.addr)
        (headerBytes c 2 (s.time / 65536) (layout (sectionLens c)) true)
      let s3 := s2.onHub fun h => { h with saved := h.saved.map fun x => if x.id = c.id then c else x }
      exec (.saveComplete kind core) s = .next
        (pruneSaved (emptyCore (s3.rename (Agent.leaving kind core c.id) id) kind core))) ∧
    (s.hub.saved.find? (fun v => v.id == ctx) = some v → mayRestore s v core = true →
      (headerSound s v = true → privateSound s v = true →
        let s1 := wakeFor (setWorld s v.kind core v.world) v.kind core
        let s2 := match v.task, v.lane with
          | some k, _ => s1.setArray core
            { k with localStore := (s1.array core).localStore, mailbox := (s1.array core).mailbox, world := some v.world }
          | _, some k => s1.setLane core { k with mailbox := (s1.lane core).mailbox, world := some v.world }
          | _, _ => s1
        let s3 := s2.rename (Agent.returning core v.id) id
        exec (.unitRestore ctx core) s = .next
          (setHeaderState (forgetSaved (resumeCore (loadSections s3 v v.kind core) v core) v.id) v.addr 3)) ∧
      (headerSound s v = false ∨ privateSound s v = false →
        exec (.unitRestore ctx core) s = .next (failRestore s v core)))

/-- 19 R446 to R453, 22 R484 to R487: the management commands, the boot, a power loss and the commands on weight generations,
where they are enabled. The responder answers once the boot has reached step 2; the response codes are the model's (log entry
23). What boot measures and MC_BOOT.CLEAR keeps is log entry 66. -/
def Obligations.ManagementEventsComplete : Prop :=
  ∀ (s : State) (offered : AlgoOffer) (slot nonce index sid sensor b k blown : Nat) (session : Option Nat)
    (reading : BitVec 64) (img : FlashImage) (r : BootReport) (x : Session) (midRecord : Bool),
    (2 ≤ s.hub.bootStep →
      let answer (ws : List Word) : State := { s with reply := some ws }
      let closed : Host.Outcome State Fault Refusal := .next (answer [0x7F, 0x0B])
      let put (m : Map Session) (ws : List Word) : State := { s.onHub (fun h => { h with sessions := m }) with reply := some ws }
      let ss := s.hub.sessions
      let digest := wordsOf 6 (sha384 ((Config.certChain 0).flatMap fun w => bytesOfNat 8 w.toNat))
      let signed (ws : List Word) : List Word := ws ++ (upFrom 0 12).map (Config.signature ws)
      exec .getVersion s = .next (answer [0x04, 0x12, 0x13]) ∧
      exec .getCapabilities s = .next (answer [0x61, 0x62D6]) ∧
      exec (.negotiateAlgorithms offered) s = .next (answer
        (if bit offered.sign 7 && bit offered.hash 1 && bit offered.dhe 4 && bit offered.aead 1 then [0x63, 0x80, 0x2, 0x10, 0x2]
         else [0x7F, 0x01])) ∧
      exec .getDigests s = .next (answer (0x01 :: digest)) ∧
      exec (.getCertificate slot) s = .next (answer (0x02 :: word slot :: Config.certChain slot)) ∧
      exec (.challenge nonce) s = .next (answer (signed (0x03 :: word nonce :: digest))) ∧
      (session = none ∨ (∃ j, session = some j ∧ (mapGet? j ss).isSome = true) →
        exec (.getMeasurements session index) s = .next
          (answer ([0x60, word index, word s.hub.mgen] ++ measurement s index))) ∧
      exec (.keyExchange sid) s = .next (put (mapSet sid { gen := s.hub.mgen, up := false, keys := 0 } ss)
        (signed (0x64 :: word sid :: (upFrom 0 12).map (Config.exchange sid)))) ∧
      (mapGet? sid ss = some x → x.up = false →
        exec (.finish sid) s = .next (put (mapSet sid { x with up := true } ss) [0x65, word sid])) ∧
      (mapGet? sid ss = some x → x.up = true →
        exec (.spdmHeartbeat sid) s = .next (put (mapSet sid x ss) [0x68, word sid]) ∧
        exec (.keyUpdate sid) s = .next (put (mapSet sid { x with keys := x.keys + 1 } ss) [0x69, word sid]) ∧
        exec (.endSession sid) s = .next (put (mapErase sid ss) [0x6C, word sid])) ∧
      (mapGet? sid ss = none → ∀ i ∈ ([.finish sid, .spdmHeartbeat sid, .keyUpdate sid, .endSession sid] : List Instr),
        exec i s = closed)) ∧
    exec (.pldmPlatformMonitoring sensor reading) s =
      .next { s with reply := some (if sensor < 46 then [word sensor, 0, reading] else [word sensor, 0x80]) } ∧
    exec (.pldmFirmwareUpdate img) s = .next { s.onHub (fun h => { h with secondary := img }) with reply := some [0] } ∧
    exec .mcBootClear s = .next (s.onHub fun h => { h with bootClear := true }) ∧
    (let s0 := (moduleReset s).onHub fun h => { h with bootClear := false }
     (bootFuses s0 = none → exec (.boot r) s = .next (writeBoot s0 fun b => { b with step := 0 })) ∧
     (∀ s1, bootFuses s0 = some s1 →
       let s2 := bootDone (drawBootKey s1) 1 id
       let rec_ := bootRecord s2
       let second := rec_.image == 1
       let chosen := if second then s2.hub.secondary else s2.hub.primary
       (imageSound s2.hub chosen = true →
         let s3 := (raiseCounter s2 chosen).onHub fun h => { h with measured := (chosen.hubDigest, chosen.mcDigest) }
         let used := if s.hub.bootClear then { rec_ with ports := List.replicate 24 0, rate := 0 } else rec_
         exec (.boot r) s = .next (bootHardware used
           ((bootDone s3 2 id).onHub fun h => { h with bootImage := if second then 1 else 0 }) r)) ∧
       (imageSound s2.hub chosen = false →
         exec (.boot r) s = .next (if second then writeBoot s2 id else writeBoot s2 fun b => { b with image := 1 })))) ∧
    (let s1 := moduleReset s
     let s2 := if midRecord then s1.onHub fun h => { h with bootRec := spoilOlder h.bootRec } else s1
     let n := min blown (nextFuses s2)
     exec (.powerLoss midRecord blown) s = .next (s2.onHub fun h =>
       { h with fuseA := h.fuseA + (n + 1) / 2, fuseB := h.fuseB + n / 2 })) ∧
    (b < 64 → k < 4 →
      let g := s.wbind b
      let y := g.slot k
      (g.id ≠ 0 → y.st = .free →
        let n := (g.maxGen + 1) % 2 ^ 16
        exec (.wbStage b k) s = .next
          (s.setWbind b { g.setSlot k { y with st := .staged, gen := n, digest := 0 } with maxGen := n })) ∧
      (y.st = .staged → imageOk s g y = true →
        exec (.wbMeasure b k) s = .next (s.setWbind b (g.setSlot k { y with st := .measuring }))) ∧
      (y.st = .measuring →
        exec (.wbMeasureComplete b k) s = .next (s.setWbind b
          (g.setSlot k { y with st := .measured, digest := natOfBytes (sha384 (imageBytes s g y)) }))) ∧
      (y.st = .measured ∨ y.st = .staged ∧ g.worlds = 1 →
        let after (g1 : WBind) (old : Nat) : State := freeSlots (bumpGen
          (trace (s.setWbind b (g1.setSlot k { y with st := .current })) 24 0x0D 3 0xFFFF b (y.gen + 2 ^ 16 * old) 0))
        (g.current = none → exec (.wbSwitch b k) s = .next (after g 0)) ∧
        (∀ j, g.current = some j → exec (.wbSwitch b k) s = .next
          (after (g.setSlot j { g.slot j with st := .retiring }) (g.slot j).gen))) ∧
      (y.st = .staged ∨ y.st = .measured →
        exec (.wbDrop b k) s = .next (s.setWbind b (g.setSlot k { y with st := .free }))))

/-- 06 R169, 04 R118, 16 R390: the accesses of control harts and of devices behind a root port, where their port runs. A fence
of a hart orders its accesses. An access that its checks refuse raises no fault, and its cause is the reply (log entry 5). The
form of these accesses is log entry 70. -/
def Obligations.OutsideAccessesComplete : Prop :=
  ∀ (s : State) (port hart addr size : Nat) (write sup pr pw sr sw : Bool) (va data : BitVec 64) (op : HartOp),
    (port < 2 → (s.port port).st = .running → isAccess va.toNat size = true →
      let m := hartMemOp (if write then .store else .load) va.toNat size data
      (isCanonical va.toNat = false →
        exec (.pcieDmaRequest port write va size data) s = .next (outsideAccess (.pcie port) m (.error .nonCanonical) s)) ∧
      (∀ c, isCanonical va.toNat = true → translate s 0 false none (if write then .write else .read) va.toNat = .error c →
        exec (.pcieDmaRequest port write va size data) s = .next (outsideReply s (causeCode c) 0)) ∧
      (∀ a, isCanonical va.toNat = true → translate s 0 false none (if write then .write else .read) va.toNat = .ok a →
        exec (.pcieDmaRequest port write va size data) s = .next
          (outsideAccess (.pcie port) m (physTarget s 0 false a) s))) ∧
    (hart < 64 → (s.port (hart / 32)).st = .running →
      (hartOpOk op = true → op.isFence = false → isAccess addr size = true →
        exec (.controlCoreAccess hart sup op addr size data) s = .next
          (hartAccess hart op size (hartMemOp op addr size data) (physTarget s 0 sup addr) s)) ∧
      exec (.controlCoreAccess hart sup (.fence pr pw sr sw) addr size data) s = .next (hartFence hart pr pw sr sw s))

/-- 21 R466 to R479: the events of the channels, of optical allowances, of fabric time and of the reach tables, where they
are enabled, and what they leave where they are not; and a channel's lasers, set to the index of its peer's member, reach the
peer. What has left of a tile when a marker is confirmed or an allowance lapses is a free value (`sendSome`, log entry 96); the
receiver's slots and their buffer space are log entry 95, the flits of requests and replies log entry 92. -/
def Obligations.FabricEventsComplete : Prop :=
  ∀ (s : State) (c i f frame sender volume life slot link e v : Nat) (ctl : BitVec 64) (mask : BitVec 8)
    (offset : BitVec 32) (isLimit : Bool) (master : PtpTime) (fr : OpticalFrame),
    let x := s.chan c
    let bit : BitVec 8 := BitVec.ofNat 8 (2 ^ i)
    let en : Word := 1 <<< 49
    let dark : Word := 1 <<< 48
    let sent := sendSome s c
    let y := sent.chan c
    let n := 4 * c + i
    let n' := 4 * f + i
    (c < 256 → exec (.chanEnable c ctl) s = .next (writeChanCtl s c (ctl ||| en))) ∧
    exec (.chanDisable c) s = .next (writeChanCtl s c (x.ctl &&& ~~~en)) ∧
    exec (.chanDark c) s = .next (writeChanCtl s c (x.ctl ||| dark)) ∧
    exec (.chanUndark c) s = .next (writeChanCtl s c (x.ctl &&& ~~~dark)) ∧
    (x.st = .tuning → x.assigned &&& ~~~x.parked &&& ~~~x.locked = 0 → x.have_ ≠ 0 →
      let y := x.douse x.parked s.now
      let w := widthFor (y.oldReq.getD y.req) y.usable.length
      let up := marksOver (usePark (moveChan s c
        { y with cur := w, stripe := y.stripeFor w, rr := 0, marker := none, oldReq := none } .up) c) c
      exec (.chanTuned c) s = .next (if x.ctl.getLsbD 48 then moveChan up c (up.chan c) .draining else up)) ∧
    (x.st = .draining → x.reqs = [] → x.sentFrames = x.acked → (∀ n ∈ namesOver s c, (bindingOf s n).taken = []) →
      let out := moveChan s c { (x.douse 0xFF s.now) with
        have_ := x.have_ &&& (x.hold ||| x.parked), marker := none, waking := 0, asking := 0, asked := 0, started := 0,
        woken := 0, oldReq := some x.req } .dark
      exec (.chanDrained c) s = .next (if x.ctl.getLsbD 48 then out else undark out c)) ∧
    (x.sentFrames ≠ x.acked → exec (.chanDrained c) s = .next s) ∧
    (x.st = .up ∨ x.st = .draining → x.acked ≤ frame → frame < x.sentFrames →
      (4 ≤ mapGet 0 x.frames frame → exec (.linkNak c frame) s = .next (failChannel s c)) ∧
      (mapGet 0 x.frames frame < 4 → exec (.linkNak c frame) s = .next (s.setChan c
        { x with retry := min 65535 (x.retry + 1), frames := mapSet frame (mapGet 0 x.frames frame + 1) x.frames }))) ∧
    (frame < x.acked ∨ x.sentFrames ≤ frame → exec (.linkNak c frame) s = .next s) ∧
    (let parks := s.setChan c { x with park := x.park ||| mask }
     let frees := s.setChan c { x with park := x.park &&& ~~~mask }
     let later := x.st = .draining ∨ x.st = .dark
     (later → exec (.chanPark c mask) s = .next parks ∧ exec (.chanUnpark c mask) s = .next frees) ∧
     (¬later → exec (.chanPark c mask) s = .next (usePark parks c) ∧
       exec (.chanUnpark c mask) s = .next (usePark frees c))) ∧
    (x.st = .tuning → i < 8 → x.assigned.getLsbD i = true → x.locked.getLsbD i = false → laserWorks s x i = true →
      x.parked.getLsbD i = false → exec (.positionLocked c i) s = .next (s.setChan c (x.lock i s.now))) ∧
    (x.st = .up ∨ x.st = .draining → i < 8 → x.assigned.getLsbD i = true → x.locked.getLsbD i = false →
      laserWorks s x i = true → x.waking.getLsbD i = true → x.started.getLsbD i = true ∨ litCount s < s.hub.ceiling →
      exec (.positionLocked c i) s = .next (lockWoken s c i)) ∧
    (x.st = .up ∨ x.st = .draining → x.marker = none → x.computed ≠ x.cur ∨ x.locked &&& x.parked ≠ 0 →
      exec (.widthMarkerPlace c) s = .next
        (s.setChan c { x with marker := some (x.computed, x.stripeFor x.computed) })) ∧
    (∀ w m, y.marker = some (w, m) →
      let gone := y.locked &&& y.parked &&& ~~~m
      let out := trace (setSending sent c
          { (y.douse gone sent.now) with cur := w, stripe := m, rr := 0, marker := none })
        (chanBuf c) 0x11 4 0xFFFF c (w + 256 * y.cur) 0
      exec (.widthMarkerConfirm c) s = .next (if gone = 0 then out else trace out (chanBuf c) 0x12 4 0xFFFF c gone.toNat 0)) ∧
    ((s.rslot n).grantee = none →
      exec (.allowanceRequest c i sender) s = .next (grantSlot s n sender (s.rslot n).queue)) ∧
    (∀ g, (s.rslot n).grantee = some g → (s.rslot n).queue.contains sender = false →
      let out := setSlot s n { s.rslot n with queue := (s.rslot n).queue ++ [sender] }
      exec (.allowanceRequest c i sender) s = .next (if g = sender then nextGrant out n else out)) ∧
    (x.assigned.getLsbD i = true → x.asked.getLsbD i = true → x.st = .tuning ∨ x.st = .up ∨ x.st = .draining →
      exec (.allowanceGrant c i volume life) s = .next (setSending s c
        { x with have_ := x.have_ ||| bit, asked := x.asked &&& ~~~bit, volume := mapSet i (16 * volume) x.volume,
                 life := mapSet i (if x.locked.getLsbD i then s.now + life else life) x.life })) ∧
    (x.have_.getLsbD i = true → x.locked.getLsbD i = true →
      mapGet 0 x.volume i < 512 ∨ mapGet 0 x.life i - s.now < 50000 →
      exec (.allowanceRenew (.sender c) i) s = .next (s.setChan c
        { x with volume := mapSet i 1024 x.volume, life := mapSet i (s.now + 100000) x.life })) ∧
    (∀ m, (s.rslot n').grantee = some m → (s.rslot n').volume < 512 ∨ (s.rslot n').lapse - s.now < 50000 →
      let after := { s with free := s.free + 1 }
      exec (.allowanceRenew (.receiver f) i) s = .next (if hasSpace s then grantSlot after n' m (s.rslot n').queue else after)) ∧
    (x.have_.getLsbD i = true → y.locked.getLsbD i = true → y.parked.getLsbD i = false →
      y.hold.getLsbD i = false ∨ y.st = .up → mapGet 0 y.life i ≤ sent.now →
      exec (.allowanceExpiry (.sender c) i) s = .next (sent.setChan c
        { y with have_ := y.have_ &&& ~~~bit, expired := y.expired ||| bit, asking := y.asking ||| bit })) ∧
    ((s.rslot n').grantee.isSome = true → (s.rslot n').lapse ≤ s.now →
      exec (.allowanceExpiry (.receiver f) i) s = .next (nextGrant s n')) ∧
    (s.hub.ftLock = true → slot = s.now / 250 % 128 →
      let asks (y : Channel) : Bool := y.asking != 0 && orbitReaches s slot y.peer
      let grants (y : RSlot) : Bool := y.waits && y.grantee.any (orbitReaches s slot)
      let allow := ((s.hub.chans.filter fun y => asks y.2).map fun y => y.2.peer)
        ++ (s.hub.slots.filter fun y => grants y.2).filterMap fun y => y.2.grantee
      let gone := orbitBurst s slot allow (s.hub.orbit ++ s.hub.resends)
      exec (.orbitSlot slot) s = .next ((gone.foldl leftNow s).onHub fun h => { h with
        orbit := h.orbit.filter fun id => !gone.contains id, resends := h.resends.filter fun id => !gone.contains id,
        chans := mapAll (fun _ y => if asks y then { y with asking := 0, asked := y.asked ||| y.asking } else y) h.chans,
        slots := mapAll (fun _ y => if grants y then { y with waits := false } else y) h.slots })) ∧
    (s.hub.ftLock = false → exec (.orbitSlot slot) s = .next s) ∧
    (∀ m, (routed m (x.fibreOf i).1 (x.laser m)).1 = x.peer) ∧
    (let far := master.ns * 65536
     let t := if s.hub.synced then s.time else max s.time far
     let hold := if s.hub.synced then s.hub.ftHold else s.time - far
     (master.domain % 256 = s.hub.ftDomain → exec (.ptpSync master offset) s = .next
      ({ s with time := t }.onHub fun h =>
        { h with ftOffset := offset, ftLock := decide (-20 ≤ offset.toInt) && decide (offset.toInt ≤ 20), synced := true,
                 ftHold := hold, lastSync := t - hold })) ∧
     (master.domain % 256 ≠ s.hub.ftDomain → exec (.ptpSync master offset) s = .next s)) ∧
    (let due := s.hub.lastSync + 2000000000 * 65536
     (due ≤ s.time - s.hub.ftHold → exec .ptpSyncTimeout s = .next (s.onHub fun h => { h with ftLock := false })) ∧
     (s.time - s.hub.ftHold < due → exec .ptpSyncTimeout s = .next s)) ∧
    (let gen := (s.hub.reachGen + 1) % 2 ^ 16
     let names := (boundNames s).filter fun y => removedBy s (bindingOf s y).peerMod
     let chans := (s.hub.chans.filter fun y => removedBy s y.2.peer && y.2.st != .off).map (·.1)
     let mods := ((s.remote.map (·.1)) ++ (s.flight.map fun y => moduleOf y.addr)
       ++ s.copies.flatMap fun y => y.pieces.flatMap fun p => [p.src.module s, p.dst.module s]).eraseDups.filter (removedBy s)
     let s1 := trace (s.onHub fun h => { h with reach := h.reachStaged, reachGen := gen }) 24 0x14 4 0xFFFF 0 gen 0
     exec .reachCommit s = .next (chans.foldl turnOff (mods.foldl abandonAll (names.foldl (stopBinding true) s1)))) ∧
    (link < 8 → e < 128 → (mapGet { base := 0, limit := 0 } s.hub.rwins (128 * link + e)).base.getLsbD 0 = false →
      let old := mapGet { base := 0, limit := 0 } s.hub.rwins (128 * link + e)
      let w : RWin := if isLimit then { old with limit := ctl &&& 0x000003FFFFFFF000 }
        else { old with base := ctl &&& 0x000003FFFFFFF001 }
      exec (.rwinWrite link e isLimit ctl) s = .next (s.onHub fun h =>
        { h with rwins := mapSet (128 * link + e) w h.rwins })) ∧
    (let ok := word (1 + 4 * ofBool fr.confirms)
     let heard := x.peer = fr.source ∧ hears s fr = true ∧ (x.st = .up ∨ x.st = .tuning ∨ x.st = .draining)
     let used := useSlot s fr
     (orbitHears s fr = true →
       exec (.opticalFrameReceive c true fr) s = .next { s with reply := some [ok] } ∧
       exec (.opticalFrameReceive c false fr) s = .next { s with reply := some [2] }) ∧
     (orbitHears s fr = false → heard →
       exec (.opticalFrameReceive c true fr) s = .next
         { setSending used c { ((used.chan c).takeAcks fr.acked) with sealFrom := nextSeal x.sealFrom } with reply := some [ok] } ∧
       exec (.opticalFrameReceive c false fr) s = .next { s with reply := some [2] }) ∧
     (orbitHears s fr = false → ¬heard → ∀ sound, exec (.opticalFrameReceive c sound fr) s = .next s)) ∧
    exec (.opticalCeilingLower v) s = .next (s.onHub fun h => { h with ceiling := min h.ceiling v })

end
end

