-- ==== Sys2Proof/Laws/Memory.lean ====
section
/-! SUPPORT. The laws of tables and of memory: what a read answers after a write, and that every operation on a memory
keeps its canonical form. -/

namespace Sys2Proof.Machine

/-! ### Tables -/

@[simp] theorem mapGet?_mapSet_same {α : Type} (k : Nat) (a : α) (m : Map α) : mapGet? k (mapSet k a m) = some a := by
  induction m with
  | nil => simp [mapSet, mapGet?]
  | cons x rest ih =>
    obtain ⟨j, b⟩ := x
    simp only [mapSet]
    split
    · simp [mapGet?]
    · split
      · simp [mapGet?]
      · simp_all [mapGet?]

theorem mapGet?_mapSet_other {α : Type} {k j : Nat} (h : k ≠ j) (a : α) (m : Map α) :
    mapGet? k (mapSet j a m) = mapGet? k m := by
  induction m with
  | nil => simp [mapSet, mapGet?, h.symm]
  | cons x rest ih =>
    obtain ⟨i, b⟩ := x
    simp only [mapSet]
    split
    · next e => subst e; simp only [mapGet?, if_neg (Ne.symm h)]
    · split
      · simp only [mapGet?, if_neg (Ne.symm h)]
        split
        · rw [if_neg (by omega), if_pos (by omega)]
        · rfl
      · simp only [mapGet?, ih]

@[simp] theorem mapGet_mapSet_same {α : Type} (d : α) (k : Nat) (a : α) (m : Map α) : mapGet d (mapSet k a m) k = a := by
  simp [mapGet]

theorem mapGet_mapSet_other {α : Type} (d : α) {k j : Nat} (h : k ≠ j) (a : α) (m : Map α) :
    mapGet d (mapSet j a m) k = mapGet d m k := by
  simp [mapGet, mapGet?_mapSet_other h]

/-! ### The canonical form -/

theorem Memory.wfFrom_mono {lo hi : Nat} (h : lo ≤ hi) {m : Memory} (w : Memory.wfFrom hi m = true) :
    Memory.wfFrom lo m = true := by
  cases m with
  | nil => rfl
  | cons x rest =>
    obtain ⟨a, b⟩ := x
    simp only [Memory.wfFrom, Bool.and_eq_true, decide_eq_true_eq] at w ⊢
    exact ⟨⟨by omega, w.1.2⟩, w.2⟩

/-- An address below the first that a memory may list reads as nothing written. -/
theorem readByte_below {lo : Nat} {m : Memory} (w : Memory.wfFrom lo m = true) {a : Nat} (h : a < lo) :
    readByte m a = Memory.blank := by
  cases m with
  | nil => rfl
  | cons x rest =>
    obtain ⟨j, b⟩ := x
    simp only [Memory.wfFrom, Bool.and_eq_true, decide_eq_true_eq] at w
    simp only [readByte]
    rw [if_neg (by omega), if_pos (by omega)]

theorem putByte_wfFrom {lo : Nat} {m : Memory} (w : Memory.wfFrom lo m = true) {a : Nat} (h : lo ≤ a) {v : Byte}
    (hv : v ≠ Memory.blank) : Memory.wfFrom lo (putByte a v m) = true := by
  induction m generalizing lo with
  | nil => simp [putByte, Memory.wfFrom, h, hv]
  | cons x rest ih =>
    obtain ⟨j, b⟩ := x
    simp only [Memory.wfFrom, Bool.and_eq_true, decide_eq_true_eq] at w
    simp only [putByte]
    split
    · next e => subst e; simp [Memory.wfFrom, w.1.1, hv, w.2]
    · split
      · simp only [Memory.wfFrom, Bool.and_eq_true, decide_eq_true_eq]
        exact ⟨⟨h, hv⟩, ⟨by omega, w.1.2⟩, w.2⟩
      · simp only [Memory.wfFrom, Bool.and_eq_true, decide_eq_true_eq]
        exact ⟨w.1, ih w.2 (by omega)⟩

theorem dropByte_wfFrom {lo : Nat} {m : Memory} (w : Memory.wfFrom lo m = true) (a : Nat) :
    Memory.wfFrom lo (dropByte a m) = true := by
  induction m generalizing lo with
  | nil => rfl
  | cons x rest ih =>
    obtain ⟨j, b⟩ := x
    have w0 := w
    simp only [Memory.wfFrom, Bool.and_eq_true, decide_eq_true_eq] at w
    simp only [dropByte]
    split
    · exact Memory.wfFrom_mono (by omega) w.2
    · split
      · exact w0
      · simp only [Memory.wfFrom, Bool.and_eq_true, decide_eq_true_eq]
        exact ⟨w.1, ih w.2⟩

/-- Writing a byte keeps the canonical form. -/
@[simp] theorem writeByte_wf {m : Memory} (w : m.wf = true) (a : Nat) (v : Byte) : (writeByte m a v).wf = true := by
  unfold writeByte Memory.wf
  split
  · exact dropByte_wfFrom w a
  · next h => exact putByte_wfFrom w (Nat.zero_le a) h

/-- Writing bytes keeps the canonical form. -/
@[simp] theorem writeBytes_wf {m : Memory} (w : m.wf = true) (a : Nat) (bs : List Byte) : (writeBytes m a bs).wf = true := by
  induction bs generalizing m a with
  | nil => exact w
  | cons b rest ih => exact ih (writeByte_wf w a b) (a + 1)

/-- Writing a number keeps the canonical form. -/
@[simp] theorem writeNat_wf {m : Memory} (w : m.wf = true) (a n v : Nat) : (writeNat m a n v).wf = true :=
  writeBytes_wf w a _

/-- Dropping cells keeps the canonical form. -/
@[simp] theorem filter_wf {m : Memory} (w : m.wf = true) (p : Host.Cell → Bool) : Memory.wf (m.filter p) = true := by
  suffices h : ∀ lo, Memory.wfFrom lo m = true → Memory.wfFrom lo (m.filter p) = true from h 0 w
  clear w
  induction m with
  | nil => intro lo _; rfl
  | cons x rest ih =>
    obtain ⟨j, b⟩ := x
    intro lo w
    simp only [Memory.wfFrom, Bool.and_eq_true, decide_eq_true_eq] at w
    simp only [List.filter_cons]
    split
    · simp only [Memory.wfFrom, Bool.and_eq_true, decide_eq_true_eq]
      exact ⟨w.1, ih _ w.2⟩
    · exact Memory.wfFrom_mono (by omega) (ih _ w.2)

/-! ### Reading after writing -/

theorem readByte_putByte_same (m : Memory) (a : Nat) (v : Byte) : readByte (putByte a v m) a = v := by
  induction m with
  | nil => simp [putByte, readByte]
  | cons x rest ih =>
    obtain ⟨j, b⟩ := x
    simp only [putByte]
    split
    · simp [readByte]
    · next h1 =>
      split
      · simp [readByte]
      · next h2 => simp only [readByte, if_neg h1, if_neg h2, ih]

theorem readByte_putByte_other {a c : Nat} (h : c ≠ a) (m : Memory) (v : Byte) :
    readByte (putByte a v m) c = readByte m c := by
  induction m with
  | nil => simp only [putByte, readByte, if_neg h.symm]; split <;> rfl
  | cons x rest ih =>
    obtain ⟨j, b⟩ := x
    simp only [putByte]
    split
    · next e => subst e; simp only [readByte, if_neg h.symm]
    · split
      · simp only [readByte, if_neg h.symm]
        split
        · rw [if_neg (by omega), if_pos (by omega)]
        · rfl
      · simp only [readByte, ih]

theorem readByte_dropByte {lo : Nat} {m : Memory} (w : Memory.wfFrom lo m = true) (a c : Nat) :
    readByte (dropByte a m) c = if c = a then Memory.blank else readByte m c := by
  induction m generalizing lo with
  | nil => simp [dropByte, readByte]
  | cons x rest ih =>
    obtain ⟨j, b⟩ := x
    simp only [Memory.wfFrom, Bool.and_eq_true, decide_eq_true_eq] at w
    simp only [dropByte]
    split
    · next e =>
      subst e
      split
      · next e => subst e; exact readByte_below w.2 (by omega)
      · next h =>
        simp only [readByte, if_neg (Ne.symm h)]
        split
        · exact readByte_below w.2 (by omega)
        · rfl
    · split
      · split
        · next e => subst e; simp only [readByte]; rw [if_neg (by omega), if_pos (by omega)]
        · rfl
      · simp only [readByte, ih w.2]
        split
        · rw [if_neg (by omega)]
        · split
          · split <;> rfl
          · rfl

/-- A byte read where it was just written is the byte written; every other byte is as it was. -/
theorem readByte_writeByte {m : Memory} (w : m.wf = true) (a c : Nat) (v : Byte) :
    readByte (writeByte m a v) c = if c = a then v else readByte m c := by
  unfold writeByte
  split
  · next e => rw [readByte_dropByte w, e]
  · split
    · next e => subst e; exact readByte_putByte_same m c v
    · next h => exact readByte_putByte_other h m v

/-- The byte that a sequence of bytes written from `a` on puts at an address. -/
theorem readByte_writeBytes {m : Memory} (w : m.wf = true) (a c : Nat) (bs : List Byte) :
    readByte (writeBytes m a bs) c = if a ≤ c ∧ c < a + bs.length then nth Memory.blank bs (c - a) else readByte m c := by
  induction bs generalizing m a with
  | nil => simp [writeBytes, show ¬(a ≤ c ∧ c < a) from by omega]
  | cons b rest ih =>
    rw [writeBytes, ih (writeByte_wf w a b), readByte_writeByte w]
    simp only [List.length_cons]
    by_cases h1 : a + 1 ≤ c ∧ c < a + 1 + rest.length
    · rw [if_pos h1, if_pos (by omega)]
      obtain ⟨k, hk⟩ : ∃ k, c - a = k + 1 := ⟨c - a - 1, by omega⟩
      rw [hk, show c - (a + 1) = k from by omega, nth]
    · rw [if_neg h1]
      by_cases h2 : c = a
      · subst h2; rw [if_pos rfl, if_pos (by omega)]; simp [nth]
      · rw [if_neg h2, if_neg (by omega)]

/-- Bytes outside the written range are as they were. -/
theorem readByte_writeBytes_outside {m : Memory} (w : m.wf = true) {a c : Nat} (bs : List Byte)
    (h : c < a ∨ a + bs.length ≤ c) : readByte (writeBytes m a bs) c = readByte m c := by
  rw [readByte_writeBytes w, if_neg (by omega)]

end Sys2Proof.Machine
end

