-- ==== Sys2Proof/Laws/State.lean ====
section
/-! SUPPORT. What each update of the state leaves of each field: one lemma per field and update, true by definition, so
that no proof unfolds a record update. -/

namespace Sys2Proof.Machine

@[simp] theorem State.setLane_module (s : State) (c : Nat) (x : LaneCore) : (s.setLane c x).module = s.module := rfl
@[simp] theorem State.setLane_time (s : State) (c : Nat) (x : LaneCore) : (s.setLane c x).time = s.time := rfl
@[simp] theorem State.setLane_inputs (s : State) (c : Nat) (x : LaneCore) : (s.setLane c x).inputs = s.inputs := rfl
@[simp] theorem State.setLane_sched (s : State) (c : Nat) (x : LaneCore) : (s.setLane c x).sched = s.sched := rfl
@[simp] theorem State.setLane_sel (s : State) (c : Nat) (x : LaneCore) : (s.setLane c x).sel = s.sel := rfl
@[simp] theorem State.setLane_elapsed (s : State) (c : Nat) (x : LaneCore) : (s.setLane c x).elapsed = s.elapsed := rfl
@[simp] theorem State.setLane_free (s : State) (c : Nat) (x : LaneCore) : (s.setLane c x).free = s.free := rfl
@[simp] theorem State.setLane_reply (s : State) (c : Nat) (x : LaneCore) : (s.setLane c x).reply = s.reply := rfl
@[simp] theorem State.setLane_mem (s : State) (c : Nat) (x : LaneCore) : (s.setLane c x).mem = s.mem := rfl
@[simp] theorem State.setLane_poison (s : State) (c : Nat) (x : LaneCore) : (s.setLane c x).poison = s.poison := rfl
@[simp] theorem State.setLane_arrays (s : State) (c : Nat) (x : LaneCore) : (s.setLane c x).arrays = s.arrays := rfl
@[simp] theorem State.setLane_flight (s : State) (c : Nat) (x : LaneCore) : (s.setLane c x).flight = s.flight := rfl
@[simp] theorem State.setLane_late (s : State) (c : Nat) (x : LaneCore) : (s.setLane c x).late = s.late := rfl
@[simp] theorem State.setLane_nextId (s : State) (c : Nat) (x : LaneCore) : (s.setLane c x).nextId = s.nextId := rfl
@[simp] theorem State.setLane_copies (s : State) (c : Nat) (x : LaneCore) : (s.setLane c x).copies = s.copies := rfl
@[simp] theorem State.setLane_remote (s : State) (c : Nat) (x : LaneCore) : (s.setLane c x).remote = s.remote := rfl
@[simp] theorem State.setLane_homes (s : State) (c : Nat) (x : LaneCore) : (s.setLane c x).homes = s.homes := rfl
@[simp] theorem State.setLane_merge (s : State) (c : Nat) (x : LaneCore) : (s.setLane c x).merge = s.merge := rfl
@[simp] theorem State.setLane_dir (s : State) (c : Nat) (x : LaneCore) : (s.setLane c x).dir = s.dir := rfl
@[simp] theorem State.setLane_regions (s : State) (c : Nat) (x : LaneCore) : (s.setLane c x).regions = s.regions := rfl
@[simp] theorem State.setLane_sliceReqs (s : State) (c : Nat) (x : LaneCore) : (s.setLane c x).sliceReqs = s.sliceReqs := rfl
@[simp] theorem State.setLane_reserves (s : State) (c : Nat) (x : LaneCore) : (s.setLane c x).reserves = s.reserves := rfl
@[simp] theorem State.setLane_acts (s : State) (c : Nat) (x : LaneCore) : (s.setLane c x).acts = s.acts := rfl
@[simp] theorem State.setLane_pages (s : State) (c : Nat) (x : LaneCore) : (s.setLane c x).pages = s.pages := rfl
@[simp] theorem State.setLane_lines (s : State) (c : Nat) (x : LaneCore) : (s.setLane c x).lines = s.lines := rfl
@[simp] theorem State.setLane_kept (s : State) (c : Nat) (x : LaneCore) : (s.setLane c x).kept = s.kept := rfl
@[simp] theorem State.setLane_holding (s : State) (c : Nat) (x : LaneCore) : (s.setLane c x).holding = s.holding := rfl
@[simp] theorem State.setLane_hub (s : State) (c : Nat) (x : LaneCore) : (s.setLane c x).hub = s.hub := rfl
@[simp] theorem State.setLane_lanes (s : State) (c : Nat) (x : LaneCore) : (s.setLane c x).lanes = mapSet c x s.lanes := rfl

@[simp] theorem State.setArray_module (s : State) (c : Nat) (x : ArrayCore) : (s.setArray c x).module = s.module := rfl
@[simp] theorem State.setArray_time (s : State) (c : Nat) (x : ArrayCore) : (s.setArray c x).time = s.time := rfl
@[simp] theorem State.setArray_inputs (s : State) (c : Nat) (x : ArrayCore) : (s.setArray c x).inputs = s.inputs := rfl
@[simp] theorem State.setArray_sched (s : State) (c : Nat) (x : ArrayCore) : (s.setArray c x).sched = s.sched := rfl
@[simp] theorem State.setArray_sel (s : State) (c : Nat) (x : ArrayCore) : (s.setArray c x).sel = s.sel := rfl
@[simp] theorem State.setArray_elapsed (s : State) (c : Nat) (x : ArrayCore) : (s.setArray c x).elapsed = s.elapsed := rfl
@[simp] theorem State.setArray_free (s : State) (c : Nat) (x : ArrayCore) : (s.setArray c x).free = s.free := rfl
@[simp] theorem State.setArray_reply (s : State) (c : Nat) (x : ArrayCore) : (s.setArray c x).reply = s.reply := rfl
@[simp] theorem State.setArray_mem (s : State) (c : Nat) (x : ArrayCore) : (s.setArray c x).mem = s.mem := rfl
@[simp] theorem State.setArray_poison (s : State) (c : Nat) (x : ArrayCore) : (s.setArray c x).poison = s.poison := rfl
@[simp] theorem State.setArray_lanes (s : State) (c : Nat) (x : ArrayCore) : (s.setArray c x).lanes = s.lanes := rfl
@[simp] theorem State.setArray_flight (s : State) (c : Nat) (x : ArrayCore) : (s.setArray c x).flight = s.flight := rfl
@[simp] theorem State.setArray_late (s : State) (c : Nat) (x : ArrayCore) : (s.setArray c x).late = s.late := rfl
@[simp] theorem State.setArray_nextId (s : State) (c : Nat) (x : ArrayCore) : (s.setArray c x).nextId = s.nextId := rfl
@[simp] theorem State.setArray_copies (s : State) (c : Nat) (x : ArrayCore) : (s.setArray c x).copies = s.copies := rfl
@[simp] theorem State.setArray_remote (s : State) (c : Nat) (x : ArrayCore) : (s.setArray c x).remote = s.remote := rfl
@[simp] theorem State.setArray_homes (s : State) (c : Nat) (x : ArrayCore) : (s.setArray c x).homes = s.homes := rfl
@[simp] theorem State.setArray_merge (s : State) (c : Nat) (x : ArrayCore) : (s.setArray c x).merge = s.merge := rfl
@[simp] theorem State.setArray_dir (s : State) (c : Nat) (x : ArrayCore) : (s.setArray c x).dir = s.dir := rfl
@[simp] theorem State.setArray_regions (s : State) (c : Nat) (x : ArrayCore) : (s.setArray c x).regions = s.regions := rfl
@[simp] theorem State.setArray_sliceReqs (s : State) (c : Nat) (x : ArrayCore) : (s.setArray c x).sliceReqs = s.sliceReqs := rfl
@[simp] theorem State.setArray_reserves (s : State) (c : Nat) (x : ArrayCore) : (s.setArray c x).reserves = s.reserves := rfl
@[simp] theorem State.setArray_acts (s : State) (c : Nat) (x : ArrayCore) : (s.setArray c x).acts = s.acts := rfl
@[simp] theorem State.setArray_pages (s : State) (c : Nat) (x : ArrayCore) : (s.setArray c x).pages = s.pages := rfl
@[simp] theorem State.setArray_lines (s : State) (c : Nat) (x : ArrayCore) : (s.setArray c x).lines = s.lines := rfl
@[simp] theorem State.setArray_kept (s : State) (c : Nat) (x : ArrayCore) : (s.setArray c x).kept = s.kept := rfl
@[simp] theorem State.setArray_holding (s : State) (c : Nat) (x : ArrayCore) : (s.setArray c x).holding = s.holding := rfl
@[simp] theorem State.setArray_hub (s : State) (c : Nat) (x : ArrayCore) : (s.setArray c x).hub = s.hub := rfl
@[simp] theorem State.setArray_arrays (s : State) (c : Nat) (x : ArrayCore) : (s.setArray c x).arrays = mapSet c x s.arrays := rfl

@[simp] theorem State.onHub_module (s : State) (f : Hub → Hub) : (s.onHub f).module = s.module := rfl
@[simp] theorem State.onHub_time (s : State) (f : Hub → Hub) : (s.onHub f).time = s.time := rfl
@[simp] theorem State.onHub_inputs (s : State) (f : Hub → Hub) : (s.onHub f).inputs = s.inputs := rfl
@[simp] theorem State.onHub_sched (s : State) (f : Hub → Hub) : (s.onHub f).sched = s.sched := rfl
@[simp] theorem State.onHub_sel (s : State) (f : Hub → Hub) : (s.onHub f).sel = s.sel := rfl
@[simp] theorem State.onHub_elapsed (s : State) (f : Hub → Hub) : (s.onHub f).elapsed = s.elapsed := rfl
@[simp] theorem State.onHub_free (s : State) (f : Hub → Hub) : (s.onHub f).free = s.free := rfl
@[simp] theorem State.onHub_reply (s : State) (f : Hub → Hub) : (s.onHub f).reply = s.reply := rfl
@[simp] theorem State.onHub_mem (s : State) (f : Hub → Hub) : (s.onHub f).mem = s.mem := rfl
@[simp] theorem State.onHub_poison (s : State) (f : Hub → Hub) : (s.onHub f).poison = s.poison := rfl
@[simp] theorem State.onHub_arrays (s : State) (f : Hub → Hub) : (s.onHub f).arrays = s.arrays := rfl
@[simp] theorem State.onHub_lanes (s : State) (f : Hub → Hub) : (s.onHub f).lanes = s.lanes := rfl
@[simp] theorem State.onHub_flight (s : State) (f : Hub → Hub) : (s.onHub f).flight = s.flight := rfl
@[simp] theorem State.onHub_late (s : State) (f : Hub → Hub) : (s.onHub f).late = s.late := rfl
@[simp] theorem State.onHub_nextId (s : State) (f : Hub → Hub) : (s.onHub f).nextId = s.nextId := rfl
@[simp] theorem State.onHub_copies (s : State) (f : Hub → Hub) : (s.onHub f).copies = s.copies := rfl
@[simp] theorem State.onHub_remote (s : State) (f : Hub → Hub) : (s.onHub f).remote = s.remote := rfl
@[simp] theorem State.onHub_homes (s : State) (f : Hub → Hub) : (s.onHub f).homes = s.homes := rfl
@[simp] theorem State.onHub_merge (s : State) (f : Hub → Hub) : (s.onHub f).merge = s.merge := rfl
@[simp] theorem State.onHub_dir (s : State) (f : Hub → Hub) : (s.onHub f).dir = s.dir := rfl
@[simp] theorem State.onHub_regions (s : State) (f : Hub → Hub) : (s.onHub f).regions = s.regions := rfl
@[simp] theorem State.onHub_sliceReqs (s : State) (f : Hub → Hub) : (s.onHub f).sliceReqs = s.sliceReqs := rfl
@[simp] theorem State.onHub_reserves (s : State) (f : Hub → Hub) : (s.onHub f).reserves = s.reserves := rfl
@[simp] theorem State.onHub_acts (s : State) (f : Hub → Hub) : (s.onHub f).acts = s.acts := rfl
@[simp] theorem State.onHub_pages (s : State) (f : Hub → Hub) : (s.onHub f).pages = s.pages := rfl
@[simp] theorem State.onHub_lines (s : State) (f : Hub → Hub) : (s.onHub f).lines = s.lines := rfl
@[simp] theorem State.onHub_kept (s : State) (f : Hub → Hub) : (s.onHub f).kept = s.kept := rfl
@[simp] theorem State.onHub_holding (s : State) (f : Hub → Hub) : (s.onHub f).holding = s.holding := rfl
@[simp] theorem State.onHub_hub (s : State) (f : Hub → Hub) : (s.onHub f).hub = f s.hub := rfl

@[simp] theorem State.setPort_module (s : State) (p : Nat) (x : Port) : (s.setPort p x).module = s.module := rfl
@[simp] theorem State.setPort_time (s : State) (p : Nat) (x : Port) : (s.setPort p x).time = s.time := rfl
@[simp] theorem State.setPort_inputs (s : State) (p : Nat) (x : Port) : (s.setPort p x).inputs = s.inputs := rfl
@[simp] theorem State.setPort_sched (s : State) (p : Nat) (x : Port) : (s.setPort p x).sched = s.sched := rfl
@[simp] theorem State.setPort_sel (s : State) (p : Nat) (x : Port) : (s.setPort p x).sel = s.sel := rfl
@[simp] theorem State.setPort_elapsed (s : State) (p : Nat) (x : Port) : (s.setPort p x).elapsed = s.elapsed := rfl
@[simp] theorem State.setPort_free (s : State) (p : Nat) (x : Port) : (s.setPort p x).free = s.free := rfl
@[simp] theorem State.setPort_reply (s : State) (p : Nat) (x : Port) : (s.setPort p x).reply = s.reply := rfl
@[simp] theorem State.setPort_mem (s : State) (p : Nat) (x : Port) : (s.setPort p x).mem = s.mem := rfl
@[simp] theorem State.setPort_poison (s : State) (p : Nat) (x : Port) : (s.setPort p x).poison = s.poison := rfl
@[simp] theorem State.setPort_arrays (s : State) (p : Nat) (x : Port) : (s.setPort p x).arrays = s.arrays := rfl
@[simp] theorem State.setPort_lanes (s : State) (p : Nat) (x : Port) : (s.setPort p x).lanes = s.lanes := rfl
@[simp] theorem State.setPort_flight (s : State) (p : Nat) (x : Port) : (s.setPort p x).flight = s.flight := rfl
@[simp] theorem State.setPort_late (s : State) (p : Nat) (x : Port) : (s.setPort p x).late = s.late := rfl
@[simp] theorem State.setPort_nextId (s : State) (p : Nat) (x : Port) : (s.setPort p x).nextId = s.nextId := rfl
@[simp] theorem State.setPort_copies (s : State) (p : Nat) (x : Port) : (s.setPort p x).copies = s.copies := rfl
@[simp] theorem State.setPort_remote (s : State) (p : Nat) (x : Port) : (s.setPort p x).remote = s.remote := rfl
@[simp] theorem State.setPort_homes (s : State) (p : Nat) (x : Port) : (s.setPort p x).homes = s.homes := rfl
@[simp] theorem State.setPort_merge (s : State) (p : Nat) (x : Port) : (s.setPort p x).merge = s.merge := rfl
@[simp] theorem State.setPort_dir (s : State) (p : Nat) (x : Port) : (s.setPort p x).dir = s.dir := rfl
@[simp] theorem State.setPort_regions (s : State) (p : Nat) (x : Port) : (s.setPort p x).regions = s.regions := rfl
@[simp] theorem State.setPort_sliceReqs (s : State) (p : Nat) (x : Port) : (s.setPort p x).sliceReqs = s.sliceReqs := rfl
@[simp] theorem State.setPort_reserves (s : State) (p : Nat) (x : Port) : (s.setPort p x).reserves = s.reserves := rfl
@[simp] theorem State.setPort_acts (s : State) (p : Nat) (x : Port) : (s.setPort p x).acts = s.acts := rfl
@[simp] theorem State.setPort_pages (s : State) (p : Nat) (x : Port) : (s.setPort p x).pages = s.pages := rfl
@[simp] theorem State.setPort_lines (s : State) (p : Nat) (x : Port) : (s.setPort p x).lines = s.lines := rfl
@[simp] theorem State.setPort_kept (s : State) (p : Nat) (x : Port) : (s.setPort p x).kept = s.kept := rfl
@[simp] theorem State.setPort_holding (s : State) (p : Nat) (x : Port) : (s.setPort p x).holding = s.holding := rfl
@[simp] theorem State.onLaunch_module (s : State) (w job num : Nat) (f : Launch → Launch) : (s.onLaunch w job num f).module = s.module := rfl
@[simp] theorem State.onLaunch_time (s : State) (w job num : Nat) (f : Launch → Launch) : (s.onLaunch w job num f).time = s.time := rfl
@[simp] theorem State.onLaunch_inputs (s : State) (w job num : Nat) (f : Launch → Launch) : (s.onLaunch w job num f).inputs = s.inputs := rfl
@[simp] theorem State.onLaunch_sched (s : State) (w job num : Nat) (f : Launch → Launch) : (s.onLaunch w job num f).sched = s.sched := rfl
@[simp] theorem State.onLaunch_sel (s : State) (w job num : Nat) (f : Launch → Launch) : (s.onLaunch w job num f).sel = s.sel := rfl
@[simp] theorem State.onLaunch_elapsed (s : State) (w job num : Nat) (f : Launch → Launch) : (s.onLaunch w job num f).elapsed = s.elapsed := rfl
@[simp] theorem State.onLaunch_free (s : State) (w job num : Nat) (f : Launch → Launch) : (s.onLaunch w job num f).free = s.free := rfl
@[simp] theorem State.onLaunch_reply (s : State) (w job num : Nat) (f : Launch → Launch) : (s.onLaunch w job num f).reply = s.reply := rfl
@[simp] theorem State.onLaunch_mem (s : State) (w job num : Nat) (f : Launch → Launch) : (s.onLaunch w job num f).mem = s.mem := rfl
@[simp] theorem State.onLaunch_poison (s : State) (w job num : Nat) (f : Launch → Launch) : (s.onLaunch w job num f).poison = s.poison := rfl
@[simp] theorem State.onLaunch_arrays (s : State) (w job num : Nat) (f : Launch → Launch) : (s.onLaunch w job num f).arrays = s.arrays := rfl
@[simp] theorem State.onLaunch_lanes (s : State) (w job num : Nat) (f : Launch → Launch) : (s.onLaunch w job num f).lanes = s.lanes := rfl
@[simp] theorem State.onLaunch_flight (s : State) (w job num : Nat) (f : Launch → Launch) : (s.onLaunch w job num f).flight = s.flight := rfl
@[simp] theorem State.onLaunch_late (s : State) (w job num : Nat) (f : Launch → Launch) : (s.onLaunch w job num f).late = s.late := rfl
@[simp] theorem State.onLaunch_nextId (s : State) (w job num : Nat) (f : Launch → Launch) : (s.onLaunch w job num f).nextId = s.nextId := rfl
@[simp] theorem State.onLaunch_copies (s : State) (w job num : Nat) (f : Launch → Launch) : (s.onLaunch w job num f).copies = s.copies := rfl
@[simp] theorem State.onLaunch_remote (s : State) (w job num : Nat) (f : Launch → Launch) : (s.onLaunch w job num f).remote = s.remote := rfl
@[simp] theorem State.onLaunch_homes (s : State) (w job num : Nat) (f : Launch → Launch) : (s.onLaunch w job num f).homes = s.homes := rfl
@[simp] theorem State.onLaunch_merge (s : State) (w job num : Nat) (f : Launch → Launch) : (s.onLaunch w job num f).merge = s.merge := rfl
@[simp] theorem State.onLaunch_dir (s : State) (w job num : Nat) (f : Launch → Launch) : (s.onLaunch w job num f).dir = s.dir := rfl
@[simp] theorem State.onLaunch_regions (s : State) (w job num : Nat) (f : Launch → Launch) : (s.onLaunch w job num f).regions = s.regions := rfl
@[simp] theorem State.onLaunch_sliceReqs (s : State) (w job num : Nat) (f : Launch → Launch) : (s.onLaunch w job num f).sliceReqs = s.sliceReqs := rfl
@[simp] theorem State.onLaunch_reserves (s : State) (w job num : Nat) (f : Launch → Launch) : (s.onLaunch w job num f).reserves = s.reserves := rfl
@[simp] theorem State.onLaunch_acts (s : State) (w job num : Nat) (f : Launch → Launch) : (s.onLaunch w job num f).acts = s.acts := rfl
@[simp] theorem State.onLaunch_pages (s : State) (w job num : Nat) (f : Launch → Launch) : (s.onLaunch w job num f).pages = s.pages := rfl
@[simp] theorem State.onLaunch_lines (s : State) (w job num : Nat) (f : Launch → Launch) : (s.onLaunch w job num f).lines = s.lines := rfl
@[simp] theorem State.onLaunch_kept (s : State) (w job num : Nat) (f : Launch → Launch) : (s.onLaunch w job num f).kept = s.kept := rfl
@[simp] theorem State.onLaunch_holding (s : State) (w job num : Nat) (f : Launch → Launch) : (s.onLaunch w job num f).holding = s.holding := rfl
@[simp] theorem State.onJob_module (s : State) (w job : Nat) (f : Job → Job) : (s.onJob w job f).module = s.module := rfl
@[simp] theorem State.onJob_time (s : State) (w job : Nat) (f : Job → Job) : (s.onJob w job f).time = s.time := rfl
@[simp] theorem State.onJob_inputs (s : State) (w job : Nat) (f : Job → Job) : (s.onJob w job f).inputs = s.inputs := rfl
@[simp] theorem State.onJob_sched (s : State) (w job : Nat) (f : Job → Job) : (s.onJob w job f).sched = s.sched := rfl
@[simp] theorem State.onJob_sel (s : State) (w job : Nat) (f : Job → Job) : (s.onJob w job f).sel = s.sel := rfl
@[simp] theorem State.onJob_elapsed (s : State) (w job : Nat) (f : Job → Job) : (s.onJob w job f).elapsed = s.elapsed := rfl
@[simp] theorem State.onJob_free (s : State) (w job : Nat) (f : Job → Job) : (s.onJob w job f).free = s.free := rfl
@[simp] theorem State.onJob_reply (s : State) (w job : Nat) (f : Job → Job) : (s.onJob w job f).reply = s.reply := rfl
@[simp] theorem State.onJob_mem (s : State) (w job : Nat) (f : Job → Job) : (s.onJob w job f).mem = s.mem := rfl
@[simp] theorem State.onJob_poison (s : State) (w job : Nat) (f : Job → Job) : (s.onJob w job f).poison = s.poison := rfl
@[simp] theorem State.onJob_arrays (s : State) (w job : Nat) (f : Job → Job) : (s.onJob w job f).arrays = s.arrays := rfl
@[simp] theorem State.onJob_lanes (s : State) (w job : Nat) (f : Job → Job) : (s.onJob w job f).lanes = s.lanes := rfl
@[simp] theorem State.onJob_flight (s : State) (w job : Nat) (f : Job → Job) : (s.onJob w job f).flight = s.flight := rfl
@[simp] theorem State.onJob_late (s : State) (w job : Nat) (f : Job → Job) : (s.onJob w job f).late = s.late := rfl
@[simp] theorem State.onJob_nextId (s : State) (w job : Nat) (f : Job → Job) : (s.onJob w job f).nextId = s.nextId := rfl
@[simp] theorem State.onJob_copies (s : State) (w job : Nat) (f : Job → Job) : (s.onJob w job f).copies = s.copies := rfl
@[simp] theorem State.onJob_remote (s : State) (w job : Nat) (f : Job → Job) : (s.onJob w job f).remote = s.remote := rfl
@[simp] theorem State.onJob_homes (s : State) (w job : Nat) (f : Job → Job) : (s.onJob w job f).homes = s.homes := rfl
@[simp] theorem State.onJob_merge (s : State) (w job : Nat) (f : Job → Job) : (s.onJob w job f).merge = s.merge := rfl
@[simp] theorem State.onJob_dir (s : State) (w job : Nat) (f : Job → Job) : (s.onJob w job f).dir = s.dir := rfl
@[simp] theorem State.onJob_regions (s : State) (w job : Nat) (f : Job → Job) : (s.onJob w job f).regions = s.regions := rfl
@[simp] theorem State.onJob_sliceReqs (s : State) (w job : Nat) (f : Job → Job) : (s.onJob w job f).sliceReqs = s.sliceReqs := rfl
@[simp] theorem State.onJob_reserves (s : State) (w job : Nat) (f : Job → Job) : (s.onJob w job f).reserves = s.reserves := rfl
@[simp] theorem State.onJob_acts (s : State) (w job : Nat) (f : Job → Job) : (s.onJob w job f).acts = s.acts := rfl
@[simp] theorem State.onJob_pages (s : State) (w job : Nat) (f : Job → Job) : (s.onJob w job f).pages = s.pages := rfl
@[simp] theorem State.onJob_lines (s : State) (w job : Nat) (f : Job → Job) : (s.onJob w job f).lines = s.lines := rfl
@[simp] theorem State.onJob_kept (s : State) (w job : Nat) (f : Job → Job) : (s.onJob w job f).kept = s.kept := rfl
@[simp] theorem State.onJob_holding (s : State) (w job : Nat) (f : Job → Job) : (s.onJob w job f).holding = s.holding := rfl

/-! ### Threads -/

@[simp] theorem Thread.setHandle_pc (t : Thread) (n : Nat) (v : Word) : (t.setHandle n v).pc = t.pc := rfl
@[simp] theorem Thread.setHandle_regs (t : Thread) (n : Nat) (v : Word) : (t.setHandle n v).regs = t.regs := rfl
@[simp] theorem Thread.setHandle_preds (t : Thread) (n : Nat) (v : Word) : (t.setHandle n v).preds = t.preds := rfl
@[simp] theorem Thread.setHandle_fpstat (t : Thread) (n : Nat) (v : Word) : (t.setHandle n v).fpstat = t.fpstat := rfl
@[simp] theorem Thread.setHandle_win (t : Thread) (n : Nat) (v : Word) : (t.setHandle n v).win = t.win := rfl
@[simp] theorem Thread.setHandle_batch (t : Thread) (n : Nat) (v : Word) : (t.setHandle n v).batch = t.batch := rfl
@[simp] theorem Thread.setHandle_estatCause (t : Thread) (n : Nat) (v : Word) : (t.setHandle n v).estatCause = t.estatCause := rfl
@[simp] theorem Thread.setHandle_inHandler (t : Thread) (n : Nat) (v : Word) : (t.setHandle n v).inHandler = t.inHandler := rfl
@[simp] theorem Thread.setHandle_epc (t : Thread) (n : Nat) (v : Word) : (t.setHandle n v).epc = t.epc := rfl
@[simp] theorem Thread.setHandle_eval (t : Thread) (n : Nat) (v : Word) : (t.setHandle n v).eval = t.eval := rfl
@[simp] theorem Thread.setHandle_evec (t : Thread) (n : Nat) (v : Word) : (t.setHandle n v).evec = t.evec := rfl
@[simp] theorem Thread.setHandle_timeFrac (t : Thread) (n : Nat) (v : Word) : (t.setHandle n v).timeFrac = t.timeFrac := rfl
@[simp] theorem Thread.setHandle_run (t : Thread) (n : Nat) (v : Word) : (t.setHandle n v).run = t.run := rfl
@[simp] theorem Thread.setHandle_frozen (t : Thread) (n : Nat) (v : Word) : (t.setHandle n v).frozen = t.frozen := rfl
@[simp] theorem Thread.setHandle_spillIndex (t : Thread) (n : Nat) (v : Word) : (t.setHandle n v).spillIndex = t.spillIndex := rfl
@[simp] theorem Thread.setHandle_spillLane (t : Thread) (n : Nat) (v : Word) : (t.setHandle n v).spillLane = t.spillLane := rfl

@[simp] theorem Thread.setPreg_pc (t : Thread) (p : Nat) (v : Word) : (t.setPreg p v).pc = t.pc := by
  unfold Thread.setPreg; split <;> rfl
@[simp] theorem Thread.setReg_pc (r : Nat) (t : Thread) (n : BitVec 5) (v : Word) : (t.setReg r n v).pc = t.pc := by
  simp [Thread.setReg]
@[simp] theorem Thread.setPreg_handles (t : Thread) (p : Nat) (v : Word) : (t.setPreg p v).handles = t.handles := by
  unfold Thread.setPreg; split <;> rfl
@[simp] theorem Thread.setReg_handles (r : Nat) (t : Thread) (n : BitVec 5) (v : Word) : (t.setReg r n v).handles = t.handles := by
  simp [Thread.setReg]
@[simp] theorem Thread.setPreg_preds (t : Thread) (p : Nat) (v : Word) : (t.setPreg p v).preds = t.preds := by
  unfold Thread.setPreg; split <;> rfl
@[simp] theorem Thread.setReg_preds (r : Nat) (t : Thread) (n : BitVec 5) (v : Word) : (t.setReg r n v).preds = t.preds := by
  simp [Thread.setReg]
@[simp] theorem Thread.setPreg_fpstat (t : Thread) (p : Nat) (v : Word) : (t.setPreg p v).fpstat = t.fpstat := by
  unfold Thread.setPreg; split <;> rfl
@[simp] theorem Thread.setReg_fpstat (r : Nat) (t : Thread) (n : BitVec 5) (v : Word) : (t.setReg r n v).fpstat = t.fpstat := by
  simp [Thread.setReg]
@[simp] theorem Thread.setPreg_win (t : Thread) (p : Nat) (v : Word) : (t.setPreg p v).win = t.win := by
  unfold Thread.setPreg; split <;> rfl
@[simp] theorem Thread.setReg_win (r : Nat) (t : Thread) (n : BitVec 5) (v : Word) : (t.setReg r n v).win = t.win := by
  simp [Thread.setReg]
@[simp] theorem Thread.setPreg_batch (t : Thread) (p : Nat) (v : Word) : (t.setPreg p v).batch = t.batch := by
  unfold Thread.setPreg; split <;> rfl
@[simp] theorem Thread.setReg_batch (r : Nat) (t : Thread) (n : BitVec 5) (v : Word) : (t.setReg r n v).batch = t.batch := by
  simp [Thread.setReg]
@[simp] theorem Thread.setPreg_estatCause (t : Thread) (p : Nat) (v : Word) : (t.setPreg p v).estatCause = t.estatCause := by
  unfold Thread.setPreg; split <;> rfl
@[simp] theorem Thread.setReg_estatCause (r : Nat) (t : Thread) (n : BitVec 5) (v : Word) : (t.setReg r n v).estatCause = t.estatCause := by
  simp [Thread.setReg]
@[simp] theorem Thread.setPreg_inHandler (t : Thread) (p : Nat) (v : Word) : (t.setPreg p v).inHandler = t.inHandler := by
  unfold Thread.setPreg; split <;> rfl
@[simp] theorem Thread.setReg_inHandler (r : Nat) (t : Thread) (n : BitVec 5) (v : Word) : (t.setReg r n v).inHandler = t.inHandler := by
  simp [Thread.setReg]
@[simp] theorem Thread.setPreg_epc (t : Thread) (p : Nat) (v : Word) : (t.setPreg p v).epc = t.epc := by
  unfold Thread.setPreg; split <;> rfl
@[simp] theorem Thread.setReg_epc (r : Nat) (t : Thread) (n : BitVec 5) (v : Word) : (t.setReg r n v).epc = t.epc := by
  simp [Thread.setReg]
@[simp] theorem Thread.setPreg_eval (t : Thread) (p : Nat) (v : Word) : (t.setPreg p v).eval = t.eval := by
  unfold Thread.setPreg; split <;> rfl
@[simp] theorem Thread.setReg_eval (r : Nat) (t : Thread) (n : BitVec 5) (v : Word) : (t.setReg r n v).eval = t.eval := by
  simp [Thread.setReg]
@[simp] theorem Thread.setPreg_evec (t : Thread) (p : Nat) (v : Word) : (t.setPreg p v).evec = t.evec := by
  unfold Thread.setPreg; split <;> rfl
@[simp] theorem Thread.setReg_evec (r : Nat) (t : Thread) (n : BitVec 5) (v : Word) : (t.setReg r n v).evec = t.evec := by
  simp [Thread.setReg]
@[simp] theorem Thread.setPreg_timeFrac (t : Thread) (p : Nat) (v : Word) : (t.setPreg p v).timeFrac = t.timeFrac := by
  unfold Thread.setPreg; split <;> rfl
@[simp] theorem Thread.setReg_timeFrac (r : Nat) (t : Thread) (n : BitVec 5) (v : Word) : (t.setReg r n v).timeFrac = t.timeFrac := by
  simp [Thread.setReg]
@[simp] theorem Thread.setPreg_run (t : Thread) (p : Nat) (v : Word) : (t.setPreg p v).run = t.run := by
  unfold Thread.setPreg; split <;> rfl
@[simp] theorem Thread.setReg_run (r : Nat) (t : Thread) (n : BitVec 5) (v : Word) : (t.setReg r n v).run = t.run := by
  simp [Thread.setReg]
@[simp] theorem Thread.setPreg_frozen (t : Thread) (p : Nat) (v : Word) : (t.setPreg p v).frozen = t.frozen := by
  unfold Thread.setPreg; split <;> rfl
@[simp] theorem Thread.setReg_frozen (r : Nat) (t : Thread) (n : BitVec 5) (v : Word) : (t.setReg r n v).frozen = t.frozen := by
  simp [Thread.setReg]
@[simp] theorem Thread.setPreg_spillIndex (t : Thread) (p : Nat) (v : Word) : (t.setPreg p v).spillIndex = t.spillIndex := by
  unfold Thread.setPreg; split <;> rfl
@[simp] theorem Thread.setReg_spillIndex (r : Nat) (t : Thread) (n : BitVec 5) (v : Word) : (t.setReg r n v).spillIndex = t.spillIndex := by
  simp [Thread.setReg]
@[simp] theorem Thread.setPreg_spillLane (t : Thread) (p : Nat) (v : Word) : (t.setPreg p v).spillLane = t.spillLane := by
  unfold Thread.setPreg; split <;> rfl
@[simp] theorem Thread.setReg_spillLane (r : Nat) (t : Thread) (n : BitVec 5) (v : Word) : (t.setReg r n v).spillLane = t.spillLane := by
  simp [Thread.setReg]

end Sys2Proof.Machine
end

