-- ==== Sys2Proof/Laws/Keeps.lean ====
section
/-! SUPPORT. The shared operations keep memory and core storage in canonical form: one lemma per operation. -/

namespace Sys2Proof.Machine

/-! ### Forms of answers -/

/-- A next state, if there is one, has its memory in canonical form. -/
def Kept (a : Answer) : Prop := ∀ t, a = .next t → t.MemoryOk

/-- A state, if there is one, has its memory in canonical form. -/
def KeptOpt (o : Option State) : Prop := ∀ t, o = some t → t.MemoryOk

@[simp] theorem kept_next (s : State) : Kept (.next s) ↔ s.MemoryOk := by simp [Kept]
@[simp] theorem kept_fault (f : Fault) : Kept (.fault f) := by simp [Kept]
@[simp] theorem kept_refused (f : Refusal) : Kept (.refused f) := by simp [Kept]
@[simp] theorem keptOpt_some (s : State) : KeptOpt (some s) ↔ s.MemoryOk := by simp [KeptOpt]
@[simp] theorem keptOpt_none : KeptOpt none := by simp [KeptOpt]

@[simp] theorem keptOpt_getD {o : Option State} {s : State} (h : KeptOpt o) (hs : s.MemoryOk) : (o.getD s).MemoryOk := by
  cases o <;> simp_all

theorem kept_some {o : Option State} {t : State} (e : o = some t) (h : KeptOpt o) : t.MemoryOk := h t e
theorem kept_pair {β : Type} {p : State × β} {t : State} {b : β} (e : p = (t, b)) (h : p.1.MemoryOk) : t.MemoryOk := by
  simpa [e] using h
theorem kept_answer {a : Answer} {t : State} (e : a = .next t) (h : Kept a) : t.MemoryOk := h t e

/-! ### Tables and records -/

theorem mapGet?_all {α : Type} {P : α → Prop} {m : Map α} (h : ∀ x ∈ m, P x.2) {k : Nat} {a : α}
    (hk : mapGet? k m = some a) : P a := by
  induction m with
  | nil => simp [mapGet?] at hk
  | cons y rest ih =>
    obtain ⟨j, b⟩ := y
    unfold mapGet? at hk
    split at hk
    · simp_all
    · split at hk
      · simp at hk
      · exact ih (fun x hx => h x (List.mem_cons_of_mem _ hx)) hk

theorem mapGet_all {α : Type} {P : α → Prop} {m : Map α} (h : ∀ x ∈ m, P x.2) {d : α} (hd : P d) (k : Nat) :
    P (mapGet d m k) := by
  unfold mapGet
  cases hm : mapGet? k m with
  | none => exact hd
  | some a => exact mapGet?_all h hm

theorem mapSet_all {α : Type} {P : α → Prop} {m : Map α} (h : ∀ x ∈ m, P x.2) (k : Nat) {a : α} (ha : P a) :
    ∀ x ∈ mapSet k a m, P x.2 := by
  induction m with
  | nil => simpa [mapSet] using ha
  | cons y rest ih =>
    obtain ⟨j, b⟩ := y
    simp only [List.mem_cons, forall_eq_or_imp] at h
    unfold mapSet
    split
    · simp only [List.mem_cons, forall_eq_or_imp]; exact ⟨ha, h.2⟩
    · split
      · simp only [List.mem_cons, forall_eq_or_imp]; exact ⟨ha, h.1, h.2⟩
      · simp only [List.mem_cons, forall_eq_or_imp]; exact ⟨h.1, ih h.2⟩

theorem mapErase_all {α : Type} {P : α → Prop} {m : Map α} (h : ∀ x ∈ m, P x.2) (k : Nat) :
    ∀ x ∈ mapErase k m, P x.2 := by
  induction m with
  | nil => simp [mapErase]
  | cons y rest ih =>
    obtain ⟨j, b⟩ := y
    simp only [List.mem_cons, forall_eq_or_imp] at h
    unfold mapErase
    split
    · exact h.2
    · split
      · simp only [List.mem_cons, forall_eq_or_imp]; exact h
      · simp only [List.mem_cons, forall_eq_or_imp]; exact ⟨h.1, ih h.2⟩

theorem State.MemoryOk.mem {s : State} (h : s.MemoryOk) : s.mem.wf = true := h.1
theorem State.MemoryOk.arrays {s : State} (h : s.MemoryOk) : ∀ k ∈ s.arrays, k.2.localStore.wf = true := h.2.1
theorem State.MemoryOk.lanes {s : State} (h : s.MemoryOk) : ∀ k ∈ s.lanes, k.2.scratch.wf = true := h.2.2.1
theorem State.MemoryOk.saved {s : State} (h : s.MemoryOk) : ∀ v ∈ s.hub.saved, v.StoreOk := h.2.2.2

@[simp] theorem array_wf {s : State} (h : s.MemoryOk) (c : Nat) : (s.array c).localStore.wf = true :=
  mapGet_all (P := fun k : ArrayCore => k.localStore.wf = true) h.arrays rfl c
@[simp] theorem lane_wf {s : State} (h : s.MemoryOk) (c : Nat) : (s.lane c).scratch.wf = true :=
  mapGet_all (P := fun k : LaneCore => k.scratch.wf = true) h.lanes rfl c

@[simp] theorem setArray_ok {s : State} (h : s.MemoryOk) (c : Nat) {k : ArrayCore} (hk : k.localStore.wf = true) :
    (s.setArray c k).MemoryOk :=
  ⟨h.mem, mapSet_all (P := fun k : ArrayCore => k.localStore.wf = true) h.arrays c hk, h.lanes, h.saved⟩
@[simp] theorem setLane_ok {s : State} (h : s.MemoryOk) (c : Nat) {k : LaneCore} (hk : k.scratch.wf = true) :
    (s.setLane c k).MemoryOk :=
  ⟨h.mem, h.arrays, mapSet_all (P := fun k : LaneCore => k.scratch.wf = true) h.lanes c hk, h.saved⟩
/-- A change of the hub that leaves the saved contexts. -/
@[simp] theorem onHub_ok {s : State} {f : Hub → Hub} (h : s.MemoryOk) (hf : ∀ h, (f h).saved = h.saved) :
    (s.onHub f).MemoryOk := ⟨h.mem, h.arrays, h.lanes, by simp only [State.onHub_hub, hf]; exact h.saved⟩
/-- The saved contexts replaced. -/
theorem onSaved_ok {s : State} {f : Hub → Hub} (h : s.MemoryOk) (hf : ∀ v ∈ (f s.hub).saved, v.StoreOk) :
    (s.onHub f).MemoryOk := ⟨h.mem, h.arrays, h.lanes, by simp only [State.onHub_hub]; exact hf⟩
@[simp] theorem setPort_ok {s : State} (h : s.MemoryOk) (p : Nat) (x : Port) : (s.setPort p x).MemoryOk :=
  onHub_ok h fun _ => rfl

/-- A fold of steps that each keep it. -/
@[simp] theorem foldl_ok {α : Type} {f : State → α → State} (hf : ∀ s x, s.MemoryOk → (f s x).MemoryOk) {s : State} (h : s.MemoryOk)
    (xs : List α) : (xs.foldl f s).MemoryOk := by
  induction xs generalizing s with
  | nil => exact h
  | cons x rest ih => exact ih (hf s x h)

/-- A state that differs in neither memory nor cores nor saved contexts. -/
@[simp] theorem same_ok {s : State} (h : s.MemoryOk) {mo t i sc se e f r p fl la n c re ho mg di sr rg ac pg li ke hg rs} {hu : Hub} (hv : hu.saved = s.hub.saved) :
    (State.mk mo t i sc se e f r s.mem p s.arrays s.lanes fl la n c re ho mg di sr rg ac pg li ke hg rs hu).MemoryOk := ⟨h.mem, h.arrays, h.lanes, hv ▸ h.saved⟩

/-- The memory replaced. -/
@[simp] theorem memSet_ok {s : State} (h : s.MemoryOk) {m : Memory} (hm : m.wf = true)
    {mo t i sc se e f r p fl la n c re ho mg di sr rg ac pg li ke hg rs} {hu : Hub} (hv : hu.saved = s.hub.saved) :
    (State.mk mo t i sc se e f r m p s.arrays s.lanes fl la n c re ho mg di sr rg ac pg li ke hg rs hu).MemoryOk := ⟨hm, h.arrays, h.lanes, hv ▸ h.saved⟩

/-- A table of cores with one replaced or erased. -/
@[simp] theorem lanesSet_ok {s : State} (h : s.MemoryOk) (co : Nat) {k : LaneCore} (hk : k.scratch.wf = true)
    {mo t i sc se e f r p fl la n c re ho mg di sr rg ac pg li ke hg rs} {hu : Hub} (hv : hu.saved = s.hub.saved) :
    (State.mk mo t i sc se e f r s.mem p s.arrays (mapSet co k s.lanes) fl la n c re ho mg di sr rg ac pg li ke hg rs hu).MemoryOk :=
  ⟨h.mem, h.arrays, (setLane_ok h co hk).lanes, hv ▸ h.saved⟩
@[simp] theorem arraysSet_ok {s : State} (h : s.MemoryOk) (co : Nat) {k : ArrayCore} (hk : k.localStore.wf = true)
    {mo t i sc se e f r p fl la n c re ho mg di sr rg ac pg li ke hg rs} {hu : Hub} (hv : hu.saved = s.hub.saved) :
    (State.mk mo t i sc se e f r s.mem p (mapSet co k s.arrays) s.lanes fl la n c re ho mg di sr rg ac pg li ke hg rs hu).MemoryOk :=
  ⟨h.mem, (setArray_ok h co hk).arrays, h.lanes, hv ▸ h.saved⟩
@[simp] theorem lanesErase_ok {s : State} (h : s.MemoryOk) (co : Nat)
    {mo t i sc se e f r p fl la n c re ho mg di sr rg ac pg li ke hg rs} {hu : Hub} (hv : hu.saved = s.hub.saved) :
    (State.mk mo t i sc se e f r s.mem p s.arrays (mapErase co s.lanes) fl la n c re ho mg di sr rg ac pg li ke hg rs hu).MemoryOk :=
  ⟨h.mem, h.arrays, mapErase_all (P := fun k : LaneCore => k.scratch.wf = true) h.lanes co, hv ▸ h.saved⟩
@[simp] theorem arraysErase_ok {s : State} (h : s.MemoryOk) (co : Nat)
    {mo t i sc se e f r p fl la n c re ho mg di sr rg ac pg li ke hg rs} {hu : Hub} (hv : hu.saved = s.hub.saved) :
    (State.mk mo t i sc se e f r s.mem p (mapErase co s.arrays) s.lanes fl la n c re ho mg di sr rg ac pg li ke hg rs hu).MemoryOk :=
  ⟨h.mem, mapErase_all (P := fun k : ArrayCore => k.localStore.wf = true) h.arrays co, h.lanes, hv ▸ h.saved⟩
theorem arrayBlank_store : ArrayCore.blank.localStore = [] := rfl
theorem laneBlank_store : LaneCore.blank.scratch = [] := rfl
@[simp] theorem arrayBlank_wf : ArrayCore.blank.localStore.wf = true := by simp [arrayBlank_store, Memory.wf, Memory.wfFrom]
@[simp] theorem laneBlank_wf : LaneCore.blank.scratch.wf = true := by simp [laneBlank_store, Memory.wf, Memory.wfFrom]
@[simp] theorem nil_wf : Memory.wf [] = true := by simp [Memory.wf, Memory.wfFrom]

@[simp] theorem mem_wf {s : State} (h : s.MemoryOk) : s.mem.wf = true := h.1
@[simp] theorem foldl_wf {α : Type} {f : Memory → α → Memory} (hf : ∀ m x, m.wf = true → (f m x).wf = true) {m : Memory}
    (h : m.wf = true) (xs : List α) : (xs.foldl f m).wf = true := by
  induction xs generalizing m with
  | nil => exact h
  | cons x rest ih => exact ih (hf m x h)

theorem runningGroup_wf {s : State} (h : s.MemoryOk) {c slot lane : Nat} {k : LaneCore} {w : Warp} {g : Workgroup} {group : List Nat}
    (hr : runningGroup s c slot lane = some (k, w, g, group)) : k.scratch.wf = true := by
  unfold runningGroup at hr
  dsimp only at hr
  repeat' split at hr
  all_goals simp only [Option.some.injEq, Prod.mk.injEq, reduceCtorEq] at hr
  obtain ⟨rfl, -⟩ := hr
  exact lane_wf h c

theorem runningTask_wf {s : State} (h : s.MemoryOk) {c : Nat} {cur : Cursor} {k : ArrayCore} {t : Task}
    (hr : runningTask s c cur = some (k, t)) : k.localStore.wf = true := by
  unfold runningTask at hr
  dsimp only at hr
  repeat' split at hr
  all_goals simp only [Option.some.injEq, Prod.mk.injEq, reduceCtorEq] at hr
  obtain ⟨rfl, -⟩ := hr
  exact array_wf h c

@[simp] theorem ite_kept (p : Prop) [Decidable p] (a b : Answer) : Kept (if p then a else b) ↔ (p → Kept a) ∧ (¬p → Kept b) := by
  split <;> simp_all
@[simp] theorem ite_keptOpt (p : Prop) [Decidable p] (a b : Option State) :
    KeptOpt (if p then a else b) ↔ (p → KeptOpt a) ∧ (¬p → KeptOpt b) := by
  split <;> simp_all
@[simp] theorem ite_ok (p : Prop) [Decidable p] (a b : State) :
    (if p then a else b).MemoryOk ↔ (p → a.MemoryOk) ∧ (¬p → b.MemoryOk) := by
  split <;> simp_all

end Sys2Proof.Machine
end

