-- ==== Sys2Proof/Laws/KeepsWords.lean ====
section
/-! SUPPORT. The words of the engines keep memory, core storage and saved contexts in canonical form: one lemma for each definition. -/

namespace Sys2Proof.Machine

/-! ### Home -/

@[simp] theorem flushMerge_ok {s : State} (a n : Nat) (hs : s.MemoryOk) :
    (flushMerge s a n).MemoryOk := by
  simp (maxDischargeDepth := 20) (contextual := true) [flushMerge, hs]

@[simp] theorem dropReserves_ok {s : State} (a n : Nat) (hs : s.MemoryOk) :
    (dropReserves s a n).MemoryOk := by
  simp (maxDischargeDepth := 20) (contextual := true) [dropReserves, hs]

@[simp] theorem poke_ok {s : State} (a : Nat) (bs : List Byte) (hs : s.MemoryOk) :
    (poke s a bs).MemoryOk := by
  simp (maxDischargeDepth := 20) (contextual := true) [poke, hs]

@[simp] theorem State_setDir_ok {s : State} (line : Nat) (d : DirLine) (hs : s.MemoryOk) :
    (State.setDir s line d).MemoryOk := by
  simp (maxDischargeDepth := 20) (contextual := true) [State.setDir, hs]

@[simp] theorem tidyRegion_ok {s : State} (r : Nat) (hs : s.MemoryOk) :
    (tidyRegion s r).MemoryOk := by
  unfold tidyRegion; (repeat' split) <;> (try have hw := runningGroup_wf hs (by assumption)) <;> (try have hw := runningTask_wf hs (by assumption)) <;> (try have hk := kept_some (by assumption) (by simp (maxDischargeDepth := 20) (contextual := true) [*])) <;> (try have hk := kept_pair (by assumption) (by simp (maxDischargeDepth := 20) (contextual := true) [*])) <;> (try have hk := kept_answer (by assumption) (by simp (maxDischargeDepth := 20) (contextual := true) [*])) <;> (try simp (maxDischargeDepth := 20) (contextual := true) [*]) <;> ((repeat' split) <;> simp (maxDischargeDepth := 20) (contextual := true) [*])

@[simp] theorem evictRegion_ok {s : State} (r : Nat) (hs : s.MemoryOk) :
    (evictRegion s r).MemoryOk := by
  simp (maxDischargeDepth := 20) (contextual := true) [evictRegion, hs]

@[simp] theorem makeRoom_ok {s : State} (r : Nat) (hs : s.MemoryOk) :
    (makeRoom s r).MemoryOk := by
  simp (maxDischargeDepth := 20) (contextual := true) [makeRoom, hs]

@[simp] theorem recordPort_ok {s : State} (line p : Nat) (st : LineSt) (hs : s.MemoryOk) :
    (recordPort s line p st).MemoryOk := by
  unfold recordPort; (repeat' split) <;> (try have hw := runningGroup_wf hs (by assumption)) <;> (try have hw := runningTask_wf hs (by assumption)) <;> (try have hk := kept_some (by assumption) (by simp (maxDischargeDepth := 20) (contextual := true) [*])) <;> (try have hk := kept_pair (by assumption) (by simp (maxDischargeDepth := 20) (contextual := true) [*])) <;> (try have hk := kept_answer (by assumption) (by simp (maxDischargeDepth := 20) (contextual := true) [*])) <;> (try simp (maxDischargeDepth := 20) (contextual := true) [*]) <;> ((repeat' split) <;> simp (maxDischargeDepth := 20) (contextual := true) [*])

@[simp] theorem cleanLine_ok (p : Nat) {s : State} (e : Nat × DirLine) (hs : s.MemoryOk) :
    (cleanLine p s e).MemoryOk := by
  unfold cleanLine; (repeat' split) <;> simp (maxDischargeDepth := 20) (contextual := true) [*]

@[simp] theorem cleanFenced_ok {s : State} (line : Nat) (hs : s.MemoryOk) :
    (cleanFenced s line).MemoryOk := by
  simp (maxDischargeDepth := 20) (contextual := true) [cleanFenced, hs]

@[simp] theorem cleanRange_ok {s : State} (a n : Nat) (hs : s.MemoryOk) :
    (cleanRange s a n).MemoryOk := by
  simp (maxDischargeDepth := 20) (contextual := true) [cleanRange, hs]

@[simp] theorem dropCopies_ok {s0 : State} (a n : Nat) (hs0 : s0.MemoryOk) :
    (dropCopies s0 a n).MemoryOk := by
  simp (maxDischargeDepth := 20) (contextual := true) [dropCopies, hs0]

@[simp] theorem readCopies_ok {s0 : State} (a n : Nat) (hs0 : s0.MemoryOk) :
    (readCopies s0 a n).MemoryOk := by
  simp (maxDischargeDepth := 20) (contextual := true) [readCopies, hs0]

@[simp] theorem writeHome_ok {s : State} (a : Nat) (bs : List Byte) (hs : s.MemoryOk) :
    (writeHome s a bs).MemoryOk := by
  simp (maxDischargeDepth := 20) (contextual := true) [writeHome, hs]

@[simp] theorem joinQueue_ok {s : State} (line id : Nat) (hs : s.MemoryOk) :
    (joinQueue s line id).MemoryOk := by
  simp (maxDischargeDepth := 20) (contextual := true) [joinQueue, hs]

@[simp] theorem joinSlice_ok {s : State} (line : Nat) (r : SliceReq) (hs : s.MemoryOk) :
    (joinSlice s line r).MemoryOk := by
  simp (maxDischargeDepth := 20) (contextual := true) [joinSlice, hs]

@[simp] theorem hubWriteLine_ok {s : State} (a : Nat) (bs : List Byte) (line : Nat) (hs : s.MemoryOk) :
    (hubWriteLine a bs s line).MemoryOk := by
  simp (maxDischargeDepth := 20) (contextual := true) [hubWriteLine, hs]

@[simp] theorem hubWrite_ok {s : State} (a : Nat) (bs : List Byte) (hs : s.MemoryOk) :
    (hubWrite s a bs).MemoryOk := by
  simp (maxDischargeDepth := 20) (contextual := true) [hubWrite, hs]

/-! ### Ops -/

@[simp] theorem State_setFlog_ok {s : State} (w : Nat) (l : FaultLog) (hs : s.MemoryOk) :
    (State.setFlog s w l).MemoryOk := by
  simp (maxDischargeDepth := 20) (contextual := true) [State.setFlog, hs]

@[simp] theorem writeReport_ok {s : State} (r : Report) (hs : s.MemoryOk) :
    (writeReport s r).MemoryOk := by
  simp (maxDischargeDepth := 20) (contextual := true) [writeReport, hs]

@[simp] theorem State_onLaunch_ok {s : State} (w job num : Nat) (f : Launch → Launch) (hs : s.MemoryOk) :
    (State.onLaunch s w job num f).MemoryOk := by
  simp (maxDischargeDepth := 20) (contextual := true) [State.onLaunch, hs]

@[simp] theorem State_onJob_ok {s : State} (w job : Nat) (f : Job → Job) (hs : s.MemoryOk) :
    (State.onJob s w job f).MemoryOk := by
  simp (maxDischargeDepth := 20) (contextual := true) [State.onJob, hs]

@[simp] theorem report_ok {s : State} (r : Report) (hs : s.MemoryOk) :
    (report s r).MemoryOk := by
  simp (maxDischargeDepth := 20) (contextual := true) [report, hs]

@[simp] theorem reportLanes_ok {s : State} (i : UnitInfo) (core idx slot cls : Nat) (pc : Word) (fs : List LaneFault) (hs : s.MemoryOk) :
    (reportLanes s i core idx slot cls pc fs).MemoryOk := by
  induction fs generalizing s with
  | nil => exact hs
  | cons f rest ih =>
    cases rest with
    | nil => exact report_ok _ hs
    | cons g more => exact ih (report_ok _ hs)

@[simp] theorem laneException_ok {s : State} (c slot : Nat) (group : List Nat) (pc resume : Word) (faults : List LaneFault) (hs : s.MemoryOk) :
    (laneException s c slot group pc resume faults).MemoryOk := by
  unfold laneException; (repeat' split) <;> (try have hw := runningGroup_wf hs (by assumption)) <;> (try have hw := runningTask_wf hs (by assumption)) <;> (try have hk := kept_some (by assumption) (by simp (maxDischargeDepth := 20) (contextual := true) [*])) <;> (try have hk := kept_pair (by assumption) (by simp (maxDischargeDepth := 20) (contextual := true) [*])) <;> (try have hk := kept_answer (by assumption) (by simp (maxDischargeDepth := 20) (contextual := true) [*])) <;> (try simp (maxDischargeDepth := 20) (contextual := true) [*]) <;> ((repeat' split) <;> simp (maxDischargeDepth := 20) (contextual := true) [*])

@[simp] theorem arrayException_ok {s : State} (c : Nat) (cur : Cursor) (cause : Cause) (value : Word) (code addr : Nat) (pc : Word) (hs : s.MemoryOk) :
    (arrayException s c cur cause value code addr pc).MemoryOk := by
  unfold arrayException; (repeat' split) <;> (try have hw := runningGroup_wf hs (by assumption)) <;> (try have hw := runningTask_wf hs (by assumption)) <;> (try have hk := kept_some (by assumption) (by simp (maxDischargeDepth := 20) (contextual := true) [*])) <;> (try have hk := kept_pair (by assumption) (by simp (maxDischargeDepth := 20) (contextual := true) [*])) <;> (try have hk := kept_answer (by assumption) (by simp (maxDischargeDepth := 20) (contextual := true) [*])) <;> (try simp (maxDischargeDepth := 20) (contextual := true) [*]) <;> ((repeat' split) <;> simp (maxDischargeDepth := 20) (contextual := true) [*])

@[simp] theorem arrayReturn_ok (k : ArrayCore) (t : Task) :
    (arrayReturn k t).localStore = k.localStore := by
  unfold arrayReturn; (repeat' split) <;> simp (maxDischargeDepth := 20) (contextual := true) [*]

@[simp] theorem deferred_ok {s : State} (i : UnitInfo) (kind : CoreKind) (core idx slot : Nat) (cause : Cause) (code addr pc cursor : Nat) (hs : s.MemoryOk) :
    (deferred s i kind core idx slot cause code addr pc cursor).MemoryOk := by
  simp (maxDischargeDepth := 20) (contextual := true) [deferred, hs]

@[simp] theorem scalarWord_ok {s : State} (cur : Cursor) (branch : Bool) (f : Ctx → Thread → ThreadOut) (hs : s.MemoryOk) :
    Kept (scalarWord s cur branch f) := by
  unfold scalarWord; (repeat' split) <;> (try have hw := runningGroup_wf hs (by assumption)) <;> (try have hw := runningTask_wf hs (by assumption)) <;> (try have hk := kept_some (by assumption) (by simp (maxDischargeDepth := 20) (contextual := true) [*])) <;> (try have hk := kept_pair (by assumption) (by simp (maxDischargeDepth := 20) (contextual := true) [*])) <;> (try have hk := kept_answer (by assumption) (by simp (maxDischargeDepth := 20) (contextual := true) [*])) <;> (try simp (maxDischargeDepth := 20) (contextual := true) [*]) <;> ((repeat' split) <;> simp (maxDischargeDepth := 20) (contextual := true) [*])

@[simp] theorem writesReg_ok {s : State} (d : BitVec 5) (v : Ctx → Thread → Word) (hs : s.MemoryOk) :
    Kept (writesReg s d v) := by
  simp (maxDischargeDepth := 20) (contextual := true) [writesReg, hs]

/-! ### Integer -/

@[simp] theorem intOp_ok (op : Word → Word → Word) (d a b : BitVec 5) {s : State} (hs : s.MemoryOk) :
    Kept (intOp op d a b s) := by
  simp (maxDischargeDepth := 20) (contextual := true) [intOp, hs]

@[simp] theorem immOp_ok (op : Word → Word → Word) (d a : BitVec 5) (imm : BitVec 12) {s : State} (hs : s.MemoryOk) :
    Kept (immOp op d a imm s) := by
  simp (maxDischargeDepth := 20) (contextual := true) [immOp, hs]

@[simp] theorem shiftImm_ok (op : Word → Word → Word) (d a : BitVec 5) (imm : BitVec 12) {s : State} (hs : s.MemoryOk) :
    Kept (shiftImm op d a imm s) := by
  simp (maxDischargeDepth := 20) (contextual := true) [shiftImm, hs]

@[simp] theorem execAdd_ok (d a b : BitVec 5) {s : State} (hs : s.MemoryOk) :
    Kept (execAdd d a b s) := by
  simp (maxDischargeDepth := 20) (contextual := true) [execAdd, hs]

@[simp] theorem execSub_ok (d a b : BitVec 5) {s : State} (hs : s.MemoryOk) :
    Kept (execSub d a b s) := by
  simp (maxDischargeDepth := 20) (contextual := true) [execSub, hs]

@[simp] theorem execMul_ok (d a b : BitVec 5) {s : State} (hs : s.MemoryOk) :
    Kept (execMul d a b s) := by
  simp (maxDischargeDepth := 20) (contextual := true) [execMul, hs]

@[simp] theorem execMulh_ok (d a b : BitVec 5) {s : State} (hs : s.MemoryOk) :
    Kept (execMulh d a b s) := by
  simp (maxDischargeDepth := 20) (contextual := true) [execMulh, hs]

@[simp] theorem execMulhu_ok (d a b : BitVec 5) {s : State} (hs : s.MemoryOk) :
    Kept (execMulhu d a b s) := by
  simp (maxDischargeDepth := 20) (contextual := true) [execMulhu, hs]

@[simp] theorem execDiv_ok (d a b : BitVec 5) {s : State} (hs : s.MemoryOk) :
    Kept (execDiv d a b s) := by
  simp (maxDischargeDepth := 20) (contextual := true) [execDiv, hs]

@[simp] theorem execDivu_ok (d a b : BitVec 5) {s : State} (hs : s.MemoryOk) :
    Kept (execDivu d a b s) := by
  simp (maxDischargeDepth := 20) (contextual := true) [execDivu, hs]

@[simp] theorem execRem_ok (d a b : BitVec 5) {s : State} (hs : s.MemoryOk) :
    Kept (execRem d a b s) := by
  simp (maxDischargeDepth := 20) (contextual := true) [execRem, hs]

@[simp] theorem execRemu_ok (d a b : BitVec 5) {s : State} (hs : s.MemoryOk) :
    Kept (execRemu d a b s) := by
  simp (maxDischargeDepth := 20) (contextual := true) [execRemu, hs]

@[simp] theorem execAnd_ok (d a b : BitVec 5) {s : State} (hs : s.MemoryOk) :
    Kept (execAnd d a b s) := by
  simp (maxDischargeDepth := 20) (contextual := true) [execAnd, hs]

@[simp] theorem execOr_ok (d a b : BitVec 5) {s : State} (hs : s.MemoryOk) :
    Kept (execOr d a b s) := by
  simp (maxDischargeDepth := 20) (contextual := true) [execOr, hs]

@[simp] theorem execXor_ok (d a b : BitVec 5) {s : State} (hs : s.MemoryOk) :
    Kept (execXor d a b s) := by
  simp (maxDischargeDepth := 20) (contextual := true) [execXor, hs]

@[simp] theorem execShl_ok (d a b : BitVec 5) {s : State} (hs : s.MemoryOk) :
    Kept (execShl d a b s) := by
  simp (maxDischargeDepth := 20) (contextual := true) [execShl, hs]

@[simp] theorem execShr_ok (d a b : BitVec 5) {s : State} (hs : s.MemoryOk) :
    Kept (execShr d a b s) := by
  simp (maxDischargeDepth := 20) (contextual := true) [execShr, hs]

@[simp] theorem execSar_ok (d a b : BitVec 5) {s : State} (hs : s.MemoryOk) :
    Kept (execSar d a b s) := by
  simp (maxDischargeDepth := 20) (contextual := true) [execSar, hs]

@[simp] theorem execSlt_ok (d a b : BitVec 5) {s : State} (hs : s.MemoryOk) :
    Kept (execSlt d a b s) := by
  simp (maxDischargeDepth := 20) (contextual := true) [execSlt, hs]

@[simp] theorem execSltu_ok (d a b : BitVec 5) {s : State} (hs : s.MemoryOk) :
    Kept (execSltu d a b s) := by
  simp (maxDischargeDepth := 20) (contextual := true) [execSltu, hs]

@[simp] theorem execMin_ok (d a b : BitVec 5) {s : State} (hs : s.MemoryOk) :
    Kept (execMin d a b s) := by
  simp (maxDischargeDepth := 20) (contextual := true) [execMin, hs]

@[simp] theorem execMax_ok (d a b : BitVec 5) {s : State} (hs : s.MemoryOk) :
    Kept (execMax d a b s) := by
  simp (maxDischargeDepth := 20) (contextual := true) [execMax, hs]

@[simp] theorem execMinu_ok (d a b : BitVec 5) {s : State} (hs : s.MemoryOk) :
    Kept (execMinu d a b s) := by
  simp (maxDischargeDepth := 20) (contextual := true) [execMinu, hs]

@[simp] theorem execMaxu_ok (d a b : BitVec 5) {s : State} (hs : s.MemoryOk) :
    Kept (execMaxu d a b s) := by
  simp (maxDischargeDepth := 20) (contextual := true) [execMaxu, hs]

@[simp] theorem execClz_ok (d a : BitVec 5) {s : State} (hs : s.MemoryOk) :
    Kept (execClz d a s) := by
  simp (maxDischargeDepth := 20) (contextual := true) [execClz, hs]

@[simp] theorem execPopc_ok (d a : BitVec 5) {s : State} (hs : s.MemoryOk) :
    Kept (execPopc d a s) := by
  simp (maxDischargeDepth := 20) (contextual := true) [execPopc, hs]

@[simp] theorem execSel_ok (d a b : BitVec 5) (p : BitVec 4) {s : State} (hs : s.MemoryOk) :
    Kept (execSel d a b p s) := by
  simp (maxDischargeDepth := 20) (contextual := true) [execSel, hs]

@[simp] theorem execAddImm_ok (d a : BitVec 5) (imm : BitVec 12) {s : State} (hs : s.MemoryOk) :
    Kept (execAddImm d a imm s) := by
  simp (maxDischargeDepth := 20) (contextual := true) [execAddImm, hs]

@[simp] theorem execAndImm_ok (d a : BitVec 5) (imm : BitVec 12) {s : State} (hs : s.MemoryOk) :
    Kept (execAndImm d a imm s) := by
  simp (maxDischargeDepth := 20) (contextual := true) [execAndImm, hs]

@[simp] theorem execOrImm_ok (d a : BitVec 5) (imm : BitVec 12) {s : State} (hs : s.MemoryOk) :
    Kept (execOrImm d a imm s) := by
  simp (maxDischargeDepth := 20) (contextual := true) [execOrImm, hs]

@[simp] theorem execXorImm_ok (d a : BitVec 5) (imm : BitVec 12) {s : State} (hs : s.MemoryOk) :
    Kept (execXorImm d a imm s) := by
  simp (maxDischargeDepth := 20) (contextual := true) [execXorImm, hs]

@[simp] theorem execSltImm_ok (d a : BitVec 5) (imm : BitVec 12) {s : State} (hs : s.MemoryOk) :
    Kept (execSltImm d a imm s) := by
  simp (maxDischargeDepth := 20) (contextual := true) [execSltImm, hs]

@[simp] theorem execSltuImm_ok (d a : BitVec 5) (imm : BitVec 12) {s : State} (hs : s.MemoryOk) :
    Kept (execSltuImm d a imm s) := by
  simp (maxDischargeDepth := 20) (contextual := true) [execSltuImm, hs]

@[simp] theorem execMinImm_ok (d a : BitVec 5) (imm : BitVec 12) {s : State} (hs : s.MemoryOk) :
    Kept (execMinImm d a imm s) := by
  simp (maxDischargeDepth := 20) (contextual := true) [execMinImm, hs]

@[simp] theorem execMaxImm_ok (d a : BitVec 5) (imm : BitVec 12) {s : State} (hs : s.MemoryOk) :
    Kept (execMaxImm d a imm s) := by
  simp (maxDischargeDepth := 20) (contextual := true) [execMaxImm, hs]

@[simp] theorem execMulImm_ok (d a : BitVec 5) (imm : BitVec 12) {s : State} (hs : s.MemoryOk) :
    Kept (execMulImm d a imm s) := by
  simp (maxDischargeDepth := 20) (contextual := true) [execMulImm, hs]

@[simp] theorem execShlImm_ok (d a : BitVec 5) (imm : BitVec 12) {s : State} (hs : s.MemoryOk) :
    Kept (execShlImm d a imm s) := by
  simp (maxDischargeDepth := 20) (contextual := true) [execShlImm, hs]

@[simp] theorem execShrImm_ok (d a : BitVec 5) (imm : BitVec 12) {s : State} (hs : s.MemoryOk) :
    Kept (execShrImm d a imm s) := by
  simp (maxDischargeDepth := 20) (contextual := true) [execShrImm, hs]

@[simp] theorem execSarImm_ok (d a : BitVec 5) (imm : BitVec 12) {s : State} (hs : s.MemoryOk) :
    Kept (execSarImm d a imm s) := by
  simp (maxDischargeDepth := 20) (contextual := true) [execSarImm, hs]

@[simp] theorem execLdhi_ok (d : BitVec 5) (imm : BitVec 20) {s : State} (hs : s.MemoryOk) :
    Kept (execLdhi d imm s) := by
  simp (maxDischargeDepth := 20) (contextual := true) [execLdhi, hs]

@[simp] theorem execAddpc_ok (d : BitVec 5) (imm : BitVec 20) {s : State} (hs : s.MemoryOk) :
    Kept (execAddpc d imm s) := by
  simp (maxDischargeDepth := 20) (contextual := true) [execAddpc, hs]

@[simp] theorem execHset_ok (d a : BitVec 5) (imm : BitVec 12) {s : State} (hs : s.MemoryOk) :
    Kept (execHset d a imm s) := by
  simp (maxDischargeDepth := 20) (contextual := true) [execHset, hs]

@[simp] theorem execHget_ok (d a : BitVec 5) {s : State} (hs : s.MemoryOk) :
    Kept (execHget d a s) := by
  simp (maxDischargeDepth := 20) (contextual := true) [execHget, hs]

@[simp] theorem psetArray_ok {s : State} (d a : BitVec 5) (hs : s.MemoryOk) :
    Kept (psetArray s d a) := by
  unfold psetArray; (repeat' split) <;> (try have hw := runningGroup_wf hs (by assumption)) <;> (try have hw := runningTask_wf hs (by assumption)) <;> (try have hk := kept_some (by assumption) (by simp (maxDischargeDepth := 20) (contextual := true) [*])) <;> (try have hk := kept_pair (by assumption) (by simp (maxDischargeDepth := 20) (contextual := true) [*])) <;> (try have hk := kept_answer (by assumption) (by simp (maxDischargeDepth := 20) (contextual := true) [*])) <;> simp (maxDischargeDepth := 20) (contextual := true) [*]

@[simp] theorem execPset_ok (d a : BitVec 5) {s : State} (hs : s.MemoryOk) :
    Kept (execPset d a s) := by
  unfold execPset; (repeat' split) <;> simp (maxDischargeDepth := 20) (contextual := true) [*]

@[simp] theorem execPget_ok (d a : BitVec 5) {s : State} (hs : s.MemoryOk) :
    Kept (execPget d a s) := by
  simp (maxDischargeDepth := 20) (contextual := true) [execPget, hs]

/-! ### Branch -/

@[simp] theorem condBranch_ok (cond : Word → Word → Bool) (a b : BitVec 5) (off : BitVec 12) {s : State} (hs : s.MemoryOk) :
    Kept (condBranch cond a b off s) := by
  simp (maxDischargeDepth := 20) (contextual := true) [condBranch, hs]

@[simp] theorem execBEq_ok (a b : BitVec 5) (off : BitVec 12) {s : State} (hs : s.MemoryOk) :
    Kept (execBEq a b off s) := by
  simp (maxDischargeDepth := 20) (contextual := true) [execBEq, hs]

@[simp] theorem execBNe_ok (a b : BitVec 5) (off : BitVec 12) {s : State} (hs : s.MemoryOk) :
    Kept (execBNe a b off s) := by
  simp (maxDischargeDepth := 20) (contextual := true) [execBNe, hs]

@[simp] theorem execBLt_ok (a b : BitVec 5) (off : BitVec 12) {s : State} (hs : s.MemoryOk) :
    Kept (execBLt a b off s) := by
  simp (maxDischargeDepth := 20) (contextual := true) [execBLt, hs]

@[simp] theorem execBGe_ok (a b : BitVec 5) (off : BitVec 12) {s : State} (hs : s.MemoryOk) :
    Kept (execBGe a b off s) := by
  simp (maxDischargeDepth := 20) (contextual := true) [execBGe, hs]

@[simp] theorem execBLtu_ok (a b : BitVec 5) (off : BitVec 12) {s : State} (hs : s.MemoryOk) :
    Kept (execBLtu a b off s) := by
  simp (maxDischargeDepth := 20) (contextual := true) [execBLtu, hs]

@[simp] theorem execBGeu_ok (a b : BitVec 5) (off : BitVec 12) {s : State} (hs : s.MemoryOk) :
    Kept (execBGeu a b off s) := by
  simp (maxDischargeDepth := 20) (contextual := true) [execBGeu, hs]

@[simp] theorem execBrot_ok (a b : BitVec 5) (off : BitVec 12) {s : State} (hs : s.MemoryOk) :
    Kept (execBrot a b off s) := by
  unfold execBrot; (repeat' split) <;> (try have hw := runningGroup_wf hs (by assumption)) <;> (try have hw := runningTask_wf hs (by assumption)) <;> (try have hk := kept_some (by assumption) (by simp (maxDischargeDepth := 20) (contextual := true) [*])) <;> (try have hk := kept_pair (by assumption) (by simp (maxDischargeDepth := 20) (contextual := true) [*])) <;> (try have hk := kept_answer (by assumption) (by simp (maxDischargeDepth := 20) (contextual := true) [*])) <;> simp (maxDischargeDepth := 20) (contextual := true) [*]

@[simp] theorem execJ_ok (link : BitVec 5) (off : BitVec 20) {s : State} (hs : s.MemoryOk) :
    Kept (execJ link off s) := by
  simp (maxDischargeDepth := 20) (contextual := true) [execJ, hs]

@[simp] theorem execJr_ok (d a : BitVec 5) (imm : BitVec 12) {s : State} (hs : s.MemoryOk) :
    Kept (execJr d a imm s) := by
  simp (maxDischargeDepth := 20) (contextual := true) [execJr, hs]

/-! ### ScalarFloat -/

@[simp] theorem fpWord_ok (d : BitVec 5) {s : State} (f : Ctx → Thread → Nat × Flag) (hs : s.MemoryOk) :
    Kept (fpWord d s f) := by
  simp (maxDischargeDepth := 20) (contextual := true) [fpWord, hs]

@[simp] theorem fpArith_ok (ft : FType) (d : BitVec 5) {s : State} (f : Nat → Ctx → Thread → FRes) (hs : s.MemoryOk) :
    Kept (fpArith ft d s f) := by
  simp (maxDischargeDepth := 20) (contextual := true) [fpArith, hs]

@[simp] theorem execFadd_ok (d a b : BitVec 5) (ft : FType) {s : State} (hs : s.MemoryOk) :
    Kept (execFadd d a b ft s) := by
  simp (maxDischargeDepth := 20) (contextual := true) [execFadd, hs]

@[simp] theorem execFsub_ok (d a b : BitVec 5) (ft : FType) {s : State} (hs : s.MemoryOk) :
    Kept (execFsub d a b ft s) := by
  simp (maxDischargeDepth := 20) (contextual := true) [execFsub, hs]

@[simp] theorem execFmul_ok (d a b : BitVec 5) (ft : FType) {s : State} (hs : s.MemoryOk) :
    Kept (execFmul d a b ft s) := by
  simp (maxDischargeDepth := 20) (contextual := true) [execFmul, hs]

@[simp] theorem execFdiv_ok (d a b : BitVec 5) (ft : FType) {s : State} (hs : s.MemoryOk) :
    Kept (execFdiv d a b ft s) := by
  simp (maxDischargeDepth := 20) (contextual := true) [execFdiv, hs]

@[simp] theorem execFsqrt_ok (d a : BitVec 5) (ft : FType) {s : State} (hs : s.MemoryOk) :
    Kept (execFsqrt d a ft s) := by
  simp (maxDischargeDepth := 20) (contextual := true) [execFsqrt, hs]

@[simp] theorem execFmin_ok (d a b : BitVec 5) (ft : FType) {s : State} (hs : s.MemoryOk) :
    Kept (execFmin d a b ft s) := by
  simp (maxDischargeDepth := 20) (contextual := true) [execFmin, hs]

@[simp] theorem execFmax_ok (d a b : BitVec 5) (ft : FType) {s : State} (hs : s.MemoryOk) :
    Kept (execFmax d a b ft s) := by
  simp (maxDischargeDepth := 20) (contextual := true) [execFmax, hs]

@[simp] theorem execFfma_ok (d a b : BitVec 5) (ft : FType) {s : State} (hs : s.MemoryOk) :
    Kept (execFfma d a b ft s) := by
  simp (maxDischargeDepth := 20) (contextual := true) [execFfma, hs]

@[simp] theorem execFcmpEq_ok (d a b : BitVec 5) (ft : FType) {s : State} (hs : s.MemoryOk) :
    Kept (execFcmpEq d a b ft s) := by
  simp (maxDischargeDepth := 20) (contextual := true) [execFcmpEq, hs]

@[simp] theorem execFcmpLt_ok (d a b : BitVec 5) (ft : FType) {s : State} (hs : s.MemoryOk) :
    Kept (execFcmpLt d a b ft s) := by
  simp (maxDischargeDepth := 20) (contextual := true) [execFcmpLt, hs]

@[simp] theorem execFcmpLe_ok (d a b : BitVec 5) (ft : FType) {s : State} (hs : s.MemoryOk) :
    Kept (execFcmpLe d a b ft s) := by
  simp (maxDischargeDepth := 20) (contextual := true) [execFcmpLe, hs]

@[simp] theorem execFcmpUn_ok (d a b : BitVec 5) (ft : FType) {s : State} (hs : s.MemoryOk) :
    Kept (execFcmpUn d a b ft s) := by
  simp (maxDischargeDepth := 20) (contextual := true) [execFcmpUn, hs]

@[simp] theorem toIntWord_ok (ft : FType) (lo hi : Int) (d a : BitVec 5) {s : State} (hs : s.MemoryOk) :
    Kept (toIntWord ft lo hi d a s) := by
  simp (maxDischargeDepth := 20) (contextual := true) [toIntWord, hs]

@[simp] theorem fromIntWord_ok (ft : FType) (v : Word → Int) (d a : BitVec 5) {s : State} (hs : s.MemoryOk) :
    Kept (fromIntWord ft v d a s) := by
  simp (maxDischargeDepth := 20) (contextual := true) [fromIntWord, hs]

@[simp] theorem execFcvtFloatFloat_ok (d a : BitVec 5) (ft : FType) {s : State} (hs : s.MemoryOk) :
    Kept (execFcvtFloatFloat d a ft s) := by
  simp (maxDischargeDepth := 20) (contextual := true) [execFcvtFloatFloat, hs]

@[simp] theorem execFcvtFToI32_ok (d a : BitVec 5) (ft : FType) {s : State} (hs : s.MemoryOk) :
    Kept (execFcvtFToI32 d a ft s) := by
  simp (maxDischargeDepth := 20) (contextual := true) [execFcvtFToI32, hs]

@[simp] theorem execFcvtuFToU32_ok (d a : BitVec 5) (ft : FType) {s : State} (hs : s.MemoryOk) :
    Kept (execFcvtuFToU32 d a ft s) := by
  simp (maxDischargeDepth := 20) (contextual := true) [execFcvtuFToU32, hs]

@[simp] theorem execFcvtFToI64_ok (d a : BitVec 5) (ft : FType) {s : State} (hs : s.MemoryOk) :
    Kept (execFcvtFToI64 d a ft s) := by
  simp (maxDischargeDepth := 20) (contextual := true) [execFcvtFToI64, hs]

@[simp] theorem execFcvtuFToU64_ok (d a : BitVec 5) (ft : FType) {s : State} (hs : s.MemoryOk) :
    Kept (execFcvtuFToU64 d a ft s) := by
  simp (maxDischargeDepth := 20) (contextual := true) [execFcvtuFToU64, hs]

@[simp] theorem execFcvtI32ToF_ok (d a : BitVec 5) (ft : FType) {s : State} (hs : s.MemoryOk) :
    Kept (execFcvtI32ToF d a ft s) := by
  simp (maxDischargeDepth := 20) (contextual := true) [execFcvtI32ToF, hs]

@[simp] theorem execFcvtuU32ToF_ok (d a : BitVec 5) (ft : FType) {s : State} (hs : s.MemoryOk) :
    Kept (execFcvtuU32ToF d a ft s) := by
  simp (maxDischargeDepth := 20) (contextual := true) [execFcvtuU32ToF, hs]

@[simp] theorem execFcvtI64ToF_ok (d a : BitVec 5) (ft : FType) {s : State} (hs : s.MemoryOk) :
    Kept (execFcvtI64ToF d a ft s) := by
  simp (maxDischargeDepth := 20) (contextual := true) [execFcvtI64ToF, hs]

@[simp] theorem execFcvtuU64ToF_ok (d a : BitVec 5) (ft : FType) {s : State} (hs : s.MemoryOk) :
    Kept (execFcvtuU64ToF d a ft s) := by
  simp (maxDischargeDepth := 20) (contextual := true) [execFcvtuU64ToF, hs]

@[simp] theorem execFclass_ok (d a : BitVec 5) (ft : FType) {s : State} (hs : s.MemoryOk) :
    Kept (execFclass d a ft s) := by
  simp (maxDischargeDepth := 20) (contextual := true) [execFclass, hs]

/-! ### Traffic -/

@[simp] theorem patchLines_ok {s : State} (p a : Nat) (bs : List Byte) (hs : s.MemoryOk) :
    (patchLines s p a bs).MemoryOk := by
  simp (maxDischargeDepth := 20) (contextual := true) [patchLines, hs]

@[simp] theorem passWrite_ok {s : State} (p a : Nat) (bs : List Byte) (hs : s.MemoryOk) :
    (passWrite s p a bs).MemoryOk := by
  simp (maxDischargeDepth := 20) (contextual := true) [passWrite, hs]

@[simp] theorem keepWrite_ok {s : State} (p a : Nat) (bs : List Byte) (o : Origin) (op : Nat) (by_ : Agent) (copied : Bool) (hs : s.MemoryOk) :
    (keepWrite s p a bs o op by_ copied).MemoryOk := by
  simp (maxDischargeDepth := 20) (contextual := true) [keepWrite, hs]

@[simp] theorem putHome_ok {s : State} (a : Nat) (bs : List PByte) (hs : s.MemoryOk) :
    (putHome s a bs).MemoryOk := by
  simp (maxDischargeDepth := 20) (contextual := true) [putHome, hs]

@[simp] theorem raiseAflog_ok {s : State} (world : Nat) (fl : Flag) (hs : s.MemoryOk) :
    (raiseAflog s world fl).MemoryOk := by
  simp (maxDischargeDepth := 20) (contextual := true) [raiseAflog, hs]

@[simp] theorem mergeRed_ok {s : State} (op : AmoOp) (world a size : Nat) (v : Word) (hs : s.MemoryOk) :
    (mergeRed s op world a size v).MemoryOk := by
  simp (maxDischargeDepth := 20) (contextual := true) [mergeRed, hs]

@[simp] theorem applyAt_ok {s : State} (kind : AccKind) (world a size : Nat) (data cmp : Word) (hs : s.MemoryOk) :
    (applyAt s kind world a size data cmp).1.MemoryOk := by
  unfold applyAt; (repeat' split) <;> simp (maxDischargeDepth := 20) (contextual := true) [*]

@[simp] theorem poisonReport_ok {s : State} (o : Origin) (kind : AccKind) (a : Nat) (hs : s.MemoryOk) :
    (poisonReport s o kind a).MemoryOk := by
  simp (maxDischargeDepth := 20) (contextual := true) [poisonReport, hs]

@[simp] theorem writeStorage_ok {s : State} (kind : CoreKind) (c a : Nat) (bs : List Byte) (hs : s.MemoryOk) :
    (writeStorage s kind c a bs).MemoryOk := by
  unfold writeStorage; (repeat' split) <;> simp (maxDischargeDepth := 20) (contextual := true) [*]

@[simp] theorem applyCore_ok {s : State} (kind : AccKind) (world : Nat) (k : CoreKind) (c a size : Nat) (data cmp : Word) (hs : s.MemoryOk) :
    (applyCore s kind world k c a size data cmp).1.MemoryOk := by
  unfold applyCore; (repeat' split) <;> simp (maxDischargeDepth := 20) (contextual := true) [*]

@[simp] theorem takeStore_ok {s : State} (id scope : Nat) (hs : s.MemoryOk) :
    (takeStore s id scope).MemoryOk := by
  unfold takeStore; (repeat' split) <;> simp (maxDischargeDepth := 20) (contextual := true) [*]

@[simp] theorem State_onFlight_ok {s : State} (id : Nat) (g : Flight → Flight) (hs : s.MemoryOk) :
    (State.onFlight s id g).MemoryOk := by
  simp (maxDischargeDepth := 20) (contextual := true) [State.onFlight, hs]

@[simp] theorem State_sweep_ok {s : State} (hs : s.MemoryOk) :
    (State.sweep s).MemoryOk := by
  simp (maxDischargeDepth := 20) (contextual := true) [State.sweep, hs]

@[simp] theorem applySc_ok {s : State} (f : Flight) (hs : s.MemoryOk) :
    (applySc s f).MemoryOk := by
  unfold applySc; dsimp only; (repeat' split) <;> (try have hk := kept_some (by assumption) (by simp (maxDischargeDepth := 20) (contextual := true) [*])) <;> (try have hk := kept_pair (by assumption) (by simp (maxDischargeDepth := 20) (contextual := true) [*])) <;> (try have hk := kept_answer (by assumption) (by simp (maxDischargeDepth := 20) (contextual := true) [*])) <;> (try simp (maxDischargeDepth := 20) (contextual := true) [*]) <;> ((repeat' split) <;> simp (maxDischargeDepth := 20) (contextual := true) [*])

@[simp] theorem applyScalar_ok {s : State} (f : Flight) (hs : s.MemoryOk) :
    (applyScalar s f).MemoryOk := by
  unfold applyScalar; dsimp only; (repeat' split) <;> (try have hk := kept_some (by assumption) (by simp (maxDischargeDepth := 20) (contextual := true) [*])) <;> (try have hk := kept_pair (by assumption) (by simp (maxDischargeDepth := 20) (contextual := true) [*])) <;> (try have hk := kept_answer (by assumption) (by simp (maxDischargeDepth := 20) (contextual := true) [*])) <;> (try simp (maxDischargeDepth := 20) (contextual := true) [*]) <;> ((repeat' split) <;> simp (maxDischargeDepth := 20) (contextual := true) [*])

@[simp] theorem applyFlight_ok {s : State} (f : Flight) (hs : s.MemoryOk) :
    (applyFlight s f).MemoryOk := by
  unfold applyFlight; dsimp only; (repeat' split) <;> (try have hw := runningGroup_wf hs (by assumption)) <;> (try have hw := runningTask_wf hs (by assumption)) <;> (try have hk := kept_some (by assumption) (by simp (maxDischargeDepth := 20) (contextual := true) [*])) <;> (try have hk := kept_pair (by assumption) (by simp (maxDischargeDepth := 20) (contextual := true) [*])) <;> (try have hk := kept_answer (by assumption) (by simp (maxDischargeDepth := 20) (contextual := true) [*])) <;> (try simp (maxDischargeDepth := 20) (contextual := true) [*]) <;> ((repeat' split) <;> simp (maxDischargeDepth := 20) (contextual := true) [*])

@[simp] theorem onCounters_ok {s : State} (kind : CoreKind) (c key : Nat) (f : Counters → Counters) (hs : s.MemoryOk) :
    (onCounters s kind c key f).MemoryOk := by
  unfold onCounters; (repeat' split) <;> simp (maxDischargeDepth := 20) (contextual := true) [*]

@[simp] theorem countUp_ok {s : State} (kind : CoreKind) (c slot : Nat) (n : CounterName) (hs : s.MemoryOk) :
    (countUp s kind c slot n).MemoryOk := by
  simp (maxDischargeDepth := 20) (contextual := true) [countUp, hs]

@[simp] theorem countDown_ok {s : State} (kind : CoreKind) (c slot : Nat) (n : CounterName) (hs : s.MemoryOk) :
    (countDown s kind c slot n).MemoryOk := by
  simp (maxDischargeDepth := 20) (contextual := true) [countDown, hs]

@[simp] theorem onThread_ok {s : State} (a : Agent) (f : Thread → Thread) (hs : s.MemoryOk) :
    (onThread s a f).MemoryOk := by
  unfold onThread; (repeat' split) <;> simp (maxDischargeDepth := 20) (contextual := true) [*]

@[simp] theorem readyOne_ok {s : State} (id : Nat) (hs : s.MemoryOk) :
    KeptOpt (readyOne s id) := by
  unfold readyOne; (repeat' split) <;> simp (maxDischargeDepth := 20) (contextual := true) [*]

@[simp] theorem readyAll_ok {s : State} (ids : List Nat) (hs : s.MemoryOk) : KeptOpt (readyAll s ids) := by
  induction ids generalizing s with
  | nil => simpa [readyAll] using hs
  | cons i rest ih =>
    unfold readyAll
    split
    · next h => exact ih (readyOne_ok i hs _ h)
    · simp

@[simp] theorem writeBack_ok {s : State} (f : Flight) (hs : s.MemoryOk) :
    (writeBack s f).MemoryOk := by
  unfold writeBack; (repeat' split) <;> simp (maxDischargeDepth := 20) (contextual := true) [*]

@[simp] theorem countOut_ok {s : State} (o : Origin) (n : CounterName) (hs : s.MemoryOk) :
    (countOut s o n).MemoryOk := by
  simp (maxDischargeDepth := 20) (contextual := true) [countOut, hs]

@[simp] theorem State_uncount_ok {s : State} (grp : Nat) (hs : s.MemoryOk) :
    (State.uncount s grp).MemoryOk := by
  simp (maxDischargeDepth := 20) (contextual := true) [State.uncount, hs]

@[simp] theorem execLoadDataReturn_ok (grp : Nat) {s : State} (hs : s.MemoryOk) :
    Kept (execLoadDataReturn grp s) := by
  unfold execLoadDataReturn; (repeat' split) <;> (try have hw := runningGroup_wf hs (by assumption)) <;> (try have hw := runningTask_wf hs (by assumption)) <;> (try have hk := kept_some (by assumption) (by simp (maxDischargeDepth := 20) (contextual := true) [*])) <;> (try have hk := kept_pair (by assumption) (by simp (maxDischargeDepth := 20) (contextual := true) [*])) <;> (try have hk := kept_answer (by assumption) (by simp (maxDischargeDepth := 20) (contextual := true) [*])) <;> simp (maxDischargeDepth := 20) (contextual := true) [*]

@[simp] theorem acceptOne_ok {s : State} (id : Nat) (hs : s.MemoryOk) :
    KeptOpt (acceptOne s id) := by
  unfold acceptOne; (repeat' split) <;> simp (maxDischargeDepth := 20) (contextual := true) [*]

@[simp] theorem acceptAll_ok {s : State} (ids : List Nat) (hs : s.MemoryOk) : KeptOpt (acceptAll s ids) := by
  induction ids generalizing s with
  | nil => simpa [acceptAll] using hs
  | cons i rest ih =>
    unfold acceptAll
    split
    · next h => exact ih (acceptOne_ok i hs _ h)
    · simp

@[simp] theorem execStoreAccept_ok (grp : Nat) {s : State} (hs : s.MemoryOk) :
    Kept (execStoreAccept grp s) := by
  unfold execStoreAccept; (repeat' split) <;> (try have hw := runningGroup_wf hs (by assumption)) <;> (try have hw := runningTask_wf hs (by assumption)) <;> (try have hk := kept_some (by assumption) (by simp (maxDischargeDepth := 20) (contextual := true) [*])) <;> (try have hk := kept_pair (by assumption) (by simp (maxDischargeDepth := 20) (contextual := true) [*])) <;> (try have hk := kept_answer (by assumption) (by simp (maxDischargeDepth := 20) (contextual := true) [*])) <;> simp (maxDischargeDepth := 20) (contextual := true) [*]

@[simp] theorem execMergeEntryEvict_ok (addr : Nat) {s : State} (hs : s.MemoryOk) :
    Kept (execMergeEntryEvict addr s) := by
  unfold execMergeEntryEvict; (repeat' split) <;> simp (maxDischargeDepth := 20) (contextual := true) [*]

/-! ### Trace and Channel -/

@[simp] theorem State_setTrace_ok {s : State} (i : Nat) (b : TraceBuf) (hs : s.MemoryOk) :
    (State.setTrace s i b).MemoryOk := by
  simp (maxDischargeDepth := 20) (contextual := true) [State.setTrace, hs]

@[simp] theorem traceStep_ok {s : State} (buf : Nat) (hs : s.MemoryOk) :
    (traceStep s buf).MemoryOk := by
  unfold traceStep; dsimp only; (repeat' split) <;> (try have hk := kept_some (by assumption) (by simp (maxDischargeDepth := 20) (contextual := true) [*])) <;> (try have hk := kept_pair (by assumption) (by simp (maxDischargeDepth := 20) (contextual := true) [*])) <;> (try have hk := kept_answer (by assumption) (by simp (maxDischargeDepth := 20) (contextual := true) [*])) <;> (try simp (maxDischargeDepth := 20) (contextual := true) [*]) <;> ((repeat' split) <;> simp (maxDischargeDepth := 20) (contextual := true) [*])

@[simp] theorem traceSteps_ok (n buf : Nat) {s : State} (hs : s.MemoryOk) : (traceSteps n buf s).MemoryOk := by
  induction n generalizing s with
  | zero => exact hs
  | succ n ih => exact ih (traceStep_ok buf hs)

@[simp] theorem trace_ok {s : State} (buf event cls core aux arg world : Nat) (hs : s.MemoryOk) :
    (trace s buf event cls core aux arg world).MemoryOk := by
  unfold trace; dsimp only; (repeat' split) <;> (try have hk := kept_some (by assumption) (by simp (maxDischargeDepth := 20) (contextual := true) [*])) <;> (try have hk := kept_pair (by assumption) (by simp (maxDischargeDepth := 20) (contextual := true) [*])) <;> (try have hk := kept_answer (by assumption) (by simp (maxDischargeDepth := 20) (contextual := true) [*])) <;> (try simp (maxDischargeDepth := 20) (contextual := true) [*]) <;> ((repeat' split) <;> simp (maxDischargeDepth := 20) (contextual := true) [*])

@[simp] theorem hubTrace_ok {s : State} (event cls arg world : Nat) (hs : s.MemoryOk) :
    (hubTrace s event cls arg world).MemoryOk := by
  simp (maxDischargeDepth := 20) (contextual := true) [hubTrace, hs]

@[simp] theorem holdTrace_ok {s : State} (buf : Nat) (on : Bool) (hs : s.MemoryOk) :
    (holdTrace s buf on).MemoryOk := by
  unfold holdTrace; dsimp only; (repeat' split) <;> (try have hk := kept_some (by assumption) (by simp (maxDischargeDepth := 20) (contextual := true) [*])) <;> (try have hk := kept_pair (by assumption) (by simp (maxDischargeDepth := 20) (contextual := true) [*])) <;> (try have hk := kept_answer (by assumption) (by simp (maxDischargeDepth := 20) (contextual := true) [*])) <;> (try simp (maxDischargeDepth := 20) (contextual := true) [*]) <;> ((repeat' split) <;> simp (maxDischargeDepth := 20) (contextual := true) [*])

@[simp] theorem loseTrace_ok {s : State} (buf : Nat) (hs : s.MemoryOk) :
    (loseTrace s buf).MemoryOk := by
  simp (maxDischargeDepth := 20) (contextual := true) [loseTrace, hs]

@[simp] theorem State_setChan_ok {s : State} (c : Nat) (x : Channel) (hs : s.MemoryOk) :
    (State.setChan s c x).MemoryOk := by
  simp (maxDischargeDepth := 20) (contextual := true) [State.setChan, hs]

@[simp] theorem payFlit_ok {s : State} (c : Nat) (hs : s.MemoryOk) :
    (payFlit s c).MemoryOk := by
  simp (maxDischargeDepth := 20) (contextual := true) [payFlit, hs]

@[simp] theorem payTo_ok {s : State} (m : Nat) (hs : s.MemoryOk) :
    (payTo s m).MemoryOk := by
  unfold payTo; (repeat' split) <;> (try have hk := kept_some (by assumption) (by simp (maxDischargeDepth := 20) (contextual := true) [*])) <;> (try have hk := kept_pair (by assumption) (by simp (maxDischargeDepth := 20) (contextual := true) [*])) <;> (try have hk := kept_answer (by assumption) (by simp (maxDischargeDepth := 20) (contextual := true) [*])) <;> (try simp (maxDischargeDepth := 20) (contextual := true) [*]) <;> ((repeat' split) <;> simp (maxDischargeDepth := 20) (contextual := true) [*])

@[simp] theorem leftNow_ok {s : State} (id : Nat) (hs : s.MemoryOk) :
    (leftNow s id).MemoryOk := by
  simp (maxDischargeDepth := 20) (contextual := true) [leftNow, hs]

@[simp] theorem leaveFor_ok {s : State} (m id : Nat) (first : Bool) (hs : s.MemoryOk) :
    (leaveFor s m id first).MemoryOk := by
  unfold leaveFor; (repeat' split) <;> (try have hk := kept_some (by assumption) (by simp (maxDischargeDepth := 20) (contextual := true) [*])) <;> (try have hk := kept_pair (by assumption) (by simp (maxDischargeDepth := 20) (contextual := true) [*])) <;> (try have hk := kept_answer (by assumption) (by simp (maxDischargeDepth := 20) (contextual := true) [*])) <;> (try simp (maxDischargeDepth := 20) (contextual := true) [*]) <;> ((repeat' split) <;> simp (maxDischargeDepth := 20) (contextual := true) [*])

@[simp] theorem forgetLeaving_ok {s : State} (id : Nat) (hs : s.MemoryOk) :
    (forgetLeaving s id).MemoryOk := by
  simp (maxDischargeDepth := 20) (contextual := true) [forgetLeaving, hs]

@[simp] theorem flushReqs_ok (c : Nat) (rs : List (Nat × Bool)) {s : State} (hs : s.MemoryOk) : (flushReqs c rs s).MemoryOk := by
  induction rs generalizing s with
  | nil => exact hs
  | cons r rest ih =>
    unfold flushReqs
    dsimp only
    split
    · exact ih (by simp [hs])
    · exact hs

@[simp] theorem setSending_ok {s : State} (c : Nat) (x : Channel) (hs : s.MemoryOk) :
    (setSending s c x).MemoryOk := by
  simp (maxDischargeDepth := 20) (contextual := true) [setSending, hs]

@[simp] theorem moveToOrbit_ok {s : State} (c : Nat) (hs : s.MemoryOk) :
    (moveToOrbit s c).MemoryOk := by
  simp (maxDischargeDepth := 20) (contextual := true) [moveToOrbit, hs]

/-! ### Directory -/

@[simp] theorem serveFlight_ok {s : State} (f : Flight) (hs : s.MemoryOk) :
    (serveFlight s f).MemoryOk := by
  unfold serveFlight; (repeat' split) <;> (try have hw := runningGroup_wf hs (by assumption)) <;> (try have hw := runningTask_wf hs (by assumption)) <;> (try have hk := kept_some (by assumption) (by simp (maxDischargeDepth := 20) (contextual := true) [*])) <;> (try have hk := kept_pair (by assumption) (by simp (maxDischargeDepth := 20) (contextual := true) [*])) <;> (try have hk := kept_answer (by assumption) (by simp (maxDischargeDepth := 20) (contextual := true) [*])) <;> (try simp (maxDischargeDepth := 20) (contextual := true) [*]) <;> ((repeat' split) <;> simp (maxDischargeDepth := 20) (contextual := true) [*])

@[simp] theorem freeLine_ok {s : State} (line : Nat) (hs : s.MemoryOk) :
    (freeLine s line).MemoryOk := by
  simp (maxDischargeDepth := 20) (contextual := true) [freeLine, hs]

@[simp] theorem serveRemote_ok {s : State} (r : RemoteReq) (hs : s.MemoryOk) :
    (serveRemote s r).1.MemoryOk := by
  unfold serveRemote; dsimp only; (repeat' split) <;> (try have hk := kept_some (by assumption) (by simp (maxDischargeDepth := 20) (contextual := true) [*])) <;> (try have hk := kept_pair (by assumption) (by simp (maxDischargeDepth := 20) (contextual := true) [*])) <;> (try have hk := kept_answer (by assumption) (by simp (maxDischargeDepth := 20) (contextual := true) [*])) <;> (try simp (maxDischargeDepth := 20) (contextual := true) [*]) <;> ((repeat' split) <;> simp (maxDischargeDepth := 20) (contextual := true) [*])

@[simp] theorem servePeer_ok {s : State} (src seq : Nat) (r : RemoteReq) (hs : s.MemoryOk) :
    (servePeer s src seq r).MemoryOk := by
  unfold servePeer; dsimp only; (repeat' split) <;> (try have hk := kept_some (by assumption) (by simp (maxDischargeDepth := 20) (contextual := true) [*])) <;> (try have hk := kept_pair (by assumption) (by simp (maxDischargeDepth := 20) (contextual := true) [*])) <;> (try have hk := kept_answer (by assumption) (by simp (maxDischargeDepth := 20) (contextual := true) [*])) <;> (try simp (maxDischargeDepth := 20) (contextual := true) [*]) <;> ((repeat' split) <;> simp (maxDischargeDepth := 20) (contextual := true) [*])

@[simp] theorem serveQueue_ok (line : Nat) (ids : List Nat) {s : State} (hs : s.MemoryOk) : (serveQueue line ids s).MemoryOk := by
  induction ids generalizing s with
  | nil => simp [serveQueue, hs]
  | cons i rest ih =>
    unfold serveQueue
    dsimp only
    (repeat' split) <;> first
      | exact ih (by simp [hs])
      | simp [hs]

@[simp] theorem chipletServes_ok {s : State} (f : Flight) (hs : s.MemoryOk) :
    KeptOpt (chipletServes s f) := by
  unfold chipletServes; (repeat' split) <;> simp (maxDischargeDepth := 20) (contextual := true) [*]

@[simp] theorem reachHome_ok {s : State} (f : Flight) (hs : s.MemoryOk) :
    (reachHome s f).MemoryOk := by
  unfold reachHome; (repeat' split) <;> (try have hw := runningGroup_wf hs (by assumption)) <;> (try have hw := runningTask_wf hs (by assumption)) <;> (try have hk := kept_some (by assumption) (by simp (maxDischargeDepth := 20) (contextual := true) [*])) <;> (try have hk := kept_pair (by assumption) (by simp (maxDischargeDepth := 20) (contextual := true) [*])) <;> (try have hk := kept_answer (by assumption) (by simp (maxDischargeDepth := 20) (contextual := true) [*])) <;> (try simp (maxDischargeDepth := 20) (contextual := true) [*]) <;> ((repeat' split) <;> simp (maxDischargeDepth := 20) (contextual := true) [*])

@[simp] theorem execProbeResponse_ok (line : Nat) {s : State} (hs : s.MemoryOk) :
    Kept (execProbeResponse line s) := by
  unfold execProbeResponse; (repeat' split) <;> (try have hw := runningGroup_wf hs (by assumption)) <;> (try have hw := runningTask_wf hs (by assumption)) <;> (try have hk := kept_some (by assumption) (by simp (maxDischargeDepth := 20) (contextual := true) [*])) <;> (try have hk := kept_pair (by assumption) (by simp (maxDischargeDepth := 20) (contextual := true) [*])) <;> (try have hk := kept_answer (by assumption) (by simp (maxDischargeDepth := 20) (contextual := true) [*])) <;> (try simp (maxDischargeDepth := 20) (contextual := true) [*]) <;> ((repeat' split) <;> simp (maxDischargeDepth := 20) (contextual := true) [*])

@[simp] theorem sendRemote_ok {s : State} (f : Flight) (hs : s.MemoryOk) :
    (sendRemote s f).MemoryOk := by
  simp (maxDischargeDepth := 20) (contextual := true) [sendRemote, hs]

@[simp] theorem leaveHere_ok {s : State} (f : Flight) (hs : s.MemoryOk) :
    (leaveHere s f).MemoryOk := by
  unfold leaveHere; (repeat' split) <;> simp (maxDischargeDepth := 20) (contextual := true) [*]

@[simp] theorem execHomeRequest_ok (id : Nat) {s : State} (hs : s.MemoryOk) : Kept (execHomeRequest id s) := by
  unfold execHomeRequest
  repeat' split
  any_goals simp [hs]
  rename_i h
  exact State_sweep_ok (chipletServes_ok _ hs _ h)

@[simp] theorem dropHeld_ok {s : State} (p : Nat) (hs : s.MemoryOk) :
    (dropHeld s p).MemoryOk := by
  simp (maxDischargeDepth := 20) (contextual := true) [dropHeld, hs]

@[simp] theorem dropRegions_ok {s : State} (p : Nat) (hs : s.MemoryOk) :
    (dropRegions s p).MemoryOk := by
  simp (maxDischargeDepth := 20) (contextual := true) [dropRegions, hs]

@[simp] theorem recallPort_ok {s : State} (p : Nat) (hs : s.MemoryOk) :
    (recallPort s p).MemoryOk := by
  simp (maxDischargeDepth := 20) (contextual := true) [recallPort, hs]

/-! ### Journal -/

@[simp] theorem traceUnit_ok {s : State} (start : Bool) (kind : CoreKind) (core world idx launch : Nat) (hs : s.MemoryOk) :
    (traceUnit s start kind core world idx launch).MemoryOk := by
  simp (maxDischargeDepth := 20) (contextual := true) [traceUnit, hs]

@[simp] theorem topoEvent_ok {s : State} (p : Nat) (hs : s.MemoryOk) : (topoEvent s p).MemoryOk := by
  unfold topoEvent
  dsimp only
  (repeat' split) <;> simp [hs]

@[simp] theorem journalWrite_ok {s : State} (r : JRec) (hs : s.MemoryOk) :
    (journalWrite s r).MemoryOk := by
  simp (maxDischargeDepth := 20) (contextual := true) [journalWrite, hs]

@[simp] theorem journal_ok {s : State} (r : JRec) (hs : s.MemoryOk) :
    (journal s r).MemoryOk := by
  simp (maxDischargeDepth := 20) (contextual := true) [journal, hs]

@[simp] theorem journalDrain_ok (rs : List JRec) {s : State} (hs : s.MemoryOk) : (journalDrain rs s).MemoryOk := by
  induction rs generalizing s with
  | nil => simpa [journalDrain] using hs
  | cons r rest ih =>
    unfold journalDrain
    dsimp only
    (repeat' split) <;> first | (refine ih ?_; simp [hs]; done) | simp [hs]

@[simp] theorem jobError_ok {s : State} (world job : Nat) (hs : s.MemoryOk) :
    (jobError s world job).MemoryOk := by
  simp (maxDischargeDepth := 20) (contextual := true) [jobError, hs]

@[simp] theorem writeFlag_ok {s : State} (place : Nat × Nat) (world job launch va value : Nat) (fixed : Bool) (hs : s.MemoryOk) :
    (writeFlag s place world job launch va value fixed).MemoryOk := by
  unfold writeFlag; (repeat' split) <;> simp (maxDischargeDepth := 20) (contextual := true) [*]

@[simp] theorem asyncReport_ok {s : State} (o : Origin) (red : Bool) (cause : Cause) (code addr : Nat) (hs : s.MemoryOk) :
    (asyncReport s o red cause code addr).MemoryOk := by
  simp (maxDischargeDepth := 20) (contextual := true) [asyncReport, hs]

/-! ### Tile -/



/-! ### Uniform -/

/-- What a word does leaves the memory in canonical form. -/
def KeptIssue : Issue → Prop
  | .done s => s.MemoryOk
  | .stay s => s.MemoryOk
  | .fault _ _ _ => True
  | .wait => True

@[simp] theorem keptIssue_done (s : State) : KeptIssue (.done s) ↔ s.MemoryOk := Iff.rfl
@[simp] theorem keptIssue_stay (s : State) : KeptIssue (.stay s) ↔ s.MemoryOk := Iff.rfl
@[simp] theorem keptIssue_fault (c : Cause) (a b : Nat) : KeptIssue (.fault c a b) := trivial
@[simp] theorem keptIssue_wait : KeptIssue .wait := trivial
@[simp] theorem ite_keptIssue (p : Prop) [Decidable p] (a b : Issue) :
    KeptIssue (if p then a else b) ↔ (p → KeptIssue a) ∧ (¬p → KeptIssue b) := by
  split <;> simp_all

theorem keptIssue_of {a b : Issue} (h : KeptIssue a) (e : a = b) : KeptIssue b := e ▸ h

@[simp] theorem unitWord_ok {s : State} (cur : Cursor) {f : Issuer → State → Issue} (hs : s.MemoryOk)
    (hf : ∀ x s, s.MemoryOk → KeptIssue (f x s)) : Kept (unitWord s cur f) := by
  unfold unitWord
  split
  · split
    · simp
    · dsimp only
      split
      · next h => have := keptIssue_of (hf _ _ hs) h; simp_all
      · simp [hs]
      · next h => have := keptIssue_of (hf _ _ hs) h; simp_all
      · simp [hs]
  · split
    · split
      · simp
      · dsimp only
        split
        · next h => have := keptIssue_of (hf _ _ hs) h; simp_all
        · simp [hs]
        · next h => have := keptIssue_of (hf _ _ hs) h; simp_all
        · simp [hs]
    · simp

@[simp] theorem Issue_no_ok (c : Cause) :
    KeptIssue (Issue.no c) := by
  simp (maxDischargeDepth := 20) (contextual := true) [Issue.no]

@[simp] theorem Issuer_onThreads_ok (x : Issuer) {s : State} (f : Thread → Thread) (hs : s.MemoryOk) :
    (Issuer.onThreads x s f).MemoryOk := by
  unfold Issuer.onThreads; (repeat' split) <;> simp (maxDischargeDepth := 20) (contextual := true) [*]

@[simp] theorem Issuer_setReg_ok (x : Issuer) {s : State} (d : BitVec 5) (v : Word) (hs : s.MemoryOk) :
    (Issuer.setReg x s d v).MemoryOk := by
  simp (maxDischargeDepth := 20) (contextual := true) [Issuer.setReg, hs]

@[simp] theorem Issuer_raise_ok (x : Issuer) {s : State} (fl : Flag) (hs : s.MemoryOk) :
    (Issuer.raise x s fl).MemoryOk := by
  simp (maxDischargeDepth := 20) (contextual := true) [Issuer.raise, hs]

@[simp] theorem Issuer_count_ok (x : Issuer) {s : State} (n : CounterName) (hs : s.MemoryOk) :
    (Issuer.count x s n).MemoryOk := by
  simp (maxDischargeDepth := 20) (contextual := true) [Issuer.count, hs]

@[simp] theorem onTile_ok {s : State} (kind : CoreKind) (c wg n : Nat) (f : TileEntry → TileEntry) (hs : s.MemoryOk) :
    (onTile s kind c wg n f).MemoryOk := by
  unfold onTile; (repeat' split) <;> simp (maxDischargeDepth := 20) (contextual := true) [*]

@[simp] theorem Issuer_onTile_ok (x : Issuer) {s : State} (n : Nat) (f : TileEntry → TileEntry) (hs : s.MemoryOk) :
    (Issuer.onTile x s n f).MemoryOk := by
  simp (maxDischargeDepth := 20) (contextual := true) [Issuer.onTile, hs]

@[simp] theorem writeEntries_ok (kind : CoreKind) (c wg o : Nat) (bs : List Byte) (n e : Nat) {r : CoreWrite} (hr : r.state.MemoryOk) :
    (writeEntries kind c wg o bs n e r).state.MemoryOk := by
  induction n generalizing e r with
  | zero => simpa [writeEntries] using hr
  | succ n ih =>
    unfold writeEntries
    dsimp only
    (repeat' split) <;> exact ih _ (by simp (maxDischargeDepth := 20) [hr])

@[simp] theorem writeCore_ok {s : State} (kind : CoreKind) (c off : Nat) (bs : List Byte) (hs : s.MemoryOk) :
    (writeCore s kind c off bs).state.MemoryOk := by
  unfold writeCore; (repeat' split) <;> (try have hw := runningGroup_wf hs (by assumption)) <;> (try have hw := runningTask_wf hs (by assumption)) <;> (try have hk := kept_some (by assumption) (by simp (maxDischargeDepth := 20) (contextual := true) [*])) <;> (try have hk := kept_pair (by assumption) (by simp (maxDischargeDepth := 20) (contextual := true) [*])) <;> (try have hk := kept_answer (by assumption) (by simp (maxDischargeDepth := 20) (contextual := true) [*])) <;> (try simp (maxDischargeDepth := 20) (contextual := true) [*]) <;> ((repeat' split) <;> simp (maxDischargeDepth := 20) (contextual := true) [*])

@[simp] theorem onQueue_ok {s : State} (c q : Nat) (f : Binding → Binding) (hs : s.MemoryOk) :
    (onQueue s c q f).MemoryOk := by
  simp (maxDischargeDepth := 20) (contextual := true) [onQueue, hs]

@[simp] theorem Pick_bind_ok {p : Pick} {f : Nat → Issue} (hf : ∀ n, KeptIssue (f n)) : KeptIssue (p.bind f) := by
  unfold Pick.bind; split <;> simp [hf]

@[simp] theorem checked_ok {cs : List Check} {f : Issue} (hf : KeptIssue f) : KeptIssue (checked cs f) := by
  induction cs with
  | nil => exact hf
  | cons k rest ih => unfold checked; split <;> simp [ih]

@[simp] theorem claimHead_ok {s : State} (x : Issuer) (h : Nat × Nat) (hs : s.MemoryOk) :
    (claimHead s x h).MemoryOk := by
  simp (maxDischargeDepth := 20) (contextual := true) [claimHead, hs]

@[simp] theorem pushOp_ok {s : State} (x : Issuer) (o : TileOp) (hs : s.MemoryOk) :
    (pushOp s x o).MemoryOk := by
  unfold pushOp; (repeat' split) <;> simp (maxDischargeDepth := 20) (contextual := true) [*]

@[simp] theorem issueOp_ok {s : State} (x : Issuer) (o : TileOp) (hs : s.MemoryOk) :
    (issueOp s x o).MemoryOk := by
  unfold issueOp; (repeat' split) <;> simp (maxDischargeDepth := 20) (contextual := true) [*]

/-! ### Queue -/

@[simp] theorem traceMark_ok {s : State} (event world q : Nat) (b : Binding) (stepNo : BitVec 16) (isEnd : Bool) (hs : s.MemoryOk) :
    (traceMark s event world q b stepNo isEnd).MemoryOk := by
  simp (maxDischargeDepth := 20) (contextual := true) [traceMark, hs]

@[simp] theorem traceDue_ok {s : State} (world q : Nat) (b : Binding) (hs : s.MemoryOk) :
    (traceDue s world q b).MemoryOk := by
  simp (maxDischargeDepth := 20) (contextual := true) [traceDue, hs]

@[simp] theorem ArrayCore_onTile_ok (k : ArrayCore) (n : Nat) (f : TileEntry → TileEntry) :
    (ArrayCore.onTile k n f).localStore = k.localStore := by
  simp (maxDischargeDepth := 20) (contextual := true) [ArrayCore.onTile]

@[simp] theorem ArrayCore_onQueue_ok (k : ArrayCore) (q : Nat) (f : Binding → Binding) :
    (ArrayCore.onQueue k q f).localStore = k.localStore := by
  simp (maxDischargeDepth := 20) (contextual := true) [ArrayCore.onQueue]

@[simp] theorem placeMarks_ok {s : State} (c q : Nat) (hs : s.MemoryOk) :
    (placeMarks s c q).MemoryOk := by
  simp (maxDischargeDepth := 20) (contextual := true) [placeMarks, hs]

@[simp] theorem releaseTiles_ok {s : State} (kind : CoreKind) (c : Nat) (o : TileOp) (hs : s.MemoryOk) :
    (releaseTiles s kind c o).MemoryOk := by
  simp (maxDischargeDepth := 20) (contextual := true) [releaseTiles, hs]

theorem foldl_store {α : Type} {f : ArrayCore → α → ArrayCore} (hf : ∀ k x, (f k x).localStore = k.localStore) (k : ArrayCore)
    (xs : List α) : (xs.foldl f k).localStore = k.localStore := by
  induction xs generalizing k with
  | nil => rfl
  | cons x rest ih => exact (ih _).trans (hf k x)

@[simp] theorem ArrayCore_retire_ok (k : ArrayCore) (o : TileOp) : (k.retire o).localStore = k.localStore := by
  unfold ArrayCore.retire
  dsimp only
  split <;>
    (refine Eq.trans (foldl_store ?_ _ _) (Eq.trans (foldl_store ?_ _ _) rfl) <;> intro _ _ <;> rfl)

@[simp] theorem retireArray_ok {s : State} (c : Nat) (o : TileOp) (hs : s.MemoryOk) :
    (retireArray s c o).MemoryOk := by
  simp (maxDischargeDepth := 20) (contextual := true) [retireArray, hs]

@[simp] theorem ArrayCore_dropMarks_ok (k : ArrayCore) (q : Nat) : (k.dropMarks q).localStore = k.localStore :=
  foldl_store (fun k o => ArrayCore_retire_ok k o) k _

@[simp] theorem dropMarks_ok {s : State} (c q : Nat) (hs : s.MemoryOk) :
    (dropMarks s c q).MemoryOk := by
  simp (maxDischargeDepth := 20) (contextual := true) [dropMarks, hs]

@[simp] theorem ArrayCore_discardSend_ok (k : ArrayCore) (q e : Nat) :
    (ArrayCore.discardSend k q e).localStore = k.localStore := by
  unfold ArrayCore.discardSend; (repeat' split) <;> simp (maxDischargeDepth := 20) (contextual := true) [*]

@[simp] theorem discardUntaken_ok {s : State} (c q : Nat) (hs : s.MemoryOk) : (discardUntaken s c q).MemoryOk := by
  refine setArray_ok hs c ?_
  have := foldl_store (fun k e => ArrayCore_discardSend_ok k q e) (s.array c)
    (((s.array c).queue q).parked ++ ((s.array c).queue q).fifo)
  simp only [ArrayCore_onQueue_ok]
  rw [this]
  exact array_wf hs c

@[simp] theorem freePool_ok {s : State} (c : Nat) (b : Binding) (hs : s.MemoryOk) :
    (freePool s c b).MemoryOk := by
  simp (maxDischargeDepth := 20) (contextual := true) [freePool, hs]

@[simp] theorem dissolve_ok {s : State} (c q : Nat) (hs : s.MemoryOk) :
    (dissolve s c q).MemoryOk := by
  simp (maxDischargeDepth := 20) (contextual := true) [dissolve, hs]

@[simp] theorem deferAll_ok {s : State} (o : Origin) (cs : List Cause) (hs : s.MemoryOk) :
    (deferAll s o cs).MemoryOk := by
  simp (maxDischargeDepth := 20) (contextual := true) [deferAll, hs]

@[simp] theorem storeResult_ok {s : State} (kind : CoreKind) (c : Nat) (o : TileOp) (hs : s.MemoryOk) :
    (storeResult s kind c o).MemoryOk := by
  unfold storeResult; (repeat' split) <;> simp (maxDischargeDepth := 20) (contextual := true) [*]

@[simp] theorem becomeSend_ok {s : State} (c : Nat) (o : TileOp) (q e : Nat) (hs : s.MemoryOk) :
    (becomeSend s c o q e).MemoryOk := by
  simp (maxDischargeDepth := 20) (contextual := true) [becomeSend, hs]

@[simp] theorem execMatrixOpRetire_ok (u : UnitRef) (op : Nat) {s : State} (hs : s.MemoryOk) :
    Kept (execMatrixOpRetire u op s) := by
  unfold execMatrixOpRetire; (repeat' split) <;> simp (maxDischargeDepth := 20) (contextual := true) [*]

@[simp] theorem queueWord_ok {s : State} (f : BitVec 6) {g : Issuer → Nat → State → Issue} (hs : s.MemoryOk)
    (hg : ∀ x n s, s.MemoryOk → KeptIssue (g x n s)) : Kept (queueWord s f g) := by
  refine unitWord_ok _ hs fun x s h => ?_
  split
  · simp
  · split
    · exact hg _ _ _ h
    · simp

@[simp] theorem bindQueue_ok {s : State} (c q : Nat) (dir : Dir) (d : QDesc) (hs : s.MemoryOk) :
    (bindQueue s c q dir d).MemoryOk := by
  simp (maxDischargeDepth := 20) (contextual := true) [bindQueue, hs]

@[simp] theorem qbindWord_ok (dir : Dir) (td ta : BitVec 6) {s : State} (hs : s.MemoryOk) :
    Kept (qbindWord dir td ta s) := by
  unfold qbindWord; (repeat' first | split | (refine ranged_ok _ _ ?_; try dsimp only) | (refine listed_ok _ _ _ _ _ _ (fun _ _ => ?_); try dsimp only) | (refine unitWord_ok _ (by assumption) fun _ _ _ => ?_; try dsimp only) | (refine queueWord_ok _ (by assumption) fun _ _ _ _ => ?_; try dsimp only) | (refine matrixWord_ok (by assumption) fun _ _ _ => ?_; try dsimp only) | (refine vectorWord_ok (by assumption) fun _ _ _ _ _ => ?_; try dsimp only) | (refine laneWordOnly_ok (by assumption) fun _ _ _ _ _ _ => ?_; try dsimp only) | (refine sysWord_ok _ (by assumption) fun _ _ _ => ?_; try dsimp only) | (refine Pick_bind_ok fun _ => ?_; try dsimp only) | (refine checked_ok ?_; try dsimp only)) <;> (try have hw := runningGroup_wf hs (by assumption)) <;> (try have hw := runningTask_wf hs (by assumption)) <;> (try have hk := kept_some (by assumption) (by simp (maxDischargeDepth := 20) (contextual := true) [*])) <;> (try have hk := kept_pair (by assumption) (by simp (maxDischargeDepth := 20) (contextual := true) [*])) <;> (try have hk := kept_answer (by assumption) (by simp (maxDischargeDepth := 20) (contextual := true) [*])) <;> simp (maxDischargeDepth := 20) (contextual := true) [*]

@[simp] theorem execQbindS_ok (td ta : BitVec 6) {s : State} (hs : s.MemoryOk) :
    Kept (execQbindS td ta s) := by
  simp (maxDischargeDepth := 20) (contextual := true) [execQbindS, hs]

@[simp] theorem execQbindR_ok (td ta : BitVec 6) {s : State} (hs : s.MemoryOk) :
    Kept (execQbindR td ta s) := by
  simp (maxDischargeDepth := 20) (contextual := true) [execQbindR, hs]

@[simp] theorem execQunbind_ok (td : BitVec 6) {s : State} (hs : s.MemoryOk) :
    Kept (execQunbind td s) := by
  simp (maxDischargeDepth := 20) (contextual := true) [execQunbind, hs]

@[simp] theorem qsendWord_ok (free : Bool) (td ta : BitVec 6) {s : State} (hs : s.MemoryOk) :
    Kept (qsendWord free td ta s) := by
  unfold qsendWord; (repeat' first | split | (refine ranged_ok _ _ ?_; try dsimp only) | (refine listed_ok _ _ _ _ _ _ (fun _ _ => ?_); try dsimp only) | (refine unitWord_ok _ (by assumption) fun _ _ _ => ?_; try dsimp only) | (refine queueWord_ok _ (by assumption) fun _ _ _ _ => ?_; try dsimp only) | (refine matrixWord_ok (by assumption) fun _ _ _ => ?_; try dsimp only) | (refine vectorWord_ok (by assumption) fun _ _ _ _ _ => ?_; try dsimp only) | (refine laneWordOnly_ok (by assumption) fun _ _ _ _ _ _ => ?_; try dsimp only) | (refine sysWord_ok _ (by assumption) fun _ _ _ => ?_; try dsimp only) | (refine Pick_bind_ok fun _ => ?_; try dsimp only) | (refine checked_ok ?_; try dsimp only)) <;> (try have hw := runningGroup_wf hs (by assumption)) <;> (try have hw := runningTask_wf hs (by assumption)) <;> (try have hk := kept_some (by assumption) (by simp (maxDischargeDepth := 20) (contextual := true) [*])) <;> (try have hk := kept_pair (by assumption) (by simp (maxDischargeDepth := 20) (contextual := true) [*])) <;> (try have hk := kept_answer (by assumption) (by simp (maxDischargeDepth := 20) (contextual := true) [*])) <;> simp (maxDischargeDepth := 20) (contextual := true) [*]

@[simp] theorem execQsend_ok (td ta : BitVec 6) {s : State} (hs : s.MemoryOk) :
    Kept (execQsend td ta s) := by
  simp (maxDischargeDepth := 20) (contextual := true) [execQsend, hs]

@[simp] theorem execQsendF_ok (td ta : BitVec 6) {s : State} (hs : s.MemoryOk) :
    Kept (execQsendF td ta s) := by
  simp (maxDischargeDepth := 20) (contextual := true) [execQsendF, hs]

@[simp] theorem execQrecv_ok (td ta : BitVec 6) {s : State} (hs : s.MemoryOk) :
    Kept (execQrecv td ta s) := by
  unfold execQrecv; (repeat' first | split | (refine ranged_ok _ _ ?_; try dsimp only) | (refine listed_ok _ _ _ _ _ _ (fun _ _ => ?_); try dsimp only) | (refine unitWord_ok _ (by assumption) fun _ _ _ => ?_; try dsimp only) | (refine queueWord_ok _ (by assumption) fun _ _ _ _ => ?_; try dsimp only) | (refine matrixWord_ok (by assumption) fun _ _ _ => ?_; try dsimp only) | (refine vectorWord_ok (by assumption) fun _ _ _ _ _ => ?_; try dsimp only) | (refine laneWordOnly_ok (by assumption) fun _ _ _ _ _ _ => ?_; try dsimp only) | (refine sysWord_ok _ (by assumption) fun _ _ _ => ?_; try dsimp only) | (refine Pick_bind_ok fun _ => ?_; try dsimp only) | (refine checked_ok ?_; try dsimp only)) <;> (try have hw := runningGroup_wf hs (by assumption)) <;> (try have hw := runningTask_wf hs (by assumption)) <;> (try have hk := kept_some (by assumption) (by simp (maxDischargeDepth := 20) (contextual := true) [*])) <;> (try have hk := kept_pair (by assumption) (by simp (maxDischargeDepth := 20) (contextual := true) [*])) <;> (try have hk := kept_answer (by assumption) (by simp (maxDischargeDepth := 20) (contextual := true) [*])) <;> simp (maxDischargeDepth := 20) (contextual := true) [*]

@[simp] theorem qmarkWord_ok (isEnd : Bool) (td ta : BitVec 6) {s : State} (hs : s.MemoryOk) :
    Kept (qmarkWord isEnd td ta s) := by
  unfold qmarkWord; (repeat' first | split | (refine ranged_ok _ _ ?_; try dsimp only) | (refine listed_ok _ _ _ _ _ _ (fun _ _ => ?_); try dsimp only) | (refine unitWord_ok _ (by assumption) fun _ _ _ => ?_; try dsimp only) | (refine queueWord_ok _ (by assumption) fun _ _ _ _ => ?_; try dsimp only) | (refine matrixWord_ok (by assumption) fun _ _ _ => ?_; try dsimp only) | (refine vectorWord_ok (by assumption) fun _ _ _ _ _ => ?_; try dsimp only) | (refine laneWordOnly_ok (by assumption) fun _ _ _ _ _ _ => ?_; try dsimp only) | (refine sysWord_ok _ (by assumption) fun _ _ _ => ?_; try dsimp only) | (refine Pick_bind_ok fun _ => ?_; try dsimp only) | (refine checked_ok ?_; try dsimp only)) <;> (try have hw := runningGroup_wf hs (by assumption)) <;> (try have hw := runningTask_wf hs (by assumption)) <;> (try have hk := kept_some (by assumption) (by simp (maxDischargeDepth := 20) (contextual := true) [*])) <;> (try have hk := kept_pair (by assumption) (by simp (maxDischargeDepth := 20) (contextual := true) [*])) <;> (try have hk := kept_answer (by assumption) (by simp (maxDischargeDepth := 20) (contextual := true) [*])) <;> simp (maxDischargeDepth := 20) (contextual := true) [*]

@[simp] theorem execQmarkStart_ok (td ta : BitVec 6) {s : State} (hs : s.MemoryOk) :
    Kept (execQmarkStart td ta s) := by
  simp (maxDischargeDepth := 20) (contextual := true) [execQmarkStart, hs]

@[simp] theorem execQmarkEnd_ok (td ta : BitVec 6) {s : State} (hs : s.MemoryOk) :
    Kept (execQmarkEnd td ta s) := by
  simp (maxDischargeDepth := 20) (contextual := true) [execQmarkEnd, hs]

@[simp] theorem execQwidth_ok (td : BitVec 6) (width : BitVec 4) {s : State} (hs : s.MemoryOk) :
    Kept (execQwidth td width s) := by
  unfold execQwidth; (repeat' first | split | (refine ranged_ok _ _ ?_; try dsimp only) | (refine listed_ok _ _ _ _ _ _ (fun _ _ => ?_); try dsimp only) | (refine unitWord_ok _ (by assumption) fun _ _ _ => ?_; try dsimp only) | (refine queueWord_ok _ (by assumption) fun _ _ _ _ => ?_; try dsimp only) | (refine matrixWord_ok (by assumption) fun _ _ _ => ?_; try dsimp only) | (refine vectorWord_ok (by assumption) fun _ _ _ _ _ => ?_; try dsimp only) | (refine laneWordOnly_ok (by assumption) fun _ _ _ _ _ _ => ?_; try dsimp only) | (refine sysWord_ok _ (by assumption) fun _ _ _ => ?_; try dsimp only) | (refine Pick_bind_ok fun _ => ?_; try dsimp only) | (refine checked_ok ?_; try dsimp only)) <;> (try have hw := runningGroup_wf hs (by assumption)) <;> (try have hw := runningTask_wf hs (by assumption)) <;> (try have hk := kept_some (by assumption) (by simp (maxDischargeDepth := 20) (contextual := true) [*])) <;> (try have hk := kept_pair (by assumption) (by simp (maxDischargeDepth := 20) (contextual := true) [*])) <;> (try have hk := kept_answer (by assumption) (by simp (maxDischargeDepth := 20) (contextual := true) [*])) <;> simp (maxDischargeDepth := 20) (contextual := true) [*]

@[simp] theorem execQstat_ok (td ta : BitVec 6) {s : State} (hs : s.MemoryOk) :
    Kept (execQstat td ta s) := by
  simp (maxDischargeDepth := 20) (contextual := true) [execQstat, hs]

@[simp] theorem execQdrop_ok (td : BitVec 6) {s : State} (hs : s.MemoryOk) :
    Kept (execQdrop td s) := by
  unfold execQdrop; (repeat' first | split | (refine ranged_ok _ _ ?_; try dsimp only) | (refine listed_ok _ _ _ _ _ _ (fun _ _ => ?_); try dsimp only) | (refine unitWord_ok _ (by assumption) fun _ _ _ => ?_; try dsimp only) | (refine queueWord_ok _ (by assumption) fun _ _ _ _ => ?_; try dsimp only) | (refine matrixWord_ok (by assumption) fun _ _ _ => ?_; try dsimp only) | (refine vectorWord_ok (by assumption) fun _ _ _ _ _ => ?_; try dsimp only) | (refine laneWordOnly_ok (by assumption) fun _ _ _ _ _ _ => ?_; try dsimp only) | (refine sysWord_ok _ (by assumption) fun _ _ _ => ?_; try dsimp only) | (refine Pick_bind_ok fun _ => ?_; try dsimp only) | (refine checked_ok ?_; try dsimp only)) <;> (try have hw := runningGroup_wf hs (by assumption)) <;> (try have hw := runningTask_wf hs (by assumption)) <;> (try have hk := kept_some (by assumption) (by simp (maxDischargeDepth := 20) (contextual := true) [*])) <;> (try have hk := kept_pair (by assumption) (by simp (maxDischargeDepth := 20) (contextual := true) [*])) <;> (try have hk := kept_answer (by assumption) (by simp (maxDischargeDepth := 20) (contextual := true) [*])) <;> simp (maxDischargeDepth := 20) (contextual := true) [*]

/-! ### Seal -/

@[simp] theorem drawBootKey_ok {s : State} (hs : s.MemoryOk) :
    (drawBootKey s).MemoryOk := by
  unfold drawBootKey; (repeat' split) <;> (try have hw := runningGroup_wf hs (by assumption)) <;> (try have hw := runningTask_wf hs (by assumption)) <;> (try have hk := kept_some (by assumption) (by simp (maxDischargeDepth := 20) (contextual := true) [*])) <;> (try have hk := kept_pair (by assumption) (by simp (maxDischargeDepth := 20) (contextual := true) [*])) <;> (try have hk := kept_answer (by assumption) (by simp (maxDischargeDepth := 20) (contextual := true) [*])) <;> first | assumption | (simp (maxDischargeDepth := 20) (contextual := true) [*]; done) | (simp_all (maxDischargeDepth := 20); done)

@[simp] theorem newKey_ok {s : State} (c : Nat) (hs : s.MemoryOk) :
    (newKey s c).MemoryOk := by
  unfold newKey; (repeat' split) <;> (try have hw := runningGroup_wf hs (by assumption)) <;> (try have hw := runningTask_wf hs (by assumption)) <;> (try have hk := kept_some (by assumption) (by simp (maxDischargeDepth := 20) (contextual := true) [*])) <;> (try have hk := kept_pair (by assumption) (by simp (maxDischargeDepth := 20) (contextual := true) [*])) <;> (try have hk := kept_answer (by assumption) (by simp (maxDischargeDepth := 20) (contextual := true) [*])) <;> first | assumption | (simp (maxDischargeDepth := 20) (contextual := true) [*]; done) | (simp_all (maxDischargeDepth := 20); done)

/-! ### Matrix -/

@[simp] theorem setAcc_ok {s : State} (x : Issuer) (key : Nat) (v : Acc) (hs : s.MemoryOk) :
    (setAcc s x key v).MemoryOk := by
  unfold setAcc; (repeat' split) <;> simp (maxDischargeDepth := 20) (contextual := true) [*]

@[simp] theorem setSr_ok {s : State} (x : Issuer) (v : BitVec 16) (hs : s.MemoryOk) :
    (setSr s x v).MemoryOk := by
  unfold setSr; (repeat' split) <;> simp (maxDischargeDepth := 20) (contextual := true) [*]

@[simp] theorem matrixWord_ok {s : State} {f : Issuer → State → Issue} (hs : s.MemoryOk)
    (hf : ∀ x s, s.MemoryOk → KeptIssue (f x s)) : Kept (matrixWord s f) := by
  refine unitWord_ok _ hs fun x s h => ?_
  split
  · simp
  · exact hf _ _ h

@[simp] theorem mmaIssue_ok {s : State} (x : Issuer) (key : Nat) (na nb : TileName) (ea eb : Nat) (old : Acc) (hs : s.MemoryOk) :
    (mmaIssue s x key na nb ea eb old).MemoryOk := by
  simp (maxDischargeDepth := 20) (contextual := true) [mmaIssue, hs]

@[simp] theorem mmaWord_ok (clear : Bool) (td ta tb : BitVec 6) (slot : BitVec 3) {s : State} (hs : s.MemoryOk) :
    Kept (mmaWord clear td ta tb slot s) := by
  unfold mmaWord; (repeat' first | split | (refine ranged_ok _ _ ?_; try dsimp only) | (refine listed_ok _ _ _ _ _ _ (fun _ _ => ?_); try dsimp only) | (refine unitWord_ok _ (by assumption) fun _ _ _ => ?_; try dsimp only) | (refine queueWord_ok _ (by assumption) fun _ _ _ _ => ?_; try dsimp only) | (refine matrixWord_ok (by assumption) fun _ _ _ => ?_; try dsimp only) | (refine vectorWord_ok (by assumption) fun _ _ _ _ _ => ?_; try dsimp only) | (refine laneWordOnly_ok (by assumption) fun _ _ _ _ _ _ => ?_; try dsimp only) | (refine sysWord_ok _ (by assumption) fun _ _ _ => ?_; try dsimp only) | (refine Pick_bind_ok fun _ => ?_; try dsimp only) | (refine checked_ok ?_; try dsimp only)) <;> (try have hw := runningGroup_wf hs (by assumption)) <;> (try have hw := runningTask_wf hs (by assumption)) <;> (try have hk := kept_some (by assumption) (by simp (maxDischargeDepth := 20) (contextual := true) [*])) <;> (try have hk := kept_pair (by assumption) (by simp (maxDischargeDepth := 20) (contextual := true) [*])) <;> (try have hk := kept_answer (by assumption) (by simp (maxDischargeDepth := 20) (contextual := true) [*])) <;> simp (maxDischargeDepth := 20) (contextual := true) [*]

@[simp] theorem execMma_ok (td ta tb : BitVec 6) (slot : BitVec 3) {s : State} (hs : s.MemoryOk) :
    Kept (execMma td ta tb slot s) := by
  simp (maxDischargeDepth := 20) (contextual := true) [execMma, hs]

@[simp] theorem execMmaZ_ok (td ta tb : BitVec 6) (slot : BitVec 3) {s : State} (hs : s.MemoryOk) :
    Kept (execMmaZ td ta tb slot s) := by
  simp (maxDischargeDepth := 20) (contextual := true) [execMmaZ, hs]

@[simp] theorem execMclr_ok (td : BitVec 6) {s : State} (hs : s.MemoryOk) :
    Kept (execMclr td s) := by
  unfold execMclr; (repeat' first | split | (refine ranged_ok _ _ ?_; try dsimp only) | (refine listed_ok _ _ _ _ _ _ (fun _ _ => ?_); try dsimp only) | (refine unitWord_ok _ (by assumption) fun _ _ _ => ?_; try dsimp only) | (refine queueWord_ok _ (by assumption) fun _ _ _ _ => ?_; try dsimp only) | (refine matrixWord_ok (by assumption) fun _ _ _ => ?_; try dsimp only) | (refine vectorWord_ok (by assumption) fun _ _ _ _ _ => ?_; try dsimp only) | (refine laneWordOnly_ok (by assumption) fun _ _ _ _ _ _ => ?_; try dsimp only) | (refine sysWord_ok _ (by assumption) fun _ _ _ => ?_; try dsimp only) | (refine Pick_bind_ok fun _ => ?_; try dsimp only) | (refine checked_ok ?_; try dsimp only)) <;> (try have hw := runningGroup_wf hs (by assumption)) <;> (try have hw := runningTask_wf hs (by assumption)) <;> (try have hk := kept_some (by assumption) (by simp (maxDischargeDepth := 20) (contextual := true) [*])) <;> (try have hk := kept_pair (by assumption) (by simp (maxDischargeDepth := 20) (contextual := true) [*])) <;> (try have hk := kept_answer (by assumption) (by simp (maxDischargeDepth := 20) (contextual := true) [*])) <;> simp (maxDischargeDepth := 20) (contextual := true) [*]

@[simp] theorem issueBuilt_ok {s : State} (x : Issuer) (d : TileName) (n : Nat) (srcs : List (TileName × Nat)) (b : Built) (hs : s.MemoryOk) :
    (issueBuilt s x d n srcs b).MemoryOk := by
  simp (maxDischargeDepth := 20) (contextual := true) [issueBuilt, hs]

@[simp] theorem execMout_ok (td ta : BitVec 6) (slot : BitVec 3) {s : State} (hs : s.MemoryOk) :
    Kept (execMout td ta slot s) := by
  unfold execMout; (repeat' first | split | (refine ranged_ok _ _ ?_; try dsimp only) | (refine listed_ok _ _ _ _ _ _ (fun _ _ => ?_); try dsimp only) | (refine unitWord_ok _ (by assumption) fun _ _ _ => ?_; try dsimp only) | (refine queueWord_ok _ (by assumption) fun _ _ _ _ => ?_; try dsimp only) | (refine matrixWord_ok (by assumption) fun _ _ _ => ?_; try dsimp only) | (refine vectorWord_ok (by assumption) fun _ _ _ _ _ => ?_; try dsimp only) | (refine laneWordOnly_ok (by assumption) fun _ _ _ _ _ _ => ?_; try dsimp only) | (refine sysWord_ok _ (by assumption) fun _ _ _ => ?_; try dsimp only) | (refine Pick_bind_ok fun _ => ?_; try dsimp only) | (refine checked_ok ?_; try dsimp only)) <;> (try have hw := runningGroup_wf hs (by assumption)) <;> (try have hw := runningTask_wf hs (by assumption)) <;> (try have hk := kept_some (by assumption) (by simp (maxDischargeDepth := 20) (contextual := true) [*])) <;> (try have hk := kept_pair (by assumption) (by simp (maxDischargeDepth := 20) (contextual := true) [*])) <;> (try have hk := kept_answer (by assumption) (by simp (maxDischargeDepth := 20) (contextual := true) [*])) <;> simp (maxDischargeDepth := 20) (contextual := true) [*]

@[simp] theorem execTcvt_ok (td ta : BitVec 6) (slot : BitVec 3) {s : State} (hs : s.MemoryOk) :
    Kept (execTcvt td ta slot s) := by
  simp (maxDischargeDepth := 20) (contextual := true) [execTcvt, hs]

@[simp] theorem execTzero_ok (td ta : BitVec 6) (slot : BitVec 3) {s : State} (hs : s.MemoryOk) :
    Kept (execTzero td ta slot s) := by
  unfold execTzero; (repeat' first | split | (refine ranged_ok _ _ ?_; try dsimp only) | (refine listed_ok _ _ _ _ _ _ (fun _ _ => ?_); try dsimp only) | (refine unitWord_ok _ (by assumption) fun _ _ _ => ?_; try dsimp only) | (refine queueWord_ok _ (by assumption) fun _ _ _ _ => ?_; try dsimp only) | (refine matrixWord_ok (by assumption) fun _ _ _ => ?_; try dsimp only) | (refine vectorWord_ok (by assumption) fun _ _ _ _ _ => ?_; try dsimp only) | (refine laneWordOnly_ok (by assumption) fun _ _ _ _ _ _ => ?_; try dsimp only) | (refine sysWord_ok _ (by assumption) fun _ _ _ => ?_; try dsimp only) | (refine Pick_bind_ok fun _ => ?_; try dsimp only) | (refine checked_ok ?_; try dsimp only)) <;> (try have hw := runningGroup_wf hs (by assumption)) <;> (try have hw := runningTask_wf hs (by assumption)) <;> (try have hk := kept_some (by assumption) (by simp (maxDischargeDepth := 20) (contextual := true) [*])) <;> (try have hk := kept_pair (by assumption) (by simp (maxDischargeDepth := 20) (contextual := true) [*])) <;> (try have hk := kept_answer (by assumption) (by simp (maxDischargeDepth := 20) (contextual := true) [*])) <;> simp (maxDischargeDepth := 20) (contextual := true) [*]

@[simp] theorem execMtr_ok (td ta : BitVec 6) {s : State} (hs : s.MemoryOk) :
    Kept (execMtr td ta s) := by
  simp (maxDischargeDepth := 20) (contextual := true) [execMtr, hs]

@[simp] theorem execThdrRd_ok (ta tb : BitVec 6) {s : State} (hs : s.MemoryOk) :
    Kept (execThdrRd ta tb s) := by
  unfold execThdrRd; (repeat' first | split | (refine ranged_ok _ _ ?_; try dsimp only) | (refine listed_ok _ _ _ _ _ _ (fun _ _ => ?_); try dsimp only) | (refine unitWord_ok _ (by assumption) fun _ _ _ => ?_; try dsimp only) | (refine queueWord_ok _ (by assumption) fun _ _ _ _ => ?_; try dsimp only) | (refine matrixWord_ok (by assumption) fun _ _ _ => ?_; try dsimp only) | (refine vectorWord_ok (by assumption) fun _ _ _ _ _ => ?_; try dsimp only) | (refine laneWordOnly_ok (by assumption) fun _ _ _ _ _ _ => ?_; try dsimp only) | (refine sysWord_ok _ (by assumption) fun _ _ _ => ?_; try dsimp only) | (refine Pick_bind_ok fun _ => ?_; try dsimp only) | (refine checked_ok ?_; try dsimp only)) <;> (try have hw := runningGroup_wf hs (by assumption)) <;> (try have hw := runningTask_wf hs (by assumption)) <;> (try have hk := kept_some (by assumption) (by simp (maxDischargeDepth := 20) (contextual := true) [*])) <;> (try have hk := kept_pair (by assumption) (by simp (maxDischargeDepth := 20) (contextual := true) [*])) <;> (try have hk := kept_answer (by assumption) (by simp (maxDischargeDepth := 20) (contextual := true) [*])) <;> simp (maxDischargeDepth := 20) (contextual := true) [*]

@[simp] theorem execThdrWr_ok (td tb : BitVec 6) {s : State} (hs : s.MemoryOk) :
    Kept (execThdrWr td tb s) := by
  unfold execThdrWr; (repeat' first | split | (refine ranged_ok _ _ ?_; try dsimp only) | (refine listed_ok _ _ _ _ _ _ (fun _ _ => ?_); try dsimp only) | (refine unitWord_ok _ (by assumption) fun _ _ _ => ?_; try dsimp only) | (refine queueWord_ok _ (by assumption) fun _ _ _ _ => ?_; try dsimp only) | (refine matrixWord_ok (by assumption) fun _ _ _ => ?_; try dsimp only) | (refine vectorWord_ok (by assumption) fun _ _ _ _ _ => ?_; try dsimp only) | (refine laneWordOnly_ok (by assumption) fun _ _ _ _ _ _ => ?_; try dsimp only) | (refine sysWord_ok _ (by assumption) fun _ _ _ => ?_; try dsimp only) | (refine Pick_bind_ok fun _ => ?_; try dsimp only) | (refine checked_ok ?_; try dsimp only)) <;> (try have hw := runningGroup_wf hs (by assumption)) <;> (try have hw := runningTask_wf hs (by assumption)) <;> (try have hk := kept_some (by assumption) (by simp (maxDischargeDepth := 20) (contextual := true) [*])) <;> (try have hk := kept_pair (by assumption) (by simp (maxDischargeDepth := 20) (contextual := true) [*])) <;> (try have hk := kept_answer (by assumption) (by simp (maxDischargeDepth := 20) (contextual := true) [*])) <;> simp (maxDischargeDepth := 20) (contextual := true) [*]

@[simp] theorem loadBook_ok {s : State} (x : Issuer) (tbl : BitVec 3) (o : Nat) (hs : s.MemoryOk) :
    (loadBook s x tbl o).MemoryOk := by
  simp (maxDischargeDepth := 20) (contextual := true) [loadBook, hs]

@[simp] theorem execCbld_ok (ta : BitVec 6) (tbl : BitVec 3) {s : State} (hs : s.MemoryOk) :
    Kept (execCbld ta tbl s) := by
  unfold execCbld; (repeat' first | split | (refine ranged_ok _ _ ?_; try dsimp only) | (refine listed_ok _ _ _ _ _ _ (fun _ _ => ?_); try dsimp only) | (refine unitWord_ok _ (by assumption) fun _ _ _ => ?_; try dsimp only) | (refine queueWord_ok _ (by assumption) fun _ _ _ _ => ?_; try dsimp only) | (refine matrixWord_ok (by assumption) fun _ _ _ => ?_; try dsimp only) | (refine vectorWord_ok (by assumption) fun _ _ _ _ _ => ?_; try dsimp only) | (refine laneWordOnly_ok (by assumption) fun _ _ _ _ _ _ => ?_; try dsimp only) | (refine sysWord_ok _ (by assumption) fun _ _ _ => ?_; try dsimp only) | (refine Pick_bind_ok fun _ => ?_; try dsimp only) | (refine checked_ok ?_; try dsimp only)) <;> (try have hw := runningGroup_wf hs (by assumption)) <;> (try have hw := runningTask_wf hs (by assumption)) <;> (try have hk := kept_some (by assumption) (by simp (maxDischargeDepth := 20) (contextual := true) [*])) <;> (try have hk := kept_pair (by assumption) (by simp (maxDischargeDepth := 20) (contextual := true) [*])) <;> (try have hk := kept_answer (by assumption) (by simp (maxDischargeDepth := 20) (contextual := true) [*])) <;> simp (maxDischargeDepth := 20) (contextual := true) [*]

/-! ### Vector -/

@[simp] theorem vectorWord_ok {s : State} {f : Issuer → ArrayCore → State → Issue} (hs : s.MemoryOk)
    (hf : ∀ x k s, s.MemoryOk → k.localStore.wf = true → KeptIssue (f x k s)) : Kept (vectorWord s f) := by
  refine unitWord_ok _ hs fun x s h => ?_
  split
  · simp
  · exact hf _ _ _ h (array_wf h _)

@[simp] theorem ArrayCore_raise_ok (k : ArrayCore) (fl : Flag) :
    (ArrayCore.raise k fl).localStore = k.localStore := by
  simp (maxDischargeDepth := 20) (contextual := true) [ArrayCore.raise]

@[simp] theorem writeLanes_ok {s : State} (x : Issuer) (k : ArrayCore) (d : BitVec 6) (m : BitVec 4) (srcs : List (BitVec 6)) (f : Nat → Nat × Flag) (hs : s.MemoryOk) (hk : k.localStore.wf = true) :
    KeptIssue (writeLanes s x k d m srcs f) := by
  simp (maxDischargeDepth := 20) (contextual := true) [writeLanes, hs, hk]

@[simp] theorem laneWord_ok (d a b : BitVec 6) (m : BitVec 4) {s : State} (f : Nat → Nat → Nat → Nat × Flag) (hs : s.MemoryOk) :
    Kept (laneWord d a b m s f) := by
  simp (maxDischargeDepth := 20) (contextual := true) [laneWord, hs]

@[simp] theorem laneWord1_ok (d a : BitVec 6) (m : BitVec 4) {s : State} (f : Nat → Nat × Flag) (hs : s.MemoryOk) :
    Kept (laneWord1 d a m s f) := by
  simp (maxDischargeDepth := 20) (contextual := true) [laneWord1, hs]

@[simp] theorem execVaddF32_ok (d a b : BitVec 6) (m : BitVec 4) {s : State} (hs : s.MemoryOk) :
    Kept (execVaddF32 d a b m s) := by
  simp (maxDischargeDepth := 20) (contextual := true) [execVaddF32, hs]

@[simp] theorem execVsubF32_ok (d a b : BitVec 6) (m : BitVec 4) {s : State} (hs : s.MemoryOk) :
    Kept (execVsubF32 d a b m s) := by
  simp (maxDischargeDepth := 20) (contextual := true) [execVsubF32, hs]

@[simp] theorem execVmulF32_ok (d a b : BitVec 6) (m : BitVec 4) {s : State} (hs : s.MemoryOk) :
    Kept (execVmulF32 d a b m s) := by
  simp (maxDischargeDepth := 20) (contextual := true) [execVmulF32, hs]

@[simp] theorem execVfmaF32_ok (d a b : BitVec 6) (m : BitVec 4) {s : State} (hs : s.MemoryOk) :
    Kept (execVfmaF32 d a b m s) := by
  simp (maxDischargeDepth := 20) (contextual := true) [execVfmaF32, hs]

@[simp] theorem execVminF32_ok (d a b : BitVec 6) (m : BitVec 4) {s : State} (hs : s.MemoryOk) :
    Kept (execVminF32 d a b m s) := by
  simp (maxDischargeDepth := 20) (contextual := true) [execVminF32, hs]

@[simp] theorem execVmaxF32_ok (d a b : BitVec 6) (m : BitVec 4) {s : State} (hs : s.MemoryOk) :
    Kept (execVmaxF32 d a b m s) := by
  simp (maxDischargeDepth := 20) (contextual := true) [execVmaxF32, hs]

@[simp] theorem execVabsF32_ok (d a : BitVec 6) (m : BitVec 4) {s : State} (hs : s.MemoryOk) :
    Kept (execVabsF32 d a m s) := by
  simp (maxDischargeDepth := 20) (contextual := true) [execVabsF32, hs]

@[simp] theorem execVnegF32_ok (d a : BitVec 6) (m : BitVec 4) {s : State} (hs : s.MemoryOk) :
    Kept (execVnegF32 d a m s) := by
  simp (maxDischargeDepth := 20) (contextual := true) [execVnegF32, hs]

@[simp] theorem execVaddI32_ok (d a b : BitVec 6) (m : BitVec 4) {s : State} (hs : s.MemoryOk) :
    Kept (execVaddI32 d a b m s) := by
  simp (maxDischargeDepth := 20) (contextual := true) [execVaddI32, hs]

@[simp] theorem execVsubI32_ok (d a b : BitVec 6) (m : BitVec 4) {s : State} (hs : s.MemoryOk) :
    Kept (execVsubI32 d a b m s) := by
  simp (maxDischargeDepth := 20) (contextual := true) [execVsubI32, hs]

@[simp] theorem execVmulI32_ok (d a b : BitVec 6) (m : BitVec 4) {s : State} (hs : s.MemoryOk) :
    Kept (execVmulI32 d a b m s) := by
  simp (maxDischargeDepth := 20) (contextual := true) [execVmulI32, hs]

@[simp] theorem execVand_ok (d a b : BitVec 6) (m : BitVec 4) {s : State} (hs : s.MemoryOk) :
    Kept (execVand d a b m s) := by
  simp (maxDischargeDepth := 20) (contextual := true) [execVand, hs]

@[simp] theorem execVor_ok (d a b : BitVec 6) (m : BitVec 4) {s : State} (hs : s.MemoryOk) :
    Kept (execVor d a b m s) := by
  simp (maxDischargeDepth := 20) (contextual := true) [execVor, hs]

@[simp] theorem execVxor_ok (d a b : BitVec 6) (m : BitVec 4) {s : State} (hs : s.MemoryOk) :
    Kept (execVxor d a b m s) := by
  simp (maxDischargeDepth := 20) (contextual := true) [execVxor, hs]

@[simp] theorem execVshl_ok (d a b : BitVec 6) (m : BitVec 4) {s : State} (hs : s.MemoryOk) :
    Kept (execVshl d a b m s) := by
  simp (maxDischargeDepth := 20) (contextual := true) [execVshl, hs]

@[simp] theorem execVsar_ok (d a b : BitVec 6) (m : BitVec 4) {s : State} (hs : s.MemoryOk) :
    Kept (execVsar d a b m s) := by
  simp (maxDischargeDepth := 20) (contextual := true) [execVsar, hs]

@[simp] theorem funWord_ok (g : VFun) (d a : BitVec 6) (m : BitVec 4) {s : State} (hs : s.MemoryOk) :
    Kept (funWord g d a m s) := by
  simp (maxDischargeDepth := 20) (contextual := true) [funWord, hs]

@[simp] theorem execVexp2_ok (d a : BitVec 6) (m : BitVec 4) {s : State} (hs : s.MemoryOk) :
    Kept (execVexp2 d a m s) := by
  simp (maxDischargeDepth := 20) (contextual := true) [execVexp2, hs]

@[simp] theorem execVlog2_ok (d a : BitVec 6) (m : BitVec 4) {s : State} (hs : s.MemoryOk) :
    Kept (execVlog2 d a m s) := by
  simp (maxDischargeDepth := 20) (contextual := true) [execVlog2, hs]

@[simp] theorem execVrcp_ok (d a : BitVec 6) (m : BitVec 4) {s : State} (hs : s.MemoryOk) :
    Kept (execVrcp d a m s) := by
  simp (maxDischargeDepth := 20) (contextual := true) [execVrcp, hs]

@[simp] theorem execVrsqrt_ok (d a : BitVec 6) (m : BitVec 4) {s : State} (hs : s.MemoryOk) :
    Kept (execVrsqrt d a m s) := by
  simp (maxDischargeDepth := 20) (contextual := true) [execVrsqrt, hs]

@[simp] theorem execVtanh_ok (d a : BitVec 6) (m : BitVec 4) {s : State} (hs : s.MemoryOk) :
    Kept (execVtanh d a m s) := by
  simp (maxDischargeDepth := 20) (contextual := true) [execVtanh, hs]

@[simp] theorem writePred_ok {s : State} (x : Issuer) (k : ArrayCore) (d : BitVec 6) (m : BitVec 4) (f : Nat → Bool × Flag) (hs : s.MemoryOk) (hk : k.localStore.wf = true) :
    KeptIssue (writePred s x k d m f) := by
  simp (maxDischargeDepth := 20) (contextual := true) [writePred, hs, hk]

@[simp] theorem cmpWord_ok (d a b : BitVec 6) (m : BitVec 4) {s : State} (f : Nat → Nat → Bool × Flag) (hs : s.MemoryOk) :
    Kept (cmpWord d a b m s f) := by
  simp (maxDischargeDepth := 20) (contextual := true) [cmpWord, hs]

@[simp] theorem execVcmpEqF32_ok (d a b : BitVec 6) (m : BitVec 4) {s : State} (hs : s.MemoryOk) :
    Kept (execVcmpEqF32 d a b m s) := by
  simp (maxDischargeDepth := 20) (contextual := true) [execVcmpEqF32, hs]

@[simp] theorem execVcmpLtF32_ok (d a b : BitVec 6) (m : BitVec 4) {s : State} (hs : s.MemoryOk) :
    Kept (execVcmpLtF32 d a b m s) := by
  simp (maxDischargeDepth := 20) (contextual := true) [execVcmpLtF32, hs]

@[simp] theorem execVcmpLeF32_ok (d a b : BitVec 6) (m : BitVec 4) {s : State} (hs : s.MemoryOk) :
    Kept (execVcmpLeF32 d a b m s) := by
  simp (maxDischargeDepth := 20) (contextual := true) [execVcmpLeF32, hs]

@[simp] theorem execVcmpUnF32_ok (d a b : BitVec 6) (m : BitVec 4) {s : State} (hs : s.MemoryOk) :
    Kept (execVcmpUnF32 d a b m s) := by
  simp (maxDischargeDepth := 20) (contextual := true) [execVcmpUnF32, hs]

@[simp] theorem execVcmpEqI32_ok (d a b : BitVec 6) (m : BitVec 4) {s : State} (hs : s.MemoryOk) :
    Kept (execVcmpEqI32 d a b m s) := by
  simp (maxDischargeDepth := 20) (contextual := true) [execVcmpEqI32, hs]

@[simp] theorem execVcmpLtI32_ok (d a b : BitVec 6) (m : BitVec 4) {s : State} (hs : s.MemoryOk) :
    Kept (execVcmpLtI32 d a b m s) := by
  simp (maxDischargeDepth := 20) (contextual := true) [execVcmpLtI32, hs]

@[simp] theorem execVcmpLeI32_ok (d a b : BitVec 6) (m : BitVec 4) {s : State} (hs : s.MemoryOk) :
    Kept (execVcmpLeI32 d a b m s) := by
  simp (maxDischargeDepth := 20) (contextual := true) [execVcmpLeI32, hs]

@[simp] theorem execVcmpLtuI32_ok (d a b : BitVec 6) (m : BitVec 4) {s : State} (hs : s.MemoryOk) :
    Kept (execVcmpLtuI32 d a b m s) := by
  simp (maxDischargeDepth := 20) (contextual := true) [execVcmpLtuI32, hs]

@[simp] theorem execVsel_ok (d a b : BitVec 6) (m : BitVec 4) {s : State} (hs : s.MemoryOk) :
    Kept (execVsel d a b m s) := by
  simp (maxDischargeDepth := 20) (contextual := true) [execVsel, hs]

@[simp] theorem predWord_ok (d a b : BitVec 6) (m : BitVec 4) {s : State} (f : Bool → Bool → Bool) (hs : s.MemoryOk) :
    Kept (predWord d a b m s f) := by
  simp (maxDischargeDepth := 20) (contextual := true) [predWord, hs]

@[simp] theorem execPand_ok (d a b : BitVec 6) (m : BitVec 4) {s : State} (hs : s.MemoryOk) :
    Kept (execPand d a b m s) := by
  simp (maxDischargeDepth := 20) (contextual := true) [execPand, hs]

@[simp] theorem execPor_ok (d a b : BitVec 6) (m : BitVec 4) {s : State} (hs : s.MemoryOk) :
    Kept (execPor d a b m s) := by
  simp (maxDischargeDepth := 20) (contextual := true) [execPor, hs]

@[simp] theorem execPxor_ok (d a b : BitVec 6) (m : BitVec 4) {s : State} (hs : s.MemoryOk) :
    Kept (execPxor d a b m s) := by
  simp (maxDischargeDepth := 20) (contextual := true) [execPxor, hs]

@[simp] theorem execPnot_ok (d a : BitVec 6) (m : BitVec 4) {s : State} (hs : s.MemoryOk) :
    Kept (execPnot d a m s) := by
  simp (maxDischargeDepth := 20) (contextual := true) [execPnot, hs]

@[simp] theorem reduceWord_ok (d a : BitVec 6) (m : BitVec 4) {s : State} (identity : Nat) (f : Nat → Nat → Nat → Nat × Flag) (hs : s.MemoryOk) :
    Kept (reduceWord d a m s identity f) := by
  simp (maxDischargeDepth := 20) (contextual := true) [reduceWord, hs]

@[simp] theorem execVrsumF32_ok (d a : BitVec 6) (m : BitVec 4) {s : State} (hs : s.MemoryOk) :
    Kept (execVrsumF32 d a m s) := by
  simp (maxDischargeDepth := 20) (contextual := true) [execVrsumF32, hs]

@[simp] theorem execVrmaxF32_ok (d a : BitVec 6) (m : BitVec 4) {s : State} (hs : s.MemoryOk) :
    Kept (execVrmaxF32 d a m s) := by
  simp (maxDischargeDepth := 20) (contextual := true) [execVrmaxF32, hs]

@[simp] theorem execVrminF32_ok (d a : BitVec 6) (m : BitVec 4) {s : State} (hs : s.MemoryOk) :
    Kept (execVrminF32 d a m s) := by
  simp (maxDischargeDepth := 20) (contextual := true) [execVrminF32, hs]

@[simp] theorem execVrsumI32_ok (d a : BitVec 6) (m : BitVec 4) {s : State} (hs : s.MemoryOk) :
    Kept (execVrsumI32 d a m s) := by
  simp (maxDischargeDepth := 20) (contextual := true) [execVrsumI32, hs]

@[simp] theorem execVrmaxI32_ok (d a : BitVec 6) (m : BitVec 4) {s : State} (hs : s.MemoryOk) :
    Kept (execVrmaxI32 d a m s) := by
  simp (maxDischargeDepth := 20) (contextual := true) [execVrmaxI32, hs]

@[simp] theorem execVrminI32_ok (d a : BitVec 6) (m : BitVec 4) {s : State} (hs : s.MemoryOk) :
    Kept (execVrminI32 d a m s) := by
  simp (maxDischargeDepth := 20) (contextual := true) [execVrminI32, hs]

@[simp] theorem execVperm_ok (d a b : BitVec 6) (m : BitVec 4) {s : State} (hs : s.MemoryOk) :
    Kept (execVperm d a b m s) := by
  simp (maxDischargeDepth := 20) (contextual := true) [execVperm, hs]

@[simp] theorem execVbcast_ok (d a : BitVec 6) (m : BitVec 4) {s : State} (hs : s.MemoryOk) :
    Kept (execVbcast d a m s) := by
  simp (maxDischargeDepth := 20) (contextual := true) [execVbcast, hs]

@[simp] theorem execVslup_ok (d a b : BitVec 6) (m : BitVec 4) {s : State} (hs : s.MemoryOk) :
    Kept (execVslup d a b m s) := by
  simp (maxDischargeDepth := 20) (contextual := true) [execVslup, hs]

@[simp] theorem execVsldn_ok (d a b : BitVec 6) (m : BitVec 4) {s : State} (hs : s.MemoryOk) :
    Kept (execVsldn d a b m s) := by
  simp (maxDischargeDepth := 20) (contextual := true) [execVsldn, hs]

@[simp] theorem execVmov_ok (d a : BitVec 6) (m : BitVec 4) {s : State} (hs : s.MemoryOk) :
    Kept (execVmov d a m s) := by
  simp (maxDischargeDepth := 20) (contextual := true) [execVmov, hs]

@[simp] theorem execVlane_ok (d : BitVec 6) (m : BitVec 4) {s : State} (hs : s.MemoryOk) :
    Kept (execVlane d m s) := by
  simp (maxDischargeDepth := 20) (contextual := true) [execVlane, hs]

@[simp] theorem readRow_ok {s : State} (x : Issuer) (k : ArrayCore) (d : BitVec 6) (n : Nat) (poison : Bool) (rm : Nat) (f : Nat → BitVec 16 → Nat × Flag) (hs : s.MemoryOk) (hk : k.localStore.wf = true) :
    KeptIssue (readRow s x k d n poison rm f) := by
  simp (maxDischargeDepth := 20) (contextual := true) [readRow, hs, hk]

@[simp] theorem execVtrd_ok (td ta tb : BitVec 6) {s : State} (hs : s.MemoryOk) :
    Kept (execVtrd td ta tb s) := by
  unfold execVtrd; (repeat' first | split | (refine ranged_ok _ _ ?_; try dsimp only) | (refine listed_ok _ _ _ _ _ _ (fun _ _ => ?_); try dsimp only) | (refine unitWord_ok _ (by assumption) fun _ _ _ => ?_; try dsimp only) | (refine queueWord_ok _ (by assumption) fun _ _ _ _ => ?_; try dsimp only) | (refine matrixWord_ok (by assumption) fun _ _ _ => ?_; try dsimp only) | (refine vectorWord_ok (by assumption) fun _ _ _ _ _ => ?_; try dsimp only) | (refine laneWordOnly_ok (by assumption) fun _ _ _ _ _ _ => ?_; try dsimp only) | (refine sysWord_ok _ (by assumption) fun _ _ _ => ?_; try dsimp only) | (refine Pick_bind_ok fun _ => ?_; try dsimp only) | (refine checked_ok ?_; try dsimp only)) <;> (try have hw := runningGroup_wf hs (by assumption)) <;> (try have hw := runningTask_wf hs (by assumption)) <;> (try have hk := kept_some (by assumption) (by simp (maxDischargeDepth := 20) (contextual := true) [*])) <;> (try have hk := kept_pair (by assumption) (by simp (maxDischargeDepth := 20) (contextual := true) [*])) <;> (try have hk := kept_answer (by assumption) (by simp (maxDischargeDepth := 20) (contextual := true) [*])) <;> simp (maxDischargeDepth := 20) (contextual := true) [*]

@[simp] theorem execVtrdc_ok (td ta tb : BitVec 6) {s : State} (hs : s.MemoryOk) :
    Kept (execVtrdc td ta tb s) := by
  unfold execVtrdc; (repeat' first | split | (refine ranged_ok _ _ ?_; try dsimp only) | (refine listed_ok _ _ _ _ _ _ (fun _ _ => ?_); try dsimp only) | (refine unitWord_ok _ (by assumption) fun _ _ _ => ?_; try dsimp only) | (refine queueWord_ok _ (by assumption) fun _ _ _ _ => ?_; try dsimp only) | (refine matrixWord_ok (by assumption) fun _ _ _ => ?_; try dsimp only) | (refine vectorWord_ok (by assumption) fun _ _ _ _ _ => ?_; try dsimp only) | (refine laneWordOnly_ok (by assumption) fun _ _ _ _ _ _ => ?_; try dsimp only) | (refine sysWord_ok _ (by assumption) fun _ _ _ => ?_; try dsimp only) | (refine Pick_bind_ok fun _ => ?_; try dsimp only) | (refine checked_ok ?_; try dsimp only)) <;> (try have hw := runningGroup_wf hs (by assumption)) <;> (try have hw := runningTask_wf hs (by assumption)) <;> (try have hk := kept_some (by assumption) (by simp (maxDischargeDepth := 20) (contextual := true) [*])) <;> (try have hk := kept_pair (by assumption) (by simp (maxDischargeDepth := 20) (contextual := true) [*])) <;> (try have hk := kept_answer (by assumption) (by simp (maxDischargeDepth := 20) (contextual := true) [*])) <;> simp (maxDischargeDepth := 20) (contextual := true) [*]

@[simp] theorem putElem_wf {m : Memory} (hm : m.wf = true) (at_ : Nat) (h : Hdr) (r c raw : Nat) :
    (putElem m at_ h r c raw).wf = true := by
  unfold putElem; (repeat' split) <;> simp [hm]

@[simp] theorem writeRow_ok {s : State} (x : Issuer) {k : ArrayCore} (n r c0 : Nat) (va : BitVec 6) (rm : Nat)
    (f : Nat → BitVec 16 → Nat × Flag) (hs : s.MemoryOk) (hk : k.localStore.wf = true) :
    KeptIssue (writeRow s x k n r c0 va rm f) := by
  refine setArray_ok hs _ ?_
  have hw := foldl_wf (f := fun m p => putElem m (x.entry s n).lsoff.toNat (x.entry s n).header r (c0 + p.1) p.2)
    (fun m p hm => putElem_wf hm _ _ _ _ _) hk
    (roundLanes rm f (upFrom 0 (min ((x.entry s n).header.cols - c0) 128)) k.srState).1
  have := writeBytes_wf hw (x.entry s n).lsoff.toNat
  simp_all

@[simp] theorem execVtwr_ok (td ta tb : BitVec 6) {s : State} (hs : s.MemoryOk) :
    Kept (execVtwr td ta tb s) := by
  unfold execVtwr; (repeat' first | split | (refine ranged_ok _ _ ?_; try dsimp only) | (refine listed_ok _ _ _ _ _ _ (fun _ _ => ?_); try dsimp only) | (refine unitWord_ok _ (by assumption) fun _ _ _ => ?_; try dsimp only) | (refine queueWord_ok _ (by assumption) fun _ _ _ _ => ?_; try dsimp only) | (refine matrixWord_ok (by assumption) fun _ _ _ => ?_; try dsimp only) | (refine vectorWord_ok (by assumption) fun _ _ _ _ _ => ?_; try dsimp only) | (refine laneWordOnly_ok (by assumption) fun _ _ _ _ _ _ => ?_; try dsimp only) | (refine sysWord_ok _ (by assumption) fun _ _ _ => ?_; try dsimp only) | (refine Pick_bind_ok fun _ => ?_; try dsimp only) | (refine checked_ok ?_; try dsimp only)) <;> (try have hw := runningGroup_wf hs (by assumption)) <;> (try have hw := runningTask_wf hs (by assumption)) <;> (try have hk := kept_some (by assumption) (by simp (maxDischargeDepth := 20) (contextual := true) [*])) <;> (try have hk := kept_pair (by assumption) (by simp (maxDischargeDepth := 20) (contextual := true) [*])) <;> (try have hk := kept_answer (by assumption) (by simp (maxDischargeDepth := 20) (contextual := true) [*])) <;> simp (maxDischargeDepth := 20) (contextual := true) [*]

@[simp] theorem execVtwrc_ok (td ta tb : BitVec 6) (slot : BitVec 3) {s : State} (hs : s.MemoryOk) :
    Kept (execVtwrc td ta tb slot s) := by
  unfold execVtwrc; (repeat' first | split | (refine ranged_ok _ _ ?_; try dsimp only) | (refine listed_ok _ _ _ _ _ _ (fun _ _ => ?_); try dsimp only) | (refine unitWord_ok _ (by assumption) fun _ _ _ => ?_; try dsimp only) | (refine queueWord_ok _ (by assumption) fun _ _ _ _ => ?_; try dsimp only) | (refine matrixWord_ok (by assumption) fun _ _ _ => ?_; try dsimp only) | (refine vectorWord_ok (by assumption) fun _ _ _ _ _ => ?_; try dsimp only) | (refine laneWordOnly_ok (by assumption) fun _ _ _ _ _ _ => ?_; try dsimp only) | (refine sysWord_ok _ (by assumption) fun _ _ _ => ?_; try dsimp only) | (refine Pick_bind_ok fun _ => ?_; try dsimp only) | (refine checked_ok ?_; try dsimp only)) <;> (try have hw := runningGroup_wf hs (by assumption)) <;> (try have hw := runningTask_wf hs (by assumption)) <;> (try have hk := kept_some (by assumption) (by simp (maxDischargeDepth := 20) (contextual := true) [*])) <;> (try have hk := kept_pair (by assumption) (by simp (maxDischargeDepth := 20) (contextual := true) [*])) <;> (try have hk := kept_answer (by assumption) (by simp (maxDischargeDepth := 20) (contextual := true) [*])) <;> simp (maxDischargeDepth := 20) (contextual := true) [*]

/-! ### Loop -/

/-- What a loop word does to its core leaves the storage in canonical form. -/
def KeptLoop : LoopOut → Prop
  | .fault _ => True
  | .pass k _ => k.localStore.wf = true
  | .branch k _ _ _ => k.localStore.wf = true

@[simp] theorem keptLoop_fault (c : Cause) : KeptLoop (.fault c) := trivial
@[simp] theorem keptLoop_pass (k : ArrayCore) (t : Task) : KeptLoop (.pass k t) ↔ k.localStore.wf = true := Iff.rfl
@[simp] theorem keptLoop_branch (k : ArrayCore) (t : Task) (b : Nat) (a : Word) :
    KeptLoop (.branch k t b a) ↔ k.localStore.wf = true := Iff.rfl
@[simp] theorem ite_keptLoop (p : Prop) [Decidable p] (a b : LoopOut) :
    KeptLoop (if p then a else b) ↔ (p → KeptLoop a) ∧ (¬p → KeptLoop b) := by
  split <;> simp_all
theorem keptLoop_of {a b : LoopOut} (h : KeptLoop a) (e : a = b) : KeptLoop b := e ▸ h

@[simp] theorem loopWord_ok (lvl : BitVec 3) {s : State} {f : Nat → Word → ArrayCore → Task → LoopOut} (hs : s.MemoryOk)
    (hf : ∀ n pc k t, k.localStore.wf = true → KeptLoop (f n pc k t)) : Kept (loopWord lvl s f) := by
  unfold loopWord
  split
  · split
    · simp
    · next k t h =>
      have hk := runningTask_wf hs h
      have hg : KeptLoop (if isLevel lvl then f lvl.toNat t.cursors.s.pc k t else .fault .illegalOperand) := by
        split <;> simp [hf, hk]
      dsimp only
      split
      · simp [hs]
      · next e => exact (kept_next _).2 (setArray_ok hs _ (keptLoop_of hg e))
      · next e => exact (kept_next _).2 (setArray_ok hs _ (keptLoop_of hg e))
  · simp
  · simp [hs]

@[simp] theorem lseqWord_ok (rot : Bool) (lvl : BitVec 3) (trip : BitVec 5) (len : BitVec 8) {s : State} (hs : s.MemoryOk) :
    Kept (lseqWord rot lvl trip len s) := by
  simp (maxDischargeDepth := 20) (contextual := true) [lseqWord, hs]

@[simp] theorem execLseq_ok (lvl : BitVec 3) (trip : BitVec 5) (len : BitVec 8) {s : State} (hs : s.MemoryOk) :
    Kept (execLseq lvl trip len s) := by
  simp (maxDischargeDepth := 20) (contextual := true) [execLseq, hs]

@[simp] theorem execLseqRot_ok (lvl : BitVec 3) (trip : BitVec 5) (len : BitVec 8) {s : State} (hs : s.MemoryOk) :
    Kept (execLseqRot lvl trip len s) := by
  simp (maxDischargeDepth := 20) (contextual := true) [execLseqRot, hs]

@[simp] theorem execLend_ok (lvl : BitVec 3) {s : State} (hs : s.MemoryOk) :
    Kept (execLend lvl s) := by
  simp (maxDischargeDepth := 20) (contextual := true) [execLend, hs]

@[simp] theorem markWord_ok (last : Bool) (lvl : BitVec 3) (count : BitVec 8) {s : State} (hs : s.MemoryOk) :
    Kept (markWord last lvl count s) := by
  simp (maxDischargeDepth := 20) (contextual := true) [markWord, hs]

@[simp] theorem execLfirst_ok (lvl : BitVec 3) (n : BitVec 8) {s : State} (hs : s.MemoryOk) :
    Kept (execLfirst lvl n s) := by
  simp (maxDischargeDepth := 20) (contextual := true) [execLfirst, hs]

@[simp] theorem execLlast_ok (lvl : BitVec 3) (n : BitVec 8) {s : State} (hs : s.MemoryOk) :
    Kept (execLlast lvl n s) := by
  simp (maxDischargeDepth := 20) (contextual := true) [execLlast, hs]

@[simp] theorem execLstride_ok (lvl : BitVec 3) (k : BitVec 1) (r : BitVec 5) (stride : BitVec 16) {s : State} (hs : s.MemoryOk) :
    Kept (execLstride lvl k r stride s) := by
  simp (maxDischargeDepth := 20) (contextual := true) [execLstride, hs]

@[simp] theorem execLbrk_ok (lvl : BitVec 3) (r : BitVec 5) {s : State} (hs : s.MemoryOk) :
    Kept (execLbrk lvl r s) := by
  simp (maxDischargeDepth := 20) (contextual := true) [execLbrk, hs]

end Sys2Proof.Machine
end

