-- ==== Sys2Proof/Laws/KeepsSystem.lean ====
section
/-! SUPPORT. The system words, weights, units and saved contexts keep memory, core storage and saved contexts in canonical form: one lemma for each definition. -/

namespace Sys2Proof.Machine

/-! ### Sync -/

@[simp] theorem appendFences_ok (x : Issuer) (waitAll holdAll : Bool) (scope : Nat) (as : List Agent) {s : State} (hs : s.MemoryOk) :
    (appendFences x waitAll holdAll scope as s).MemoryOk := by
  induction as generalizing s with
  | nil => simpa [appendFences] using hs
  | cons a rest ih => exact ih (same_ok hs rfl)

@[simp] theorem fenceWord_ok (waitAll holdAll : Bool) (scope : BitVec 3) {s : State} (hs : s.MemoryOk) :
    Kept (fenceWord waitAll holdAll scope s) := by
  simp (maxDischargeDepth := 20) (contextual := true) [fenceWord, hs]

@[simp] theorem execFenceAcq_ok (scope : BitVec 3) {s : State} (hs : s.MemoryOk) :
    Kept (execFenceAcq scope s) := by
  simp (maxDischargeDepth := 20) (contextual := true) [execFenceAcq, hs]

@[simp] theorem execFenceRel_ok (scope : BitVec 3) {s : State} (hs : s.MemoryOk) :
    Kept (execFenceRel scope s) := by
  simp (maxDischargeDepth := 20) (contextual := true) [execFenceRel, hs]

@[simp] theorem execFence_ok (scope : BitVec 3) {s : State} (hs : s.MemoryOk) :
    Kept (execFence scope s) := by
  simp (maxDischargeDepth := 20) (contextual := true) [execFence, hs]

@[simp] theorem execWcnt_ok (ld st cp tl : BitVec 6) {s : State} (hs : s.MemoryOk) :
    Kept (execWcnt ld st cp tl s) := by
  simp (maxDischargeDepth := 20) (contextual := true) [execWcnt, hs]

@[simp] theorem laneWordOnly_ok {s : State} {f : Issuer → LaneCore → Warp → State → Issue} (hs : s.MemoryOk)
    (hf : ∀ x k w s, s.MemoryOk → k.scratch.wf = true → KeptIssue (f x k w s)) : Kept (laneWordOnly s f) := by
  refine unitWord_ok _ hs fun x s h => ?_
  split
  · simp
  · split
    · exact hf _ _ _ _ h (lane_wf h _)
    · simp

@[simp] theorem evalBar_ok (k : LaneCore) (wg : Nat) :
    (evalBar k wg).scratch = k.scratch := by
  unfold evalBar; (repeat' split) <;> (try have hw := runningGroup_wf hs (by assumption)) <;> (try have hw := runningTask_wf hs (by assumption)) <;> (try have hk := kept_some (by assumption) (by simp (maxDischargeDepth := 20) (contextual := true) [*])) <;> (try have hk := kept_pair (by assumption) (by simp (maxDischargeDepth := 20) (contextual := true) [*])) <;> (try have hk := kept_answer (by assumption) (by simp (maxDischargeDepth := 20) (contextual := true) [*])) <;> (try simp (maxDischargeDepth := 20) (contextual := true) [*]) <;> ((repeat' split) <;> simp (maxDischargeDepth := 20) (contextual := true) [*])

@[simp] theorem raiseDeadlock_ok {s : State} (c slot : Nat) (hs : s.MemoryOk) :
    (raiseDeadlock s c slot).MemoryOk := by
  unfold raiseDeadlock; (repeat' split) <;> (try have hw := runningGroup_wf hs (by assumption)) <;> (try have hw := runningTask_wf hs (by assumption)) <;> (try have hk := kept_some (by assumption) (by simp (maxDischargeDepth := 20) (contextual := true) [*])) <;> (try have hk := kept_pair (by assumption) (by simp (maxDischargeDepth := 20) (contextual := true) [*])) <;> (try have hk := kept_answer (by assumption) (by simp (maxDischargeDepth := 20) (contextual := true) [*])) <;> (try simp (maxDischargeDepth := 20) (contextual := true) [*]) <;> ((repeat' split) <;> simp (maxDischargeDepth := 20) (contextual := true) [*])

@[simp] theorem LaneCore_latch_ok (k : LaneCore) (wg : Nat) :
    (LaneCore.latch k wg).scratch = k.scratch := by
  unfold LaneCore.latch; (repeat' split) <;> simp (maxDischargeDepth := 20) (contextual := true) [*]

@[simp] theorem putWarp_ok {s : State} (x : Issuer) (w : Warp) (hs : s.MemoryOk) :
    (putWarp s x w).MemoryOk := by
  simp (maxDischargeDepth := 20) (contextual := true) [putWarp, hs]

@[simp] theorem maskWord_ok (k : BitVec 4) {s : State} {f : Nat → Issuer → Warp → State → Issue} (hs : s.MemoryOk)
    (hf : ∀ n x w s, s.MemoryOk → KeptIssue (f n x w s)) : Kept (maskWord k s f) := by
  refine laneWordOnly_ok hs fun x k w s h _ => ?_
  split
  · exact hf _ _ _ _ h
  · simp

@[simp] theorem execMjoin_ok (k : BitVec 4) {s : State} (hs : s.MemoryOk) :
    Kept (execMjoin k s) := by
  simp (maxDischargeDepth := 20) (contextual := true) [execMjoin, hs]

@[simp] theorem execMleave_ok (k : BitVec 4) {s : State} (hs : s.MemoryOk) :
    Kept (execMleave k s) := by
  simp (maxDischargeDepth := 20) (contextual := true) [execMleave, hs]

@[simp] theorem execMwait_ok (k : BitVec 4) {s : State} (hs : s.MemoryOk) :
    Kept (execMwait k s) := by
  simp (maxDischargeDepth := 20) (contextual := true) [execMwait, hs]

@[simp] theorem execBar_ok {s : State} (hs : s.MemoryOk) :
    Kept (execBar s) := by
  simp (maxDischargeDepth := 20) (contextual := true) [execBar, hs]

@[simp] theorem laneValues_ok (d : BitVec 5) {s : State} (f : Issuer → Warp → Nat → Word) (hs : s.MemoryOk) :
    Kept (laneValues d s f) := by
  simp (maxDischargeDepth := 20) (contextual := true) [laneValues, hs]

@[simp] theorem execElect_ok (d : BitVec 5) {s : State} (hs : s.MemoryOk) :
    Kept (execElect d s) := by
  simp (maxDischargeDepth := 20) (contextual := true) [execElect, hs]

@[simp] theorem xchWord_ok (d a b : BitVec 5) {s : State} (src : Nat → Nat → Option Nat) (hs : s.MemoryOk) :
    Kept (xchWord d a b s src) := by
  simp (maxDischargeDepth := 20) (contextual := true) [xchWord, hs]

@[simp] theorem execXchIdx_ok (d a b : BitVec 5) {s : State} (hs : s.MemoryOk) :
    Kept (execXchIdx d a b s) := by
  simp (maxDischargeDepth := 20) (contextual := true) [execXchIdx, hs]

@[simp] theorem execXchUp_ok (d a b : BitVec 5) {s : State} (hs : s.MemoryOk) :
    Kept (execXchUp d a b s) := by
  simp (maxDischargeDepth := 20) (contextual := true) [execXchUp, hs]

@[simp] theorem execXchDown_ok (d a b : BitVec 5) {s : State} (hs : s.MemoryOk) :
    Kept (execXchDown d a b s) := by
  simp (maxDischargeDepth := 20) (contextual := true) [execXchDown, hs]

@[simp] theorem execXchXor_ok (d a b : BitVec 5) {s : State} (hs : s.MemoryOk) :
    Kept (execXchXor d a b s) := by
  simp (maxDischargeDepth := 20) (contextual := true) [execXchXor, hs]

theorem spawnOne_store (k : LaneCore) (wg : Nat) (entry : Word) (t : Thread) (after : List Nat) :
    (spawnOne k wg entry t after).1.scratch = k.scratch := by
  unfold spawnOne; (repeat' split) <;> rfl

@[simp] theorem spawnLanes_ok (x : Issuer) (d a : BitVec 5) (entry : Word) (ls : List Nat) {s : State} (hs : s.MemoryOk) :
    (spawnLanes x d a entry ls s).MemoryOk := by
  induction ls generalizing s with
  | nil => simpa [spawnLanes] using hs
  | cons l rest ih =>
    unfold spawnLanes
    dsimp only
    split
    · exact ih hs
    · refine ih (onThread_ok _ _ (setLane_ok hs _ ?_))
      rw [spawnOne_store]
      exact lane_wf hs _

@[simp] theorem execSpawn_ok (d a : BitVec 5) (imm : BitVec 12) {s : State} (hs : s.MemoryOk) :
    Kept (execSpawn d a imm s) := by
  simp (maxDischargeDepth := 20) (contextual := true) [execSpawn, hs]

@[simp] theorem execTnext_ok (d : BitVec 5) {s : State} (hs : s.MemoryOk) :
    Kept (execTnext d s) := by
  unfold execTnext; (repeat' first | split | (refine ranged_ok _ _ ?_; try dsimp only) | (refine listed_ok _ _ _ _ _ _ (fun _ _ => ?_); try dsimp only) | (refine unitWord_ok _ (by assumption) fun _ _ _ => ?_; try dsimp only) | (refine queueWord_ok _ (by assumption) fun _ _ _ _ => ?_; try dsimp only) | (refine matrixWord_ok (by assumption) fun _ _ _ => ?_; try dsimp only) | (refine vectorWord_ok (by assumption) fun _ _ _ _ _ => ?_; try dsimp only) | (refine laneWordOnly_ok (by assumption) fun _ _ _ _ _ _ => ?_; try dsimp only) | (refine sysWord_ok _ (by assumption) fun _ _ _ => ?_; try dsimp only) | (refine Pick_bind_ok fun _ => ?_; try dsimp only) | (refine checked_ok ?_; try dsimp only)) <;> (try have hw := runningGroup_wf hs (by assumption)) <;> (try have hw := runningTask_wf hs (by assumption)) <;> (try have hk := kept_some (by assumption) (by simp (maxDischargeDepth := 20) (contextual := true) [*])) <;> (try have hk := kept_pair (by assumption) (by simp (maxDischargeDepth := 20) (contextual := true) [*])) <;> (try have hk := kept_answer (by assumption) (by simp (maxDischargeDepth := 20) (contextual := true) [*])) <;> simp (maxDischargeDepth := 20) (contextual := true) [*]

@[simp] theorem execEntryShipment_ok (victim thief : Nat) {s : State} (hs : s.MemoryOk) :
    Kept (execEntryShipment victim thief s) := by
  unfold execEntryShipment; (repeat' split) <;> simp (maxDischargeDepth := 20) (contextual := true) [*]

@[simp] theorem sendMail_ok {s : State} (world : Nat) (t : Nat × Nat) (v : Word) (hs : s.MemoryOk) :
    (sendMail s world t v).1.MemoryOk := by
  unfold sendMail; (repeat' split) <;> (try have hw := runningGroup_wf hs (by assumption)) <;> (try have hw := runningTask_wf hs (by assumption)) <;> (try have hk := kept_some (by assumption) (by simp (maxDischargeDepth := 20) (contextual := true) [*])) <;> (try have hk := kept_pair (by assumption) (by simp (maxDischargeDepth := 20) (contextual := true) [*])) <;> (try have hk := kept_answer (by assumption) (by simp (maxDischargeDepth := 20) (contextual := true) [*])) <;> (try simp (maxDischargeDepth := 20) (contextual := true) [*]) <;> ((repeat' split) <;> simp (maxDischargeDepth := 20) (contextual := true) [*])

@[simp] theorem execMbxSend_ok (d a b : BitVec 5) {s : State} (hs : s.MemoryOk) :
    Kept (execMbxSend d a b s) := by
  unfold execMbxSend; (repeat' first | split | (refine ranged_ok _ _ ?_; try dsimp only) | (refine listed_ok _ _ _ _ _ _ (fun _ _ => ?_); try dsimp only) | (refine unitWord_ok _ (by assumption) fun _ _ _ => ?_; try dsimp only) | (refine queueWord_ok _ (by assumption) fun _ _ _ _ => ?_; try dsimp only) | (refine matrixWord_ok (by assumption) fun _ _ _ => ?_; try dsimp only) | (refine vectorWord_ok (by assumption) fun _ _ _ _ _ => ?_; try dsimp only) | (refine laneWordOnly_ok (by assumption) fun _ _ _ _ _ _ => ?_; try dsimp only) | (refine sysWord_ok _ (by assumption) fun _ _ _ => ?_; try dsimp only) | (refine Pick_bind_ok fun _ => ?_; try dsimp only) | (refine checked_ok ?_; try dsimp only)) <;> (try have hw := runningGroup_wf hs (by assumption)) <;> (try have hw := runningTask_wf hs (by assumption)) <;> (try have hk := kept_some (by assumption) (by simp (maxDischargeDepth := 20) (contextual := true) [*])) <;> (try have hk := kept_pair (by assumption) (by simp (maxDischargeDepth := 20) (contextual := true) [*])) <;> (try have hk := kept_answer (by assumption) (by simp (maxDischargeDepth := 20) (contextual := true) [*])) <;> simp (maxDischargeDepth := 20) (contextual := true) [*]

@[simp] theorem execMbxRecv_ok (d : BitVec 5) {s : State} (hs : s.MemoryOk) :
    Kept (execMbxRecv d s) := by
  unfold execMbxRecv; (repeat' first | split | (refine ranged_ok _ _ ?_; try dsimp only) | (refine listed_ok _ _ _ _ _ _ (fun _ _ => ?_); try dsimp only) | (refine unitWord_ok _ (by assumption) fun _ _ _ => ?_; try dsimp only) | (refine queueWord_ok _ (by assumption) fun _ _ _ _ => ?_; try dsimp only) | (refine matrixWord_ok (by assumption) fun _ _ _ => ?_; try dsimp only) | (refine vectorWord_ok (by assumption) fun _ _ _ _ _ => ?_; try dsimp only) | (refine laneWordOnly_ok (by assumption) fun _ _ _ _ _ _ => ?_; try dsimp only) | (refine sysWord_ok _ (by assumption) fun _ _ _ => ?_; try dsimp only) | (refine Pick_bind_ok fun _ => ?_; try dsimp only) | (refine checked_ok ?_; try dsimp only)) <;> (try have hw := runningGroup_wf hs (by assumption)) <;> (try have hw := runningTask_wf hs (by assumption)) <;> (try have hk := kept_some (by assumption) (by simp (maxDischargeDepth := 20) (contextual := true) [*])) <;> (try have hk := kept_pair (by assumption) (by simp (maxDischargeDepth := 20) (contextual := true) [*])) <;> (try have hk := kept_answer (by assumption) (by simp (maxDischargeDepth := 20) (contextual := true) [*])) <;> simp (maxDischargeDepth := 20) (contextual := true) [*]

@[simp] theorem laneTrap_ok {s : State} (c slot : Nat) (x : Stop) (hs : s.MemoryOk) :
    (laneTrap s c slot x).MemoryOk := by
  unfold laneTrap; (repeat' split) <;> (try have hw := runningGroup_wf hs (by assumption)) <;> (try have hw := runningTask_wf hs (by assumption)) <;> (try have hk := kept_some (by assumption) (by simp (maxDischargeDepth := 20) (contextual := true) [*])) <;> (try have hk := kept_pair (by assumption) (by simp (maxDischargeDepth := 20) (contextual := true) [*])) <;> (try have hk := kept_answer (by assumption) (by simp (maxDischargeDepth := 20) (contextual := true) [*])) <;> (try simp (maxDischargeDepth := 20) (contextual := true) [*]) <;> ((repeat' split) <;> simp (maxDischargeDepth := 20) (contextual := true) [*])

@[simp] theorem arrayTrap_ok {s : State} (c : Nat) (x : Stop) (hs : s.MemoryOk) :
    (arrayTrap s c x).MemoryOk := by
  simp (maxDischargeDepth := 20) (contextual := true) [arrayTrap, hs]

@[simp] theorem trapWord_ok (cause : Cause) (code : BitVec 12) {s : State} (hs : s.MemoryOk) :
    Kept (trapWord cause code s) := by
  unfold trapWord; (repeat' first | split | (refine ranged_ok _ _ ?_; try dsimp only) | (refine listed_ok _ _ _ _ _ _ (fun _ _ => ?_); try dsimp only) | (refine unitWord_ok _ (by assumption) fun _ _ _ => ?_; try dsimp only) | (refine queueWord_ok _ (by assumption) fun _ _ _ _ => ?_; try dsimp only) | (refine matrixWord_ok (by assumption) fun _ _ _ => ?_; try dsimp only) | (refine vectorWord_ok (by assumption) fun _ _ _ _ _ => ?_; try dsimp only) | (refine laneWordOnly_ok (by assumption) fun _ _ _ _ _ _ => ?_; try dsimp only) | (refine sysWord_ok _ (by assumption) fun _ _ _ => ?_; try dsimp only) | (refine Pick_bind_ok fun _ => ?_; try dsimp only) | (refine checked_ok ?_; try dsimp only)) <;> (try have hw := runningGroup_wf hs (by assumption)) <;> (try have hw := runningTask_wf hs (by assumption)) <;> (try have hk := kept_some (by assumption) (by simp (maxDischargeDepth := 20) (contextual := true) [*])) <;> (try have hk := kept_pair (by assumption) (by simp (maxDischargeDepth := 20) (contextual := true) [*])) <;> (try have hk := kept_answer (by assumption) (by simp (maxDischargeDepth := 20) (contextual := true) [*])) <;> simp (maxDischargeDepth := 20) (contextual := true) [*]

@[simp] theorem execTrap_ok (c : BitVec 12) {s : State} (hs : s.MemoryOk) :
    Kept (execTrap c s) := by
  simp (maxDischargeDepth := 20) (contextual := true) [execTrap, hs]

@[simp] theorem execSvc_ok (c : BitVec 12) {s : State} (hs : s.MemoryOk) :
    Kept (execSvc c s) := by
  simp (maxDischargeDepth := 20) (contextual := true) [execSvc, hs]

@[simp] theorem execBrk_ok (c : BitVec 12) {s : State} (hs : s.MemoryOk) :
    Kept (execBrk c s) := by
  simp (maxDischargeDepth := 20) (contextual := true) [execBrk, hs]

@[simp] theorem endBinding_ok {s : State} (c q : Nat) (hs : s.MemoryOk) :
    (endBinding s c q).MemoryOk := by
  unfold endBinding; (repeat' split) <;> (try have hw := runningGroup_wf hs (by assumption)) <;> (try have hw := runningTask_wf hs (by assumption)) <;> (try have hk := kept_some (by assumption) (by simp (maxDischargeDepth := 20) (contextual := true) [*])) <;> (try have hk := kept_pair (by assumption) (by simp (maxDischargeDepth := 20) (contextual := true) [*])) <;> (try have hk := kept_answer (by assumption) (by simp (maxDischargeDepth := 20) (contextual := true) [*])) <;> (try simp (maxDischargeDepth := 20) (contextual := true) [*]) <;> ((repeat' split) <;> simp (maxDischargeDepth := 20) (contextual := true) [*])

@[simp] theorem endBindings_ok {s : State} (c : Nat) (hs : s.MemoryOk) :
    (endBindings s c).MemoryOk := by
  simp (maxDischargeDepth := 20) (contextual := true) [endBindings, hs]

@[simp] theorem State_rename_ok {s : State} (fa : Agent → Agent) (fo : Origin → Origin) (hs : s.MemoryOk) :
    (State.rename s fa fo).MemoryOk := by
  simp (maxDischargeDepth := 20) (contextual := true) [State.rename, hs]

@[simp] theorem releaseScratch_ok (k : LaneCore) (wg : Nat) : (releaseScratch k wg).scratch = k.scratch := by
  unfold releaseScratch
  (repeat' split) <;> rfl

@[simp] theorem leaveSlot_ok {s : State} (c slot : Nat) (hs : s.MemoryOk) : (leaveSlot s c slot).MemoryOk := by
  have hw := lane_wf hs c
  unfold leaveSlot
  dsimp only
  (repeat' split) <;> first
    | exact hs
    | exact State_rename_ok _ _ (setLane_ok (same_ok hs rfl) _ (by rw [releaseScratch_ok]; exact hw))

@[simp] theorem execHalt_ok {s : State} (hs : s.MemoryOk) : Kept (execHalt s) := by
  refine unitWord_ok _ hs fun x s h => ?_
  split
  · dsimp only
    split
    · simp
    · simp (maxDischargeDepth := 20) [h]
  · dsimp only
    split
    · simp
    · split <;> simp (maxDischargeDepth := 20) [h]

@[simp] theorem execEret_ok {s : State} (hs : s.MemoryOk) : Kept (execEret s) := by
  refine unitWord_ok _ hs fun x s h => ?_
  split
  · simp
  · split
    · simp
    · split
      · dsimp only
        split
        · simp
        · simp (maxDischargeDepth := 20) [h]
      · dsimp only
        split
        · simp
        · split <;> simp (maxDischargeDepth := 20) [h]

@[simp] theorem sysWord_ok (r : BitVec 12) {s : State} {f : Issuer → State → Issue} (hs : s.MemoryOk)
    (hf : ∀ x s, s.MemoryOk → KeptIssue (f x s)) : Kept (sysWord r s f) := by
  refine unitWord_ok _ hs fun x s h => ?_
  split
  · simp
  · split
    · simp
    · exact hf _ _ h

@[simp] theorem readSys_ok (x : Issuer) (d : BitVec 5) (n : Nat) {s : State} (a : Agent) (hs : s.MemoryOk) :
    (readSys x d n s a).MemoryOk := by
  simp (maxDischargeDepth := 20) (contextual := true) [readSys, hs]

@[simp] theorem execSysrd_ok (d : BitVec 5) (r : BitVec 12) {s : State} (hs : s.MemoryOk) :
    Kept (execSysrd d r s) := by
  simp (maxDischargeDepth := 20) (contextual := true) [execSysrd, hs]

@[simp] theorem writeSys_ok (x : Issuer) (ra : BitVec 5) (n : Nat) {s : State} (a : Agent) (hs : s.MemoryOk) :
    (writeSys x ra n s a).MemoryOk := by
  unfold writeSys; (repeat' split) <;> simp (maxDischargeDepth := 20) (contextual := true) [*]

@[simp] theorem execSyswr_ok (ra : BitVec 5) (r : BitVec 12) {s : State} (hs : s.MemoryOk) :
    Kept (execSyswr ra r s) := by
  simp (maxDischargeDepth := 20) (contextual := true) [execSyswr, hs]

/-! ### Weights -/

@[simp] theorem bumpGen_ok {s : State} (hs : s.MemoryOk) :
    (bumpGen s).MemoryOk := by
  simp (maxDischargeDepth := 20) (contextual := true) [bumpGen, hs]

@[simp] theorem State_setWbind_ok {s : State} (b : Nat) (x : WBind) (hs : s.MemoryOk) :
    (State.setWbind s b x).MemoryOk := by
  simp (maxDischargeDepth := 20) (contextual := true) [State.setWbind, hs]

@[simp] theorem dropPages_ok {s : State} (p : HeldPage → Bool) (hs : s.MemoryOk) :
    (dropPages s p).MemoryOk := by
  simp (maxDischargeDepth := 20) (contextual := true) [dropPages, hs]

@[simp] theorem freeSlot_ok (b : Nat) {s : State} (k : Nat) (hs : s.MemoryOk) :
    (freeSlot b s k).MemoryOk := by
  simp (maxDischargeDepth := 20) (contextual := true) [freeSlot, hs]

@[simp] theorem freeSlots_ok {s : State} (hs : s.MemoryOk) :
    (freeSlots s).MemoryOk := by
  simp (maxDischargeDepth := 20) (contextual := true) [freeSlots, hs]

@[simp] theorem refuseGen_ok {s : State} (b : Nat) (hs : s.MemoryOk) :
    (refuseGen s b).MemoryOk := by
  simp (maxDischargeDepth := 20) (contextual := true) [refuseGen, hs]

@[simp] theorem genCommand_ok {s : State} (b k : Nat) (ok : WBind → GenSlot → Bool) {f : State → WBind → GenSlot → State}
    (hs : s.MemoryOk) (hf : ∀ s x g, s.MemoryOk → (f s x g).MemoryOk) : Kept (genCommand s b k ok f) := by
  unfold genCommand
  dsimp only
  (repeat' split) <;> simp [hs, hf]

@[simp] theorem execWbStage_ok (b k : Nat) {s : State} (hs : s.MemoryOk) :
    Kept (execWbStage b k s) := by
  simp (maxDischargeDepth := 20) (contextual := true) [execWbStage, hs]

@[simp] theorem execWbMeasure_ok (b k : Nat) {s : State} (hs : s.MemoryOk) :
    Kept (execWbMeasure b k s) := by
  simp (maxDischargeDepth := 20) (contextual := true) [execWbMeasure, hs]

@[simp] theorem execWbMeasureComplete_ok (b k : Nat) {s : State} (hs : s.MemoryOk) :
    Kept (execWbMeasureComplete b k s) := by
  simp (maxDischargeDepth := 20) (contextual := true) [execWbMeasureComplete, hs]

@[simp] theorem execWbSwitch_ok (b k : Nat) {s : State} (hs : s.MemoryOk) :
    Kept (execWbSwitch b k s) := by
  simp (maxDischargeDepth := 20) (contextual := true) [execWbSwitch, hs]

@[simp] theorem execWbDrop_ok (b k : Nat) {s : State} (hs : s.MemoryOk) :
    Kept (execWbDrop b k s) := by
  simp (maxDischargeDepth := 20) (contextual := true) [execWbDrop, hs]

@[simp] theorem pinGen_ok {s : State} (world launch : Nat) (p : Nat × Nat) (hs : s.MemoryOk) :
    (pinGen s world launch p).MemoryOk := by
  simp (maxDischargeDepth := 20) (contextual := true) [pinGen, hs]

@[simp] theorem unpinGen_ok {s : State} (p : Option (Nat × Nat)) (hs : s.MemoryOk) :
    (unpinGen s p).MemoryOk := by
  unfold unpinGen; (repeat' split) <;> simp (maxDischargeDepth := 20) (contextual := true) [*]

/-! ### Units -/

@[simp] theorem onUnitLaunch_ok {s : State} (i : UnitInfo) (f : Launch → Launch) (hs : s.MemoryOk) :
    (onUnitLaunch s i f).MemoryOk := by
  simp (maxDischargeDepth := 20) (contextual := true) [onUnitLaunch, hs]

@[simp] theorem countFault_ok {s : State} (i : UnitInfo) (idx : Nat) (hs : s.MemoryOk) :
    (countFault s i idx).MemoryOk := by
  simp (maxDischargeDepth := 20) (contextual := true) [countFault, hs]

@[simp] theorem dropBins_ok (k : LaneCore) (wg : Nat) :
    (dropBins k wg).scratch = k.scratch := by
  simp (maxDischargeDepth := 20) (contextual := true) [dropBins]

@[simp] theorem dropData_ok {s : State} (p : Origin → Bool) (hs : s.MemoryOk) :
    (dropData s p).MemoryOk := by
  simp (maxDischargeDepth := 20) (contextual := true) [dropData, hs]

@[simp] theorem discardWarp_ok {s : State} (c slot : Nat) (hs : s.MemoryOk) :
    (discardWarp s c slot).MemoryOk := by
  unfold discardWarp; (repeat' split) <;> (try have hw := runningGroup_wf hs (by assumption)) <;> (try have hw := runningTask_wf hs (by assumption)) <;> (try have hk := kept_some (by assumption) (by simp (maxDischargeDepth := 20) (contextual := true) [*])) <;> (try have hk := kept_pair (by assumption) (by simp (maxDischargeDepth := 20) (contextual := true) [*])) <;> (try have hk := kept_answer (by assumption) (by simp (maxDischargeDepth := 20) (contextual := true) [*])) <;> (try simp (maxDischargeDepth := 20) (contextual := true) [*]) <;> ((repeat' split) <;> simp (maxDischargeDepth := 20) (contextual := true) [*])

@[simp] theorem discardTask_ok {s : State} (c : Nat) (hs : s.MemoryOk) :
    (discardTask s c).MemoryOk := by
  unfold discardTask; (repeat' split) <;> (try have hw := runningGroup_wf hs (by assumption)) <;> (try have hw := runningTask_wf hs (by assumption)) <;> (try have hk := kept_some (by assumption) (by simp (maxDischargeDepth := 20) (contextual := true) [*])) <;> (try have hk := kept_pair (by assumption) (by simp (maxDischargeDepth := 20) (contextual := true) [*])) <;> (try have hk := kept_answer (by assumption) (by simp (maxDischargeDepth := 20) (contextual := true) [*])) <;> (try simp (maxDischargeDepth := 20) (contextual := true) [*]) <;> ((repeat' split) <;> simp (maxDischargeDepth := 20) (contextual := true) [*])

@[simp] theorem discardUnit_ok {s : State} (u : UnitRef) (hs : s.MemoryOk) :
    (discardUnit s u).MemoryOk := by
  unfold discardUnit; (repeat' split) <;> simp (maxDischargeDepth := 20) (contextual := true) [*]

@[simp] theorem releaseGroup_ok (k : LaneCore) (wg : Nat) :
    (releaseGroup k wg).scratch = k.scratch := by
  unfold releaseGroup; (repeat' split) <;> simp (maxDischargeDepth := 20) (contextual := true) [*]

@[simp] theorem countDone_ok {s : State} (i : UnitInfo) (hs : s.MemoryOk) :
    (countDone s i).MemoryOk := by
  simp (maxDischargeDepth := 20) (contextual := true) [countDone, hs]

@[simp] theorem setHeaderState_ok {s : State} (addr state : Nat) (hs : s.MemoryOk) :
    (setHeaderState s addr state).MemoryOk := by
  simp (maxDischargeDepth := 20) (contextual := true) [setHeaderState, hs]

@[simp] theorem dropSave_ok {s : State} (c : Nat) (hs : s.MemoryOk) : (dropSave s c).MemoryOk := by
  unfold dropSave
  refine foldl_ok (fun s v h => onSaved_ok (setHeaderState_ok _ _ h) fun w hw => ?_) hs _
  exact (setHeaderState_ok v.addr 4 h).saved w (List.mem_filter.1 hw).1

@[simp] theorem execUnitComplete_ok (u : UnitRef) {s : State} (hs : s.MemoryOk) :
    Kept (execUnitComplete u s) := by
  unfold execUnitComplete; (repeat' split) <;> (try have hw := runningGroup_wf hs (by assumption)) <;> (try have hw := runningTask_wf hs (by assumption)) <;> (try have hk := kept_some (by assumption) (by simp (maxDischargeDepth := 20) (contextual := true) [*])) <;> (try have hk := kept_pair (by assumption) (by simp (maxDischargeDepth := 20) (contextual := true) [*])) <;> (try have hk := kept_answer (by assumption) (by simp (maxDischargeDepth := 20) (contextual := true) [*])) <;> (try simp (maxDischargeDepth := 20) (contextual := true) [*]) <;> ((repeat' split) <;> simp (maxDischargeDepth := 20) (contextual := true) [*])

@[simp] theorem execBinTimerExpiry_ok (core bin : Nat) {s : State} (hs : s.MemoryOk) :
    Kept (execBinTimerExpiry core bin s) := by
  simp (maxDischargeDepth := 20) (contextual := true) [execBinTimerExpiry, hs]

@[simp] theorem execBinLaunch_ok (core bin slot : Nat) {s : State} (hs : s.MemoryOk) :
    Kept (execBinLaunch core bin slot s) := by
  unfold execBinLaunch; (repeat' split) <;> (try have hw := runningGroup_wf hs (by assumption)) <;> (try have hw := runningTask_wf hs (by assumption)) <;> (try have hk := kept_some (by assumption) (by simp (maxDischargeDepth := 20) (contextual := true) [*])) <;> (try have hk := kept_pair (by assumption) (by simp (maxDischargeDepth := 20) (contextual := true) [*])) <;> (try have hk := kept_answer (by assumption) (by simp (maxDischargeDepth := 20) (contextual := true) [*])) <;> (try simp (maxDischargeDepth := 20) (contextual := true) [*]) <;> ((repeat' split) <;> simp (maxDischargeDepth := 20) (contextual := true) [*])

@[simp] theorem execWarpMerge_ok (core slotA slotB : Nat) {s : State} (hs : s.MemoryOk) :
    Kept (execWarpMerge core slotA slotB s) := by
  unfold execWarpMerge; (repeat' split) <;> (try have hw := runningGroup_wf hs (by assumption)) <;> (try have hw := runningTask_wf hs (by assumption)) <;> (try have hk := kept_some (by assumption) (by simp (maxDischargeDepth := 20) (contextual := true) [*])) <;> (try have hk := kept_pair (by assumption) (by simp (maxDischargeDepth := 20) (contextual := true) [*])) <;> (try have hk := kept_answer (by assumption) (by simp (maxDischargeDepth := 20) (contextual := true) [*])) <;> (try simp (maxDischargeDepth := 20) (contextual := true) [*]) <;> ((repeat' split) <;> simp (maxDischargeDepth := 20) (contextual := true) [*])

@[simp] theorem execIssueGroupAged_ok (core slot lane : Nat) {s : State} (hs : s.MemoryOk) :
    Kept (execIssueGroupAged core slot lane s) := by
  unfold execIssueGroupAged; (repeat' split) <;> (try have hw := runningGroup_wf hs (by assumption)) <;> (try have hw := runningTask_wf hs (by assumption)) <;> (try have hk := kept_some (by assumption) (by simp (maxDischargeDepth := 20) (contextual := true) [*])) <;> (try have hk := kept_pair (by assumption) (by simp (maxDischargeDepth := 20) (contextual := true) [*])) <;> (try have hk := kept_answer (by assumption) (by simp (maxDischargeDepth := 20) (contextual := true) [*])) <;> simp (maxDischargeDepth := 20) (contextual := true) [*]

@[simp] theorem execDeferredFaultReport_ok (u : UnitRef) (cause : Cause) (code : BitVec 16) (addr : BitVec 64) (place : WordPlace) {s : State} (hs : s.MemoryOk) :
    Kept (execDeferredFaultReport u cause code addr place s) := by
  unfold execDeferredFaultReport; (repeat' split) <;> simp (maxDischargeDepth := 20) (contextual := true) [*]

/-! ### Place -/

@[simp] theorem setWorld_ok {s : State} (kind : CoreKind) (c w : Nat) (hs : s.MemoryOk) : (setWorld s kind c w).MemoryOk := by
  unfold setWorld
  split
  · exact hs
  · dsimp only
    refine journal_ok _ ?_
    cases kind <;> simp [hs]

@[simp] theorem startArray_ok (k : ArrayCore) (c : Nat) (t : Task) :
    (startArray k c t).localStore = k.localStore := by
  simp (maxDischargeDepth := 20) (contextual := true) [startArray]

@[simp] theorem applyRecord_ok {s : State} (c : Nat) (i : UnitInfo) (bs : List Byte) (hs : s.MemoryOk) :
    (applyRecord s c i bs).1.MemoryOk := by
  unfold applyRecord; (repeat' split) <;> (try have hw := runningGroup_wf hs (by assumption)) <;> (try have hw := runningTask_wf hs (by assumption)) <;> (try have hk := kept_some (by assumption) (by simp (maxDischargeDepth := 20) (contextual := true) [*])) <;> (try have hk := kept_pair (by assumption) (by simp (maxDischargeDepth := 20) (contextual := true) [*])) <;> (try have hk := kept_answer (by assumption) (by simp (maxDischargeDepth := 20) (contextual := true) [*])) <;> (try simp (maxDischargeDepth := 20) (contextual := true) [*]) <;> ((repeat' split) <;> simp (maxDischargeDepth := 20) (contextual := true) [*])

@[simp] theorem applyRecords_ok (c : Nat) (i : UnitInfo) (n a : Nat) {s : State} (hs : s.MemoryOk) :
    (applyRecords c i n a s).1.MemoryOk := by
  induction n generalizing s a with
  | zero => simpa [applyRecords] using hs
  | succ n ih =>
    unfold applyRecords
    split
    · exact hs
    · next img h =>
      have hr : (applyRecord s c i img).1.MemoryOk := applyRecord_ok _ _ _ hs
      split
      · next e => exact kept_pair e hr
      · next e => exact ih _ (kept_pair e hr)

@[simp] theorem applyQueues_ok (c : Nat) (i : UnitInfo) (qs : List Nat) (a : Nat) {s : State} (hs : s.MemoryOk) :
    (applyQueues c i qs a s).1.MemoryOk := by
  induction qs generalizing s a with
  | nil => simpa [applyQueues] using hs
  | cons q rest ih =>
    unfold applyQueues
    split
    · exact hs
    · dsimp only
      (repeat' split) <;> first | exact hs | exact ih _ (bindQueue_ok _ _ _ _ hs)

@[simp] theorem applyImage_ok {s : State} (c : Nat) (i : UnitInfo) (idx : Nat) (hs : s.MemoryOk) :
    (applyImage s c i idx).MemoryOk := by
  unfold applyImage; (repeat' split) <;> (try have hw := runningGroup_wf hs (by assumption)) <;> (try have hw := runningTask_wf hs (by assumption)) <;> (try have hk := kept_some (by assumption) (by simp (maxDischargeDepth := 20) (contextual := true) [*])) <;> (try have hk := kept_pair (by assumption) (by simp (maxDischargeDepth := 20) (contextual := true) [*])) <;> (try have hk := kept_answer (by assumption) (by simp (maxDischargeDepth := 20) (contextual := true) [*])) <;> (try simp (maxDischargeDepth := 20) (contextual := true) [*]) <;> ((repeat' split) <;> simp (maxDischargeDepth := 20) (contextual := true) [*])

@[simp] theorem placeTask_ok {s : State} (i : UnitInfo) (c n : Nat) (hs : s.MemoryOk) :
    (placeTask s i c n).MemoryOk := by
  simp (maxDischargeDepth := 20) (contextual := true) [placeTask, hs]

@[simp] theorem startWarps_ok (i : UnitInfo) (c wg idx threads : Nat) (slots : List Nat) {s : State} (hs : s.MemoryOk) :
    (startWarps i c wg idx threads slots s).MemoryOk := by
  induction slots generalizing s idx threads with
  | nil => simpa [startWarps] using hs
  | cons slot rest ih =>
    unfold startWarps
    split
    · exact hs
    · exact ih _ _ (by simp (maxDischargeDepth := 20) [hs])

@[simp] theorem placeGroup_ok {s : State} (i : UnitInfo) (c n : Nat) (hs : s.MemoryOk) :
    (placeGroup s i c n).MemoryOk := by
  simp (maxDischargeDepth := 20) (contextual := true) [placeGroup, hs]

@[simp] theorem traceIso_ok {s : State} (p : Nat) (st : IsoSt) (hs : s.MemoryOk) :
    (traceIso s p st).MemoryOk := by
  simp (maxDischargeDepth := 20) (contextual := true) [traceIso, hs]

@[simp] theorem dropLost_ok {s : State} (f : Nat × Nat × Nat × Nat → Bool) (hs : s.MemoryOk) :
    (dropLost s f).MemoryOk := by
  simp (maxDischargeDepth := 20) (contextual := true) [dropLost, hs]

@[simp] theorem wakeFor_ok {s : State} (kind : CoreKind) (c : Nat) (hs : s.MemoryOk) :
    (wakeFor s kind c).MemoryOk := by
  simp (maxDischargeDepth := 20) (contextual := true) [wakeFor, hs]

@[simp] theorem cleanReserved_ok {s : State} (hs : s.MemoryOk) :
    (cleanReserved s).MemoryOk := by
  simp (maxDischargeDepth := 20) (contextual := true) [cleanReserved, hs]

@[simp] theorem execPlaceUnit_ok (w job launch core : Nat) {s : State} (hs : s.MemoryOk) :
    Kept (execPlaceUnit w job launch core s) := by
  unfold execPlaceUnit; (repeat' split) <;> simp (maxDischargeDepth := 20) (contextual := true) [*]

@[simp] theorem execLaunchAged_ok (w job launch : Nat) {s : State} (hs : s.MemoryOk) :
    Kept (execLaunchAged w job launch s) := by
  unfold execLaunchAged; (repeat' split) <;> (try have hw := runningGroup_wf hs (by assumption)) <;> (try have hw := runningTask_wf hs (by assumption)) <;> (try have hk := kept_some (by assumption) (by simp (maxDischargeDepth := 20) (contextual := true) [*])) <;> (try have hk := kept_pair (by assumption) (by simp (maxDischargeDepth := 20) (contextual := true) [*])) <;> (try have hk := kept_answer (by assumption) (by simp (maxDischargeDepth := 20) (contextual := true) [*])) <;> (try simp (maxDischargeDepth := 20) (contextual := true) [*]) <;> ((repeat' split) <;> simp (maxDischargeDepth := 20) (contextual := true) [*])

/-! ### CoreWindow -/

@[simp] theorem setVecCell_ok (k : ArrayCore) (o v : Nat) :
    (setVecCell k o v).localStore = k.localStore := by
  simp (maxDischargeDepth := 20) (contextual := true) [setVecCell]

@[simp] theorem setPredCell_ok (k : ArrayCore) (o v : Nat) :
    (setPredCell k o v).localStore = k.localStore := by
  simp (maxDischargeDepth := 20) (contextual := true) [setPredCell]

@[simp] theorem setArraySys_ok {s : State} (c n v : Nat) (hs : s.MemoryOk) :
    (setArraySys s c n v).MemoryOk := by
  unfold setArraySys; (repeat' split) <;> simp (maxDischargeDepth := 20) (contextual := true) [*]

@[simp] theorem onLaneThread_ok {s : State} (c i : Nat) (f : Thread → Thread) (hs : s.MemoryOk) :
    (onLaneThread s c i f).MemoryOk := by
  simp (maxDischargeDepth := 20) (contextual := true) [onLaneThread, hs]

@[simp] theorem onWarp_ok {s : State} (c w : Nat) (f : Warp → Warp) (hs : s.MemoryOk) :
    (onWarp s c w f).MemoryOk := by
  simp (maxDischargeDepth := 20) (contextual := true) [onWarp, hs]

@[simp] theorem setWarpCell_ok {s : State} (c w o v : Nat) (hs : s.MemoryOk) :
    (setWarpCell s c w o v).MemoryOk := by
  simp (maxDischargeDepth := 20) (contextual := true) [setWarpCell, hs]

@[simp] theorem setLaneSys_ok {s : State} (c n v : Nat) (hs : s.MemoryOk) :
    (setLaneSys s c n v).MemoryOk := by
  unfold setLaneSys; (repeat' split) <;> simp (maxDischargeDepth := 20) (contextual := true) [*]

@[simp] theorem setHardCell_ok {s : State} (p : WinPart) (o v : Nat) (hs : s.MemoryOk) :
    (setHardCell s p o v).MemoryOk := by
  unfold setHardCell; (repeat' split) <;> simp (maxDischargeDepth := 20) (contextual := true) [*]

@[simp] theorem setShadow_ok {s : State} (p : WinPart) (m : Map (Word × Word)) (hs : s.MemoryOk) :
    (setShadow s p m).MemoryOk := by
  unfold setShadow; (repeat' split) <;> simp (maxDischargeDepth := 20) (contextual := true) [*]

@[simp] theorem setWinCell_ok {s : State} (p : WinPart) (o v : Nat) (hs : s.MemoryOk) :
    (setWinCell s p o v).MemoryOk := by
  unfold setWinCell; (repeat' split) <;> simp (maxDischargeDepth := 20) (contextual := true) [*]

@[simp] theorem patchCells_ok {get : State → Nat → Nat} {set : State → Nat → Nat → State}
    (hset : ∀ s o x, s.MemoryOk → (set s o x).MemoryOk) (off : Nat) (bs : List Byte) {s : State} (hs : s.MemoryOk) :
    (patchCells get set off bs s).MemoryOk := by
  unfold patchCells
  split
  · exact hs
  · exact foldl_ok (fun s o h => hset s o _ h) hs _

@[simp] theorem coreWinWrite_ok {s : State} (p : WinPart) (bs : List Byte) (hs : s.MemoryOk) :
    (coreWinWrite s p bs).state.MemoryOk := by
  unfold coreWinWrite; (repeat' split) <;> simp (maxDischargeDepth := 20) (contextual := true) [*]

@[simp] theorem execTileEntryWindowWrite_ok (core entry off : Nat) (bytes : List (BitVec 8)) {s : State} (hs : s.MemoryOk) :
    Kept (execTileEntryWindowWrite core entry off bytes s) := by
  simp (maxDischargeDepth := 20) (contextual := true) [execTileEntryWindowWrite, hs]

/-! ### Save -/

@[simp] theorem refuseUnit_ok {s : State} (hs : s.MemoryOk) :
    (refuseUnit s).MemoryOk := by
  simp (maxDischargeDepth := 20) (contextual := true) [refuseUnit, hs]

@[simp] theorem onStopped_ok {s : State} {f : State → UnitRef → State} (hs : s.MemoryOk)
    (hf : ∀ s u, s.MemoryOk → (f s u).MemoryOk) : Kept (onStopped s f) := by
  unfold onStopped
  dsimp only
  split
  · exact (kept_next _).2 (hf _ _ hs)
  · simp [hs]

@[simp] theorem execUnitResume_ok {s : State} (hs : s.MemoryOk) : Kept (execUnitResume s) := by
  refine onStopped_ok hs fun s u h => ?_
  split <;> simp [h]

@[simp] theorem execUnitRedirect_ok {s : State} (hs : s.MemoryOk) : Kept (execUnitRedirect s) := by
  refine onStopped_ok hs fun s u h => ?_
  split <;> simp [h]

@[simp] theorem execUnitDiscard_ok {s : State} (hs : s.MemoryOk) : Kept (execUnitDiscard s) := by
  refine onStopped_ok hs fun s u h => ?_
  split <;> simp [h]

@[simp] theorem setCoreAccs_ok {s : State} (kind : CoreKind) (c : Nat) (m : Map Acc) (hs : s.MemoryOk) :
    (setCoreAccs s kind c m).MemoryOk := by
  unfold setCoreAccs; (repeat' split) <;> simp (maxDischargeDepth := 20) (contextual := true) [*]

@[simp] theorem writeCells_wf (get : Nat → Nat) (a n : Nat) {m : Memory} (hm : m.wf = true) : (writeCells get a n m).wf = true := by
  refine foldl_wf (fun m o h => ?_) hm _
  dsimp only
  split
  · exact h
  · exact writeNat_wf h _ _ _

@[simp] theorem writeSections_ok {s : State} (v : Saved) (kind : CoreKind) (c : Nat) (hs : s.MemoryOk) :
    (writeSections s v kind c).MemoryOk := by
  have h1 : (dropCopies (flushMerge s (s.home v.addr)
      ((layout (sectionLens v)).foldl (fun n x => max n (x.2.1 + roundUp x.2.2 4096)) 4096)) (s.home v.addr)
      ((layout (sectionLens v)).foldl (fun n x => max n (x.2.1 + roundUp x.2.2 4096)) 4096)).MemoryOk := by simp [hs]
  refine memSet_ok h1 (writeBytes_wf ?_ _ _) rfl
  have h2 := filter_wf h1.mem fun x => !(decide (s.home v.addr + 4096 ≤ x.1) && decide (x.1 < s.home v.addr +
      (layout (sectionLens v)).foldl (fun n x => max n (x.2.1 + roundUp x.2.2 4096)) 4096))
  cases kind
  · exact foldl_wf (fun m e h => writeBytes_wf h _ _) (writeBytes_wf (writeCells_wf _ _ _
      (foldl_wf (fun m p h => writeCells_wf _ _ _ h) h2 _)) _ _) _
  · exact writeCells_wf _ _ _ (writeBytes_wf (writeCells_wf _ _ _ (foldl_wf (fun m p h => writeCells_wf _ _ _ h) h2 _)) _ _)

@[simp] theorem setSealing_ok {s : State} (kind : CoreKind) (c : Nat) (sealing saving : Bool) (hs : s.MemoryOk) :
    (setSealing s kind c sealing saving).MemoryOk := by
  unfold setSealing; (repeat' split) <;> simp (maxDischargeDepth := 20) (contextual := true) [*]

theorem contextOf_ok {s : State} (hs : s.MemoryOk) (id addr : Nat) (kind : CoreKind) (core : Nat) (done : Bool) :
    (contextOf s id addr kind core done).StoreOk := by
  unfold contextOf
  cases kind <;> refine ⟨fun k e => ?_, fun k e => ?_⟩ <;> simp_all
  · exact e ▸ array_wf hs core
  · exact e ▸ lane_wf hs core

@[simp] theorem execUnitSave_ok {s : State} (hs : s.MemoryOk) : Kept (execUnitSave s) := by
  unfold execUnitSave
  dsimp only
  split
  · simp [hs]
  · refine (kept_next _).2 (setSealing_ok _ _ _ _ (hubWrite_ok _ _ (onSaved_ok (same_ok hs rfl) fun v hv => ?_)))
    rcases List.mem_append.1 hv with h | h
    · exact hs.saved v h
    · simp only [List.mem_singleton] at h
      exact h ▸ contextOf_ok hs ..

theorem foldl_onTile_store {α : Type} (f : α → Nat) (g : TileEntry → TileEntry) (k : ArrayCore) (xs : List α) :
    (xs.foldl (fun k x => k.onTile (f x) g) k).localStore = k.localStore :=
  foldl_store (f := fun (k : ArrayCore) x => k.onTile (f x) g) (fun _ _ => rfl) k xs

@[simp] theorem parkTiles_ok (k : ArrayCore) : (parkTiles k).localStore = k.localStore := by
  refine foldl_store (fun k b => ?_) k _
  split
  · exact foldl_onTile_store (fun e => e) _ k _
  · rfl

@[simp] theorem emptyCore_ok {s : State} (kind : CoreKind) (c : Nat) (hs : s.MemoryOk) :
    (emptyCore s kind c).MemoryOk := by
  unfold emptyCore; (repeat' split) <;> simp (maxDischargeDepth := 20) (contextual := true) [*]

@[simp] theorem prepareCore_ok {s : State} (kind : CoreKind) (c : Nat) (hs : s.MemoryOk) :
    (prepareCore s kind c).MemoryOk := by
  unfold prepareCore; (repeat' split) <;> simp (maxDischargeDepth := 20) (contextual := true) [*]

@[simp] theorem forgetSaved_ok {s : State} (id : Nat) (hs : s.MemoryOk) : (forgetSaved s id).MemoryOk :=
  onSaved_ok hs fun v hv => hs.saved v (List.mem_filter.1 hv).1

@[simp] theorem dropUnits_ok (k : LaneCore) (gone : UnitInfo → Bool) :
    (dropUnits k gone).scratch = k.scratch := by
  simp (maxDischargeDepth := 20) (contextual := true) [dropUnits]

@[simp] theorem dropUnits_store (k : LaneCore) (gone : UnitInfo → Bool) : (dropUnits k gone).scratch = k.scratch := rfl

theorem pruneOne_ok {s : State} {v : Saved} (hs : s.MemoryOk) (hv : v.StoreOk) : (pruneOne s v).MemoryOk := by
  unfold pruneOne
  split
  · exact hs
  · split
    · split
      · split <;> simp [hs]
      · exact hs
    · next k hk _ =>
      dsimp only
      split
      · simp [hs]
      · refine onSaved_ok hs fun w hw => ?_
        obtain ⟨x, hx, e⟩ := List.mem_map.1 hw
        subst e
        split
        · refine ⟨fun k' e => hv.1 k' e, fun k' e => ?_⟩
          simp only [Option.some.injEq] at e
          subst e
          exact hv.2 k hk
        · exact hs.saved x hx
    · exact hs

theorem foldl_ok_mem {α : Type} {f : State → α → State} {P : α → Prop} (hf : ∀ s x, P x → s.MemoryOk → (f s x).MemoryOk)
    {s : State} (h : s.MemoryOk) (xs : List α) (hx : ∀ x ∈ xs, P x) : (xs.foldl f s).MemoryOk := by
  induction xs generalizing s with
  | nil => exact h
  | cons x rest ih => exact ih (hf s x (hx x List.mem_cons_self) h) fun y hy => hx y (List.mem_cons_of_mem _ hy)

@[simp] theorem pruneSaved_ok {s : State} (hs : s.MemoryOk) : (pruneSaved s).MemoryOk :=
  foldl_ok_mem (P := Saved.StoreOk) (fun _ _ hv h => pruneOne_ok h hv) hs _ hs.saved

theorem saved_ok {s : State} (hs : s.MemoryOk) {v : Saved} (hv : v.StoreOk) (kind : CoreKind) (core a : Nat) (bs : List Byte) :
    (pruneSaved (emptyCore (((hubWrite (writeSections s v kind core) a bs).onHub fun h =>
      { h with saved := h.saved.map fun x => if x.id = v.id then v else x }).rename (Agent.leaving kind core v.id) id) kind core)).MemoryOk := by
  refine pruneSaved_ok (emptyCore_ok _ _ (State_rename_ok _ _ (onSaved_ok (hubWrite_ok _ _ (writeSections_ok _ _ _ hs)) fun w hw => ?_)))
  obtain ⟨x, hx, e⟩ := List.mem_map.1 hw
  subst e
  split
  · exact hv
  · exact (hubWrite_ok a bs (writeSections_ok v kind core hs)).saved x hx

@[simp] theorem execSaveComplete_ok (kind : CoreKind) (core : Nat) {s : State} (hs : s.MemoryOk) :
    Kept (execSaveComplete kind core s) := by
  unfold execSaveComplete
  have h1 : (prepareCore (setSealing s kind core true true) kind core).MemoryOk := by simp [hs]
  dsimp only
  (repeat' split) <;> first
    | (simp [hs]; done)
    | exact (kept_next _).2 (saved_ok h1 (contextOf_ok h1 ..) _ _ _ _)

@[simp] theorem loadCells_ok (a n : Nat) {get : State → Nat → Nat} {set : State → Nat → Nat → State}
    (hset : ∀ s o x, s.MemoryOk → (set s o x).MemoryOk) {s : State} (hs : s.MemoryOk) :
    (loadCells a n get set s).MemoryOk := by
  refine foldl_ok (fun s o h => ?_) hs _
  dsimp only
  split
  · exact h
  · exact hset _ _ _ h

@[simp] theorem loadCell_ok {s : State} (p : WinPart) (o v : Nat) (hs : s.MemoryOk) :
    (loadCell s p o v).MemoryOk := by
  unfold loadCell; (repeat' split) <;> simp (maxDischargeDepth := 20) (contextual := true) [*]

@[simp] theorem loadSections_ok {s : State} (v : Saved) (kind : CoreKind) (c : Nat) (hs : s.MemoryOk) :
    (loadSections s v kind c).MemoryOk := by
  unfold loadSections; (repeat' split) <;> simp (maxDischargeDepth := 20) (contextual := true) [*]

@[simp] theorem lostReport_ok {s : State} (kind : CoreKind) (c : Nat) (x : UnitInfo × Nat × Nat) (hs : s.MemoryOk) :
    (lostReport s kind c x).MemoryOk := by
  simp (maxDischargeDepth := 20) (contextual := true) [lostReport, hs]

@[simp] theorem failRestore_ok {s : State} (v : Saved) (core : Nat) (hs : s.MemoryOk) :
    (failRestore s v core).MemoryOk := by
  simp (maxDischargeDepth := 20) (contextual := true) [failRestore, hs]

@[simp] theorem resumeCore_ok {s : State} (v : Saved) (c : Nat) (hs : s.MemoryOk) : (resumeCore s v c).MemoryOk := by
  unfold resumeCore
  split
  · dsimp only
    have h1 : (s.setArray c ((s.array c).queues.foldl (fun (k : ArrayCore) b =>
        b.2.parked.foldl (fun (k : ArrayCore) e => k.onTile e fun x => { x with st := .draining }) k) (s.array c))).MemoryOk := by
      refine setArray_ok hs c ?_
      refine Eq.trans (congrArg Memory.wf (foldl_store (fun k b => ?_) _ _)) (array_wf hs c)
      exact foldl_onTile_store (fun e => e) _ k _
    split
    · exact arrayTrap_ok _ _ h1
    · exact h1
  · dsimp only
    refine foldl_ok (fun s w h => ?_) (setLane_ok hs c (k := { s.lane c with srState := reseed (s.lane c) c }) (lane_wf hs c)) _
    split
    · exact laneTrap_ok _ _ _ h
    · exact h

@[simp] theorem execUnitRestore_ok (ctx core : Nat) {s : State} (hs : s.MemoryOk) : Kept (execUnitRestore ctx core s) := by
  unfold execUnitRestore
  split
  · simp [hs]
  · next v hv =>
    have hst := hs.saved v (List.mem_of_find?_eq_some hv)
    split
    · simp [hs]
    · split
      · simp [hs]
      · refine (kept_next _).2 (setHeaderState_ok _ _ (forgetSaved_ok _ (resumeCore_ok _ _ (loadSections_ok _ _ _ ?_))))
        have h1 : (wakeFor (setWorld s v.kind core v.world) v.kind core).MemoryOk := by simp [hs]
        refine State_rename_ok _ _ ?_
        split
        · next k e => exact setArray_ok h1 _ (by simpa using array_wf h1 core)
        · next k _ _ => exact setLane_ok h1 _ (show k.scratch.wf = true from hst.2 k (by assumption))
        · exact h1

/-! ### Links -/

@[simp] theorem holderCore_wf {s : State} (hs : s.MemoryOk) (h : Holder) : (holderCore s h).localStore.wf = true := by
  cases h with
  | core c => exact array_wf hs c
  | saved ctx =>
    unfold holderCore
    dsimp only
    split
    · next x e =>
      unfold heldTask at e
      obtain ⟨v, hv, e2⟩ := Option.bind_eq_some_iff.1 e
      obtain ⟨k, hk, e3⟩ := Option.map_eq_some_iff.1 e2
      subst e3
      exact (hs.saved v (List.mem_of_find?_eq_some hv)).1 k hk
    · rfl

@[simp] theorem writeArea_ok {s : State} (v : Saved) (sect off : Nat) (bs : List Byte) (hs : s.MemoryOk) :
    (writeArea s v sect off bs).MemoryOk := by
  simp (maxDischargeDepth := 20) (contextual := true) [writeArea, hs]

@[simp] theorem writeChangedSys_ok {s : State} (v : Saved) (c : Nat) (old new : ArrayCore) (hs : s.MemoryOk) :
    (writeChangedSys s v c old new).MemoryOk := by
  unfold writeChangedSys
  refine foldl_ok (fun s x h => ?_) hs _
  split
  · exact h
  · exact writeArea_ok _ _ _ _ h

@[simp] theorem refreshSaved_ok {s : State} (v : Saved) (old : ArrayCore) {new : ArrayCore} (hs : s.MemoryOk)
    (hn : new.localStore.wf = true) : (refreshSaved s v old new).MemoryOk := by
  unfold refreshSaved
  try dsimp only
  split
  · refine writeChangedSys_ok _ _ _ _ (foldl_ok (fun s x h => writeArea_ok _ _ _ _ h) (foldl_ok (fun s x h => writeArea_ok _ _ _ _ h)
      (foldl_ok (fun s x h => ?_) hs _) _) _)
    split
    · exact h
    · exact writeArea_ok _ _ _ _ h
  · exact hubWrite_ok _ _ (setArray_ok (writeSections_ok _ _ _ (setArray_ok hs _ hn)) _ (array_wf hs _))

@[simp] theorem setHolder_ok {s : State} (h : Holder) {k : ArrayCore} (hs : s.MemoryOk) (hk : k.localStore.wf = true) :
    (setHolder s h k).MemoryOk := by
  cases h with
  | core c => exact setArray_ok hs c hk
  | saved ctx =>
    unfold setHolder
    dsimp only
    split
    · exact hs
    · next v old e =>
      have h1 := refreshSaved_ok v old hs hk
      refine onSaved_ok h1 fun w hw => ?_
      obtain ⟨x, hx, e⟩ := List.mem_map.1 hw
      subst e
      have hx1 := h1.saved x hx
      split
      · exact ⟨fun y hy => by simp only [Option.some.injEq] at hy; exact hy ▸ hk, hx1.2⟩
      · exact hx1

@[simp] theorem placeHeld_ok {s : State} (h : Holder) (q : Nat) (hs : s.MemoryOk) :
    (placeHeld s h q).MemoryOk := by
  simp (maxDischargeDepth := 20) (contextual := true) [placeHeld, hs]

theorem atBinding_ok {s : State} (core id : Nat) (hs : s.MemoryOk) {f : Holder → Nat → ArrayCore → Binding → State}
    (hf : ∀ h q, (f h q (holderCore s h) ((holderCore s h).queue q)).MemoryOk) : Kept (atBinding s core id f) := by
  unfold atBinding
  split
  · simp [hs]
  · dsimp only
    split
    · exact (kept_next _).2 (hf _ _)
    · simp [hs]

@[simp] theorem execBindingPair_ok (core id : Nat) (peer : PeerEnd) (grant : Nat × Nat) {s : State} (hs : s.MemoryOk) : Kept (execBindingPair core id peer grant s) := by
  unfold execBindingPair
  refine atBinding_ok _ _ hs fun h q => ?_
  try dsimp only
  (repeat' split) <;> simp (maxDischargeDepth := 20) [hs]

@[simp] theorem execPeerUnpair_ok (core id : Nat) {s : State} (hs : s.MemoryOk) : Kept (execPeerUnpair core id s) := by
  unfold execPeerUnpair
  refine atBinding_ok _ _ hs fun h q => ?_
  try dsimp only
  (repeat' split) <;> simp (maxDischargeDepth := 20) [hs]

@[simp] theorem execCreditReturn_ok (core id : Nat) {s : State} (hs : s.MemoryOk) : Kept (execCreditReturn core id s) := by
  unfold execCreditReturn
  refine atBinding_ok _ _ hs fun h q => ?_
  try dsimp only
  (repeat' split) <;> simp (maxDischargeDepth := 20) [hs]

@[simp] theorem discardLarge_ok {s : State} (c q e : Nat) (hs : s.MemoryOk) :
    (discardLarge s c q e).MemoryOk := by
  unfold discardLarge; (repeat' split) <;> (try have hw := runningGroup_wf hs (by assumption)) <;> (try have hw := runningTask_wf hs (by assumption)) <;> (try have hk := kept_some (by assumption) (by simp (maxDischargeDepth := 20) (contextual := true) [*])) <;> (try have hk := kept_pair (by assumption) (by simp (maxDischargeDepth := 20) (contextual := true) [*])) <;> (try have hk := kept_answer (by assumption) (by simp (maxDischargeDepth := 20) (contextual := true) [*])) <;> (try simp (maxDischargeDepth := 20) (contextual := true) [*]) <;> ((repeat' split) <;> simp (maxDischargeDepth := 20) (contextual := true) [*])

@[simp] theorem execLinkTakeTile_ok (core id : Nat) {s : State} (hs : s.MemoryOk) : Kept (execLinkTakeTile core id s) := by
  unfold execLinkTakeTile
  refine atBinding_ok _ _ hs fun h q => ?_
  try dsimp only
  (repeat' split) <;> simp (maxDischargeDepth := 20) [hs]

@[simp] theorem execSendRetire_ok (core id : Nat) {s : State} (hs : s.MemoryOk) : Kept (execSendRetire core id s) := by
  unfold execSendRetire
  refine atBinding_ok _ _ hs fun h q => ?_
  try dsimp only
  (repeat' split) <;> simp (maxDischargeDepth := 20) [hs]

@[simp] theorem execTileFirstFlit_ok (core id : Nat) {s : State} (hs : s.MemoryOk) : Kept (execTileFirstFlit core id s) := by
  unfold execTileFirstFlit
  refine atBinding_ok _ _ hs fun h q => ?_
  try dsimp only
  (repeat' split) <;> simp (maxDischargeDepth := 20) [hs]

@[simp] theorem execTileLastFlit_ok (core id : Nat) (image : List (BitVec 8)) {s : State} (hs : s.MemoryOk) :
    Kept (execTileLastFlit core id image s) := by
  unfold execTileLastFlit
  refine atBinding_ok _ _ hs fun h q => ?_
  try dsimp only
  split
  · exact hs
  · exact setHolder_ok _ hs (writeBytes_wf (holderCore_wf hs _) _ _)

@[simp] theorem execQmarkRx_ok (core id : Nat) (stepNo : BitVec 16) (isEnd : Bool) {s : State} (hs : s.MemoryOk) : Kept (execQmarkRx core id stepNo isEnd s) := by
  unfold execQmarkRx
  refine atBinding_ok _ _ hs fun h q => ?_
  try dsimp only
  (repeat' split) <;> simp (maxDischargeDepth := 20) [hs]

@[simp] theorem execQmarkAck_ok (core id : Nat) {s : State} (hs : s.MemoryOk) : Kept (execQmarkAck core id s) := by
  unfold execQmarkAck
  refine atBinding_ok _ _ hs fun h q => ?_
  try dsimp only
  (repeat' split) <;> simp (maxDischargeDepth := 20) [hs]

/-! ### Sequence -/

@[simp] theorem State_setDq_ok {s : State} (w q : Nat) (x : DQueue) (hs : s.MemoryOk) :
    (State.setDq s w q x).MemoryOk := by
  simp (maxDischargeDepth := 20) (contextual := true) [State.setDq, hs]

@[simp] theorem execDqDoorbell_ok (w q : Nat) (v : BitVec 64) {s : State} (hs : s.MemoryOk) :
    Kept (execDqDoorbell w q v s) := by
  simp (maxDischargeDepth := 20) (contextual := true) [execDqDoorbell, hs]

@[simp] theorem execDqEnable_ok (w q : Nat) (en : Bool) {s : State} (hs : s.MemoryOk) :
    Kept (execDqEnable w q en s) := by
  simp (maxDischargeDepth := 20) (contextual := true) [execDqEnable, hs]

@[simp] theorem openJob_ok {s : State} (w job : Nat) (hs : s.MemoryOk) :
    (openJob s w job).MemoryOk := by
  unfold openJob; (repeat' split) <;> simp (maxDischargeDepth := 20) (contextual := true) [*]

@[simp] theorem applyPacket_ok {s : State} (q : Nat) (was : Option (Nat × List Byte)) (p : Packet) (hs : s.MemoryOk) :
    (applyPacket s q was p).MemoryOk := by
  unfold applyPacket; (repeat' split) <;> (try have hw := runningGroup_wf hs (by assumption)) <;> (try have hw := runningTask_wf hs (by assumption)) <;> (try have hk := kept_some (by assumption) (by simp (maxDischargeDepth := 20) (contextual := true) [*])) <;> (try have hk := kept_pair (by assumption) (by simp (maxDischargeDepth := 20) (contextual := true) [*])) <;> (try have hk := kept_answer (by assumption) (by simp (maxDischargeDepth := 20) (contextual := true) [*])) <;> (try simp (maxDischargeDepth := 20) (contextual := true) [*]) <;> ((repeat' split) <;> simp (maxDischargeDepth := 20) (contextual := true) [*])

@[simp] theorem finishLaunch_ok {s : State} (l : Launch) (st : Status) (hs : s.MemoryOk) :
    (finishLaunch s l st).MemoryOk := by
  simp (maxDischargeDepth := 20) (contextual := true) [finishLaunch, hs]

theorem firstOf_ok {α : Type} {f : α → Option State} (hf : ∀ x, KeptOpt (f x)) (xs : List α) : KeptOpt (firstOf f xs) := by
  induction xs with
  | nil => simp [firstOf]
  | cons x rest ih =>
    unfold firstOf
    split
    · next h => exact (keptOpt_some _).2 (hf x _ h)
    · exact ih

@[simp] theorem finishGraph_ok {s : State} (j : Job) (g : GraphRec) (hs : s.MemoryOk) :
    (finishGraph s j g).MemoryOk := by
  simp (maxDischargeDepth := 20) (contextual := true) [finishGraph, hs]

@[simp] theorem finishPhase_ok {s : State} (j : Job) (p : PhaseRec) (hs : s.MemoryOk) :
    (finishPhase s j p).MemoryOk := by
  simp (maxDischargeDepth := 20) (contextual := true) [finishPhase, hs]

@[simp] theorem finishJob_ok {s : State} (j : Job) (hs : s.MemoryOk) :
    (finishJob s j).MemoryOk := by
  simp (maxDischargeDepth := 20) (contextual := true) [finishJob, hs]

@[simp] theorem settleOne_ok {s : State} (hs : s.MemoryOk) : KeptOpt (settleOne s) := by
  unfold settleOne
  split
  · simp
  · split
    · next h =>
      refine (keptOpt_some _).2 (firstOf_ok (fun l => ?_) _ _ h)
      cases unissuedStatus s l <;> simp [hs]
    · refine firstOf_ok (fun j => ?_) _
      (repeat' split) <;> simp [hs]

@[simp] theorem settleFuel_ok (n : Nat) {s : State} (hs : s.MemoryOk) : (settleFuel n s).MemoryOk := by
  induction n generalizing s with
  | zero => simpa [settleFuel] using hs
  | succ n ih =>
    unfold settleFuel
    split
    · next h => exact ih (settleOne_ok hs _ h)
    · exact hs

@[simp] theorem settle_ok {s : State} (hs : s.MemoryOk) :
    (settle s).MemoryOk := by
  simp (maxDischargeDepth := 20) (contextual := true) [settle, hs]

@[simp] theorem refusePacket_ok {s : State} (w q index : Nat) (p : Packet) (reason : Nat) (hs : s.MemoryOk) :
    (refusePacket s w q index p reason).MemoryOk := by
  simp (maxDischargeDepth := 20) (contextual := true) [refusePacket, hs]

@[simp] theorem execPacketAccept_ok (w q : Nat) {s : State} (hs : s.MemoryOk) :
    Kept (execPacketAccept w q s) := by
  simp (maxDischargeDepth := 20) (contextual := true) [execPacketAccept, hs]

@[simp] theorem execLaunchIssue_ok (w job launch : Nat) {s : State} (hs : s.MemoryOk) :
    Kept (execLaunchIssue w job launch s) := by
  unfold execLaunchIssue; (repeat' split) <;> simp (maxDischargeDepth := 20) (contextual := true) [*]

@[simp] theorem execLaunchComplete_ok (w job launch : Nat) {s : State} (hs : s.MemoryOk) :
    Kept (execLaunchComplete w job launch s) := by
  unfold execLaunchComplete; (repeat' split) <;> simp (maxDischargeDepth := 20) (contextual := true) [*]

theorem foldl_scratch {α : Type} {f : LaneCore → α → LaneCore} (hf : ∀ k x, (f k x).scratch = k.scratch) (k : LaneCore)
    (xs : List α) : (xs.foldl f k).scratch = k.scratch := by
  induction xs generalizing k with
  | nil => rfl
  | cons x rest ih => exact (ih _).trans (hf k x)

@[simp] theorem discardCancelled_ok {s : State} (hs : s.MemoryOk) : (discardCancelled s).MemoryOk := by
  unfold discardCancelled
  try dsimp only
  refine foldl_ok (fun s k h => ?_) (foldl_ok (fun s k h => ?_) hs _) _
  · split
    · exact h
    · have h2 : ∀ ws : List (Nat × Warp), (ws.foldl (fun s w => discardWarp s k.1 w.1) s).MemoryOk := fun ws =>
        foldl_ok (fun s w h => discardWarp_ok _ _ h) h ws
      refine setLane_ok (h2 _) _ ?_
      rw [foldl_scratch (f := fun (c : LaneCore) (g : Nat × Workgroup) => releaseGroup (releaseScratch c g.1) g.1)
        (fun c g => (releaseGroup_ok _ g.1).trans (releaseScratch_ok c g.1))]
      exact lane_wf (h2 _) _
  · (repeat' split) <;> simp [h]

@[simp] theorem execCancel_ok (v : BitVec 64) {s : State} (hs : s.MemoryOk) :
    Kept (execCancel v s) := by
  unfold execCancel; (repeat' split) <;> simp (maxDischargeDepth := 20) (contextual := true) [*]

@[simp] theorem execJrnlAck_ok (v : BitVec 64) {s : State} (hs : s.MemoryOk) :
    Kept (execJrnlAck v s) := by
  simp (maxDischargeDepth := 20) (contextual := true) [execJrnlAck, hs]

/-! ### CopyBytes -/

@[simp] theorem sendFlight_ok {s : State} (f : Flight) (hs : s.MemoryOk) :
    (sendFlight s f).MemoryOk := by
  simp (maxDischargeDepth := 20) (contextual := true) [sendFlight, hs]

@[simp] theorem sendPart_ok {s : State} (c : Copy) (a : Nat) (bs : List PByte) (hs : s.MemoryOk) :
    (sendPart s c a bs).MemoryOk := by
  simp (maxDischargeDepth := 20) (contextual := true) [sendPart, hs]

@[simp] theorem sendRead_ok {s : State} (c : Copy) (a n off : Nat) (hs : s.MemoryOk) :
    (sendRead s c a n off).MemoryOk := by
  simp (maxDischargeDepth := 20) (contextual := true) [sendRead, hs]

@[simp] theorem sendFlag_ok {s : State} (c : Copy) (a : Nat) (bs : List PByte) (hs : s.MemoryOk) :
    (sendFlag s c a bs).MemoryOk := by
  simp (maxDischargeDepth := 20) (contextual := true) [sendFlag, hs]

@[simp] theorem sendRun_ok {s : State} (p : Nat) (run : List (Nat × KeptByte)) (hs : s.MemoryOk) :
    (sendRun p s run).MemoryOk := by
  unfold sendRun; (repeat' split) <;> (try have hk := kept_some (by assumption) (by simp (maxDischargeDepth := 20) (contextual := true) [*])) <;> (try have hk := kept_pair (by assumption) (by simp (maxDischargeDepth := 20) (contextual := true) [*])) <;> (try have hk := kept_answer (by assumption) (by simp (maxDischargeDepth := 20) (contextual := true) [*])) <;> (try simp (maxDischargeDepth := 20) (contextual := true) [*]) <;> ((repeat' split) <;> simp (maxDischargeDepth := 20) (contextual := true) [*])

@[simp] theorem flushKept_ok {s : State} (p line : Nat) (hs : s.MemoryOk) :
    (flushKept s p line).MemoryOk := by
  unfold flushKept; dsimp only; (repeat' split) <;> (try have hk := kept_some (by assumption) (by simp (maxDischargeDepth := 20) (contextual := true) [*])) <;> (try have hk := kept_pair (by assumption) (by simp (maxDischargeDepth := 20) (contextual := true) [*])) <;> (try have hk := kept_answer (by assumption) (by simp (maxDischargeDepth := 20) (contextual := true) [*])) <;> (try simp (maxDischargeDepth := 20) (contextual := true) [*]) <;> ((repeat' split) <;> simp (maxDischargeDepth := 20) (contextual := true) [*])

@[simp] theorem failCopy_ok {s : State} (id : Nat) (hs : s.MemoryOk) :
    (failCopy s id).MemoryOk := by
  simp (maxDischargeDepth := 20) (contextual := true) [failCopy, hs]

@[simp] theorem failWrites_ok {s : State} (o : Origin) (a : Agent) (id m : Nat) (hs : s.MemoryOk) :
    (failWrites s o a id m).MemoryOk := by
  simp (maxDischargeDepth := 20) (contextual := true) [failWrites, hs]

@[simp] theorem breakRead_ok {s : State} (id : Nat) (hs : s.MemoryOk) :
    (breakRead s id).MemoryOk := by
  simp (maxDischargeDepth := 20) (contextual := true) [breakRead, hs]

@[simp] theorem breakFlag_ok {s : State} (id : Nat) (hs : s.MemoryOk) :
    (breakFlag s id).MemoryOk := by
  simp (maxDischargeDepth := 20) (contextual := true) [breakFlag, hs]

end Sys2Proof.Machine
end

