-- ==== Sys2Proof/Laws/KeepsFabric.lean ====
section
/-! SUPPORT. The fabric, windows and copies keep memory, core storage and saved contexts in canonical form: one lemma for each definition. -/

namespace Sys2Proof.Machine

/-! ### Fabric -/

@[simp] theorem onBinding_ok {s : State} (x : NameAt) (f : Binding → Binding) (hs : s.MemoryOk) :
    (onBinding s x f).MemoryOk := by
  simp (maxDischargeDepth := 20) (contextual := true) [onBinding, hs]

@[simp] theorem stopBinding_ok (unreach : Bool) {s : State} (x : NameAt) (hs : s.MemoryOk) :
    (stopBinding unreach s x).MemoryOk := by
  simp (maxDischargeDepth := 20) (contextual := true) [stopBinding, hs]

theorem foldl_discard_store (q : Nat) (k : ArrayCore) (es : List Nat) :
    (es.foldl (fun (k : ArrayCore) e => k.discardSend q e) k).localStore = k.localStore :=
  foldl_store (f := fun (k : ArrayCore) e => k.discardSend q e) (fun k e => ArrayCore_discardSend_ok k q e) k es

@[simp] theorem loseTiles_ok {s : State} (x : NameAt) (hs : s.MemoryOk) : (loseTiles s x).MemoryOk := by
  refine setHolder_ok _ hs ?_
  simp only [ArrayCore_onQueue_ok]
  split <;> simp only [ArrayCore_onTile_ok, foldl_discard_store] <;> exact holderCore_wf hs _

@[simp] theorem reportLink_ok {s : State} (x : NameAt) (hs : s.MemoryOk) :
    (reportLink s x).MemoryOk := by
  unfold reportLink; (repeat' split) <;> simp (maxDischargeDepth := 20) (contextual := true) [*]

@[simp] theorem moveChan_ok {s : State} (c : Nat) (x : Channel) (st : ChanSt) (hs : s.MemoryOk) :
    (moveChan s c x st).MemoryOk := by
  simp (maxDischargeDepth := 20) (contextual := true) [moveChan, hs]

@[simp] theorem turnOff_ok {s : State} (c : Nat) (hs : s.MemoryOk) :
    (turnOff s c).MemoryOk := by
  simp (maxDischargeDepth := 20) (contextual := true) [turnOff, hs]

@[simp] theorem startTuning_ok {s0 : State} (c : Nat) (hs0 : s0.MemoryOk) :
    (startTuning s0 c).MemoryOk := by
  simp (maxDischargeDepth := 20) (contextual := true) [startTuning, hs0]

@[simp] theorem undark_ok {s : State} (c : Nat) (hs : s.MemoryOk) :
    (undark s c).MemoryOk := by
  simp (maxDischargeDepth := 20) (contextual := true) [undark, hs]

@[simp] theorem writeChanCtl_ok {s : State} (c : Nat) (v : Word) (hs : s.MemoryOk) :
    (writeChanCtl s c v).MemoryOk := by
  unfold writeChanCtl; dsimp only; (repeat' split) <;> (try have hw := runningGroup_wf hs (by assumption)) <;> (try have hw := runningTask_wf hs (by assumption)) <;> (try have hk := kept_some (by assumption) (by simp (maxDischargeDepth := 20) (contextual := true) [*])) <;> (try have hk := kept_pair (by assumption) (by simp (maxDischargeDepth := 20) (contextual := true) [*])) <;> (try have hk := kept_answer (by assumption) (by simp (maxDischargeDepth := 20) (contextual := true) [*])) <;> (try simp (maxDischargeDepth := 20) (contextual := true) [*]) <;> ((repeat' split) <;> simp (maxDischargeDepth := 20) (contextual := true) [*])

@[simp] theorem execChanEnable_ok (c : Nat) (v : BitVec 64) {s : State} (hs : s.MemoryOk) :
    Kept (execChanEnable c v s) := by
  simp (maxDischargeDepth := 20) (contextual := true) [execChanEnable, hs]

@[simp] theorem execChanDisable_ok (c : Nat) {s : State} (hs : s.MemoryOk) :
    Kept (execChanDisable c s) := by
  simp (maxDischargeDepth := 20) (contextual := true) [execChanDisable, hs]

@[simp] theorem execChanDark_ok (c : Nat) {s : State} (hs : s.MemoryOk) :
    Kept (execChanDark c s) := by
  simp (maxDischargeDepth := 20) (contextual := true) [execChanDark, hs]

@[simp] theorem execChanUndark_ok (c : Nat) {s : State} (hs : s.MemoryOk) :
    Kept (execChanUndark c s) := by
  simp (maxDischargeDepth := 20) (contextual := true) [execChanUndark, hs]

@[simp] theorem startWake_ok {s : State} (c i : Nat) (hs : s.MemoryOk) :
    (startWake c s i).MemoryOk := by
  simp (maxDischargeDepth := 20) (contextual := true) [startWake, hs]

@[simp] theorem usePark_ok {s : State} (c : Nat) (hs : s.MemoryOk) :
    (usePark s c).MemoryOk := by
  unfold usePark; dsimp only; (repeat' split) <;> (try have hk := kept_some (by assumption) (by simp (maxDischargeDepth := 20) (contextual := true) [*])) <;> (try have hk := kept_pair (by assumption) (by simp (maxDischargeDepth := 20) (contextual := true) [*])) <;> (try have hk := kept_answer (by assumption) (by simp (maxDischargeDepth := 20) (contextual := true) [*])) <;> (try simp (maxDischargeDepth := 20) (contextual := true) [*]) <;> ((repeat' split) <;> simp (maxDischargeDepth := 20) (contextual := true) [*])

@[simp] theorem setPark_ok {s : State} (c : Nat) (park : BitVec 8) (hs : s.MemoryOk) :
    (setPark s c park).MemoryOk := by
  unfold setPark; dsimp only; (repeat' split) <;> (try have hk := kept_some (by assumption) (by simp (maxDischargeDepth := 20) (contextual := true) [*])) <;> (try have hk := kept_pair (by assumption) (by simp (maxDischargeDepth := 20) (contextual := true) [*])) <;> (try have hk := kept_answer (by assumption) (by simp (maxDischargeDepth := 20) (contextual := true) [*])) <;> (try simp (maxDischargeDepth := 20) (contextual := true) [*]) <;> ((repeat' split) <;> simp (maxDischargeDepth := 20) (contextual := true) [*])

@[simp] theorem marksOver_ok {s : State} (c : Nat) (hs : s.MemoryOk) :
    (marksOver s c).MemoryOk := by
  simp (maxDischargeDepth := 20) (contextual := true) [marksOver, hs]

@[simp] theorem execChanTuned_ok {s : State} (c : Nat) (hs : s.MemoryOk) :
    Kept (execChanTuned c s) := by
  unfold execChanTuned; dsimp only; (repeat' split) <;> (try have hk := kept_some (by assumption) (by simp (maxDischargeDepth := 20) (contextual := true) [*])) <;> (try have hk := kept_pair (by assumption) (by simp (maxDischargeDepth := 20) (contextual := true) [*])) <;> (try have hk := kept_answer (by assumption) (by simp (maxDischargeDepth := 20) (contextual := true) [*])) <;> (try simp (maxDischargeDepth := 20) (contextual := true) [*]) <;> ((repeat' split) <;> simp (maxDischargeDepth := 20) (contextual := true) [*])

@[simp] theorem execChanDrained_ok {s : State} (c : Nat) (hs : s.MemoryOk) :
    Kept (execChanDrained c s) := by
  unfold execChanDrained; dsimp only; (repeat' split) <;> (try have hk := kept_some (by assumption) (by simp (maxDischargeDepth := 20) (contextual := true) [*])) <;> (try have hk := kept_pair (by assumption) (by simp (maxDischargeDepth := 20) (contextual := true) [*])) <;> (try have hk := kept_answer (by assumption) (by simp (maxDischargeDepth := 20) (contextual := true) [*])) <;> (try simp (maxDischargeDepth := 20) (contextual := true) [*]) <;> ((repeat' split) <;> simp (maxDischargeDepth := 20) (contextual := true) [*])

@[simp] theorem failChannel_ok {s : State} (c : Nat) (hs : s.MemoryOk) :
    (failChannel s c).MemoryOk := by
  simp (maxDischargeDepth := 20) (contextual := true) [failChannel, hs]

@[simp] theorem execLinkNak_ok {s : State} (c frame : Nat) (hs : s.MemoryOk) :
    Kept (execLinkNak c frame s) := by
  unfold execLinkNak; dsimp only; (repeat' split) <;> (try have hk := kept_some (by assumption) (by simp (maxDischargeDepth := 20) (contextual := true) [*])) <;> (try have hk := kept_pair (by assumption) (by simp (maxDischargeDepth := 20) (contextual := true) [*])) <;> (try have hk := kept_answer (by assumption) (by simp (maxDischargeDepth := 20) (contextual := true) [*])) <;> (try simp (maxDischargeDepth := 20) (contextual := true) [*]) <;> ((repeat' split) <;> simp (maxDischargeDepth := 20) (contextual := true) [*])

@[simp] theorem execWidthMarkerPlace_ok (c : Nat) {s : State} (hs : s.MemoryOk) :
    Kept (execWidthMarkerPlace c s) := by
  simp (maxDischargeDepth := 20) (contextual := true) [execWidthMarkerPlace, hs]

@[simp] theorem sendSome_ok {s : State} (c : Nat) (hs : s.MemoryOk) :
    (sendSome s c).MemoryOk := by
  unfold sendSome; (repeat' split) <;> simp (maxDischargeDepth := 20) (contextual := true) [*]

@[simp] theorem execWidthMarkerConfirm_ok (c : Nat) {s0 : State} (hs0 : s0.MemoryOk) :
    Kept (execWidthMarkerConfirm c s0) := by
  unfold execWidthMarkerConfirm; (repeat' split) <;> (try have hw := runningGroup_wf hs0 (by assumption)) <;> (try have hw := runningTask_wf hs0 (by assumption)) <;> (try have hk := kept_some (by assumption) (by simp (maxDischargeDepth := 20) (contextual := true) [*])) <;> (try have hk := kept_pair (by assumption) (by simp (maxDischargeDepth := 20) (contextual := true) [*])) <;> (try have hk := kept_answer (by assumption) (by simp (maxDischargeDepth := 20) (contextual := true) [*])) <;> (try simp (maxDischargeDepth := 20) (contextual := true) [*]) <;> ((repeat' split) <;> simp (maxDischargeDepth := 20) (contextual := true) [*])

@[simp] theorem execChanPark_ok (c : Nat) (mask : BitVec 8) {s : State} (hs : s.MemoryOk) :
    Kept (execChanPark c mask s) := by
  simp (maxDischargeDepth := 20) (contextual := true) [execChanPark, hs]

@[simp] theorem execChanUnpark_ok (c : Nat) (mask : BitVec 8) {s : State} (hs : s.MemoryOk) :
    Kept (execChanUnpark c mask s) := by
  simp (maxDischargeDepth := 20) (contextual := true) [execChanUnpark, hs]

@[simp] theorem lockWoken_ok {s : State} (c i : Nat) (hs : s.MemoryOk) :
    (lockWoken s c i).MemoryOk := by
  simp (maxDischargeDepth := 20) (contextual := true) [lockWoken, hs]

@[simp] theorem execPositionLocked_ok (c i : Nat) {s : State} (hs : s.MemoryOk) :
    Kept (execPositionLocked c i s) := by
  unfold execPositionLocked; (repeat' split) <;> (try have hw := runningGroup_wf hs (by assumption)) <;> (try have hw := runningTask_wf hs (by assumption)) <;> (try have hk := kept_some (by assumption) (by simp (maxDischargeDepth := 20) (contextual := true) [*])) <;> (try have hk := kept_pair (by assumption) (by simp (maxDischargeDepth := 20) (contextual := true) [*])) <;> (try have hk := kept_answer (by assumption) (by simp (maxDischargeDepth := 20) (contextual := true) [*])) <;> (try simp (maxDischargeDepth := 20) (contextual := true) [*]) <;> ((repeat' split) <;> simp (maxDischargeDepth := 20) (contextual := true) [*])

@[simp] theorem execOpticalCeilingLower_ok (v : Nat) {s : State} (hs : s.MemoryOk) :
    Kept (execOpticalCeilingLower v s) := by
  simp (maxDischargeDepth := 20) (contextual := true) [execOpticalCeilingLower, hs]

@[simp] theorem setSlot_ok {s : State} (n : Nat) (x : RSlot) (hs : s.MemoryOk) :
    (setSlot s n x).MemoryOk := by
  simp (maxDischargeDepth := 20) (contextual := true) [setSlot, hs]

@[simp] theorem grantSlot_ok {s : State} (n sender : Nat) (queue : List Nat) (hs : s.MemoryOk) :
    (grantSlot s n sender queue).MemoryOk := by
  unfold grantSlot; dsimp only; (repeat' split) <;> (try have hk := kept_some (by assumption) (by simp (maxDischargeDepth := 20) (contextual := true) [*])) <;> (try have hk := kept_pair (by assumption) (by simp (maxDischargeDepth := 20) (contextual := true) [*])) <;> (try have hk := kept_answer (by assumption) (by simp (maxDischargeDepth := 20) (contextual := true) [*])) <;> (try simp (maxDischargeDepth := 20) (contextual := true) [*]) <;> ((repeat' split) <;> simp (maxDischargeDepth := 20) (contextual := true) [*])

@[simp] theorem nextGrant_ok {s : State} (n : Nat) (hs : s.MemoryOk) :
    (nextGrant s n).MemoryOk := by
  unfold nextGrant; dsimp only; (repeat' split) <;> (try have hk := kept_some (by assumption) (by simp (maxDischargeDepth := 20) (contextual := true) [*])) <;> (try have hk := kept_pair (by assumption) (by simp (maxDischargeDepth := 20) (contextual := true) [*])) <;> (try have hk := kept_answer (by assumption) (by simp (maxDischargeDepth := 20) (contextual := true) [*])) <;> (try simp (maxDischargeDepth := 20) (contextual := true) [*]) <;> ((repeat' split) <;> simp (maxDischargeDepth := 20) (contextual := true) [*])

@[simp] theorem execAllowanceRequest_ok {s : State} (c i sender : Nat) (hs : s.MemoryOk) :
    Kept (execAllowanceRequest c i sender s) := by
  unfold execAllowanceRequest; dsimp only; (repeat' split) <;> (try have hk := kept_some (by assumption) (by simp (maxDischargeDepth := 20) (contextual := true) [*])) <;> (try have hk := kept_pair (by assumption) (by simp (maxDischargeDepth := 20) (contextual := true) [*])) <;> (try have hk := kept_answer (by assumption) (by simp (maxDischargeDepth := 20) (contextual := true) [*])) <;> (try simp (maxDischargeDepth := 20) (contextual := true) [*]) <;> ((repeat' split) <;> simp (maxDischargeDepth := 20) (contextual := true) [*])

@[simp] theorem execAllowanceGrant_ok (c i volume life : Nat) {s : State} (hs : s.MemoryOk) :
    Kept (execAllowanceGrant c i volume life s) := by
  simp (maxDischargeDepth := 20) (contextual := true) [execAllowanceGrant, hs]

@[simp] theorem renewSlot_ok {s : State} (n : Nat) (hs : s.MemoryOk) :
    (renewSlot s n).MemoryOk := by
  unfold renewSlot; dsimp only; (repeat' split) <;> (try have hk := kept_some (by assumption) (by simp (maxDischargeDepth := 20) (contextual := true) [*])) <;> (try have hk := kept_pair (by assumption) (by simp (maxDischargeDepth := 20) (contextual := true) [*])) <;> (try have hk := kept_answer (by assumption) (by simp (maxDischargeDepth := 20) (contextual := true) [*])) <;> (try simp (maxDischargeDepth := 20) (contextual := true) [*]) <;> ((repeat' split) <;> simp (maxDischargeDepth := 20) (contextual := true) [*])

@[simp] theorem renewPosition_ok {s : State} (c i : Nat) (hs : s.MemoryOk) :
    (renewPosition s c i).MemoryOk := by
  unfold renewPosition; dsimp only; (repeat' split) <;> (try have hk := kept_some (by assumption) (by simp (maxDischargeDepth := 20) (contextual := true) [*])) <;> (try have hk := kept_pair (by assumption) (by simp (maxDischargeDepth := 20) (contextual := true) [*])) <;> (try have hk := kept_answer (by assumption) (by simp (maxDischargeDepth := 20) (contextual := true) [*])) <;> (try simp (maxDischargeDepth := 20) (contextual := true) [*]) <;> ((repeat' split) <;> simp (maxDischargeDepth := 20) (contextual := true) [*])

@[simp] theorem execAllowanceRenew_ok {s : State} (x : AllowEnd) (i : Nat) (hs : s.MemoryOk) :
    Kept (execAllowanceRenew x i s) := by
  unfold execAllowanceRenew; (repeat' split) <;> (try have hk := kept_some (by assumption) (by simp (maxDischargeDepth := 20) (contextual := true) [*])) <;> (try have hk := kept_pair (by assumption) (by simp (maxDischargeDepth := 20) (contextual := true) [*])) <;> (try have hk := kept_answer (by assumption) (by simp (maxDischargeDepth := 20) (contextual := true) [*])) <;> (try simp (maxDischargeDepth := 20) (contextual := true) [*]) <;> ((repeat' split) <;> simp (maxDischargeDepth := 20) (contextual := true) [*])

@[simp] theorem lapsePosition_ok {s0 : State} (c i : Nat) (hs0 : s0.MemoryOk) :
    (lapsePosition s0 c i).MemoryOk := by
  unfold lapsePosition; dsimp only; (repeat' split) <;> (try have hk := kept_some (by assumption) (by simp (maxDischargeDepth := 20) (contextual := true) [*])) <;> (try have hk := kept_pair (by assumption) (by simp (maxDischargeDepth := 20) (contextual := true) [*])) <;> (try have hk := kept_answer (by assumption) (by simp (maxDischargeDepth := 20) (contextual := true) [*])) <;> (try simp (maxDischargeDepth := 20) (contextual := true) [*]) <;> ((repeat' split) <;> simp (maxDischargeDepth := 20) (contextual := true) [*])

@[simp] theorem execAllowanceExpiry_ok {s : State} (x : AllowEnd) (i : Nat) (hs : s.MemoryOk) :
    Kept (execAllowanceExpiry x i s) := by
  unfold execAllowanceExpiry; dsimp only; (repeat' split) <;> (try have hk := kept_some (by assumption) (by simp (maxDischargeDepth := 20) (contextual := true) [*])) <;> (try have hk := kept_pair (by assumption) (by simp (maxDischargeDepth := 20) (contextual := true) [*])) <;> (try have hk := kept_answer (by assumption) (by simp (maxDischargeDepth := 20) (contextual := true) [*])) <;> (try simp (maxDischargeDepth := 20) (contextual := true) [*]) <;> ((repeat' split) <;> simp (maxDischargeDepth := 20) (contextual := true) [*])

@[simp] theorem execOrbitSlot_ok (slot : Nat) {s : State} (hs : s.MemoryOk) :
    Kept (execOrbitSlot slot s) := by
  simp (maxDischargeDepth := 20) (contextual := true) [execOrbitSlot, hs]

@[simp] theorem execPtpSync_ok {s : State} (master : PtpTime) (offset : BitVec 32) (hs : s.MemoryOk) :
    Kept (execPtpSync master offset s) := by
  unfold execPtpSync; dsimp only; (repeat' split) <;> (try have hk := kept_some (by assumption) (by simp (maxDischargeDepth := 20) (contextual := true) [*])) <;> (try have hk := kept_pair (by assumption) (by simp (maxDischargeDepth := 20) (contextual := true) [*])) <;> (try have hk := kept_answer (by assumption) (by simp (maxDischargeDepth := 20) (contextual := true) [*])) <;> (try simp (maxDischargeDepth := 20) (contextual := true) [*]) <;> ((repeat' split) <;> simp (maxDischargeDepth := 20) (contextual := true) [*])

@[simp] theorem execPtpSyncTimeout_ok {s : State} (hs : s.MemoryOk) :
    Kept (execPtpSyncTimeout s) := by
  unfold execPtpSyncTimeout; (repeat' split) <;> (try have hk := kept_some (by assumption) (by simp (maxDischargeDepth := 20) (contextual := true) [*])) <;> (try have hk := kept_pair (by assumption) (by simp (maxDischargeDepth := 20) (contextual := true) [*])) <;> (try have hk := kept_answer (by assumption) (by simp (maxDischargeDepth := 20) (contextual := true) [*])) <;> (try simp (maxDischargeDepth := 20) (contextual := true) [*]) <;> ((repeat' split) <;> simp (maxDischargeDepth := 20) (contextual := true) [*])

@[simp] theorem execRwinWrite_ok (link e : Nat) (isLimit : Bool) (v : BitVec 64) {s : State} (hs : s.MemoryOk) :
    Kept (execRwinWrite link e isLimit v s) := by
  unfold execRwinWrite; dsimp only; (repeat' split) <;> (try have hw := runningGroup_wf hs (by assumption)) <;> (try have hw := runningTask_wf hs (by assumption)) <;> (try have hk := kept_some (by assumption) (by simp (maxDischargeDepth := 20) (contextual := true) [*])) <;> (try have hk := kept_pair (by assumption) (by simp (maxDischargeDepth := 20) (contextual := true) [*])) <;> (try have hk := kept_answer (by assumption) (by simp (maxDischargeDepth := 20) (contextual := true) [*])) <;> (try simp (maxDischargeDepth := 20) (contextual := true) [*]) <;> ((repeat' split) <;> simp (maxDischargeDepth := 20) (contextual := true) [*])

@[simp] theorem useSlot_ok {s : State} (x : OpticalFrame) (hs : s.MemoryOk) :
    (useSlot s x).MemoryOk := by
  unfold useSlot; dsimp only; (repeat' split) <;> (try have hk := kept_some (by assumption) (by simp (maxDischargeDepth := 20) (contextual := true) [*])) <;> (try have hk := kept_pair (by assumption) (by simp (maxDischargeDepth := 20) (contextual := true) [*])) <;> (try have hk := kept_answer (by assumption) (by simp (maxDischargeDepth := 20) (contextual := true) [*])) <;> (try simp (maxDischargeDepth := 20) (contextual := true) [*]) <;> ((repeat' split) <;> simp (maxDischargeDepth := 20) (contextual := true) [*])

@[simp] theorem execOpticalFrameReceive_ok {s : State} (c : Nat) (checksOk : Bool) (x : OpticalFrame) (hs : s.MemoryOk) :
    Kept (execOpticalFrameReceive c checksOk x s) := by
  unfold execOpticalFrameReceive; dsimp only; (repeat' split) <;> (try have hk := kept_some (by assumption) (by simp (maxDischargeDepth := 20) (contextual := true) [*])) <;> (try have hk := kept_pair (by assumption) (by simp (maxDischargeDepth := 20) (contextual := true) [*])) <;> (try have hk := kept_answer (by assumption) (by simp (maxDischargeDepth := 20) (contextual := true) [*])) <;> (try simp (maxDischargeDepth := 20) (contextual := true) [*]) <;> ((repeat' split) <;> simp (maxDischargeDepth := 20) (contextual := true) [*])

/-! ### Remote -/

@[simp] theorem answerPeer_ok {s : State} (src : Nat) (ws : List Word) (hs : s.MemoryOk) :
    (answerPeer s src ws).MemoryOk := by
  simp (maxDischargeDepth := 20) (contextual := true) [answerPeer, hs]

@[simp] theorem arriveHere_ok {s : State} (src seq floor : Nat) (r : RemoteReq) (hs : s.MemoryOk) :
    (arriveHere s src seq floor r).MemoryOk := by
  unfold arriveHere; dsimp only; (repeat' split) <;> (try have hk := kept_some (by assumption) (by simp (maxDischargeDepth := 20) (contextual := true) [*])) <;> (try have hk := kept_pair (by assumption) (by simp (maxDischargeDepth := 20) (contextual := true) [*])) <;> (try have hk := kept_answer (by assumption) (by simp (maxDischargeDepth := 20) (contextual := true) [*])) <;> (try simp (maxDischargeDepth := 20) (contextual := true) [*]) <;> ((repeat' split) <;> simp (maxDischargeDepth := 20) (contextual := true) [*])

@[simp] theorem arriveThere_ok {s : State} (home seq : Nat) (hs : s.MemoryOk) :
    (arriveThere s home seq).MemoryOk := by
  unfold arriveThere; (repeat' split) <;> (try have hw := runningGroup_wf hs (by assumption)) <;> (try have hw := runningTask_wf hs (by assumption)) <;> (try have hk := kept_some (by assumption) (by simp (maxDischargeDepth := 20) (contextual := true) [*])) <;> (try have hk := kept_pair (by assumption) (by simp (maxDischargeDepth := 20) (contextual := true) [*])) <;> (try have hk := kept_answer (by assumption) (by simp (maxDischargeDepth := 20) (contextual := true) [*])) <;> (try simp (maxDischargeDepth := 20) (contextual := true) [*]) <;> ((repeat' split) <;> simp (maxDischargeDepth := 20) (contextual := true) [*])

@[simp] theorem execRemoteRequestArrival_ok (src home seq floor : Nat) (r : RemoteReq) {s : State} (hs : s.MemoryOk) :
    Kept (execRemoteRequestArrival src home seq floor r s) := by
  simp (maxDischargeDepth := 20) (contextual := true) [execRemoteRequestArrival, hs]

@[simp] theorem dropWaiting_ok {s : State} (home seq : Nat) (hs : s.MemoryOk) :
    (dropWaiting s home seq).MemoryOk := by
  simp (maxDischargeDepth := 20) (contextual := true) [dropWaiting, hs]

@[simp] theorem execRemoteReply_ok (home seq : Nat) {s : State} (hs : s.MemoryOk) :
    Kept (execRemoteReply home seq s) := by
  unfold execRemoteReply; (repeat' split) <;> simp (maxDischargeDepth := 20) (contextual := true) [*]

@[simp] theorem abandonWrite_ok {s : State} (f : Flight) (hs : s.MemoryOk) :
    (abandonWrite s f).MemoryOk := by
  simp (maxDischargeDepth := 20) (contextual := true) [abandonWrite, hs]

@[simp] theorem abandonReport_ok {s : State} (f : Flight) (hs : s.MemoryOk) :
    (abandonReport s f).MemoryOk := by
  unfold abandonReport; (repeat' split) <;> (try have hk := kept_some (by assumption) (by simp (maxDischargeDepth := 20) (contextual := true) [*])) <;> (try have hk := kept_pair (by assumption) (by simp (maxDischargeDepth := 20) (contextual := true) [*])) <;> (try have hk := kept_answer (by assumption) (by simp (maxDischargeDepth := 20) (contextual := true) [*])) <;> (try simp (maxDischargeDepth := 20) (contextual := true) [*]) <;> ((repeat' split) <;> simp (maxDischargeDepth := 20) (contextual := true) [*])

@[simp] theorem abandon_ok {s : State} (id : Nat) (hs : s.MemoryOk) :
    (abandon s id).MemoryOk := by
  unfold abandon; (repeat' split) <;> simp (maxDischargeDepth := 20) (contextual := true) [*]

@[simp] theorem execE2eTimerExpiry_ok (home seq : Nat) {s : State} (hs : s.MemoryOk) :
    Kept (execE2eTimerExpiry home seq s) := by
  unfold execE2eTimerExpiry; (repeat' split) <;> (try have hw := runningGroup_wf hs (by assumption)) <;> (try have hw := runningTask_wf hs (by assumption)) <;> (try have hk := kept_some (by assumption) (by simp (maxDischargeDepth := 20) (contextual := true) [*])) <;> (try have hk := kept_pair (by assumption) (by simp (maxDischargeDepth := 20) (contextual := true) [*])) <;> (try have hk := kept_answer (by assumption) (by simp (maxDischargeDepth := 20) (contextual := true) [*])) <;> (try simp (maxDischargeDepth := 20) (contextual := true) [*]) <;> ((repeat' split) <;> simp (maxDischargeDepth := 20) (contextual := true) [*])

@[simp] theorem cutCopies_ok {s : State} (m : Nat) (hs : s.MemoryOk) :
    (cutCopies s m).MemoryOk := by
  simp (maxDischargeDepth := 20) (contextual := true) [cutCopies, hs]

@[simp] theorem abandonAll_ok {s : State} (m : Nat) (hs : s.MemoryOk) :
    (abandonAll s m).MemoryOk := by
  unfold abandonAll; dsimp only; (repeat' split) <;> (try have hk := kept_some (by assumption) (by simp (maxDischargeDepth := 20) (contextual := true) [*])) <;> (try have hk := kept_pair (by assumption) (by simp (maxDischargeDepth := 20) (contextual := true) [*])) <;> (try have hk := kept_answer (by assumption) (by simp (maxDischargeDepth := 20) (contextual := true) [*])) <;> (try simp (maxDischargeDepth := 20) (contextual := true) [*]) <;> ((repeat' split) <;> simp (maxDischargeDepth := 20) (contextual := true) [*])

@[simp] theorem execReachCommit_ok {s : State} (hs : s.MemoryOk) :
    Kept (execReachCommit s) := by
  simp (maxDischargeDepth := 20) (contextual := true) [execReachCommit, hs]

/-! ### Ports -/

@[simp] theorem writeBoot_ok {s : State} (f : BootCopy → BootCopy) (hs : s.MemoryOk) :
    (writeBoot s f).MemoryOk := by
  simp (maxDischargeDepth := 20) (contextual := true) [writeBoot, hs]

@[simp] theorem loseState_ok {s : State} (p : Nat) (hs : s.MemoryOk) : (loseState s p).MemoryOk := by
  unfold loseState
  try dsimp only
  refine onHub_ok (foldl_ok (fun s c h => ?_) (foldl_ok (fun s x h => ?_) (by simp [hs]) _) _) fun _ => rfl
  · simp [h]
  · split <;> simp [h]

@[simp] theorem onPort_ok {s : State} (p : Nat) (f : Port → Port) (hs : s.MemoryOk) :
    (onPort s p f).MemoryOk := by
  simp (maxDischargeDepth := 20) (contextual := true) [onPort, hs]

@[simp] theorem moveIso_ok {s : State} (p : Nat) (st : IsoSt) (f : Port → Port) (hs : s.MemoryOk) :
    (moveIso s p st f).MemoryOk := by
  simp (maxDischargeDepth := 20) (contextual := true) [moveIso, hs]

@[simp] theorem toRunning_ok {s : State} (p : Nat) (hs : s.MemoryOk) :
    (toRunning s p).MemoryOk := by
  simp (maxDischargeDepth := 20) (contextual := true) [toRunning, hs]

@[simp] theorem moveEntry_ok {s : State} (p v : Nat) (hs : s.MemoryOk) :
    (moveEntry s p v).MemoryOk := by
  simp (maxDischargeDepth := 20) (contextual := true) [moveEntry, hs]

@[simp] theorem retry_ok {s : State} (p : Nat) (hs : s.MemoryOk) :
    (retry s p).MemoryOk := by
  simp (maxDischargeDepth := 20) (contextual := true) [retry, hs]

@[simp] theorem toTraining_ok {s : State} (p : Nat) (hs : s.MemoryOk) :
    (toTraining s p).MemoryOk := by
  simp (maxDischargeDepth := 20) (contextual := true) [toTraining, hs]

@[simp] theorem execPortEnable_ok (p : Nat) {s : State} (hs : s.MemoryOk) :
    Kept (execPortEnable p s) := by
  simp (maxDischargeDepth := 20) (contextual := true) [execPortEnable, hs]

@[simp] theorem execPortLinkUp_ok (p : Nat) {s : State} (hs : s.MemoryOk) :
    Kept (execPortLinkUp p s) := by
  simp (maxDischargeDepth := 20) (contextual := true) [execPortLinkUp, hs]

@[simp] theorem bootSeven_ok {s : State} (hs : s.MemoryOk) :
    (bootSeven s).MemoryOk := by
  unfold bootSeven; dsimp only; (repeat' split) <;> (try have hk := kept_some (by assumption) (by simp (maxDischargeDepth := 20) (contextual := true) [*])) <;> (try have hk := kept_pair (by assumption) (by simp (maxDischargeDepth := 20) (contextual := true) [*])) <;> (try have hk := kept_answer (by assumption) (by simp (maxDischargeDepth := 20) (contextual := true) [*])) <;> (try simp (maxDischargeDepth := 20) (contextual := true) [*]) <;> ((repeat' split) <;> simp (maxDischargeDepth := 20) (contextual := true) [*])

@[simp] theorem execPortTrainingFail_ok (p : Nat) {s : State} (hs : s.MemoryOk) :
    Kept (execPortTrainingFail p s) := by
  simp (maxDischargeDepth := 20) (contextual := true) [execPortTrainingFail, hs]

@[simp] theorem execPortRun_ok (p : Nat) {s : State} (hs : s.MemoryOk) :
    Kept (execPortRun p s) := by
  simp (maxDischargeDepth := 20) (contextual := true) [execPortRun, hs]

@[simp] theorem portBusy_ok {s : State} (p : Nat) (hs : s.MemoryOk) :
    (portBusy s p).MemoryOk := by
  simp (maxDischargeDepth := 20) (contextual := true) [portBusy, hs]

@[simp] theorem execPortReenum_ok (p : Nat) {s : State} (hs : s.MemoryOk) :
    Kept (execPortReenum p s) := by
  unfold execPortReenum; (repeat' split) <;> simp (maxDischargeDepth := 20) (contextual := true) [*]

@[simp] theorem execPortOff_ok (p : Nat) {s : State} (hs : s.MemoryOk) :
    Kept (execPortOff p s) := by
  simp (maxDischargeDepth := 20) (contextual := true) [execPortOff, hs]

@[simp] theorem bootRuns_ok {s : State} (p : Nat) (hs : s.MemoryOk) :
    (bootRuns s p).MemoryOk := by
  simp (maxDischargeDepth := 20) (contextual := true) [bootRuns, hs]

@[simp] theorem execCapabilityTableRead_ok (p : Nat) (bytes : List (BitVec 8)) {s : State} (hs : s.MemoryOk) :
    Kept (execCapabilityTableRead p bytes s) := by
  simp (maxDischargeDepth := 20) (contextual := true) [execCapabilityTableRead, hs]

@[simp] theorem writePortCtl_ok {s : State} (p : Nat) (v : Word) (hs : s.MemoryOk) :
    Kept (writePortCtl s p v) := by
  simp (maxDischargeDepth := 20) (contextual := true) [writePortCtl, hs]

/-! ### Isolation -/

@[simp] theorem fence_ok {s : State} (p : Nat) (hs : s.MemoryOk) :
    (fence s p).MemoryOk := by
  simp (maxDischargeDepth := 20) (contextual := true) [fence, hs]

@[simp] theorem isolate_ok {s : State} (p : Nat) (hs : s.MemoryOk) :
    (isolate s p).MemoryOk := by
  simp (maxDischargeDepth := 20) (contextual := true) [isolate, hs]

@[simp] theorem execHeartbeat_ok (p : Nat) {s : State} (hs : s.MemoryOk) :
    Kept (execHeartbeat p s) := by
  simp (maxDischargeDepth := 20) (contextual := true) [execHeartbeat, hs]

@[simp] theorem execHeartbeatLapse_ok (p : Nat) {s : State} (hs : s.MemoryOk) :
    Kept (execHeartbeatLapse p s) := by
  simp (maxDischargeDepth := 20) (contextual := true) [execHeartbeatLapse, hs]

@[simp] theorem execRequestNoAnswer_ok (p : Nat) {s : State} (hs : s.MemoryOk) :
    Kept (execRequestNoAnswer p s) := by
  simp (maxDischargeDepth := 20) (contextual := true) [execRequestNoAnswer, hs]

@[simp] theorem execIsoCmd_ok (v : BitVec 64) {s : State} (hs : s.MemoryOk) :
    Kept (execIsoCmd v s) := by
  simp (maxDischargeDepth := 20) (contextual := true) [execIsoCmd, hs]

@[simp] theorem lostTask_ok {s : State} (c : Nat) (t : Task) (hs : s.MemoryOk) :
    (lostTask s c t).MemoryOk := by
  simp (maxDischargeDepth := 20) (contextual := true) [lostTask, hs]

@[simp] theorem lostWarp_ok {s : State} (c key : Nat) (w : Warp) (i : UnitInfo) (hs : s.MemoryOk) :
    (lostWarp s c key w i).MemoryOk := by
  simp (maxDischargeDepth := 20) (contextual := true) [lostWarp, hs]

@[simp] theorem loseUnit_ok {s : State} (p : Nat) (i : UnitInfo) (n undone bins : Nat) (hs : s.MemoryOk) :
    (loseUnit s p i n undone bins).MemoryOk := by
  unfold loseUnit; (repeat' split) <;> simp (maxDischargeDepth := 20) (contextual := true) [*]

@[simp] theorem loseTask_ok (p : Nat) {s : State} (c : Nat) (hs : s.MemoryOk) :
    (loseTask p s c).MemoryOk := by
  unfold loseTask; (repeat' split) <;> simp (maxDischargeDepth := 20) (contextual := true) [*]

@[simp] theorem loseLane_ok (p : Nat) {s : State} (c : Nat) (hs : s.MemoryOk) : (loseLane p s c).MemoryOk := by
  refine onPort_ok _ _ (foldl_ok (fun s g h => loseUnit_ok _ _ _ _ _ h) (foldl_ok (fun s w h => ?_) hs _) _)
  split
  · simp [h]
  · exact h

@[simp] theorem loseUnits_ok {s : State} (p : Nat) (hs : s.MemoryOk) : (loseUnits s p).MemoryOk := by
  unfold loseUnits
  have h1 : ∀ xs : List (CoreKind × Nat), (xs.foldl (fun s x => match x.1 with
      | .array => loseTask p s x.2
      | .lane => loseLane p s x.2) s).MemoryOk := fun xs => foldl_ok (fun s x h => by split <;> simp [h]) hs xs
  exact loseState_ok _ (onSaved_ok (h1 _) fun v hv => (h1 _).saved v (List.mem_filter.1 hv).1)

@[simp] theorem settleRefused_ok {s : State} (hs : s.MemoryOk) :
    (settleRefused s).MemoryOk := by
  simp (maxDischargeDepth := 20) (contextual := true) [settleRefused, hs]

@[simp] theorem execFenceDrained_ok (p : Nat) {s : State} (hs : s.MemoryOk) :
    Kept (execFenceDrained p s) := by
  simp (maxDischargeDepth := 20) (contextual := true) [execFenceDrained, hs]

@[simp] theorem execCleanComplete_ok (p : Nat) {s : State} (hs : s.MemoryOk) :
    Kept (execCleanComplete p s) := by
  simp (maxDischargeDepth := 20) (contextual := true) [execCleanComplete, hs]

@[simp] theorem execChipletResetRelease_ok (p : Nat) {s : State} (hs : s.MemoryOk) :
    Kept (execChipletResetRelease p s) := by
  simp (maxDischargeDepth := 20) (contextual := true) [execChipletResetRelease, hs]

@[simp] theorem execRedispatch_ok (p : Nat) {s : State} (hs : s.MemoryOk) :
    Kept (execRedispatch p s) := by
  simp (maxDischargeDepth := 20) (contextual := true) [execRedispatch, hs]

@[simp] theorem execUcieFrameReceive_ok (p : Nat) (toHub tagOk : Bool) {s : State} (hs : s.MemoryOk) :
    Kept (execUcieFrameReceive p toHub tagOk s) := by
  simp (maxDischargeDepth := 20) (contextual := true) [execUcieFrameReceive, hs]

/-! ### Registers -/

@[simp] theorem stateOf_ok {s : State} {a : Answer} (hs : s.MemoryOk) (ha : Kept a) : (stateOf s a).MemoryOk := by
  unfold stateOf
  split
  · next h => exact ha _ rfl
  · exact hs
  · exact hs

@[simp] theorem writeSdn_ok {s : State} (v : Word) (hs : s.MemoryOk) :
    (writeSdn s v).MemoryOk := by
  simp (maxDischargeDepth := 20) (contextual := true) [writeSdn, hs]

@[simp] theorem execSdnGo_ok (v : BitVec 64) {s : State} (hs : s.MemoryOk) :
    Kept (execSdnGo v s) := by
  simp (maxDischargeDepth := 20) (contextual := true) [execSdnGo, hs]

@[simp] theorem execShootdownComplete_ok {s : State} (hs : s.MemoryOk) :
    Kept (execShootdownComplete s) := by
  unfold execShootdownComplete; (repeat' split) <;> (try have hw := runningGroup_wf hs (by assumption)) <;> (try have hw := runningTask_wf hs (by assumption)) <;> (try have hk := kept_some (by assumption) (by simp (maxDischargeDepth := 20) (contextual := true) [*])) <;> (try have hk := kept_pair (by assumption) (by simp (maxDischargeDepth := 20) (contextual := true) [*])) <;> (try have hk := kept_answer (by assumption) (by simp (maxDischargeDepth := 20) (contextual := true) [*])) <;> (try simp (maxDischargeDepth := 20) (contextual := true) [*]) <;> ((repeat' split) <;> simp (maxDischargeDepth := 20) (contextual := true) [*])

@[simp] theorem hartMail_ok {s : State} (hart : Nat) (data : Word) (hs : s.MemoryOk) :
    (hartMail s hart data).MemoryOk := by
  unfold hartMail; dsimp only; (repeat' split) <;> (try have hw := runningGroup_wf hs (by assumption)) <;> (try have hw := runningTask_wf hs (by assumption)) <;> (try have hk := kept_some (by assumption) (by simp (maxDischargeDepth := 20) (contextual := true) [*])) <;> (try have hk := kept_pair (by assumption) (by simp (maxDischargeDepth := 20) (contextual := true) [*])) <;> (try have hk := kept_answer (by assumption) (by simp (maxDischargeDepth := 20) (contextual := true) [*])) <;> (try simp (maxDischargeDepth := 20) (contextual := true) [*]) <;> ((repeat' split) <;> simp (maxDischargeDepth := 20) (contextual := true) [*])

@[simp] theorem execCmbxSend_ok (hart : Nat) (data : BitVec 64) {s : State} (hs : s.MemoryOk) :
    Kept (execCmbxSend hart data s) := by
  unfold execCmbxSend; (repeat' first | split | (refine ranged_ok _ _ ?_; try dsimp only) | (refine listed_ok _ _ _ _ _ _ (fun _ _ => ?_); try dsimp only) | (refine unitWord_ok _ (by assumption) fun _ _ _ => ?_; try dsimp only) | (refine queueWord_ok _ (by assumption) fun _ _ _ _ => ?_; try dsimp only) | (refine matrixWord_ok (by assumption) fun _ _ _ => ?_; try dsimp only) | (refine vectorWord_ok (by assumption) fun _ _ _ _ _ => ?_; try dsimp only) | (refine laneWordOnly_ok (by assumption) fun _ _ _ _ _ _ => ?_; try dsimp only) | (refine sysWord_ok _ (by assumption) fun _ _ _ => ?_; try dsimp only) | (refine Pick_bind_ok fun _ => ?_; try dsimp only) | (refine checked_ok ?_; try dsimp only)) <;> (try have hw := runningGroup_wf hs (by assumption)) <;> (try have hw := runningTask_wf hs (by assumption)) <;> (try have hk := kept_some (by assumption) (by simp (maxDischargeDepth := 20) (contextual := true) [*])) <;> (try have hk := kept_pair (by assumption) (by simp (maxDischargeDepth := 20) (contextual := true) [*])) <;> (try have hk := kept_answer (by assumption) (by simp (maxDischargeDepth := 20) (contextual := true) [*])) <;> simp (maxDischargeDepth := 20) (contextual := true) [*]

@[simp] theorem execCmbxPop_ok (hart : Nat) {s : State} (hs : s.MemoryOk) :
    Kept (execCmbxPop hart s) := by
  unfold execCmbxPop; (repeat' split) <;> simp (maxDischargeDepth := 20) (contextual := true) [*]

@[simp] theorem afterRead_ok {s : State} (r : RegName) (i : Nat) (hs : s.MemoryOk) :
    (afterRead s r i).MemoryOk := by
  unfold afterRead; (repeat' split) <;> simp (maxDischargeDepth := 20) (contextual := true) [*]

@[simp] theorem writeDqCtl_ok {s : State} (i n : Nat) (hs : s.MemoryOk) :
    (writeDqCtl s i n).MemoryOk := by
  simp (maxDischargeDepth := 20) (contextual := true) [writeDqCtl, hs]

@[simp] theorem writeJrnlBase_ok {s : State} (n : Nat) (hs : s.MemoryOk) :
    (writeJrnlBase s n).MemoryOk := by
  simp (maxDischargeDepth := 20) (contextual := true) [writeJrnlBase, hs]

@[simp] theorem writeJrnlCtl_ok {s : State} (n : Nat) (hs : s.MemoryOk) :
    (writeJrnlCtl s n).MemoryOk := by
  simp (maxDischargeDepth := 20) (contextual := true) [writeJrnlCtl, hs]

@[simp] theorem writeFlogCtl_ok {s : State} (i n : Nat) (hs : s.MemoryOk) :
    (writeFlogCtl s i n).MemoryOk := by
  simp (maxDischargeDepth := 20) (contextual := true) [writeFlogCtl, hs]

@[simp] theorem writeUnitCmd_ok {s : State} (op : Nat) (hs : s.MemoryOk) :
    (writeUnitCmd s op).MemoryOk := by
  unfold writeUnitCmd; (repeat' split) <;> simp (maxDischargeDepth := 20) (contextual := true) [*]

@[simp] theorem writeChanWidth_ok {s : State} (c n : Nat) (hs : s.MemoryOk) :
    (writeChanWidth s c n).MemoryOk := by
  simp (maxDischargeDepth := 20) (contextual := true) [writeChanWidth, hs]

@[simp] theorem writeWbGst_ok {s : State} (i n : Nat) (hs : s.MemoryOk) :
    (writeWbGst s i n).MemoryOk := by
  unfold writeWbGst; (repeat' split) <;> simp (maxDischargeDepth := 20) (contextual := true) [*]

@[simp] theorem writeTrcCtl_ok {s : State} (i n : Nat) (hs : s.MemoryOk) :
    (writeTrcCtl s i n).MemoryOk := by
  simp (maxDischargeDepth := 20) (contextual := true) [writeTrcCtl, hs]

@[simp] theorem writeReg_ok {s : State} (r : HubReg) (i : Nat) (v : Word) (hs : s.MemoryOk) :
    (writeReg s r i v).MemoryOk := by
  unfold writeReg; (repeat' split) <;> simp (maxDischargeDepth := 20) (contextual := true) [*]

@[simp] theorem execRegisterWrite_ok {s : State} (r : HubReg) (idx : Nat) (v : BitVec 64) (hs : s.MemoryOk) :
    Kept (execRegisterWrite r idx v s) := by
  unfold execRegisterWrite; (repeat' split) <;> (try have hk := kept_some (by assumption) (by simp (maxDischargeDepth := 20) (contextual := true) [*])) <;> (try have hk := kept_pair (by assumption) (by simp (maxDischargeDepth := 20) (contextual := true) [*])) <;> (try have hk := kept_answer (by assumption) (by simp (maxDischargeDepth := 20) (contextual := true) [*])) <;> (try simp (maxDischargeDepth := 20) (contextual := true) [*]) <;> ((repeat' split) <;> simp (maxDischargeDepth := 20) (contextual := true) [*])

@[simp] theorem writePart_ok {s : State} (r : RegName) (i o : Nat) (bs : List Byte) (hs : s.MemoryOk) :
    (writePart s r i o bs).MemoryOk := by
  unfold writePart; (repeat' split) <;> simp (maxDischargeDepth := 20) (contextual := true) [*]

@[simp] theorem winRead_ok {s : State} (p : WinPart) (n : Nat) (hs : s.MemoryOk) :
    (winRead s p n).1.MemoryOk := by
  unfold winRead; (repeat' split) <;> simp (maxDischargeDepth := 20) (contextual := true) [*]

@[simp] theorem winWrite_ok {s : State} (p : WinPart) (bs : List Byte) (hs : s.MemoryOk) :
    (winWrite s p bs).state.MemoryOk := by
  unfold winWrite; (repeat' split) <;> simp (maxDischargeDepth := 20) (contextual := true) [*]

/-! ### Access -/

@[simp] theorem makeNow_ok {s : State} (kind : CoreKind) (c world : Nat) (t : Target) (m : MemOp) (hs : s.MemoryOk) :
    (makeNow s kind c world t m).1.state.MemoryOk := by
  unfold makeNow
  try dsimp only
  (repeat' split) <;> simp [hs]

@[simp] theorem issueAll_ok (kind : CoreKind) (c grp : Nat) (qs : List Ask) {s : State} (hs : s.MemoryOk) :
    (issueAll kind c grp qs s).1.MemoryOk := by
  induction qs generalizing s with
  | nil => simpa [issueAll] using hs
  | cons q rest ih =>
    unfold issueAll
    dsimp only
    split
    · exact ih hs
    · split
      · exact ih (same_ok (makeNow_ok _ _ _ _ _ hs) rfl)
      · exact ih (same_ok hs rfl)

@[simp] theorem faultEffects_ok (kind : CoreKind) (c : Nat) {s : State} (q : Ask) (hs : s.MemoryOk) :
    (faultEffects kind c s q).MemoryOk := by
  unfold faultEffects
  try dsimp only
  (repeat' split) <;> first | exact hs | exact makeNow_ok _ _ _ _ _ hs

@[simp] theorem memWord_ok {s : State} (cur : Cursor) (f : Ctx → Thread → Except Cause MemOp) (hs : s.MemoryOk) :
    Kept (memWord s cur f) := by
  unfold memWord
  split
  · split
    · simp
    · dsimp only
      split
      · exact (kept_next _).2 (laneException_ok _ _ _ _ _ _ (foldl_ok (fun s q h => faultEffects_ok _ _ q h) hs _))
      · simp [hs]
      · next e => have := kept_pair e (issueAll_ok .lane _ _ _ hs); simp (maxDischargeDepth := 20) [this]
  · split
    · split
      · simp
      · next k t h =>
        dsimp only
        (repeat' split) <;> simp (maxDischargeDepth := 20) [hs]
    · simp

@[simp] theorem loadWord_ok (size : Nat) (ext : Bool) (d a : BitVec 5) (imm : BitVec 12) {s : State} (hs : s.MemoryOk) :
    Kept (loadWord size ext d a imm s) := by
  simp (maxDischargeDepth := 20) (contextual := true) [loadWord, hs]

@[simp] theorem acquireWord_ok (size : Nat) (ext : Bool) (d a : BitVec 5) (scope : BitVec 3) (imm : BitVec 9) {s : State} (hs : s.MemoryOk) :
    Kept (acquireWord size ext d a scope imm s) := by
  simp (maxDischargeDepth := 20) (contextual := true) [acquireWord, hs]

@[simp] theorem storeWord_ok (size : Nat) (d a : BitVec 5) (imm : BitVec 12) {s : State} (hs : s.MemoryOk) :
    Kept (storeWord size d a imm s) := by
  simp (maxDischargeDepth := 20) (contextual := true) [storeWord, hs]

@[simp] theorem releaseWord_ok (size : Nat) (d a : BitVec 5) (scope : BitVec 3) (imm : BitVec 9) {s : State} (hs : s.MemoryOk) :
    Kept (releaseWord size d a scope imm s) := by
  simp (maxDischargeDepth := 20) (contextual := true) [releaseWord, hs]

@[simp] theorem execLdB_ok (d a : BitVec 5) (imm : BitVec 12) {s : State} (hs : s.MemoryOk) :
    Kept (execLdB d a imm s) := by
  simp (maxDischargeDepth := 20) (contextual := true) [execLdB, hs]

@[simp] theorem execLdBu_ok (d a : BitVec 5) (imm : BitVec 12) {s : State} (hs : s.MemoryOk) :
    Kept (execLdBu d a imm s) := by
  simp (maxDischargeDepth := 20) (contextual := true) [execLdBu, hs]

@[simp] theorem execLdH_ok (d a : BitVec 5) (imm : BitVec 12) {s : State} (hs : s.MemoryOk) :
    Kept (execLdH d a imm s) := by
  simp (maxDischargeDepth := 20) (contextual := true) [execLdH, hs]

@[simp] theorem execLdHu_ok (d a : BitVec 5) (imm : BitVec 12) {s : State} (hs : s.MemoryOk) :
    Kept (execLdHu d a imm s) := by
  simp (maxDischargeDepth := 20) (contextual := true) [execLdHu, hs]

@[simp] theorem execLdW_ok (d a : BitVec 5) (imm : BitVec 12) {s : State} (hs : s.MemoryOk) :
    Kept (execLdW d a imm s) := by
  simp (maxDischargeDepth := 20) (contextual := true) [execLdW, hs]

@[simp] theorem execLdWu_ok (d a : BitVec 5) (imm : BitVec 12) {s : State} (hs : s.MemoryOk) :
    Kept (execLdWu d a imm s) := by
  simp (maxDischargeDepth := 20) (contextual := true) [execLdWu, hs]

@[simp] theorem execLdD_ok (d a : BitVec 5) (imm : BitVec 12) {s : State} (hs : s.MemoryOk) :
    Kept (execLdD d a imm s) := by
  simp (maxDischargeDepth := 20) (contextual := true) [execLdD, hs]

@[simp] theorem execLdBAcq_ok (d a : BitVec 5) (scope : BitVec 3) (imm : BitVec 9) {s : State} (hs : s.MemoryOk) :
    Kept (execLdBAcq d a scope imm s) := by
  simp (maxDischargeDepth := 20) (contextual := true) [execLdBAcq, hs]

@[simp] theorem execLdBuAcq_ok (d a : BitVec 5) (scope : BitVec 3) (imm : BitVec 9) {s : State} (hs : s.MemoryOk) :
    Kept (execLdBuAcq d a scope imm s) := by
  simp (maxDischargeDepth := 20) (contextual := true) [execLdBuAcq, hs]

@[simp] theorem execLdHAcq_ok (d a : BitVec 5) (scope : BitVec 3) (imm : BitVec 9) {s : State} (hs : s.MemoryOk) :
    Kept (execLdHAcq d a scope imm s) := by
  simp (maxDischargeDepth := 20) (contextual := true) [execLdHAcq, hs]

@[simp] theorem execLdHuAcq_ok (d a : BitVec 5) (scope : BitVec 3) (imm : BitVec 9) {s : State} (hs : s.MemoryOk) :
    Kept (execLdHuAcq d a scope imm s) := by
  simp (maxDischargeDepth := 20) (contextual := true) [execLdHuAcq, hs]

@[simp] theorem execLdWAcq_ok (d a : BitVec 5) (scope : BitVec 3) (imm : BitVec 9) {s : State} (hs : s.MemoryOk) :
    Kept (execLdWAcq d a scope imm s) := by
  simp (maxDischargeDepth := 20) (contextual := true) [execLdWAcq, hs]

@[simp] theorem execLdWuAcq_ok (d a : BitVec 5) (scope : BitVec 3) (imm : BitVec 9) {s : State} (hs : s.MemoryOk) :
    Kept (execLdWuAcq d a scope imm s) := by
  simp (maxDischargeDepth := 20) (contextual := true) [execLdWuAcq, hs]

@[simp] theorem execLdDAcq_ok (d a : BitVec 5) (scope : BitVec 3) (imm : BitVec 9) {s : State} (hs : s.MemoryOk) :
    Kept (execLdDAcq d a scope imm s) := by
  simp (maxDischargeDepth := 20) (contextual := true) [execLdDAcq, hs]

@[simp] theorem execStB_ok (d a : BitVec 5) (imm : BitVec 12) {s : State} (hs : s.MemoryOk) :
    Kept (execStB d a imm s) := by
  simp (maxDischargeDepth := 20) (contextual := true) [execStB, hs]

@[simp] theorem execStH_ok (d a : BitVec 5) (imm : BitVec 12) {s : State} (hs : s.MemoryOk) :
    Kept (execStH d a imm s) := by
  simp (maxDischargeDepth := 20) (contextual := true) [execStH, hs]

@[simp] theorem execStW_ok (d a : BitVec 5) (imm : BitVec 12) {s : State} (hs : s.MemoryOk) :
    Kept (execStW d a imm s) := by
  simp (maxDischargeDepth := 20) (contextual := true) [execStW, hs]

@[simp] theorem execStD_ok (d a : BitVec 5) (imm : BitVec 12) {s : State} (hs : s.MemoryOk) :
    Kept (execStD d a imm s) := by
  simp (maxDischargeDepth := 20) (contextual := true) [execStD, hs]

@[simp] theorem execStBRel_ok (d a : BitVec 5) (scope : BitVec 3) (imm : BitVec 9) {s : State} (hs : s.MemoryOk) :
    Kept (execStBRel d a scope imm s) := by
  simp (maxDischargeDepth := 20) (contextual := true) [execStBRel, hs]

@[simp] theorem execStHRel_ok (d a : BitVec 5) (scope : BitVec 3) (imm : BitVec 9) {s : State} (hs : s.MemoryOk) :
    Kept (execStHRel d a scope imm s) := by
  simp (maxDischargeDepth := 20) (contextual := true) [execStHRel, hs]

@[simp] theorem execStWRel_ok (d a : BitVec 5) (scope : BitVec 3) (imm : BitVec 9) {s : State} (hs : s.MemoryOk) :
    Kept (execStWRel d a scope imm s) := by
  simp (maxDischargeDepth := 20) (contextual := true) [execStWRel, hs]

@[simp] theorem execStDRel_ok (d a : BitVec 5) (scope : BitVec 3) (imm : BitVec 9) {s : State} (hs : s.MemoryOk) :
    Kept (execStDRel d a scope imm s) := by
  simp (maxDischargeDepth := 20) (contextual := true) [execStDRel, hs]

@[simp] theorem amoWord_ok (op : AmoOp) (fp : Bool) (d a b : BitVec 5) (scope : BitVec 3) (size : BitVec 2) {s : State} (hs : s.MemoryOk) :
    Kept (amoWord op fp d a b scope size s) := by
  simp (maxDischargeDepth := 20) (contextual := true) [amoWord, hs]

@[simp] theorem redWord_ok (op : AmoOp) (fp : Bool) (a b : BitVec 5) (scope : BitVec 3) (size : BitVec 2) {s : State} (hs : s.MemoryOk) :
    Kept (redWord op fp a b scope size s) := by
  simp (maxDischargeDepth := 20) (contextual := true) [redWord, hs]

@[simp] theorem execAmoAdd_ok (d a b : BitVec 5) (scope : BitVec 3) (size : BitVec 2) {s : State} (hs : s.MemoryOk) :
    Kept (execAmoAdd d a b scope size s) := by
  simp (maxDischargeDepth := 20) (contextual := true) [execAmoAdd, hs]

@[simp] theorem execAmoAnd_ok (d a b : BitVec 5) (scope : BitVec 3) (size : BitVec 2) {s : State} (hs : s.MemoryOk) :
    Kept (execAmoAnd d a b scope size s) := by
  simp (maxDischargeDepth := 20) (contextual := true) [execAmoAnd, hs]

@[simp] theorem execAmoOr_ok (d a b : BitVec 5) (scope : BitVec 3) (size : BitVec 2) {s : State} (hs : s.MemoryOk) :
    Kept (execAmoOr d a b scope size s) := by
  simp (maxDischargeDepth := 20) (contextual := true) [execAmoOr, hs]

@[simp] theorem execAmoXor_ok (d a b : BitVec 5) (scope : BitVec 3) (size : BitVec 2) {s : State} (hs : s.MemoryOk) :
    Kept (execAmoXor d a b scope size s) := by
  simp (maxDischargeDepth := 20) (contextual := true) [execAmoXor, hs]

@[simp] theorem execAmoMin_ok (d a b : BitVec 5) (scope : BitVec 3) (size : BitVec 2) {s : State} (hs : s.MemoryOk) :
    Kept (execAmoMin d a b scope size s) := by
  simp (maxDischargeDepth := 20) (contextual := true) [execAmoMin, hs]

@[simp] theorem execAmoMax_ok (d a b : BitVec 5) (scope : BitVec 3) (size : BitVec 2) {s : State} (hs : s.MemoryOk) :
    Kept (execAmoMax d a b scope size s) := by
  simp (maxDischargeDepth := 20) (contextual := true) [execAmoMax, hs]

@[simp] theorem execAmoMinu_ok (d a b : BitVec 5) (scope : BitVec 3) (size : BitVec 2) {s : State} (hs : s.MemoryOk) :
    Kept (execAmoMinu d a b scope size s) := by
  simp (maxDischargeDepth := 20) (contextual := true) [execAmoMinu, hs]

@[simp] theorem execAmoMaxu_ok (d a b : BitVec 5) (scope : BitVec 3) (size : BitVec 2) {s : State} (hs : s.MemoryOk) :
    Kept (execAmoMaxu d a b scope size s) := by
  simp (maxDischargeDepth := 20) (contextual := true) [execAmoMaxu, hs]

@[simp] theorem execAmoSwap_ok (d a b : BitVec 5) (scope : BitVec 3) (size : BitVec 2) {s : State} (hs : s.MemoryOk) :
    Kept (execAmoSwap d a b scope size s) := by
  simp (maxDischargeDepth := 20) (contextual := true) [execAmoSwap, hs]

@[simp] theorem execAmoCas_ok (d a b : BitVec 5) (scope : BitVec 3) (size : BitVec 2) {s : State} (hs : s.MemoryOk) :
    Kept (execAmoCas d a b scope size s) := by
  simp (maxDischargeDepth := 20) (contextual := true) [execAmoCas, hs]

@[simp] theorem execAmoAddF32_ok (d a b : BitVec 5) (scope : BitVec 3) (size : BitVec 2) {s : State} (hs : s.MemoryOk) :
    Kept (execAmoAddF32 d a b scope size s) := by
  simp (maxDischargeDepth := 20) (contextual := true) [execAmoAddF32, hs]

@[simp] theorem execAmoMinF32_ok (d a b : BitVec 5) (scope : BitVec 3) (size : BitVec 2) {s : State} (hs : s.MemoryOk) :
    Kept (execAmoMinF32 d a b scope size s) := by
  simp (maxDischargeDepth := 20) (contextual := true) [execAmoMinF32, hs]

@[simp] theorem execAmoMaxF32_ok (d a b : BitVec 5) (scope : BitVec 3) (size : BitVec 2) {s : State} (hs : s.MemoryOk) :
    Kept (execAmoMaxF32 d a b scope size s) := by
  simp (maxDischargeDepth := 20) (contextual := true) [execAmoMaxF32, hs]

@[simp] theorem execAmoCasF32_ok (d a b : BitVec 5) (scope : BitVec 3) (size : BitVec 2) {s : State} (hs : s.MemoryOk) :
    Kept (execAmoCasF32 d a b scope size s) := by
  simp (maxDischargeDepth := 20) (contextual := true) [execAmoCasF32, hs]

@[simp] theorem execRedAdd_ok (a b : BitVec 5) (scope : BitVec 3) (size : BitVec 2) {s : State} (hs : s.MemoryOk) :
    Kept (execRedAdd a b scope size s) := by
  simp (maxDischargeDepth := 20) (contextual := true) [execRedAdd, hs]

@[simp] theorem execRedAnd_ok (a b : BitVec 5) (scope : BitVec 3) (size : BitVec 2) {s : State} (hs : s.MemoryOk) :
    Kept (execRedAnd a b scope size s) := by
  simp (maxDischargeDepth := 20) (contextual := true) [execRedAnd, hs]

@[simp] theorem execRedOr_ok (a b : BitVec 5) (scope : BitVec 3) (size : BitVec 2) {s : State} (hs : s.MemoryOk) :
    Kept (execRedOr a b scope size s) := by
  simp (maxDischargeDepth := 20) (contextual := true) [execRedOr, hs]

@[simp] theorem execRedXor_ok (a b : BitVec 5) (scope : BitVec 3) (size : BitVec 2) {s : State} (hs : s.MemoryOk) :
    Kept (execRedXor a b scope size s) := by
  simp (maxDischargeDepth := 20) (contextual := true) [execRedXor, hs]

@[simp] theorem execRedMin_ok (a b : BitVec 5) (scope : BitVec 3) (size : BitVec 2) {s : State} (hs : s.MemoryOk) :
    Kept (execRedMin a b scope size s) := by
  simp (maxDischargeDepth := 20) (contextual := true) [execRedMin, hs]

@[simp] theorem execRedMax_ok (a b : BitVec 5) (scope : BitVec 3) (size : BitVec 2) {s : State} (hs : s.MemoryOk) :
    Kept (execRedMax a b scope size s) := by
  simp (maxDischargeDepth := 20) (contextual := true) [execRedMax, hs]

@[simp] theorem execRedMinu_ok (a b : BitVec 5) (scope : BitVec 3) (size : BitVec 2) {s : State} (hs : s.MemoryOk) :
    Kept (execRedMinu a b scope size s) := by
  simp (maxDischargeDepth := 20) (contextual := true) [execRedMinu, hs]

@[simp] theorem execRedMaxu_ok (a b : BitVec 5) (scope : BitVec 3) (size : BitVec 2) {s : State} (hs : s.MemoryOk) :
    Kept (execRedMaxu a b scope size s) := by
  simp (maxDischargeDepth := 20) (contextual := true) [execRedMaxu, hs]

@[simp] theorem execRedAddF32_ok (a b : BitVec 5) (scope : BitVec 3) (size : BitVec 2) {s : State} (hs : s.MemoryOk) :
    Kept (execRedAddF32 a b scope size s) := by
  simp (maxDischargeDepth := 20) (contextual := true) [execRedAddF32, hs]

/-! ### RegWindow -/

/-- A spill that goes on leaves memory in canonical form. -/
def KeptSpill {α : Type} (o : SpillOut (State × α)) : Prop := ∀ p, o = .ok p → p.1.MemoryOk

theorem directCore_ok {s : State} (q : Ask) (base : Nat) (t : Target) (hs : s.MemoryOk) : (directCore s q base t).1.state.MemoryOk := by
  unfold directCore
  dsimp only
  (repeat' split) <;> simp (maxDischargeDepth := 20) [hs]

@[simp] theorem direct_ok {s : State} (q : Ask) (base : Nat) (t : Target) (hs : s.MemoryOk) : KeptSpill (direct s q base t) := by
  intro p hp
  unfold direct at hp
  split at hp
  · dsimp only at hp
    repeat' split at hp
    all_goals first | (simp at hp; done) | (simp only [SpillOut.ok.injEq] at hp; subst hp; simp (maxDischargeDepth := 20) [hs])
  · dsimp only at hp
    repeat' split at hp
    all_goals first | (simp at hp; done) | (simp only [SpillOut.ok.injEq] at hp; subst hp; exact directCore_ok _ _ _ hs)

@[simp] theorem spillAccess_ok (x : Ctx) (a : Agent) (o : Origin) (scr : Nat × Nat) (k : AccKind) (va v : Word) {s : State}
    (hs : s.MemoryOk) : KeptSpill (spillAccess x a o scr k va v s) := by
  intro p hp
  unfold spillAccess at hp
  dsimp only at hp
  repeat' split at hp
  all_goals first | (simp at hp; done) | exact direct_ok _ _ _ hs _ hp

theorem storeWords_ok (x : Ctx) (a : Agent) (o : Origin) (scr : Nat × Nat) (vs : List Word) : ∀ (va : Word) {s : State}, s.MemoryOk →
    ∀ t, storeWords x a o scr vs va s = .ok t → t.MemoryOk := by
  induction vs with
  | nil => intro va s hs t ht; simp only [storeWords, SpillOut.ok.injEq] at ht; exact ht ▸ hs
  | cons v rest ih =>
    intro va s hs t ht
    unfold storeWords at ht
    split at ht
    · next e => exact ih _ (spillAccess_ok x a o scr .store va v hs _ e) t ht
    · simp at ht
    · simp at ht

theorem loadWords_ok (x : Ctx) (a : Agent) (o : Origin) (scr : Nat × Nat) (n : Nat) : ∀ (va : Word) {s : State}, s.MemoryOk →
    KeptSpill (loadWords x a o scr n va s) := by
  induction n with
  | zero => intro va s hs p hp; simp only [loadWords, SpillOut.ok.injEq] at hp; exact hp ▸ hs
  | succ n ih =>
    intro va s hs p hp
    unfold loadWords at hp
    split at hp
    · simp at hp
    · simp at hp
    · next e =>
      have h1 := spillAccess_ok x a o scr .load va 0 hs _ e
      split at hp
      · next e2 => simp only [SpillOut.ok.injEq] at hp; subst hp; exact (ih _ h1 _ e2 :)
      · simp at hp
      · simp at hp

theorem spillFor_ok (x : Ctx) (a : Agent) (o : Origin) (scr : Nat × Nat) (n fuel : Nat) : ∀ (t : Thread) {s : State}, s.MemoryOk →
    KeptSpill (spillFor x a o scr n fuel t s) := by
  induction fuel with
  | zero => intro t s hs p hp; simp only [spillFor, SpillOut.ok.injEq] at hp; exact hp ▸ hs
  | succ fuel ih =>
    intro t s hs p hp
    unfold spillFor at hp
    dsimp only at hp
    split at hp
    · simp only [SpillOut.ok.injEq] at hp; exact hp ▸ hs
    · split at hp
      · simp only [SpillOut.ok.injEq] at hp; exact hp ▸ hs
      · split at hp
        · simp at hp
        · split at hp
          · simp at hp
          · simp at hp
          · next e => exact ih _ (storeWords_ok x a o scr _ _ hs _ e) _ hp

theorem callThread_ok (x : Ctx) (a : Agent) (o : Origin) (scr : Nat × Nat) (n : Nat) (t : Thread) {s : State} (hs : s.MemoryOk) :
    KeptSpill (callThread x a o scr n t s) := by
  intro p hp
  unfold callThread at hp
  split at hp
  · simp at hp
  · split at hp
    · simp at hp
    · split at hp
      · simp at hp
      · simp at hp
      · next e => simp only [SpillOut.ok.injEq] at hp; subst hp; exact (spillFor_ok x a o scr n _ t hs _ e :)

theorem returnThread_ok (x : Ctx) (a : Agent) (o : Origin) (scr : Nat × Nat) (t : Thread) {s : State} (hs : s.MemoryOk) :
    KeptSpill (returnThread x a o scr t s) := by
  intro p hp
  unfold returnThread at hp
  dsimp only at hp
  split at hp
  · simp at hp
  · split at hp
    · simp only [SpillOut.ok.injEq] at hp; subst hp; exact hs
    · split at hp
      · simp only [SpillOut.ok.injEq] at hp; subst hp; exact hs
      · split at hp
        · simp at hp
        · simp at hp
        · next e =>
          have h1 := spillAccess_ok x a o scr .load _ 0 hs _ e
          split at hp
          · simp at hp
          · split at hp
            · simp at hp
            · simp at hp
            · next e2 => simp only [SpillOut.ok.injEq] at hp; subst hp; exact (loadWords_ok x a o scr _ _ h1 _ e2 :)

theorem windowLanes_ok {f : Ctx → Agent → Origin → Nat × Nat → Thread → State → SpillOut (State × Thread)}
    (hf : ∀ x a o scr t s, s.MemoryOk → KeptSpill (f x a o scr t s)) (x : Ctx) (o : Origin) (scr : Nat × Nat) (w : Warp)
    (ls : List Nat) : ∀ {s : State}, s.MemoryOk → (windowLanes f x o scr w ls s).1.MemoryOk := by
  induction ls with
  | nil => intro s hs; exact hs
  | cons l rest ih =>
    intro s hs
    unfold windowLanes
    split
    · exact ih hs
    · dsimp only
      split
      · next e => exact ih (hf _ _ _ _ _ _ hs _ e)
      · exact ih hs
      · exact ih hs

theorem windowWord_ok {s : State} (ok : Bool) {f : Ctx → Agent → Origin → Nat × Nat → Thread → State → SpillOut (State × Thread)}
    (hs : s.MemoryOk) (hf : ∀ x a o scr t s, s.MemoryOk → KeptSpill (f x a o scr t s)) : Kept (windowWord s ok f) := by
  unfold windowWord
  split
  · simp (maxDischargeDepth := 20) [hs]
  · split
    · simp
    · dsimp only
      split
      · simp (maxDischargeDepth := 20) [hs]
      · simp [hs]
      · next e =>
        have h1 := kept_pair e (windowLanes_ok hf _ _ _ _ _ hs)
        simp (maxDischargeDepth := 20) [h1]

@[simp] theorem execCallw_ok (n : BitVec 12) {s : State} (hs : s.MemoryOk) : Kept (execCallw n s) :=
  windowWord_ok _ hs fun x a o scr t _ h => callThread_ok x a o scr _ t h

@[simp] theorem execRetw_ok {s : State} (hs : s.MemoryOk) : Kept (execRetw s) :=
  windowWord_ok _ hs fun x a o scr t _ h => returnThread_ok x a o scr t h

@[simp] theorem execOutcomeTake_ok (core : Nat) (cur : Cursor) {s : State} (hs : s.MemoryOk) :
    Kept (execOutcomeTake core cur s) := by
  unfold execOutcomeTake; (repeat' split) <;> (try have hw := runningGroup_wf hs (by assumption)) <;> (try have hw := runningTask_wf hs (by assumption)) <;> (try have hk := kept_some (by assumption) (by simp (maxDischargeDepth := 20) (contextual := true) [*])) <;> (try have hk := kept_pair (by assumption) (by simp (maxDischargeDepth := 20) (contextual := true) [*])) <;> (try have hk := kept_answer (by assumption) (by simp (maxDischargeDepth := 20) (contextual := true) [*])) <;> simp (maxDischargeDepth := 20) (contextual := true) [*]

/-! ### Copy -/

theorem ranged_ok {s : State} (x : Issuer) (gs : List Seg) {f : Issue} (hf : KeptIssue f) : KeptIssue (ranged s x gs f) := by
  unfold ranged
  (repeat' split) <;> simp [hf]

@[simp] theorem onBatch_ok {s : State} (a : Agent) (f : Batches → Batches) (hs : s.MemoryOk) :
    (onBatch s a f).MemoryOk := by
  simp (maxDischargeDepth := 20) (contextual := true) [onBatch, hs]

@[simp] theorem issueCopy_ok {s : State} (x : Issuer) (k : CopyKind) (ps : List Piece) (pins : List Nat) (failed : Bool) (hs : s.MemoryOk) :
    (issueCopy s x k ps pins failed).MemoryOk := by
  simp (maxDischargeDepth := 20) (contextual := true) [issueCopy, hs]

@[simp] theorem issueEmpty_ok {s : State} (x : Issuer) (hs : s.MemoryOk) :
    (issueEmpty s x).MemoryOk := by
  simp (maxDischargeDepth := 20) (contextual := true) [issueEmpty, hs]

@[simp] theorem startFill_ok {s : State} (x : Issuer) (n : Nat) (q : Option Nat) (hs : s.MemoryOk) :
    (startFill s x n q).MemoryOk := by
  unfold startFill; (repeat' split) <;> simp (maxDischargeDepth := 20) (contextual := true) [*]

@[simp] theorem execTld_ok (td ta : BitVec 6) {s : State} (hs : s.MemoryOk) :
    Kept (execTld td ta s) := by
  unfold execTld; (repeat' first | split | (refine ranged_ok _ _ ?_; try dsimp only) | (refine listed_ok _ _ _ _ _ _ (fun _ _ => ?_); try dsimp only) | (refine unitWord_ok _ (by assumption) fun _ _ _ => ?_; try dsimp only) | (refine queueWord_ok _ (by assumption) fun _ _ _ _ => ?_; try dsimp only) | (refine matrixWord_ok (by assumption) fun _ _ _ => ?_; try dsimp only) | (refine vectorWord_ok (by assumption) fun _ _ _ _ _ => ?_; try dsimp only) | (refine laneWordOnly_ok (by assumption) fun _ _ _ _ _ _ => ?_; try dsimp only) | (refine sysWord_ok _ (by assumption) fun _ _ _ => ?_; try dsimp only) | (refine Pick_bind_ok fun _ => ?_; try dsimp only) | (refine checked_ok ?_; try dsimp only)) <;> (try have hw := runningGroup_wf hs (by assumption)) <;> (try have hw := runningTask_wf hs (by assumption)) <;> (try have hk := kept_some (by assumption) (by simp (maxDischargeDepth := 20) (contextual := true) [*])) <;> (try have hk := kept_pair (by assumption) (by simp (maxDischargeDepth := 20) (contextual := true) [*])) <;> (try have hk := kept_answer (by assumption) (by simp (maxDischargeDepth := 20) (contextual := true) [*])) <;> simp (maxDischargeDepth := 20) (contextual := true) [*]

@[simp] theorem startDrain_ok {s : State} (x : Issuer) (n : Nat) (q : Option Nat) (hs : s.MemoryOk) :
    (startDrain s x n q).MemoryOk := by
  unfold startDrain; (repeat' split) <;> simp (maxDischargeDepth := 20) (contextual := true) [*]

@[simp] theorem tstWord_ok (free : Bool) (ta tb : BitVec 6) {s : State} (hs : s.MemoryOk) :
    Kept (tstWord free ta tb s) := by
  unfold tstWord; (repeat' first | split | (refine ranged_ok _ _ ?_; try dsimp only) | (refine listed_ok _ _ _ _ _ _ (fun _ _ => ?_); try dsimp only) | (refine unitWord_ok _ (by assumption) fun _ _ _ => ?_; try dsimp only) | (refine queueWord_ok _ (by assumption) fun _ _ _ _ => ?_; try dsimp only) | (refine matrixWord_ok (by assumption) fun _ _ _ => ?_; try dsimp only) | (refine vectorWord_ok (by assumption) fun _ _ _ _ _ => ?_; try dsimp only) | (refine laneWordOnly_ok (by assumption) fun _ _ _ _ _ _ => ?_; try dsimp only) | (refine sysWord_ok _ (by assumption) fun _ _ _ => ?_; try dsimp only) | (refine Pick_bind_ok fun _ => ?_; try dsimp only) | (refine checked_ok ?_; try dsimp only)) <;> (try have hw := runningGroup_wf hs (by assumption)) <;> (try have hw := runningTask_wf hs (by assumption)) <;> (try have hk := kept_some (by assumption) (by simp (maxDischargeDepth := 20) (contextual := true) [*])) <;> (try have hk := kept_pair (by assumption) (by simp (maxDischargeDepth := 20) (contextual := true) [*])) <;> (try have hk := kept_answer (by assumption) (by simp (maxDischargeDepth := 20) (contextual := true) [*])) <;> simp (maxDischargeDepth := 20) (contextual := true) [*]

@[simp] theorem execTst_ok (ta tb : BitVec 6) {s : State} (hs : s.MemoryOk) :
    Kept (execTst ta tb s) := by
  simp (maxDischargeDepth := 20) (contextual := true) [execTst, hs]

@[simp] theorem execTstF_ok (ta tb : BitVec 6) {s : State} (hs : s.MemoryOk) :
    Kept (execTstF ta tb s) := by
  simp (maxDischargeDepth := 20) (contextual := true) [execTstF, hs]

theorem listed_ok (s : State) (x : Issuer) (need : Need) (base list : Word) (h : Hdr) {f : Nat → List Seg → Issue}
    (hf : ∀ off gs, KeptIssue (f off gs)) : KeptIssue (listed s x need base list h f) := by
  unfold listed
  split
  · simp
  · exact ranged_ok _ _ (hf _ _)

@[simp] theorem execTgat_ok (td ta tb : BitVec 6) {s : State} (hs : s.MemoryOk) :
    Kept (execTgat td ta tb s) := by
  unfold execTgat; (repeat' first | split | (refine ranged_ok _ _ ?_; try dsimp only) | (refine listed_ok _ _ _ _ _ _ (fun _ _ => ?_); try dsimp only) | (refine unitWord_ok _ (by assumption) fun _ _ _ => ?_; try dsimp only) | (refine queueWord_ok _ (by assumption) fun _ _ _ _ => ?_; try dsimp only) | (refine matrixWord_ok (by assumption) fun _ _ _ => ?_; try dsimp only) | (refine vectorWord_ok (by assumption) fun _ _ _ _ _ => ?_; try dsimp only) | (refine laneWordOnly_ok (by assumption) fun _ _ _ _ _ _ => ?_; try dsimp only) | (refine sysWord_ok _ (by assumption) fun _ _ _ => ?_; try dsimp only) | (refine Pick_bind_ok fun _ => ?_; try dsimp only) | (refine checked_ok ?_; try dsimp only)) <;> (try have hw := runningGroup_wf hs (by assumption)) <;> (try have hw := runningTask_wf hs (by assumption)) <;> (try have hk := kept_some (by assumption) (by simp (maxDischargeDepth := 20) (contextual := true) [*])) <;> (try have hk := kept_pair (by assumption) (by simp (maxDischargeDepth := 20) (contextual := true) [*])) <;> (try have hk := kept_answer (by assumption) (by simp (maxDischargeDepth := 20) (contextual := true) [*])) <;> simp (maxDischargeDepth := 20) (contextual := true) [*]

@[simp] theorem execTsct_ok (td ta tb : BitVec 6) {s : State} (hs : s.MemoryOk) :
    Kept (execTsct td ta tb s) := by
  unfold execTsct; (repeat' first | split | (refine ranged_ok _ _ ?_; try dsimp only) | (refine listed_ok _ _ _ _ _ _ (fun _ _ => ?_); try dsimp only) | (refine unitWord_ok _ (by assumption) fun _ _ _ => ?_; try dsimp only) | (refine queueWord_ok _ (by assumption) fun _ _ _ _ => ?_; try dsimp only) | (refine matrixWord_ok (by assumption) fun _ _ _ => ?_; try dsimp only) | (refine vectorWord_ok (by assumption) fun _ _ _ _ _ => ?_; try dsimp only) | (refine laneWordOnly_ok (by assumption) fun _ _ _ _ _ _ => ?_; try dsimp only) | (refine sysWord_ok _ (by assumption) fun _ _ _ => ?_; try dsimp only) | (refine Pick_bind_ok fun _ => ?_; try dsimp only) | (refine checked_ok ?_; try dsimp only)) <;> (try have hw := runningGroup_wf hs (by assumption)) <;> (try have hw := runningTask_wf hs (by assumption)) <;> (try have hk := kept_some (by assumption) (by simp (maxDischargeDepth := 20) (contextual := true) [*])) <;> (try have hk := kept_pair (by assumption) (by simp (maxDischargeDepth := 20) (contextual := true) [*])) <;> (try have hk := kept_answer (by assumption) (by simp (maxDischargeDepth := 20) (contextual := true) [*])) <;> simp (maxDischargeDepth := 20) (contextual := true) [*]

@[simp] theorem execDcpy_ok (d a b : BitVec 5) {s : State} (hs : s.MemoryOk) :
    Kept (execDcpy d a b s) := by
  unfold execDcpy; (repeat' first | split | (refine ranged_ok _ _ ?_; try dsimp only) | (refine listed_ok _ _ _ _ _ _ (fun _ _ => ?_); try dsimp only) | (refine unitWord_ok _ (by assumption) fun _ _ _ => ?_; try dsimp only) | (refine queueWord_ok _ (by assumption) fun _ _ _ _ => ?_; try dsimp only) | (refine matrixWord_ok (by assumption) fun _ _ _ => ?_; try dsimp only) | (refine vectorWord_ok (by assumption) fun _ _ _ _ _ => ?_; try dsimp only) | (refine laneWordOnly_ok (by assumption) fun _ _ _ _ _ _ => ?_; try dsimp only) | (refine sysWord_ok _ (by assumption) fun _ _ _ => ?_; try dsimp only) | (refine Pick_bind_ok fun _ => ?_; try dsimp only) | (refine checked_ok ?_; try dsimp only)) <;> (try have hw := runningGroup_wf hs (by assumption)) <;> (try have hw := runningTask_wf hs (by assumption)) <;> (try have hk := kept_some (by assumption) (by simp (maxDischargeDepth := 20) (contextual := true) [*])) <;> (try have hk := kept_pair (by assumption) (by simp (maxDischargeDepth := 20) (contextual := true) [*])) <;> (try have hk := kept_answer (by assumption) (by simp (maxDischargeDepth := 20) (contextual := true) [*])) <;> simp (maxDischargeDepth := 20) (contextual := true) [*]

@[simp] theorem execDflag_ok (d a : BitVec 5) (scope : BitVec 3) {s : State} (hs : s.MemoryOk) :
    Kept (execDflag d a scope s) := by
  unfold execDflag; (repeat' first | split | (refine ranged_ok _ _ ?_; try dsimp only) | (refine listed_ok _ _ _ _ _ _ (fun _ _ => ?_); try dsimp only) | (refine unitWord_ok _ (by assumption) fun _ _ _ => ?_; try dsimp only) | (refine queueWord_ok _ (by assumption) fun _ _ _ _ => ?_; try dsimp only) | (refine matrixWord_ok (by assumption) fun _ _ _ => ?_; try dsimp only) | (refine vectorWord_ok (by assumption) fun _ _ _ _ _ => ?_; try dsimp only) | (refine laneWordOnly_ok (by assumption) fun _ _ _ _ _ _ => ?_; try dsimp only) | (refine sysWord_ok _ (by assumption) fun _ _ _ => ?_; try dsimp only) | (refine Pick_bind_ok fun _ => ?_; try dsimp only) | (refine checked_ok ?_; try dsimp only)) <;> (try have hw := runningGroup_wf hs (by assumption)) <;> (try have hw := runningTask_wf hs (by assumption)) <;> (try have hk := kept_some (by assumption) (by simp (maxDischargeDepth := 20) (contextual := true) [*])) <;> (try have hk := kept_pair (by assumption) (by simp (maxDischargeDepth := 20) (contextual := true) [*])) <;> (try have hk := kept_answer (by assumption) (by simp (maxDischargeDepth := 20) (contextual := true) [*])) <;> simp (maxDischargeDepth := 20) (contextual := true) [*]

@[simp] theorem lineWord_ok (k : CopyKind) (a b : BitVec 5) {s : State} (hs : s.MemoryOk) :
    Kept (lineWord k a b s) := by
  unfold lineWord; (repeat' first | split | (refine ranged_ok _ _ ?_; try dsimp only) | (refine listed_ok _ _ _ _ _ _ (fun _ _ => ?_); try dsimp only) | (refine unitWord_ok _ (by assumption) fun _ _ _ => ?_; try dsimp only) | (refine queueWord_ok _ (by assumption) fun _ _ _ _ => ?_; try dsimp only) | (refine matrixWord_ok (by assumption) fun _ _ _ => ?_; try dsimp only) | (refine vectorWord_ok (by assumption) fun _ _ _ _ _ => ?_; try dsimp only) | (refine laneWordOnly_ok (by assumption) fun _ _ _ _ _ _ => ?_; try dsimp only) | (refine sysWord_ok _ (by assumption) fun _ _ _ => ?_; try dsimp only) | (refine Pick_bind_ok fun _ => ?_; try dsimp only) | (refine checked_ok ?_; try dsimp only)) <;> (try have hw := runningGroup_wf hs (by assumption)) <;> (try have hw := runningTask_wf hs (by assumption)) <;> (try have hk := kept_some (by assumption) (by simp (maxDischargeDepth := 20) (contextual := true) [*])) <;> (try have hk := kept_pair (by assumption) (by simp (maxDischargeDepth := 20) (contextual := true) [*])) <;> (try have hk := kept_answer (by assumption) (by simp (maxDischargeDepth := 20) (contextual := true) [*])) <;> simp (maxDischargeDepth := 20) (contextual := true) [*]

@[simp] theorem execCflush_ok (a b : BitVec 5) {s : State} (hs : s.MemoryOk) :
    Kept (execCflush a b s) := by
  simp (maxDischargeDepth := 20) (contextual := true) [execCflush, hs]

@[simp] theorem execCinval_ok (a b : BitVec 5) {s : State} (hs : s.MemoryOk) :
    Kept (execCinval a b s) := by
  simp (maxDischargeDepth := 20) (contextual := true) [execCinval, hs]

@[simp] theorem execDseal_ok (d : BitVec 5) {s : State} (hs : s.MemoryOk) :
    Kept (execDseal d s) := by
  simp (maxDischargeDepth := 20) (contextual := true) [execDseal, hs]

@[simp] theorem waitedTo_ok {s : State} (a : Agent) (i : Nat) (hs : s.MemoryOk) :
    (waitedTo s a i).MemoryOk := by
  simp (maxDischargeDepth := 20) (contextual := true) [waitedTo, hs]

@[simp] theorem execDwait_ok (a : BitVec 5) {s : State} (hs : s.MemoryOk) :
    Kept (execDwait a s) := by
  simp (maxDischargeDepth := 20) (contextual := true) [execDwait, hs]

/-! ### CopyMove -/

@[simp] theorem spanEffects_ok {s : State} (rs : List Span) (hs : s.MemoryOk) : (spanEffects s rs).MemoryOk := by
  refine foldl_ok (fun s r h => ?_) hs _
  split
  · split
    · refine foldl_ok (fun s x h => ?_) h _
      split <;> simp [h]
    · simp [h]
  · exact h

@[simp] theorem putWindow_ok (r : CopyOut) (x : Nat × List Byte) (hr : r.state.MemoryOk) :
    (putWindow r x).state.MemoryOk := by
  unfold putWindow; (repeat' split) <;> simp (maxDischargeDepth := 20) (contextual := true) [*]

@[simp] theorem putMem_ok (c : Copy) (r : CopyOut) (a : Nat) (bs : List PByte) (hr : r.state.MemoryOk) :
    (putMem c r a bs).state.MemoryOk := by
  unfold putMem; (repeat' split) <;> (try have hw := runningGroup_wf hr (by assumption)) <;> (try have hw := runningTask_wf hr (by assumption)) <;> (try have hk := kept_some (by assumption) (by simp (maxDischargeDepth := 20) (contextual := true) [*])) <;> (try have hk := kept_pair (by assumption) (by simp (maxDischargeDepth := 20) (contextual := true) [*])) <;> (try have hk := kept_answer (by assumption) (by simp (maxDischargeDepth := 20) (contextual := true) [*])) <;> (try simp (maxDischargeDepth := 20) (contextual := true) [*]) <;> ((repeat' split) <;> simp (maxDischargeDepth := 20) (contextual := true) [*])

theorem foldlOut_ok {α : Type} {f : CopyOut → α → CopyOut} (hf : ∀ r x, r.state.MemoryOk → (f r x).state.MemoryOk) {r : CopyOut}
    (h : r.state.MemoryOk) (xs : List α) : (xs.foldl f r).state.MemoryOk := by
  induction xs generalizing r with
  | nil => exact h
  | cons x rest ih => exact ih (hf r x h)

@[simp] theorem putOne_ok (c : Copy) {r : CopyOut} (w : CWrite) (hr : r.state.MemoryOk) : (putOne c r w).state.MemoryOk := by
  unfold putOne
  split
  · exact hr
  · simp [hr]
  · split
    · exact hr
    · split
      · simp [hr]
      · exact foldlOut_ok (fun r x h => by simp [h]) hr _

@[simp] theorem putAll_ok {s : State} (c : Copy) (ws : List CWrite) (hs : s.MemoryOk) : (putAll s c ws).state.MemoryOk :=
  foldlOut_ok (fun _ w h => putOne_ok c w h) hs ws

theorem overlapFold_ok (c : Copy) (ys : List (Nat × PByte)) : ∀ (x : State × List PByte), x.1.MemoryOk →
    (ys.foldl (overlapByte c) x).1.MemoryOk := by
  induction ys with
  | nil => exact fun _ h => h
  | cons y rest ih => exact fun x h => ih _ (same_ok h rfl)

@[simp] theorem unitBytes_ok {s : State} (c : Copy) (off : Nat) (bs : List PByte) (hs : s.MemoryOk) :
    (unitBytes s c off bs).1.MemoryOk := by
  unfold unitBytes
  split
  · exact overlapFold_ok c _ _ hs
  · exact hs

@[simp] theorem askFar_ok {s : State} (c : Copy) (r : Span) (hs : s.MemoryOk) : (askFar c s r).MemoryOk := by
  unfold askFar
  (repeat' split) <;> simp [hs]

@[simp] theorem dropAsked_ok {s : State} (c : Copy) (rs : List Span) (hs : s.MemoryOk) : (dropAsked s c rs).MemoryOk := by
  simp [dropAsked, hs]

/-- A move that keeps canonical form. -/
def Moved.Ok (m : Moved) : Prop := m.out.state.MemoryOk

@[simp] theorem moved_ok {s : State} (c : Copy) (hs : s.MemoryOk) : (c.moved s).Ok := hs

@[simp] theorem readAs_ok (key : Nat) (ps : List Span) {m : Moved} (hm : m.Ok) : (readAs key ps m).Ok := by
  have h1 : (ps.foldl (askFar m.copy) m.out.state).MemoryOk := foldl_ok (fun s r h => askFar_ok _ _ h) hm _
  unfold readAs
  split
  · exact hm
  · dsimp only
    split
    · exact h1
    · exact dropAsked_ok _ _ (spanEffects_ok _ h1)

@[simp] theorem readUnit_ok {m : Moved} (u : Nat × Nat) (hm : m.Ok) : (readUnit m u).Ok := readAs_ok _ _ hm

@[simp] theorem writeUnit_ok {m : Moved} (u : Nat × Nat) (hm : m.Ok) : (writeUnit m u).Ok := by
  unfold writeUnit
  split
  · exact hm
  · dsimp only
    split
    · exact hm
    · exact foldlOut_ok (fun _ w h => putOne_ok _ w h) (unitBytes_ok _ _ _ hm) _

theorem foldlMoved_ok {f : Moved → Nat × Nat → Moved} (hf : ∀ m x, m.Ok → (f m x).Ok) {m : Moved}
    (h : m.Ok) (us : List (Nat × Nat)) : (us.foldl f m).Ok := by
  induction us generalizing m with
  | nil => exact h
  | cons u rest ih => exact ih (hf m u h)

@[simp] theorem readUnits_ok {m : Moved} (us : List (Nat × Nat)) (hm : m.Ok) : (us.foldl readUnit m).Ok :=
  foldlMoved_ok (fun _ u h => readUnit_ok u h) hm us

@[simp] theorem writeUnits_ok {m : Moved} (us : List (Nat × Nat)) (hm : m.Ok) : (us.foldl writeUnit m).Ok :=
  foldlMoved_ok (fun _ u h => writeUnit_ok u h) hm us

@[simp] theorem moveUnits_ok {s : State} (c : Copy) (hs : s.MemoryOk) : (moveUnits s c).Ok :=
  writeUnits_ok _ (readUnits_ok _ hs)

@[simp] theorem passTurns_ok {s : State} (id : Nat) (hs : s.MemoryOk) : (passTurns s id).MemoryOk := by
  refine foldl_ok (fun s e h => ?_) hs _
  dsimp only
  split
  · exact h
  · exact serveQueue_ok _ _ (same_ok h rfl)

@[simp] theorem askLine_ok {s : State} (c : Copy) (line : Nat) (hs : s.MemoryOk) : (askLine c s line).MemoryOk := by
  unfold askLine
  dsimp only
  (repeat' split)
  · exact hs
  · simp [hs]
  · exact same_ok (State_setDir_ok _ _ hs) rfl

@[simp] theorem finishCopy_ok {s : State} (c : Copy) (hs : s.MemoryOk) :
    (finishCopy s c).MemoryOk := by
  simp (maxDischargeDepth := 20) (contextual := true) [finishCopy, hs]

@[simp] theorem updateCopy_ok {s : State} (c : Copy) (hs : s.MemoryOk) :
    (updateCopy s c).MemoryOk := by
  simp (maxDischargeDepth := 20) (contextual := true) [updateCopy, hs]

@[simp] theorem reportCopy_ok {s : State} (c : Copy) (causes : List Cause) (hs : s.MemoryOk) :
    (reportCopy s c causes).1.MemoryOk := by
  simp (maxDischargeDepth := 20) (contextual := true) [reportCopy, hs]

@[simp] theorem settleMoved_ok {m : Moved} (hm : m.Ok) : (settleMoved m).1.MemoryOk :=
  reportCopy_ok _ _ (foldl_ok (fun s x h => failWrites_ok _ _ _ _ h) hm _)

@[simp] theorem keepMoved_ok {m : Moved} (hm : m.Ok) : (keepMoved m).MemoryOk := updateCopy_ok _ (settleMoved_ok hm)

theorem endMoved_ok {m : Moved} {f : State → Copy → State} (hm : m.Ok) (hf : ∀ s c, s.MemoryOk → (f s c).MemoryOk) :
    (endMoved m f).MemoryOk := by
  unfold endMoved
  split
  · exact keepMoved_ok hm
  · exact hf _ _ (settleMoved_ok hm)

@[simp] theorem onCopyTile_ok {s : State} (c : Copy) (n : Nat) (st : TileSt) (f : TileEntry → TileEntry) (hs : s.MemoryOk) :
    (onCopyTile s c n st f).MemoryOk := by
  simp (maxDischargeDepth := 20) (contextual := true) [onCopyTile, hs]

@[simp] theorem failLoad_ok {s : State} (c : Copy) (n : Nat) (q : Option Nat) (cause : Cause) (hs : s.MemoryOk) :
    (failLoad s c n q cause).MemoryOk := by
  unfold failLoad; dsimp only; (repeat' split) <;> (try have hk := kept_some (by assumption) (by simp (maxDischargeDepth := 20) (contextual := true) [*])) <;> (try have hk := kept_pair (by assumption) (by simp (maxDischargeDepth := 20) (contextual := true) [*])) <;> (try have hk := kept_answer (by assumption) (by simp (maxDischargeDepth := 20) (contextual := true) [*])) <;> (try simp (maxDischargeDepth := 20) (contextual := true) [*]) <;> ((repeat' split) <;> simp (maxDischargeDepth := 20) (contextual := true) [*])

@[simp] theorem startSend_ok {s : State} (c : Copy) (n q : Nat) (hs : s.MemoryOk) :
    (startSend s c n q).MemoryOk := by
  unfold startSend; dsimp only; (repeat' split) <;> (try have hk := kept_some (by assumption) (by simp (maxDischargeDepth := 20) (contextual := true) [*])) <;> (try have hk := kept_pair (by assumption) (by simp (maxDischargeDepth := 20) (contextual := true) [*])) <;> (try have hk := kept_answer (by assumption) (by simp (maxDischargeDepth := 20) (contextual := true) [*])) <;> (try simp (maxDischargeDepth := 20) (contextual := true) [*]) <;> ((repeat' split) <;> simp (maxDischargeDepth := 20) (contextual := true) [*])

@[simp] theorem retryLoad_ok {s : State} (c : Copy) (n : Nat) (q : Option Nat) (hs : s.MemoryOk) :
    (retryLoad s c n q).MemoryOk := by
  simp (maxDischargeDepth := 20) (contextual := true) [retryLoad, hs]

@[simp] theorem keepTile_ok {s : State} (c : Copy) (n : Nat) (q : Option Nat) (w : Nat) (hs : s.MemoryOk) :
    (keepTile s c n q w).MemoryOk := by
  unfold keepTile; dsimp only; (repeat' split) <;> (try have hk := kept_some (by assumption) (by simp (maxDischargeDepth := 20) (contextual := true) [*])) <;> (try have hk := kept_pair (by assumption) (by simp (maxDischargeDepth := 20) (contextual := true) [*])) <;> (try have hk := kept_answer (by assumption) (by simp (maxDischargeDepth := 20) (contextual := true) [*])) <;> (try simp (maxDischargeDepth := 20) (contextual := true) [*]) <;> ((repeat' split) <;> simp (maxDischargeDepth := 20) (contextual := true) [*])

@[simp] theorem readVersion_ok {m : Moved} (hm : m.Ok) : (readVersion m).Ok := readAs_ok _ _ hm

@[simp] theorem closeLoad_ok {m : Moved} (n : Nat) (q : Option Nat) (w : Nat) (hm : m.Ok) : (closeLoad m n q w).MemoryOk := by
  have h := settleMoved_ok hm
  unfold closeLoad
  dsimp only
  (repeat' split) <;> simp [h]

/-- How an attempt that has come so far ends. -/
theorem endLoad_ok {m : Moved} (c : Bool) (n : Nat) (q : Option Nat) (t : State) (hm : m.Ok) (ht : t.MemoryOk) :
    (if c then failLoad m.out.state m.copy n q .remoteFailed else if m.out.waits then keepMoved m else t).MemoryOk := by
  (repeat' split)
  · exact failLoad_ok _ _ _ _ hm
  · exact keepMoved_ok hm
  · exact ht

@[simp] theorem putImage_ok {m : Moved} (us : List (Nat × Nat)) (n : Nat) (q : Option Nat) (w : Nat) (hm : m.Ok) :
    (putImage m us n q w).MemoryOk :=
  endLoad_ok _ n q _ (readVersion_ok (writeUnits_ok us hm)) (closeLoad_ok n q w (readVersion_ok (writeUnits_ok us hm)))

@[simp] theorem loadImage_ok {m : Moved} (n : Nat) (q : Option Nat) (w : Nat) (hm : m.Ok) : (loadImage m n q w).MemoryOk := by
  have h1 : ((m.copy.imageUnits m.out.state).foldl readUnit m).Ok := readUnits_ok _ hm
  unfold loadImage
  generalize hm1 : (m.copy.imageUnits m.out.state).foldl readUnit m = m1 at h1 ⊢
  dsimp only
  rw [hm1]
  (repeat' split)
  · exact failLoad_ok _ _ _ _ h1
  · exact finishCopy_ok _ (settleMoved_ok h1)
  · exact keepMoved_ok h1
  · exact putImage_ok _ _ _ _ h1

@[simp] theorem loadTile_ok {s : State} (c : Copy) (n : Nat) (q : Option Nat) (hs : s.MemoryOk) :
    (loadTile s c n q).MemoryOk := by
  have h : (readUnit (c.moved s) (0, 32)).Ok := readUnit_ok _ hs
  have h1 := settleMoved_ok h
  unfold loadTile
  dsimp only
  (repeat' split) <;> first
    | exact failLoad_ok _ _ _ _ h
    | exact keepMoved_ok h
    | exact retryLoad_ok _ _ _ h1
    | exact failLoad_ok _ _ _ _ h1
    | exact loadImage_ok _ _ _ h

@[simp] theorem endDrain_ok {s : State} (c : Copy) (n : Nat) (free : Bool) (q : Option Nat) (failed : Bool) (hs : s.MemoryOk) :
    (endDrain s c n free q failed).MemoryOk := by
  unfold endDrain; dsimp only; (repeat' split) <;> (try have hk := kept_some (by assumption) (by simp (maxDischargeDepth := 20) (contextual := true) [*])) <;> (try have hk := kept_pair (by assumption) (by simp (maxDischargeDepth := 20) (contextual := true) [*])) <;> (try have hk := kept_answer (by assumption) (by simp (maxDischargeDepth := 20) (contextual := true) [*])) <;> (try simp (maxDischargeDepth := 20) (contextual := true) [*]) <;> ((repeat' split) <;> simp (maxDischargeDepth := 20) (contextual := true) [*])

@[simp] theorem startStore_ok {s : State} (c : Copy) (hs : s.MemoryOk) : (startStore s c).Ok := by
  have h : (readAs versionKey [{ place := (tileDst c).plus 8, off := versionKey, len := 2 }] (c.moved s)).Ok := readAs_ok _ _ hs
  unfold startStore
  dsimp only
  (repeat' split) <;> first
    | exact hs
    | exact h

@[simp] theorem goOn_ok {m : Moved} (hm : m.Ok) : (goOn m).Ok := writeUnits_ok _ (readUnits_ok _ hm)

@[simp] theorem storeTile_ok {s : State} (c : Copy) (n : Nat) (free : Bool) (q : Option Nat) (hs : s.MemoryOk) :
    (storeTile s c n free q).MemoryOk := by
  have h0 := startStore_ok c hs
  have h1 := goOn_ok h0
  unfold storeTile
  dsimp only
  (repeat' split) <;> first
    | exact hs
    | exact keepMoved_ok h0
    | exact keepMoved_ok (m := { goOn (startStore s c) with copy := _ }) h1
    | exact endMoved_ok h1 fun s c h => finishCopy_ok _ (endDrain_ok _ _ _ _ _ h)

@[simp] theorem gatherRows_ok {s : State} (c : Copy) (n : Nat) (hs : s.MemoryOk) : (gatherRows s c n).MemoryOk := by
  unfold gatherRows
  split
  · simp [hs]
  · refine endMoved_ok (moveUnits_ok _ hs) fun s c h => ?_
    simp (maxDischargeDepth := 20) [h]

@[simp] theorem scatterRows_ok {s : State} (c : Copy) (n : Nat) (hs : s.MemoryOk) : (scatterRows s c n).MemoryOk :=
  endMoved_ok (moveUnits_ok _ hs) fun s c h => finishCopy_ok _ (endDrain_ok _ _ _ _ _ h)

@[simp] theorem copyBytes_ok {s : State} (c : Copy) (hs : s.MemoryOk) : (copyBytes s c).MemoryOk :=
  endMoved_ok (moveUnits_ok _ hs) fun s c h => finishCopy_ok _ h

@[simp] theorem flushLines_ok {s : State} (c : Copy) (hs : s.MemoryOk) : (flushLines s c).MemoryOk := by
  have h : ((c.heldLines s).foldl (fun s l => flushKept s c.chip l) s).MemoryOk := foldl_ok (fun s l h => flushKept_ok _ _ h) hs _
  unfold flushLines
  dsimp only
  split
  · exact finishCopy_ok _ h
  · exact h

@[simp] theorem invalLines_ok {s : State} (c : Copy) (hs : s.MemoryOk) :
    (invalLines s c).MemoryOk := by
  simp (maxDischargeDepth := 20) (contextual := true) [invalLines, hs]

@[simp] theorem copyOn_ok {s : State} (c : Copy) (hs : s.MemoryOk) :
    (copyOn s c).MemoryOk := by
  unfold copyOn; (repeat' split) <;> (try have hk := kept_some (by assumption) (by simp (maxDischargeDepth := 20) (contextual := true) [*])) <;> (try have hk := kept_pair (by assumption) (by simp (maxDischargeDepth := 20) (contextual := true) [*])) <;> (try have hk := kept_answer (by assumption) (by simp (maxDischargeDepth := 20) (contextual := true) [*])) <;> (try simp (maxDischargeDepth := 20) (contextual := true) [*]) <;> ((repeat' split) <;> simp (maxDischargeDepth := 20) (contextual := true) [*])

@[simp] theorem execCopyComplete_ok {s : State} (id : Nat) (hs : s.MemoryOk) :
    Kept (execCopyComplete id s) := by
  unfold execCopyComplete; (repeat' split) <;> (try have hk := kept_some (by assumption) (by simp (maxDischargeDepth := 20) (contextual := true) [*])) <;> (try have hk := kept_pair (by assumption) (by simp (maxDischargeDepth := 20) (contextual := true) [*])) <;> (try have hk := kept_answer (by assumption) (by simp (maxDischargeDepth := 20) (contextual := true) [*])) <;> (try simp (maxDischargeDepth := 20) (contextual := true) [*]) <;> ((repeat' split) <;> simp (maxDischargeDepth := 20) (contextual := true) [*])

@[simp] theorem readEarly_ok {s : State} (id off : Nat) (hs : s.MemoryOk) : (readEarly s id off).MemoryOk := by
  unfold readEarly
  (repeat' split) <;> first
    | exact hs
    | exact passTurns_ok _ (keepMoved_ok (startStore_ok _ hs))
    | exact passTurns_ok _ (keepMoved_ok (readUnit_ok _ hs))

@[simp] theorem writeEarly_ok {s : State} (id off : Nat) (hs : s.MemoryOk) : (writeEarly s id off).MemoryOk := by
  unfold writeEarly
  (repeat' split) <;> first
    | exact hs
    | exact passTurns_ok _ (updateCopy_ok _ (settleMoved_ok (m := { writeUnit (Copy.moved _ _) _ with copy := _ }) (writeUnit_ok _ hs)))

@[simp] theorem askEarly_ok {s : State} (id off : Nat) (hs : s.MemoryOk) : (askEarly s id off).MemoryOk := by
  unfold askEarly
  (repeat' split) <;> first
    | exact hs
    | exact foldl_ok (fun s l h => askLine_ok _ _ h) hs _

@[simp] theorem execFlagWrite_ok (id : Nat) {s : State} (hs : s.MemoryOk) : Kept (execFlagWrite id s) := by
  unfold execFlagWrite
  dsimp only
  (repeat' split) <;> first
    | exact (kept_next _).2 (finishCopy_ok _ (settleMoved_ok (m := { copy := _, out := putAll s _ _ }) (putAll_ok _ _ hs)))
    | simp (maxDischargeDepth := 20) [hs]

@[simp] theorem execDflagAck_ok (id : Nat) {s : State} (hs : s.MemoryOk) :
    Kept (execDflagAck id s) := by
  unfold execDflagAck; (repeat' split) <;> simp (maxDischargeDepth := 20) (contextual := true) [*]

end Sys2Proof.Machine
end

