-- ==== Sys2Proof/Laws/KeepsEvents.lean ====
section
/-! SUPPORT. The caches, the management controller and the harts keep memory, core storage and saved contexts in canonical form: one lemma for each definition. -/

namespace Sys2Proof.Machine

/-! ### Caches -/

@[simp] theorem fetchPage_ok {s : State} (world : Nat) (pin : Option (Nat × Nat)) (va : Nat) (hs : s.MemoryOk) :
    (fetchPage s world pin va).MemoryOk := by
  unfold fetchPage; (repeat' split) <;> simp (maxDischargeDepth := 20) (contextual := true) [*]

@[simp] theorem fetchLine_ok {s : State} (p line : Nat) (hs : s.MemoryOk) :
    (fetchLine s p line).MemoryOk := by
  simp (maxDischargeDepth := 20) (contextual := true) [fetchLine, hs]

@[simp] theorem peerWrite_ok {s : State} (a : Nat) (bs : List Byte) (hs : s.MemoryOk) :
    (peerWrite s a bs).MemoryOk := by
  simp (maxDischargeDepth := 20) (contextual := true) [peerWrite, hs]

@[simp] theorem giveUpLine_ok {s : State} (p line : Nat) (drop : Bool) (hs : s.MemoryOk) :
    (giveUpLine s p line drop).MemoryOk := by
  unfold giveUpLine; dsimp only; (repeat' split) <;> (try have hk := kept_some (by assumption) (by simp (maxDischargeDepth := 20) (contextual := true) [*])) <;> (try have hk := kept_pair (by assumption) (by simp (maxDischargeDepth := 20) (contextual := true) [*])) <;> (try have hk := kept_answer (by assumption) (by simp (maxDischargeDepth := 20) (contextual := true) [*])) <;> (try simp (maxDischargeDepth := 20) (contextual := true) [*]) <;> ((repeat' split) <;> simp (maxDischargeDepth := 20) (contextual := true) [*])

@[simp] theorem alterBlock_ok {s : State} (b : Nat) (hs : s.MemoryOk) : (alterBlock s b).MemoryOk := by
  unfold alterBlock
  dsimp only
  split
  · exact hs
  · exact ⟨writeBytes_wf (flushMerge_ok _ _ hs).mem _ _, hs.arrays, hs.lanes, hs.saved⟩

@[simp] theorem cacheAct_ok {s : State} (a : CacheAct) (hs : s.MemoryOk) :
    (cacheAct s a).MemoryOk := by
  unfold cacheAct; (repeat' split) <;> simp (maxDischargeDepth := 20) (contextual := true) [*]

@[simp] theorem runCaches_ok {s : State} (hs : s.MemoryOk) :
    (runCaches s).MemoryOk := by
  unfold runCaches; (repeat' split) <;> simp (maxDischargeDepth := 20) (contextual := true) [*]

/-! ### Manage -/

@[simp] theorem respond_ok {s : State} (ws : List Word) (hs : s.MemoryOk) :
    (respond s ws).MemoryOk := by
  simp (maxDischargeDepth := 20) (contextual := true) [respond, hs]

@[simp] theorem execGetVersion_ok {s : State} (hs : s.MemoryOk) :
    Kept (execGetVersion s) := by
  simp (maxDischargeDepth := 20) (contextual := true) [execGetVersion, hs]

@[simp] theorem execGetCapabilities_ok {s : State} (hs : s.MemoryOk) :
    Kept (execGetCapabilities s) := by
  simp (maxDischargeDepth := 20) (contextual := true) [execGetCapabilities, hs]

@[simp] theorem execNegotiateAlgorithms_ok (offered : AlgoOffer) {s : State} (hs : s.MemoryOk) :
    Kept (execNegotiateAlgorithms offered s) := by
  simp (maxDischargeDepth := 20) (contextual := true) [execNegotiateAlgorithms, hs]

@[simp] theorem execGetDigests_ok {s : State} (hs : s.MemoryOk) :
    Kept (execGetDigests s) := by
  simp (maxDischargeDepth := 20) (contextual := true) [execGetDigests, hs]

@[simp] theorem execGetCertificate_ok (slot : Nat) {s : State} (hs : s.MemoryOk) :
    Kept (execGetCertificate slot s) := by
  simp (maxDischargeDepth := 20) (contextual := true) [execGetCertificate, hs]

@[simp] theorem execChallenge_ok (nonce : Nat) {s : State} (hs : s.MemoryOk) :
    Kept (execChallenge nonce s) := by
  simp (maxDischargeDepth := 20) (contextual := true) [execChallenge, hs]

@[simp] theorem execGetMeasurements_ok (session : Option Nat) (index : Nat) {s : State} (hs : s.MemoryOk) :
    Kept (execGetMeasurements session index s) := by
  simp (maxDischargeDepth := 20) (contextual := true) [execGetMeasurements, hs]

@[simp] theorem onSessions_ok {s : State} (f : Map Session → Map Session) (hs : s.MemoryOk) :
    (onSessions s f).MemoryOk := by
  simp (maxDischargeDepth := 20) (contextual := true) [onSessions, hs]

@[simp] theorem execKeyExchange_ok (sid : Nat) {s : State} (hs : s.MemoryOk) :
    Kept (execKeyExchange sid s) := by
  simp (maxDischargeDepth := 20) (contextual := true) [execKeyExchange, hs]

@[simp] theorem onSession_ok {s : State} (sid : Nat) (needsUp : Bool) (code : Word) (f : Session → Option Session) (hs : s.MemoryOk) :
    (onSession s sid needsUp code f).MemoryOk := by
  unfold onSession; (repeat' split) <;> simp (maxDischargeDepth := 20) (contextual := true) [*]

@[simp] theorem execFinish_ok (sid : Nat) {s : State} (hs : s.MemoryOk) :
    Kept (execFinish sid s) := by
  simp (maxDischargeDepth := 20) (contextual := true) [execFinish, hs]

@[simp] theorem execSpdmHeartbeat_ok (sid : Nat) {s : State} (hs : s.MemoryOk) :
    Kept (execSpdmHeartbeat sid s) := by
  simp (maxDischargeDepth := 20) (contextual := true) [execSpdmHeartbeat, hs]

@[simp] theorem execKeyUpdate_ok (sid : Nat) {s : State} (hs : s.MemoryOk) :
    Kept (execKeyUpdate sid s) := by
  simp (maxDischargeDepth := 20) (contextual := true) [execKeyUpdate, hs]

@[simp] theorem execEndSession_ok (sid : Nat) {s : State} (hs : s.MemoryOk) :
    Kept (execEndSession sid s) := by
  simp (maxDischargeDepth := 20) (contextual := true) [execEndSession, hs]

@[simp] theorem execPldmPlatformMonitoring_ok (sensor : Nat) (reading : BitVec 64) {s : State} (hs : s.MemoryOk) :
    Kept (execPldmPlatformMonitoring sensor reading s) := by
  simp (maxDischargeDepth := 20) (contextual := true) [execPldmPlatformMonitoring, hs]

@[simp] theorem execPldmFirmwareUpdate_ok (img : FlashImage) {s : State} (hs : s.MemoryOk) :
    Kept (execPldmFirmwareUpdate img s) := by
  simp (maxDischargeDepth := 20) (contextual := true) [execPldmFirmwareUpdate, hs]

@[simp] theorem moduleReset_ok {s : State} (hs : s.MemoryOk) : (moduleReset s).MemoryOk :=
  ⟨filter_wf hs.mem _, fun _ h => (nomatch h), fun _ h => (nomatch h), fun _ h => (nomatch h)⟩

@[simp] theorem bootDone_ok {s : State} (n : Nat) (f : BootCopy → BootCopy) (hs : s.MemoryOk) :
    (bootDone s n f).MemoryOk := by
  simp (maxDischargeDepth := 20) (contextual := true) [bootDone, hs]

@[simp] theorem bumpTimes_ok (n : Nat) {s : State} (hs : s.MemoryOk) : (bumpTimes n s).MemoryOk := by
  induction n generalizing s with
  | zero => exact hs
  | succ n ih => exact ih (by simp [hs])

@[simp] theorem raiseCounter_ok {s : State} (i : FlashImage) (hs : s.MemoryOk) : (raiseCounter s i).MemoryOk :=
  bumpTimes_ok _ (onHub_ok hs fun _ => rfl)

@[simp] theorem bootPorts_ok {s : State} (b : BootCopy) (hs : s.MemoryOk) :
    (bootPorts b s).MemoryOk := by
  simp (maxDischargeDepth := 20) (contextual := true) [bootPorts, hs]

@[simp] theorem bootHardware_ok {s : State} (b : BootCopy) (r : BootReport) (hs : s.MemoryOk) :
    (bootHardware b s r).MemoryOk := by
  simp (maxDischargeDepth := 20) (contextual := true) [bootHardware, hs]

theorem bootFuses_ok {s : State} (hs : s.MemoryOk) : KeptOpt (bootFuses s) := by
  unfold bootFuses
  try dsimp only
  (repeat' split) <;> simp [hs]
@[simp] theorem execBoot_ok (r : BootReport) {s : State} (hs : s.MemoryOk) : Kept (execBoot r s) := by
  unfold execBoot
  try dsimp only
  have h0 : ((moduleReset s).onHub fun h => { h with bootClear := false }).MemoryOk := onHub_ok (moduleReset_ok hs) fun _ => rfl
  split
  · simp [h0]
  · next s1 e =>
    have h1 := bootFuses_ok h0 _ e
    (repeat' split) <;> simp (maxDischargeDepth := 20) [h1]

@[simp] theorem execMcBootClear_ok {s : State} (hs : s.MemoryOk) :
    Kept (execMcBootClear s) := by
  simp (maxDischargeDepth := 20) (contextual := true) [execMcBootClear, hs]

@[simp] theorem execPowerLoss_ok (midRecord : Bool) (blown : Nat) {s : State} (hs : s.MemoryOk) :
    Kept (execPowerLoss midRecord blown s) := by
  have h2 : (if midRecord = true then (moduleReset s).onHub fun h => { h with bootRec := spoilOlder h.bootRec }
      else moduleReset s).MemoryOk := by split <;> simp [hs]
  exact (kept_next _).2 (onHub_ok h2 fun _ => rfl)

@[simp] theorem execChipletGate_ok (p st : Nat) {s : State} (hs : s.MemoryOk) :
    Kept (execChipletGate p st s) := by
  simp (maxDischargeDepth := 20) (contextual := true) [execChipletGate, hs]

@[simp] theorem execChipletWakeComplete_ok (p : Nat) {s : State} (hs : s.MemoryOk) :
    Kept (execChipletWakeComplete p s) := by
  simp (maxDischargeDepth := 20) (contextual := true) [execChipletWakeComplete, hs]

/-! ### Hart -/

@[simp] theorem addHartFence_ok (h : Nat) (k : AccKind) {s : State} (hs : s.MemoryOk) :
    (addHartFence h k s).MemoryOk := by
  simp (maxDischargeDepth := 20) (contextual := true) [addHartFence, hs]

@[simp] theorem hartFence_ok (h : Nat) (predR predW succR succW : Bool) {s : State} (hs : s.MemoryOk) :
    (hartFence h predR predW succR succW s).MemoryOk := by
  simp (maxDischargeDepth := 20) (contextual := true) [hartFence, hs]

@[simp] theorem outsideReply_ok {s : State} (cause : Nat) (v : Word) (hs : s.MemoryOk) :
    (outsideReply s cause v).MemoryOk := by
  simp (maxDischargeDepth := 20) (contextual := true) [outsideReply, hs]

@[simp] theorem outsideAccess_ok (a : Agent) (m : MemOp) (t : Except Cause Target) {s : State} (hs : s.MemoryOk) :
    (outsideAccess a m t s).MemoryOk := by
  unfold outsideAccess; dsimp only; (repeat' split) <;> (try have hw := runningGroup_wf hs (by assumption)) <;> (try have hw := runningTask_wf hs (by assumption)) <;> (try have hk := kept_some (by assumption) (by simp (maxDischargeDepth := 20) (contextual := true) [*])) <;> (try have hk := kept_pair (by assumption) (by simp (maxDischargeDepth := 20) (contextual := true) [*])) <;> (try have hk := kept_answer (by assumption) (by simp (maxDischargeDepth := 20) (contextual := true) [*])) <;> (try simp (maxDischargeDepth := 20) (contextual := true) [*]) <;> ((repeat' split) <;> simp (maxDischargeDepth := 20) (contextual := true) [*])

@[simp] theorem reserve_ok {s : State} (hart addr size : Nat) (hs : s.MemoryOk) :
    (reserve s hart addr size).MemoryOk := by
  simp (maxDischargeDepth := 20) (contextual := true) [reserve, hs]

@[simp] theorem hartAccess_ok (hart : Nat) (op : HartOp) (size : Nat) (m : MemOp) (t : Except Cause Target) {s : State} (hs : s.MemoryOk) :
    (hartAccess hart op size m t s).MemoryOk := by
  unfold hartAccess; (repeat' split) <;> simp (maxDischargeDepth := 20) (contextual := true) [*]

@[simp] theorem execControlCoreAccess_ok (hart : Nat) (sup : Bool) (op : HartOp) (addr size : Nat) (data : BitVec 64) {s : State} (hs : s.MemoryOk) :
    Kept (execControlCoreAccess hart sup op addr size data s) := by
  unfold execControlCoreAccess; (repeat' split) <;> simp (maxDischargeDepth := 20) (contextual := true) [*]

@[simp] theorem execPcieDmaRequest_ok (port : Nat) (write : Bool) (va : BitVec 64) (size : Nat) (data : BitVec 64) {s : State} (hs : s.MemoryOk) :
    Kept (execPcieDmaRequest port write va size data s) := by
  simp (maxDischargeDepth := 20) (contextual := true) [execPcieDmaRequest, hs]

end Sys2Proof.Machine
end

