-- ==== Sys2Proof/Laws/PerInstr.lean ====
section
/-! SUPPORT. For every constructor of `Instr`: the word that encodes it, where it has one, is a 32-bit word (07 R180). -/

namespace Sys2Proof.Laws.EncodingFits

/-- The word of an instruction has 32 bits. -/
def Statement (i : Instr) : Prop := ∀ w, encode i = some w → w < 2 ^ 32

/-- A statement about an event, which has no word. -/
theorem of_event {i : Instr} (h : encode i = none) : Statement i := fun w hw => by rw [h] at hw; cases hw

/-- A statement about a word, from the value of its encoding. -/
theorem of_word {i : Instr} {v : Nat} (h : encode i = some v) (hv : v < 2 ^ 32) : Statement i := fun w hw => by
  rw [h] at hw; cases hw; exact hv

/-- A type code has one bit. -/
theorem ftCode_lt (ft : FType) : ftCode ft < 2 := by cases ft <;> decide

theorem add d a b : Statement (.add d a b) := of_word rfl (by simp only [put]; omega)
theorem sub d a b : Statement (.sub d a b) := of_word rfl (by simp only [put]; omega)
theorem mul d a b : Statement (.mul d a b) := of_word rfl (by simp only [put]; omega)
theorem mulh d a b : Statement (.mulh d a b) := of_word rfl (by simp only [put]; omega)
theorem mulhu d a b : Statement (.mulhu d a b) := of_word rfl (by simp only [put]; omega)
theorem div d a b : Statement (.div d a b) := of_word rfl (by simp only [put]; omega)
theorem divu d a b : Statement (.divu d a b) := of_word rfl (by simp only [put]; omega)
theorem rem d a b : Statement (.rem d a b) := of_word rfl (by simp only [put]; omega)
theorem remu d a b : Statement (.remu d a b) := of_word rfl (by simp only [put]; omega)
theorem and d a b : Statement (.and d a b) := of_word rfl (by simp only [put]; omega)
theorem or d a b : Statement (.or d a b) := of_word rfl (by simp only [put]; omega)
theorem xor d a b : Statement (.xor d a b) := of_word rfl (by simp only [put]; omega)
theorem shl d a b : Statement (.shl d a b) := of_word rfl (by simp only [put]; omega)
theorem shr d a b : Statement (.shr d a b) := of_word rfl (by simp only [put]; omega)
theorem sar d a b : Statement (.sar d a b) := of_word rfl (by simp only [put]; omega)
theorem slt d a b : Statement (.slt d a b) := of_word rfl (by simp only [put]; omega)
theorem sltu d a b : Statement (.sltu d a b) := of_word rfl (by simp only [put]; omega)
theorem min d a b : Statement (.min d a b) := of_word rfl (by simp only [put]; omega)
theorem max d a b : Statement (.max d a b) := of_word rfl (by simp only [put]; omega)
theorem minu d a b : Statement (.minu d a b) := of_word rfl (by simp only [put]; omega)
theorem maxu d a b : Statement (.maxu d a b) := of_word rfl (by simp only [put]; omega)
theorem clz d a : Statement (.clz d a) := of_word rfl (by simp only [put]; omega)
theorem popc d a : Statement (.popc d a) := of_word rfl (by simp only [put]; omega)
theorem sel d a b p : Statement (.sel d a b p) := of_word rfl (by simp only [put]; omega)
theorem addImm d a imm : Statement (.addImm d a imm) := of_word rfl (by simp only [put]; omega)
theorem andImm d a imm : Statement (.andImm d a imm) := of_word rfl (by simp only [put]; omega)
theorem orImm d a imm : Statement (.orImm d a imm) := of_word rfl (by simp only [put]; omega)
theorem xorImm d a imm : Statement (.xorImm d a imm) := of_word rfl (by simp only [put]; omega)
theorem shlImm d a imm : Statement (.shlImm d a imm) := of_word rfl (by simp only [put]; omega)
theorem shrImm d a imm : Statement (.shrImm d a imm) := of_word rfl (by simp only [put]; omega)
theorem sarImm d a imm : Statement (.sarImm d a imm) := of_word rfl (by simp only [put]; omega)
theorem sltImm d a imm : Statement (.sltImm d a imm) := of_word rfl (by simp only [put]; omega)
theorem sltuImm d a imm : Statement (.sltuImm d a imm) := of_word rfl (by simp only [put]; omega)
theorem minImm d a imm : Statement (.minImm d a imm) := of_word rfl (by simp only [put]; omega)
theorem maxImm d a imm : Statement (.maxImm d a imm) := of_word rfl (by simp only [put]; omega)
theorem mulImm d a imm : Statement (.mulImm d a imm) := of_word rfl (by simp only [put]; omega)
theorem ldhi d imm : Statement (.ldhi d imm) := of_word rfl (by simp only [put]; omega)
theorem addpc d imm : Statement (.addpc d imm) := of_word rfl (by simp only [put]; omega)
theorem ldB d a imm : Statement (.ldB d a imm) := of_word rfl (by simp only [put]; omega)
theorem ldBu d a imm : Statement (.ldBu d a imm) := of_word rfl (by simp only [put]; omega)
theorem ldH d a imm : Statement (.ldH d a imm) := of_word rfl (by simp only [put]; omega)
theorem ldHu d a imm : Statement (.ldHu d a imm) := of_word rfl (by simp only [put]; omega)
theorem ldW d a imm : Statement (.ldW d a imm) := of_word rfl (by simp only [put]; omega)
theorem ldWu d a imm : Statement (.ldWu d a imm) := of_word rfl (by simp only [put]; omega)
theorem ldD d a imm : Statement (.ldD d a imm) := of_word rfl (by simp only [put]; omega)
theorem ldBAcq d a scope imm : Statement (.ldBAcq d a scope imm) := of_word rfl (by simp only [put]; omega)
theorem ldBuAcq d a scope imm : Statement (.ldBuAcq d a scope imm) := of_word rfl (by simp only [put]; omega)
theorem ldHAcq d a scope imm : Statement (.ldHAcq d a scope imm) := of_word rfl (by simp only [put]; omega)
theorem ldHuAcq d a scope imm : Statement (.ldHuAcq d a scope imm) := of_word rfl (by simp only [put]; omega)
theorem ldWAcq d a scope imm : Statement (.ldWAcq d a scope imm) := of_word rfl (by simp only [put]; omega)
theorem ldWuAcq d a scope imm : Statement (.ldWuAcq d a scope imm) := of_word rfl (by simp only [put]; omega)
theorem ldDAcq d a scope imm : Statement (.ldDAcq d a scope imm) := of_word rfl (by simp only [put]; omega)
theorem stB d a imm : Statement (.stB d a imm) := of_word rfl (by simp only [put]; omega)
theorem stH d a imm : Statement (.stH d a imm) := of_word rfl (by simp only [put]; omega)
theorem stW d a imm : Statement (.stW d a imm) := of_word rfl (by simp only [put]; omega)
theorem stD d a imm : Statement (.stD d a imm) := of_word rfl (by simp only [put]; omega)
theorem stBRel d a scope imm : Statement (.stBRel d a scope imm) := of_word rfl (by simp only [put]; omega)
theorem stHRel d a scope imm : Statement (.stHRel d a scope imm) := of_word rfl (by simp only [put]; omega)
theorem stWRel d a scope imm : Statement (.stWRel d a scope imm) := of_word rfl (by simp only [put]; omega)
theorem stDRel d a scope imm : Statement (.stDRel d a scope imm) := of_word rfl (by simp only [put]; omega)
theorem bEq a b off : Statement (.bEq a b off) := of_word rfl (by simp only [put]; omega)
theorem bNe a b off : Statement (.bNe a b off) := of_word rfl (by simp only [put]; omega)
theorem bLt a b off : Statement (.bLt a b off) := of_word rfl (by simp only [put]; omega)
theorem bGe a b off : Statement (.bGe a b off) := of_word rfl (by simp only [put]; omega)
theorem bLtu a b off : Statement (.bLtu a b off) := of_word rfl (by simp only [put]; omega)
theorem bGeu a b off : Statement (.bGeu a b off) := of_word rfl (by simp only [put]; omega)
theorem brot a b off : Statement (.brot a b off) := of_word rfl (by simp only [put]; omega)
theorem j link off : Statement (.j link off) := of_word rfl (by simp only [put]; omega)
theorem jr d a imm : Statement (.jr d a imm) := of_word rfl (by simp only [put]; omega)
theorem callw n : Statement (.callw n) := of_word rfl (by simp only [put]; omega)
theorem retw : Statement .retw := of_word rfl (by simp only [put]; omega)
theorem fadd d a b ft : Statement (.fadd d a b ft) := of_word rfl (by simp only [put]; have := ftCode_lt ft; omega)
theorem fsub d a b ft : Statement (.fsub d a b ft) := of_word rfl (by simp only [put]; have := ftCode_lt ft; omega)
theorem fmul d a b ft : Statement (.fmul d a b ft) := of_word rfl (by simp only [put]; have := ftCode_lt ft; omega)
theorem fdiv d a b ft : Statement (.fdiv d a b ft) := of_word rfl (by simp only [put]; have := ftCode_lt ft; omega)
theorem fsqrt d a ft : Statement (.fsqrt d a ft) := of_word rfl (by simp only [put]; have := ftCode_lt ft; omega)
theorem fmin d a b ft : Statement (.fmin d a b ft) := of_word rfl (by simp only [put]; have := ftCode_lt ft; omega)
theorem fmax d a b ft : Statement (.fmax d a b ft) := of_word rfl (by simp only [put]; have := ftCode_lt ft; omega)
theorem ffma d a b ft : Statement (.ffma d a b ft) := of_word rfl (by simp only [put]; have := ftCode_lt ft; omega)
theorem fcmpEq d a b ft : Statement (.fcmpEq d a b ft) := of_word rfl (by simp only [put]; have := ftCode_lt ft; omega)
theorem fcmpLt d a b ft : Statement (.fcmpLt d a b ft) := of_word rfl (by simp only [put]; have := ftCode_lt ft; omega)
theorem fcmpLe d a b ft : Statement (.fcmpLe d a b ft) := of_word rfl (by simp only [put]; have := ftCode_lt ft; omega)
theorem fcmpUn d a b ft : Statement (.fcmpUn d a b ft) := of_word rfl (by simp only [put]; have := ftCode_lt ft; omega)
theorem fcvtFloatFloat d a ft : Statement (.fcvtFloatFloat d a ft) :=
  of_word rfl (by simp only [put]; have := ftCode_lt ft; omega)
theorem fcvtFToI32 d a ft : Statement (.fcvtFToI32 d a ft) :=
  of_word rfl (by simp only [put]; have := ftCode_lt ft; omega)
theorem fcvtuFToU32 d a ft : Statement (.fcvtuFToU32 d a ft) :=
  of_word rfl (by simp only [put]; have := ftCode_lt ft; omega)
theorem fcvtFToI64 d a ft : Statement (.fcvtFToI64 d a ft) :=
  of_word rfl (by simp only [put]; have := ftCode_lt ft; omega)
theorem fcvtuFToU64 d a ft : Statement (.fcvtuFToU64 d a ft) :=
  of_word rfl (by simp only [put]; have := ftCode_lt ft; omega)
theorem fcvtI32ToF d a ft : Statement (.fcvtI32ToF d a ft) :=
  of_word rfl (by simp only [put]; have := ftCode_lt ft; omega)
theorem fcvtuU32ToF d a ft : Statement (.fcvtuU32ToF d a ft) :=
  of_word rfl (by simp only [put]; have := ftCode_lt ft; omega)
theorem fcvtI64ToF d a ft : Statement (.fcvtI64ToF d a ft) :=
  of_word rfl (by simp only [put]; have := ftCode_lt ft; omega)
theorem fcvtuU64ToF d a ft : Statement (.fcvtuU64ToF d a ft) :=
  of_word rfl (by simp only [put]; have := ftCode_lt ft; omega)
theorem fclass d a ft : Statement (.fclass d a ft) := of_word rfl (by simp only [put]; have := ftCode_lt ft; omega)
theorem hset d a imm : Statement (.hset d a imm) := of_word rfl (by simp only [put]; omega)
theorem hget d a : Statement (.hget d a) := of_word rfl (by simp only [put]; omega)
theorem pset d a : Statement (.pset d a) := of_word rfl (by simp only [put]; omega)
theorem pget d a : Statement (.pget d a) := of_word rfl (by simp only [put]; omega)
theorem vaddF32 d a b m : Statement (.vaddF32 d a b m) := of_word rfl (by simp only [put]; omega)
theorem vsubF32 d a b m : Statement (.vsubF32 d a b m) := of_word rfl (by simp only [put]; omega)
theorem vmulF32 d a b m : Statement (.vmulF32 d a b m) := of_word rfl (by simp only [put]; omega)
theorem vfmaF32 d a b m : Statement (.vfmaF32 d a b m) := of_word rfl (by simp only [put]; omega)
theorem vminF32 d a b m : Statement (.vminF32 d a b m) := of_word rfl (by simp only [put]; omega)
theorem vmaxF32 d a b m : Statement (.vmaxF32 d a b m) := of_word rfl (by simp only [put]; omega)
theorem vabsF32 d a m : Statement (.vabsF32 d a m) := of_word rfl (by simp only [put]; omega)
theorem vnegF32 d a m : Statement (.vnegF32 d a m) := of_word rfl (by simp only [put]; omega)
theorem vaddI32 d a b m : Statement (.vaddI32 d a b m) := of_word rfl (by simp only [put]; omega)
theorem vsubI32 d a b m : Statement (.vsubI32 d a b m) := of_word rfl (by simp only [put]; omega)
theorem vmulI32 d a b m : Statement (.vmulI32 d a b m) := of_word rfl (by simp only [put]; omega)
theorem vand d a b m : Statement (.vand d a b m) := of_word rfl (by simp only [put]; omega)
theorem vor d a b m : Statement (.vor d a b m) := of_word rfl (by simp only [put]; omega)
theorem vxor d a b m : Statement (.vxor d a b m) := of_word rfl (by simp only [put]; omega)
theorem vshl d a b m : Statement (.vshl d a b m) := of_word rfl (by simp only [put]; omega)
theorem vsar d a b m : Statement (.vsar d a b m) := of_word rfl (by simp only [put]; omega)
theorem vexp2 d a m : Statement (.vexp2 d a m) := of_word rfl (by simp only [put]; omega)
theorem vlog2 d a m : Statement (.vlog2 d a m) := of_word rfl (by simp only [put]; omega)
theorem vrcp d a m : Statement (.vrcp d a m) := of_word rfl (by simp only [put]; omega)
theorem vrsqrt d a m : Statement (.vrsqrt d a m) := of_word rfl (by simp only [put]; omega)
theorem vtanh d a m : Statement (.vtanh d a m) := of_word rfl (by simp only [put]; omega)
theorem vcmpEqF32 d a b m : Statement (.vcmpEqF32 d a b m) := of_word rfl (by simp only [put]; omega)
theorem vcmpLtF32 d a b m : Statement (.vcmpLtF32 d a b m) := of_word rfl (by simp only [put]; omega)
theorem vcmpLeF32 d a b m : Statement (.vcmpLeF32 d a b m) := of_word rfl (by simp only [put]; omega)
theorem vcmpUnF32 d a b m : Statement (.vcmpUnF32 d a b m) := of_word rfl (by simp only [put]; omega)
theorem vcmpEqI32 d a b m : Statement (.vcmpEqI32 d a b m) := of_word rfl (by simp only [put]; omega)
theorem vcmpLtI32 d a b m : Statement (.vcmpLtI32 d a b m) := of_word rfl (by simp only [put]; omega)
theorem vcmpLeI32 d a b m : Statement (.vcmpLeI32 d a b m) := of_word rfl (by simp only [put]; omega)
theorem vcmpLtuI32 d a b m : Statement (.vcmpLtuI32 d a b m) := of_word rfl (by simp only [put]; omega)
theorem vsel d a b m : Statement (.vsel d a b m) := of_word rfl (by simp only [put]; omega)
theorem pand d a b m : Statement (.pand d a b m) := of_word rfl (by simp only [put]; omega)
theorem por d a b m : Statement (.por d a b m) := of_word rfl (by simp only [put]; omega)
theorem pxor d a b m : Statement (.pxor d a b m) := of_word rfl (by simp only [put]; omega)
theorem pnot d a m : Statement (.pnot d a m) := of_word rfl (by simp only [put]; omega)
theorem vrsumF32 d a m : Statement (.vrsumF32 d a m) := of_word rfl (by simp only [put]; omega)
theorem vrmaxF32 d a m : Statement (.vrmaxF32 d a m) := of_word rfl (by simp only [put]; omega)
theorem vrminF32 d a m : Statement (.vrminF32 d a m) := of_word rfl (by simp only [put]; omega)
theorem vrsumI32 d a m : Statement (.vrsumI32 d a m) := of_word rfl (by simp only [put]; omega)
theorem vrmaxI32 d a m : Statement (.vrmaxI32 d a m) := of_word rfl (by simp only [put]; omega)
theorem vrminI32 d a m : Statement (.vrminI32 d a m) := of_word rfl (by simp only [put]; omega)
theorem vperm d a b m : Statement (.vperm d a b m) := of_word rfl (by simp only [put]; omega)
theorem vbcast d a m : Statement (.vbcast d a m) := of_word rfl (by simp only [put]; omega)
theorem vslup d a b m : Statement (.vslup d a b m) := of_word rfl (by simp only [put]; omega)
theorem vsldn d a b m : Statement (.vsldn d a b m) := of_word rfl (by simp only [put]; omega)
theorem vmov d a m : Statement (.vmov d a m) := of_word rfl (by simp only [put]; omega)
theorem vlane d m : Statement (.vlane d m) := of_word rfl (by simp only [put]; omega)
theorem vtrd td ta tb : Statement (.vtrd td ta tb) := of_word rfl (by simp only [put]; omega)
theorem vtwr td ta tb : Statement (.vtwr td ta tb) := of_word rfl (by simp only [put]; omega)
theorem vtrdc td ta tb : Statement (.vtrdc td ta tb) := of_word rfl (by simp only [put]; omega)
theorem vtwrc td ta tb slot : Statement (.vtwrc td ta tb slot) := of_word rfl (by simp only [put]; omega)
theorem mma td ta tb slot : Statement (.mma td ta tb slot) := of_word rfl (by simp only [put]; omega)
theorem mmaZ td ta tb slot : Statement (.mmaZ td ta tb slot) := of_word rfl (by simp only [put]; omega)
theorem mout td ta slot : Statement (.mout td ta slot) := of_word rfl (by simp only [put]; omega)
theorem mclr td : Statement (.mclr td) := of_word rfl (by simp only [put]; omega)
theorem mtr td ta : Statement (.mtr td ta) := of_word rfl (by simp only [put]; omega)
theorem tcvt td ta slot : Statement (.tcvt td ta slot) := of_word rfl (by simp only [put]; omega)
theorem thdrRd ta tb : Statement (.thdrRd ta tb) := of_word rfl (by simp only [put]; omega)
theorem thdrWr td tb : Statement (.thdrWr td tb) := of_word rfl (by simp only [put]; omega)
theorem cbld ta tbl : Statement (.cbld ta tbl) := of_word rfl (by simp only [put]; omega)
theorem tzero td ta slot : Statement (.tzero td ta slot) := of_word rfl (by simp only [put]; omega)
theorem tld td ta : Statement (.tld td ta) := of_word rfl (by simp only [put]; omega)
theorem tst ta tb : Statement (.tst ta tb) := of_word rfl (by simp only [put]; omega)
theorem tstF ta tb : Statement (.tstF ta tb) := of_word rfl (by simp only [put]; omega)
theorem tgat td ta tb : Statement (.tgat td ta tb) := of_word rfl (by simp only [put]; omega)
theorem tsct td ta tb : Statement (.tsct td ta tb) := of_word rfl (by simp only [put]; omega)
theorem dcpy d a b : Statement (.dcpy d a b) := of_word rfl (by simp only [put]; omega)
theorem dflag d a scope : Statement (.dflag d a scope) := of_word rfl (by simp only [put]; omega)
theorem dseal d : Statement (.dseal d) := of_word rfl (by simp only [put]; omega)
theorem dwait a : Statement (.dwait a) := of_word rfl (by simp only [put]; omega)
theorem cflush a b : Statement (.cflush a b) := of_word rfl (by simp only [put]; omega)
theorem cinval a b : Statement (.cinval a b) := of_word rfl (by simp only [put]; omega)
theorem qbindS td ta : Statement (.qbindS td ta) := of_word rfl (by simp only [put]; omega)
theorem qbindR td ta : Statement (.qbindR td ta) := of_word rfl (by simp only [put]; omega)
theorem qunbind td : Statement (.qunbind td) := of_word rfl (by simp only [put]; omega)
theorem qsend td ta : Statement (.qsend td ta) := of_word rfl (by simp only [put]; omega)
theorem qsendF td ta : Statement (.qsendF td ta) := of_word rfl (by simp only [put]; omega)
theorem qrecv td ta : Statement (.qrecv td ta) := of_word rfl (by simp only [put]; omega)
theorem qmarkStart td ta : Statement (.qmarkStart td ta) := of_word rfl (by simp only [put]; omega)
theorem qmarkEnd td ta : Statement (.qmarkEnd td ta) := of_word rfl (by simp only [put]; omega)
theorem qwidth td width : Statement (.qwidth td width) := of_word rfl (by simp only [put]; omega)
theorem qstat td ta : Statement (.qstat td ta) := of_word rfl (by simp only [put]; omega)
theorem qdrop td : Statement (.qdrop td) := of_word rfl (by simp only [put]; omega)
theorem fenceAcq scope : Statement (.fenceAcq scope) := of_word rfl (by simp only [put]; omega)
theorem fenceRel scope : Statement (.fenceRel scope) := of_word rfl (by simp only [put]; omega)
theorem fence scope : Statement (.fence scope) := of_word rfl (by simp only [put]; omega)
theorem wcnt ld st cp tl : Statement (.wcnt ld st cp tl) := of_word rfl (by simp only [put]; omega)
theorem bar : Statement .bar := of_word rfl (by simp only [put]; omega)
theorem elect d : Statement (.elect d) := of_word rfl (by simp only [put]; omega)
theorem mjoin k : Statement (.mjoin k) := of_word rfl (by simp only [put]; omega)
theorem mleave k : Statement (.mleave k) := of_word rfl (by simp only [put]; omega)
theorem mwait k : Statement (.mwait k) := of_word rfl (by simp only [put]; omega)
theorem xchIdx d a b : Statement (.xchIdx d a b) := of_word rfl (by simp only [put]; omega)
theorem xchUp d a b : Statement (.xchUp d a b) := of_word rfl (by simp only [put]; omega)
theorem xchDown d a b : Statement (.xchDown d a b) := of_word rfl (by simp only [put]; omega)
theorem xchXor d a b : Statement (.xchXor d a b) := of_word rfl (by simp only [put]; omega)
theorem spawn d a imm : Statement (.spawn d a imm) := of_word rfl (by simp only [put]; omega)
theorem tnext d : Statement (.tnext d) := of_word rfl (by simp only [put]; omega)
theorem amoAdd d a b scope size : Statement (.amoAdd d a b scope size) := of_word rfl (by simp only [put]; omega)
theorem amoAnd d a b scope size : Statement (.amoAnd d a b scope size) := of_word rfl (by simp only [put]; omega)
theorem amoOr d a b scope size : Statement (.amoOr d a b scope size) := of_word rfl (by simp only [put]; omega)
theorem amoXor d a b scope size : Statement (.amoXor d a b scope size) := of_word rfl (by simp only [put]; omega)
theorem amoMin d a b scope size : Statement (.amoMin d a b scope size) := of_word rfl (by simp only [put]; omega)
theorem amoMax d a b scope size : Statement (.amoMax d a b scope size) := of_word rfl (by simp only [put]; omega)
theorem amoMinu d a b scope size : Statement (.amoMinu d a b scope size) := of_word rfl (by simp only [put]; omega)
theorem amoMaxu d a b scope size : Statement (.amoMaxu d a b scope size) := of_word rfl (by simp only [put]; omega)
theorem amoSwap d a b scope size : Statement (.amoSwap d a b scope size) := of_word rfl (by simp only [put]; omega)
theorem amoCas d a b scope size : Statement (.amoCas d a b scope size) := of_word rfl (by simp only [put]; omega)
theorem amoAddF32 d a b scope size : Statement (.amoAddF32 d a b scope size) := of_word rfl (by simp only [put]; omega)
theorem amoMinF32 d a b scope size : Statement (.amoMinF32 d a b scope size) := of_word rfl (by simp only [put]; omega)
theorem amoMaxF32 d a b scope size : Statement (.amoMaxF32 d a b scope size) := of_word rfl (by simp only [put]; omega)
theorem amoCasF32 d a b scope size : Statement (.amoCasF32 d a b scope size) := of_word rfl (by simp only [put]; omega)
theorem redAdd a b scope size : Statement (.redAdd a b scope size) := of_word rfl (by simp only [put]; omega)
theorem redAnd a b scope size : Statement (.redAnd a b scope size) := of_word rfl (by simp only [put]; omega)
theorem redOr a b scope size : Statement (.redOr a b scope size) := of_word rfl (by simp only [put]; omega)
theorem redXor a b scope size : Statement (.redXor a b scope size) := of_word rfl (by simp only [put]; omega)
theorem redMin a b scope size : Statement (.redMin a b scope size) := of_word rfl (by simp only [put]; omega)
theorem redMax a b scope size : Statement (.redMax a b scope size) := of_word rfl (by simp only [put]; omega)
theorem redMinu a b scope size : Statement (.redMinu a b scope size) := of_word rfl (by simp only [put]; omega)
theorem redMaxu a b scope size : Statement (.redMaxu a b scope size) := of_word rfl (by simp only [put]; omega)
theorem redAddF32 a b scope size : Statement (.redAddF32 a b scope size) := of_word rfl (by simp only [put]; omega)
theorem mbxSend d a b : Statement (.mbxSend d a b) := of_word rfl (by simp only [put]; omega)
theorem mbxRecv d : Statement (.mbxRecv d) := of_word rfl (by simp only [put]; omega)
theorem trap c : Statement (.trap c) := of_word rfl (by simp only [put]; omega)
theorem svc c : Statement (.svc c) := of_word rfl (by simp only [put]; omega)
theorem brk c : Statement (.brk c) := of_word rfl (by simp only [put]; omega)
theorem halt : Statement .halt := of_word rfl (by simp only [put]; omega)
theorem eret : Statement .eret := of_word rfl (by simp only [put]; omega)
theorem sysrd d r : Statement (.sysrd d r) := of_word rfl (by simp only [put]; omega)
theorem syswr a r : Statement (.syswr a r) := of_word rfl (by simp only [put]; omega)
theorem lseq lvl trip len : Statement (.lseq lvl trip len) := of_word rfl (by simp only [put]; omega)
theorem lseqRot lvl trip len : Statement (.lseqRot lvl trip len) := of_word rfl (by simp only [put]; omega)
theorem lend lvl : Statement (.lend lvl) := of_word rfl (by simp only [put]; omega)
theorem lfirst lvl n : Statement (.lfirst lvl n) := of_word rfl (by simp only [put]; omega)
theorem llast lvl n : Statement (.llast lvl n) := of_word rfl (by simp only [put]; omega)
theorem lstride lvl k r s : Statement (.lstride lvl k r s) := of_word rfl (by simp only [put]; omega)
theorem lbrk lvl s : Statement (.lbrk lvl s) := of_word rfl (by simp only [put]; omega)
theorem issueGroupAged core slot lane : Statement (.issueGroupAged core slot lane) := of_event rfl
theorem binTimerExpiry core bin : Statement (.binTimerExpiry core bin) := of_event rfl
theorem binLaunch core bin slot : Statement (.binLaunch core bin slot) := of_event rfl
theorem warpMerge core slotA slotB : Statement (.warpMerge core slotA slotB) := of_event rfl
theorem outcomeTake core cur : Statement (.outcomeTake core cur) := of_event rfl
theorem entryShipment victim thief : Statement (.entryShipment victim thief) := of_event rfl
theorem loadDataReturn grp : Statement (.loadDataReturn grp) := of_event rfl
theorem storeAccept grp : Statement (.storeAccept grp) := of_event rfl
theorem matrixOpRetire u op : Statement (.matrixOpRetire u op) := of_event rfl
theorem copyComplete id : Statement (.copyComplete id) := of_event rfl
theorem unitComplete u : Statement (.unitComplete u) := of_event rfl
theorem deferredFaultReport u cause code addr place : Statement (.deferredFaultReport u cause code addr place) := of_event rfl
theorem tileEntryWindowWrite core entry off bytes : Statement (.tileEntryWindowWrite core entry off bytes) := of_event rfl
theorem bindingPair core id peer grant : Statement (.bindingPair core id peer grant) := of_event rfl
theorem peerUnpair core id : Statement (.peerUnpair core id) := of_event rfl
theorem tileFirstFlit core id : Statement (.tileFirstFlit core id) := of_event rfl
theorem tileLastFlit core id image : Statement (.tileLastFlit core id image) := of_event rfl
theorem creditReturn core id : Statement (.creditReturn core id) := of_event rfl
theorem linkTakeTile core id : Statement (.linkTakeTile core id) := of_event rfl
theorem sendRetire core id : Statement (.sendRetire core id) := of_event rfl
theorem qmarkRx core id stepNo isEnd : Statement (.qmarkRx core id stepNo isEnd) := of_event rfl
theorem qmarkAck core id : Statement (.qmarkAck core id) := of_event rfl
theorem widthMarkerPlace c : Statement (.widthMarkerPlace c) := of_event rfl
theorem widthMarkerConfirm c : Statement (.widthMarkerConfirm c) := of_event rfl
theorem remoteRequestArrival src home seq floor r : Statement (.remoteRequestArrival src home seq floor r) := of_event rfl
theorem mergeEntryEvict addr : Statement (.mergeEntryEvict addr) := of_event rfl
theorem remoteReply home seq : Statement (.remoteReply home seq) := of_event rfl
theorem e2eTimerExpiry home seq : Statement (.e2eTimerExpiry home seq) := of_event rfl
theorem flagWrite id : Statement (.flagWrite id) := of_event rfl
theorem dflagAck id : Statement (.dflagAck id) := of_event rfl
theorem homeRequest id : Statement (.homeRequest id) := of_event rfl
theorem probeResponse line : Statement (.probeResponse line) := of_event rfl
theorem sdnGo v : Statement (.sdnGo v) := of_event rfl
theorem shootdownComplete : Statement .shootdownComplete := of_event rfl
theorem portEnable p : Statement (.portEnable p) := of_event rfl
theorem portRun p : Statement (.portRun p) := of_event rfl
theorem portReenum p : Statement (.portReenum p) := of_event rfl
theorem portOff p : Statement (.portOff p) := of_event rfl
theorem portLinkUp p : Statement (.portLinkUp p) := of_event rfl
theorem portTrainingFail p : Statement (.portTrainingFail p) := of_event rfl
theorem capabilityTableRead p bytes : Statement (.capabilityTableRead p bytes) := of_event rfl
theorem cmbxSend hart data : Statement (.cmbxSend hart data) := of_event rfl
theorem cmbxPop hart : Statement (.cmbxPop hart) := of_event rfl
theorem dqDoorbell w q v : Statement (.dqDoorbell w q v) := of_event rfl
theorem dqEnable w q en : Statement (.dqEnable w q en) := of_event rfl
theorem packetAccept w q : Statement (.packetAccept w q) := of_event rfl
theorem launchIssue w job launch : Statement (.launchIssue w job launch) := of_event rfl
theorem launchComplete w job launch : Statement (.launchComplete w job launch) := of_event rfl
theorem cancel v : Statement (.cancel v) := of_event rfl
theorem jrnlAck v : Statement (.jrnlAck v) := of_event rfl
theorem placeUnit w job launch core : Statement (.placeUnit w job launch core) := of_event rfl
theorem launchAged w job launch : Statement (.launchAged w job launch) := of_event rfl
theorem unitResume : Statement .unitResume := of_event rfl
theorem unitRedirect : Statement .unitRedirect := of_event rfl
theorem unitDiscard : Statement .unitDiscard := of_event rfl
theorem unitSave : Statement .unitSave := of_event rfl
theorem saveComplete kind core : Statement (.saveComplete kind core) := of_event rfl
theorem unitRestore ctx core : Statement (.unitRestore ctx core) := of_event rfl
theorem heartbeat p : Statement (.heartbeat p) := of_event rfl
theorem heartbeatLapse p : Statement (.heartbeatLapse p) := of_event rfl
theorem requestNoAnswer p : Statement (.requestNoAnswer p) := of_event rfl
theorem isoCmd v : Statement (.isoCmd v) := of_event rfl
theorem fenceDrained p : Statement (.fenceDrained p) := of_event rfl
theorem cleanComplete p : Statement (.cleanComplete p) := of_event rfl
theorem chipletResetRelease p : Statement (.chipletResetRelease p) := of_event rfl
theorem redispatch p : Statement (.redispatch p) := of_event rfl
theorem ucieFrameReceive p toHub tagOk : Statement (.ucieFrameReceive p toHub tagOk) := of_event rfl
theorem getVersion : Statement .getVersion := of_event rfl
theorem getCapabilities : Statement .getCapabilities := of_event rfl
theorem negotiateAlgorithms offered : Statement (.negotiateAlgorithms offered) := of_event rfl
theorem getDigests : Statement .getDigests := of_event rfl
theorem getCertificate slot : Statement (.getCertificate slot) := of_event rfl
theorem challenge nonce : Statement (.challenge nonce) := of_event rfl
theorem getMeasurements session index : Statement (.getMeasurements session index) := of_event rfl
theorem keyExchange sid : Statement (.keyExchange sid) := of_event rfl
theorem finish sid : Statement (.finish sid) := of_event rfl
theorem spdmHeartbeat sid : Statement (.spdmHeartbeat sid) := of_event rfl
theorem keyUpdate sid : Statement (.keyUpdate sid) := of_event rfl
theorem endSession sid : Statement (.endSession sid) := of_event rfl
theorem pldmPlatformMonitoring sensor reading : Statement (.pldmPlatformMonitoring sensor reading) := of_event rfl
theorem pldmFirmwareUpdate img : Statement (.pldmFirmwareUpdate img) := of_event rfl
theorem boot r : Statement (.boot r) := of_event rfl
theorem mcBootClear : Statement .mcBootClear := of_event rfl
theorem chipletGate p st : Statement (.chipletGate p st) := of_event rfl
theorem chipletWakeComplete p : Statement (.chipletWakeComplete p) := of_event rfl
theorem chanEnable c v : Statement (.chanEnable c v) := of_event rfl
theorem chanDisable c : Statement (.chanDisable c) := of_event rfl
theorem chanDark c : Statement (.chanDark c) := of_event rfl
theorem chanUndark c : Statement (.chanUndark c) := of_event rfl
theorem chanTuned c : Statement (.chanTuned c) := of_event rfl
theorem chanDrained c : Statement (.chanDrained c) := of_event rfl
theorem linkNak c frame : Statement (.linkNak c frame) := of_event rfl
theorem chanPark c mask : Statement (.chanPark c mask) := of_event rfl
theorem chanUnpark c mask : Statement (.chanUnpark c mask) := of_event rfl
theorem positionLocked c i : Statement (.positionLocked c i) := of_event rfl
theorem allowanceRequest c i sender : Statement (.allowanceRequest c i sender) := of_event rfl
theorem allowanceGrant c i volume life : Statement (.allowanceGrant c i volume life) := of_event rfl
theorem allowanceRenew x i : Statement (.allowanceRenew x i) := of_event rfl
theorem allowanceExpiry x i : Statement (.allowanceExpiry x i) := of_event rfl
theorem orbitSlot slot : Statement (.orbitSlot slot) := of_event rfl
theorem ptpSync masterTime offset : Statement (.ptpSync masterTime offset) := of_event rfl
theorem ptpSyncTimeout : Statement .ptpSyncTimeout := of_event rfl
theorem reachCommit : Statement .reachCommit := of_event rfl
theorem rwinWrite link e isLimit v : Statement (.rwinWrite link e isLimit v) := of_event rfl
theorem wbStage b k : Statement (.wbStage b k) := of_event rfl
theorem wbMeasure b k : Statement (.wbMeasure b k) := of_event rfl
theorem wbMeasureComplete b k : Statement (.wbMeasureComplete b k) := of_event rfl
theorem wbSwitch b k : Statement (.wbSwitch b k) := of_event rfl
theorem wbDrop b k : Statement (.wbDrop b k) := of_event rfl
theorem pcieDmaRequest port write va size data : Statement (.pcieDmaRequest port write va size data) := of_event rfl
theorem registerWrite r idx v : Statement (.registerWrite r idx v) := of_event rfl
theorem controlCoreAccess hart sup op addr size data : Statement (.controlCoreAccess hart sup op addr size data) := of_event rfl
theorem powerLoss midRecord midBlow : Statement (.powerLoss midRecord midBlow) := of_event rfl
theorem opticalFrameReceive c checksOk x : Statement (.opticalFrameReceive c checksOk x) := of_event rfl
theorem opticalCeilingLower v : Statement (.opticalCeilingLower v) := of_event rfl

end Sys2Proof.Laws.EncodingFits
end

