-- ==== Sys2Proof/Laws/Words.lean ====
section
/-! SUPPORT. What the shared operations that run a word can do, said once: a word that each thread runs, a word that one
agent issues for its unit, and a word that makes accesses. -/

namespace Sys2Proof.Machine

/-- Threads that all complete. -/
theorem runLanes_done (f : Ctx → Thread → Thread × Option Word) (x : Ctx) (w : Warp) (g : List Nat) :
    runLanes (fun x t => .done (f x t).1 (f x t).2) x w g = (allDone f x w g, [], false) := by
  induction g generalizing w with
  | nil => rfl
  | cons l rest ih =>
    simp only [runLanes, allDone]
    cases mapGet? l w.threads with
    | none => exact ih w
    | some t => exact ih _

/-- A word that every thread completes answers the state of `State.ran`. -/
theorem scalarWord_ran {s t : State} {branch : Bool} {f : Ctx → Thread → Thread × Option Word}
    (h : s.ran branch f = some t) :
    scalarWord s .S branch (fun x t => .done (f x t).1 (f x t).2) = .next t := by
  unfold State.ran at h
  unfold scalarWord
  split at h
  · next c slot lane e =>
    simp only [e]
    cases hr : runningGroup s c slot lane with
    | none => simp [hr] at h
    | some y =>
      simp only [hr, Option.map_some, Option.some.injEq] at h
      simp only [runLanes_done, h]
  · next c e =>
    simp only [e, if_true]
    cases hr : runningTask s c .S with
    | none => simp [hr] at h
    | some y =>
      simp only [hr, Option.map_some, Option.some.injEq] at h
      simp only [Cursors.get]
      rw [← h]
  · simp at h

/-- A word that an agent issues, and that is done, answers the state with the unit past it. -/
theorem unitWord_done {s s1 : State} {cur : Cursor} {x : Issuer} {f : Issuer → State → Issue}
    (h : s.issuer cur = some x) (hf : f x s = .done s1) : unitWord s cur f = .next (x.passed cur s1) := by
  unfold State.issuer at h
  unfold unitWord
  split at h
  · next c slot lane e =>
    simp only [e]
    cases hr : runningGroup s c slot lane with
    | none => simp [hr] at h
    | some y =>
      simp only [hr, Option.map_some, Option.some.injEq] at h
      subst h
      simp only [hf]
      rfl
  · next c cur' e =>
    simp only [e]
    split at h
    · next hc =>
      subst hc
      simp only [if_true]
      cases hr : runningTask s c cur' with
      | none => simp [hr] at h
      | some y =>
        simp only [hr, Option.map_some, Option.some.injEq] at h
        subst h
        simp only [hf]
        rfl
    · simp at h

/-- A word that sets the program counters itself answers that state. -/
theorem unitWord_stay {s s1 : State} {cur : Cursor} {x : Issuer} {f : Issuer → State → Issue}
    (h : s.issuer cur = some x) (hf : f x s = .stay s1) : unitWord s cur f = .next s1 := by
  unfold State.issuer at h
  unfold unitWord
  split at h
  · next c slot lane e =>
    simp only [e]
    cases hr : runningGroup s c slot lane with
    | none => simp [hr] at h
    | some y =>
      simp only [hr, Option.map_some, Option.some.injEq] at h
      subst h
      simp only [hf]
  · next c cur' e =>
    simp only [e]
    split at h
    · next hc =>
      subst hc
      simp only [if_true]
      cases hr : runningTask s c cur' with
      | none => simp [hr] at h
      | some y =>
        simp only [hr, Option.map_some, Option.some.injEq] at h
        subst h
        simp only [hf]
    · simp at h

/-- A word that raises a precise fault answers the state in which the unit has taken it. -/
theorem unitWord_fault {s : State} {cur : Cursor} {x : Issuer} {f : Issuer → State → Issue} {c : Cause} {a code : Nat}
    (h : s.issuer cur = some x) (hf : f x s = .fault c a code) :
    unitWord s cur f = .next (x.trapped cur s c a code) := by
  unfold State.issuer at h
  unfold unitWord
  split at h
  · next c slot lane e =>
    simp only [e]
    cases hr : runningGroup s c slot lane with
    | none => simp [hr] at h
    | some y =>
      simp only [hr, Option.map_some, Option.some.injEq] at h
      subst h
      simp only [hf]
      rfl
  · next c cur' e =>
    simp only [e]
    split at h
    · next hc =>
      subst hc
      simp only [if_true]
      cases hr : runningTask s c cur' with
      | none => simp [hr] at h
      | some y =>
        simp only [hr, Option.map_some, Option.some.injEq] at h
        subst h
        simp only [hf]
        rfl
    · simp at h

/-- A word that waits changes nothing. -/
theorem unitWord_wait {s : State} {cur : Cursor} {x : Issuer} {f : Issuer → State → Issue}
    (h : s.issuer cur = some x) (hf : f x s = .wait) : unitWord s cur f = .next s := by
  unfold State.issuer at h
  unfold unitWord
  split at h
  · next c slot lane e =>
    simp only [e]
    cases hr : runningGroup s c slot lane with
    | none => simp [hr] at h
    | some y =>
      simp only [hr, Option.map_some, Option.some.injEq] at h
      subst h
      simp only [hf]
  · next c cur' e =>
    simp only [e]
    split at h
    · next hc =>
      subst hc
      simp only [if_true]
      cases hr : runningTask s c cur' with
      | none => simp [hr] at h
      | some y =>
        simp only [hr, Option.map_some, Option.some.injEq] at h
        subst h
        simp only [hf]
    · simp at h

/-! ### Accesses -/

/-- What goes to plain storage depends on the lane cores alone. -/
theorem isNow_congr {s t : State} (h : t.lanes = s.lanes) (c : Nat) (tg : Target) : isNow t .lane c tg = isNow s .lane c tg := by
  cases tg <;> simp [isNow, tableAt, State.lane, h]

/-- Accesses of one lane core that all go to plain storage are all put in flight. -/
theorem issueAll_plain {c grp : Nat} {qs : List Ask} {s : State}
    (h : ∀ q ∈ qs, ∃ t, q.target = .ok t ∧ isNow s .lane c t = false) :
    issueAll .lane c grp qs s =
      ({ s with flight := s.flight ++ flightsOf grp s.nextId qs, nextId := s.nextId + qs.length }, [], false) := by
  induction qs generalizing s with
  | nil => simp [issueAll, flightsOf]
  | cons q rest ih =>
    obtain ⟨t, ht, hn⟩ := h q (List.mem_cons_self ..)
    simp only [issueAll, ht, hn]
    rw [if_neg (by simp)]
    rw [ih]
    · simp [flightsOf, ht, List.append_assoc, Nat.add_assoc, Nat.add_comm 1]
    · intro q' hq'
      obtain ⟨t', ht', hn'⟩ := h q' (List.mem_cons_of_mem _ hq')
      exact ⟨t', ht', by rw [← hn']; exact isNow_congr rfl c t'⟩

/-- The agent of a lane thread's access. -/
theorem laneAsk_agent (s : State) (k : LaneCore) (c slot : Nat) (w : Warp) (g : Workgroup) (pc : Word)
    (f : Ctx → Thread → Except Cause MemOp) (l : Nat) (t : Thread) :
    (laneAsk s k c slot w g pc f l t).agent = .lane c slot l := by
  unfold laneAsk
  dsimp only
  split <;> rfl

theorem laneAsks_agent {s : State} {k : LaneCore} {c slot : Nat} {w : Warp} {g : Workgroup} {pc : Word}
    {f : Ctx → Thread → Except Cause MemOp} {group : List Nat} {q : Ask}
    (h : q ∈ laneAsks s k c slot w g pc f group) : ∃ l, q.agent = .lane c slot l := by
  simp only [laneAsks, List.mem_filterMap, Option.map_eq_some_iff] at h
  obtain ⟨l, _, t, _, rfl⟩ := h
  exact ⟨l, laneAsk_agent ..⟩

/-- A word whose accesses all go to plain storage puts them in flight, and its unit goes on. -/
theorem memWord_plain {s : State} {cur : Cursor} {f : Ctx → Thread → Except Cause MemOp} {qs : List Ask}
    (h : s.asks cur f = some qs) (hp : plainAsks s qs = true) : memWord s cur f = .next (s.accessed cur qs) := by
  unfold State.asks at h
  unfold memWord State.accessed
  split at h
  · next c slot lane e =>
    simp only [e]
    cases hr : runningGroup s c slot lane with
    | none => simp [hr] at h
    | some y =>
      obtain ⟨k, w, g, group⟩ := y
      simp only [hr, Option.map_some, Option.some.injEq] at h
      subst h
      have hq : ∀ q ∈ laneAsks s k c slot w g (groupPc w group) f group,
          ∃ t, q.target = .ok t ∧ isNow s .lane c t = false := by
        intro q hq
        have hq1 := List.all_eq_true.1 hp q hq
        obtain ⟨l, hl⟩ := laneAsks_agent hq
        cases ht : q.target with
        | error _ => simp [ht] at hq1
        | ok t => exact ⟨t, rfl, by simpa [ht, hl] using hq1⟩
      simp only [issueAll_plain hq]
      rw [← e]
  · next c cur' e =>
    simp only [e]
    split at h
    · next hc =>
      subst hc
      simp only [if_true]
      cases hr : runningTask s c cur' with
      | none => simp [hr] at h
      | some y =>
        obtain ⟨k, t⟩ := y
        simp only [hr] at h ⊢
        cases hf : f (taskCtx k c t cur') k.th with
        | error _ => simp [hf] at h
        | ok m =>
          simp only [hf] at h ⊢
          cases ht : memTarget s (taskCtx k c t cur') 0 m with
          | error _ => simp [ht] at h
          | ok tg =>
            simp only [ht, Option.some.injEq] at h ⊢
            subst h
            have hk : k = s.array c := by
              unfold runningTask at hr
              dsimp only at hr
              split at hr
              · simp at hr
              · split at hr
                · simp only [Option.some.injEq, Prod.mk.injEq] at hr; exact hr.1.symm
                · simp at hr
            subst hk
            rfl
    · simp at h

end Sys2Proof.Machine
end

