-- ==== Sys2Proof/Tests/Slice0.lean ====
section
/-! SUPPORT. The model's own tests: words written out from the encodings of 07, terms that name no instruction, single
steps whose results are worked out from the rules by hand, and for every statement with hypotheses a state and operands
that meet them. -/

set_option maxRecDepth 100000

namespace Sys2Proof.Tests

open Sys2Proof Sys2Proof.Machine

/-! ### Words: fixed bits and fields as spec/opcode_table.json and 07 R181 to R193 place them -/

/-- Each word decodes to its instruction, which is well formed and has that word. -/
def wordsOf (l : List (Nat × Instr)) : Bool := l.all fun p =>
  (match decodeWord p.1 with | .ok i => decide (i = p.2) | .error _ => false) && encode p.2 == some p.1 && p.2.wellFormed

theorem test_decode_S0 : wordsOf [
  (0x01669C00, .add 22 13 7), (0x01669C01, .sub 22 13 7), (0x01669C02, .mul 22 13 7),
   (0x01669C03, .mulh 22 13 7), (0x01669C04, .mulhu 22 13 7), (0x01669C05, .div 22 13 7),
   (0x01669C06, .divu 22 13 7), (0x01669C07, .rem 22 13 7), (0x01669C08, .remu 22 13 7),
   (0x01669C10, .and 22 13 7), (0x01669C11, .or 22 13 7), (0x01669C12, .xor 22 13 7),
   (0x01669C18, .shl 22 13 7), (0x01669C19, .shr 22 13 7), (0x01669C1A, .sar 22 13 7),
   (0x01669C20, .slt 22 13 7), (0x01669C21, .sltu 22 13 7), (0x01669C22, .min 22 13 7),
   (0x01669C23, .max 22 13 7), (0x01669C24, .minu 22 13 7), (0x01669C25, .maxu 22 13 7),
   (0x01668028, .clz 22 13), (0x01668029, .popc 22 13), (0x01669C4A, .sel 22 13 7 10)] = true := by decide

theorem test_decode_S1 : wordsOf [
  (0x03668A5C, .addImm 22 13 2652), (0x03669A5C, .andImm 22 13 2652), (0x0366AA5C, .orImm 22 13 2652),
   (0x0366BA5C, .xorImm 22 13 2652), (0x0366C02D, .shlImm 22 13 45), (0x0366D02D, .shrImm 22 13 45),
   (0x0366E02D, .sarImm 22 13 45), (0x0366FA5C, .sltImm 22 13 2652)] = true := by decide

theorem test_decode_S2 : wordsOf [
  (0x05668A5C, .sltuImm 22 13 2652), (0x05669A5C, .minImm 22 13 2652), (0x0566AA5C, .maxImm 22 13 2652),
   (0x0566BA5C, .mulImm 22 13 2652)] = true := by decide

theorem test_decode_S3 : wordsOf [
  (0x07600A5C, .ldhi 22 2652)] = true := by decide

theorem test_decode_S4 : wordsOf [
  (0x09600A5C, .addpc 22 2652)] = true := by decide

theorem test_decode_S5 : wordsOf [
  (0x0B668A5C, .ldB 22 13 2652), (0x0B669A5C, .ldBu 22 13 2652), (0x0B66AA5C, .ldH 22 13 2652),
   (0x0B66BA5C, .ldHu 22 13 2652), (0x0B66CA5C, .ldW 22 13 2652), (0x0B66DA5C, .ldWu 22 13 2652),
   (0x0B66EA5C, .ldD 22 13 2652)] = true := by decide

theorem test_decode_S6 : wordsOf [
  (0x0D66865C, .ldBAcq 22 13 3 92), (0x0D66965C, .ldBuAcq 22 13 3 92), (0x0D66A65C, .ldHAcq 22 13 3 92),
   (0x0D66B65C, .ldHuAcq 22 13 3 92), (0x0D66C65C, .ldWAcq 22 13 3 92), (0x0D66D65C, .ldWuAcq 22 13 3 92),
   (0x0D66E65C, .ldDAcq 22 13 3 92)] = true := by decide

theorem test_decode_S7 : wordsOf [
  (0x0F668A5C, .stB 22 13 2652), (0x0F669A5C, .stH 22 13 2652), (0x0F66AA5C, .stW 22 13 2652),
   (0x0F66BA5C, .stD 22 13 2652)] = true := by decide

theorem test_decode_S8 : wordsOf [
  (0x1166865C, .stBRel 22 13 3 92), (0x1166965C, .stHRel 22 13 3 92), (0x1166A65C, .stWRel 22 13 3 92),
   (0x1166B65C, .stDRel 22 13 3 92)] = true := by decide

theorem test_decode_S9 : wordsOf [
  (0x12D389D3, .bEq 13 7 2515), (0x12D399D3, .bNe 13 7 2515), (0x12D3A9D3, .bLt 13 7 2515),
   (0x12D3B9D3, .bGe 13 7 2515), (0x12D3C9D3, .bLtu 13 7 2515), (0x12D3D9D3, .bGeu 13 7 2515),
   (0x12D3E9D3, .brot 13 7 2515)] = true := by decide

theorem test_decode_SA : wordsOf [
  (0x152009D3, .j 18 2515)] = true := by decide

theorem test_decode_SB : wordsOf [
  (0x17668A5C, .jr 22 13 2652)] = true := by decide

theorem test_decode_SC : wordsOf [
  (0x18000013, .callw 19), (0x18001000, .retw)] = true := by decide

theorem test_decode_SD : wordsOf [
  (0x1B669D00, .fadd 22 13 7 .f64), (0x1B669D10, .fsub 22 13 7 .f64), (0x1B669D20, .fmul 22 13 7 .f64),
   (0x1B669D30, .fdiv 22 13 7 .f64), (0x1B668140, .fsqrt 22 13 .f64), (0x1B669D50, .fmin 22 13 7 .f64),
   (0x1B669D60, .fmax 22 13 7 .f64), (0x1B669D70, .ffma 22 13 7 .f64), (0x1B669D80, .fcmpEq 22 13 7 .f64),
   (0x1B669D81, .fcmpLt 22 13 7 .f64), (0x1B669D82, .fcmpLe 22 13 7 .f64),
   (0x1B669D83, .fcmpUn 22 13 7 .f64), (0x1B668190, .fcvtFloatFloat 22 13 .f64),
   (0x1B668191, .fcvtFToI32 22 13 .f64), (0x1B668192, .fcvtuFToU32 22 13 .f64),
   (0x1B668193, .fcvtFToI64 22 13 .f64), (0x1B668194, .fcvtuFToU64 22 13 .f64),
   (0x1B668195, .fcvtI32ToF 22 13 .f64), (0x1B668196, .fcvtuU32ToF 22 13 .f64),
   (0x1B668197, .fcvtI64ToF 22 13 .f64), (0x1B668198, .fcvtuU64ToF 22 13 .f64),
   (0x1B6681A0, .fclass 22 13 .f64)] = true := by decide

theorem test_decode_SE : wordsOf [
  (0x1D668A5C, .hset 22 13 2652), (0x1D669000, .hget 22 13), (0x1CC6A000, .pset 12 13),
   (0x1D663000, .pget 22 12)] = true := by decide

theorem test_decode_V0 : wordsOf [
  (0x21669FD8, .vaddF32 54 45 39 11), (0x21669FD9, .vsubF32 54 45 39 11), (0x21669FDA, .vmulF32 54 45 39 11),
   (0x21669FDB, .vfmaF32 54 45 39 11), (0x21669FDC, .vminF32 54 45 39 11),
   (0x21669FDD, .vmaxF32 54 45 39 11), (0x2166835E, .vabsF32 54 45 11), (0x2166835F, .vnegF32 54 45 11)] = true := by decide

theorem test_decode_V1 : wordsOf [
  (0x23669FD8, .vaddI32 54 45 39 11), (0x23669FD9, .vsubI32 54 45 39 11), (0x23669FDA, .vmulI32 54 45 39 11),
   (0x23669FDB, .vand 54 45 39 11), (0x23669FDC, .vor 54 45 39 11), (0x23669FDD, .vxor 54 45 39 11),
   (0x23669FDE, .vshl 54 45 39 11), (0x23669FDF, .vsar 54 45 39 11)] = true := by decide

theorem test_decode_V2 : wordsOf [
  (0x25668358, .vexp2 54 45 11), (0x25668359, .vlog2 54 45 11), (0x2566835A, .vrcp 54 45 11),
   (0x2566835B, .vrsqrt 54 45 11), (0x2566835C, .vtanh 54 45 11)] = true := by decide

theorem test_decode_V3 : wordsOf [
  (0x2652A9D8, .vcmpEqF32 5 37 42 11), (0x2652A9D9, .vcmpLtF32 5 37 42 11),
   (0x2652A9DA, .vcmpLeF32 5 37 42 11), (0x2652A9DB, .vcmpUnF32 5 37 42 11),
   (0x2652A9DC, .vcmpEqI32 5 37 42 11), (0x2652A9DD, .vcmpLtI32 5 37 42 11),
   (0x2652A9DE, .vcmpLeI32 5 37 42 11), (0x2652A9DF, .vcmpLtuI32 5 37 42 11)] = true := by decide

theorem test_decode_V4 : wordsOf [
  (0x29669FD8, .vsel 54 45 39 11), (0x28559859, .pand 5 11 6 11), (0x2855985A, .por 5 11 6 11),
   (0x2855985B, .pxor 5 11 6 11), (0x2855805C, .pnot 5 11 11)] = true := by decide

theorem test_decode_V5 : wordsOf [
  (0x2B668358, .vrsumF32 54 45 11), (0x2B668359, .vrmaxF32 54 45 11), (0x2B66835A, .vrminF32 54 45 11),
   (0x2B66835B, .vrsumI32 54 45 11), (0x2B66835C, .vrmaxI32 54 45 11), (0x2B66835D, .vrminI32 54 45 11)] = true := by decide

theorem test_decode_V6 : wordsOf [
  (0x2D669FD8, .vperm 54 45 39 11), (0x2D6A8259, .vbcast 54 21 11), (0x2D66B75A, .vslup 54 45 13 11),
   (0x2D66B75B, .vsldn 54 45 13 11), (0x2D66835C, .vmov 54 45 11), (0x2D60025D, .vlane 54 11)] = true := by decide

theorem test_decode_V7 : wordsOf [
  (0x2E4AA700, .vtrd 9 21 14), (0x2E4AA701, .vtwr 9 21 14), (0x2E4AA702, .vtrdc 9 21 14),
   (0x2E4AA713, .vtwrc 9 21 14 1)] = true := by decide

theorem test_decode_M0 : wordsOf [
  (0x4192A710, .mma 50 21 14 1), (0x4192A771, .mmaZ 50 21 14 7)] = true := by decide

theorem test_decode_M1 : wordsOf [
  (0x424E6060, .mout 9 51 6)] = true := by decide

theorem test_decode_M2 : wordsOf [
  (0x45900000, .mclr 50)] = true := by decide

theorem test_decode_M3 : wordsOf [
  (0x464AA000, .mtr 9 21)] = true := by decide

theorem test_decode_M4 : wordsOf [
  (0x484AA050, .tcvt 9 21 5)] = true := by decide

theorem test_decode_M5 : wordsOf [
  (0x4A02A700, .thdrRd 21 14), (0x4A480701, .thdrWr 9 14)] = true := by decide

theorem test_decode_M6 : wordsOf [
  (0x4C02A040, .cbld 21 4)] = true := by decide

theorem test_decode_M7 : wordsOf [
  (0x4E4AA030, .tzero 9 21 3)] = true := by decide

theorem test_decode_D0 : wordsOf [
  (0x604AA000, .tld 9 21)] = true := by decide

theorem test_decode_D1 : wordsOf [
  (0x6202A700, .tst 21 14), (0x6202A701, .tstF 21 14)] = true := by decide

theorem test_decode_D2 : wordsOf [
  (0x644AA700, .tgat 9 21 14)] = true := by decide

theorem test_decode_D3 : wordsOf [
  (0x664AA700, .tsct 9 21 14)] = true := by decide

theorem test_decode_D4 : wordsOf [
  (0x69669C00, .dcpy 22 13 7)] = true := by decide

theorem test_decode_D5 : wordsOf [
  (0x6B668004, .dflag 22 13 4)] = true := by decide

theorem test_decode_D6 : wordsOf [
  (0x6D600000, .dseal 22), (0x6C069000, .dwait 13)] = true := by decide

theorem test_decode_D7 : wordsOf [
  (0x6E069C00, .cflush 13 7), (0x6E069C01, .cinval 13 7)] = true := by decide

theorem test_decode_Q0 : wordsOf [
  (0x812AA000, .qbindS 37 21), (0x812AA001, .qbindR 37 21)] = true := by decide

theorem test_decode_Q1 : wordsOf [
  (0x83280000, .qunbind 37)] = true := by decide

theorem test_decode_Q2 : wordsOf [
  (0x852AA000, .qsend 37 21), (0x852AA001, .qsendF 37 21)] = true := by decide

theorem test_decode_Q3 : wordsOf [
  (0x864D2000, .qrecv 9 41)] = true := by decide

theorem test_decode_Q4 : wordsOf [
  (0x892AA000, .qmarkStart 37 21), (0x892AA001, .qmarkEnd 37 21)] = true := by decide

theorem test_decode_Q5 : wordsOf [
  (0x8B280004, .qwidth 37 4)] = true := by decide

theorem test_decode_Q6 : wordsOf [
  (0x8C4D2000, .qstat 9 41)] = true := by decide

theorem test_decode_Q7 : wordsOf [
  (0x8F280000, .qdrop 37)] = true := by decide

theorem test_decode_Y0 : wordsOf [
  (0xA0000003, .fenceAcq 3), (0xA0001003, .fenceRel 3), (0xA0002003, .fence 3)] = true := by decide

theorem test_decode_Y1 : wordsOf [
  (0xA309DA36, .wcnt 33 14 52 27)] = true := by decide

theorem test_decode_Y2 : wordsOf [
  (0xA4000000, .bar), (0xA5601000, .elect 22), (0xA4002006, .mjoin 6), (0xA4003006, .mleave 6),
   (0xA4004006, .mwait 6)] = true := by decide

theorem test_decode_Y3 : wordsOf [
  (0xA7669C00, .xchIdx 22 13 7), (0xA7669C01, .xchUp 22 13 7), (0xA7669C02, .xchDown 22 13 7),
   (0xA7669C03, .xchXor 22 13 7)] = true := by decide

theorem test_decode_Y4 : wordsOf [
  (0xA9668A5C, .spawn 22 13 2652)] = true := by decide

theorem test_decode_Y5 : wordsOf [
  (0xAB600000, .tnext 22)] = true := by decide

theorem test_decode_Y6 : wordsOf [
  (0xAD669DA0, .amoAdd 22 13 7 3 1), (0xAD669DA1, .amoAnd 22 13 7 3 1), (0xAD669DA2, .amoOr 22 13 7 3 1),
   (0xAD669DA3, .amoXor 22 13 7 3 1), (0xAD669DA4, .amoMin 22 13 7 3 1), (0xAD669DA5, .amoMax 22 13 7 3 1),
   (0xAD669DA6, .amoMinu 22 13 7 3 1), (0xAD669DA7, .amoMaxu 22 13 7 3 1),
   (0xAD669DA8, .amoSwap 22 13 7 3 1), (0xAD669DA9, .amoCas 22 13 7 3 1)] = true := by decide

theorem test_decode_Y7 : wordsOf [
  (0xAF669D80, .amoAddF32 22 13 7 3 0), (0xAF669D81, .amoMinF32 22 13 7 3 0),
   (0xAF669D82, .amoMaxF32 22 13 7 3 0), (0xAF669D83, .amoCasF32 22 13 7 3 0)] = true := by decide

theorem test_decode_Y8 : wordsOf [
  (0xB0069DA0, .redAdd 13 7 3 1), (0xB0069DA1, .redAnd 13 7 3 1), (0xB0069DA2, .redOr 13 7 3 1),
   (0xB0069DA3, .redXor 13 7 3 1), (0xB0069DA4, .redMin 13 7 3 1), (0xB0069DA5, .redMax 13 7 3 1),
   (0xB0069DA6, .redMinu 13 7 3 1), (0xB0069DA7, .redMaxu 13 7 3 1)] = true := by decide

theorem test_decode_Y9 : wordsOf [
  (0xB2069D80, .redAddF32 13 7 3 0)] = true := by decide

theorem test_decode_YA : wordsOf [
  (0xB5669C00, .mbxSend 22 13 7), (0xB5600001, .mbxRecv 22)] = true := by decide

theorem test_decode_YB : wordsOf [
  (0xB6000052, .trap 82), (0xB6001059, .svc 89), (0xB6002060, .brk 96), (0xB6003000, .halt),
   (0xB6004000, .eret)] = true := by decide

theorem test_decode_YC : wordsOf [
  (0xB9600103, .sysrd 22 259), (0xB8069103, .syswr 13 259)] = true := by decide

theorem test_decode_L0 : wordsOf [
  (0xC08E6E00, .lseq 2 7 110), (0xC0AB7C00, .lseqRot 2 21 124)] = true := by decide

theorem test_decode_L1 : wordsOf [
  (0xC2800000, .lend 2)] = true := by decide

theorem test_decode_L2 : wordsOf [
  (0xC4800005, .lfirst 2 5)] = true := by decide

theorem test_decode_L3 : wordsOf [
  (0xC6800005, .llast 2 5)] = true := by decide

theorem test_decode_L4 : wordsOf [
  (0xC8A3008A, .lstride 2 1 3 138)] = true := by decide

theorem test_decode_L5 : wordsOf [
  (0xCAA20000, .lbrk 2 17)] = true := by decide

/-! ### Words and terms that are no instruction -/

/-- A word that the decoder refuses for a reason. -/
def refusedAs (w : Nat) (r : Reject) : Bool := match decodeWord w with | .ok _ => false | .error x => decide (x = r)

/-- 07 R195: the first row of the table. -/
theorem test_no_word : ([0x00000000, 0xFFFFFFFF, 0xE0000000] : List Nat).all (fun w => refusedAs w .notAWord) = true := by
  decide

/-- 07 R195: an unassigned function of S major 0x0, an unassigned major, bit 0 of `wcnt`, a condition above 6. -/
theorem test_unassigned :
    ([0x00000030, 0x5E000000, 0xA207E001, 0x12007000, 0x1E000000] : List Nat).all (fun w => refusedAs w .unassigned) = true := by
  decide

/-- The module's events that name what does not exist, and the operands of words that 07 R183 to R193 refuse: one term
for each check. -/
theorem test_ill_formed : ([
    .add 0 0 0, .shlImm 1 2 64, .callw 7, .callw 33, .ldWAcq 1 2 6 0, .fenceAcq 7, .pset 16 1, .pget 1 16,
    .vcmpEqF32 16 0 0 0, .pand 0 16 0 0, .pnot 0 16 0, .vbcast 0 32 0, .vslup 0 0 32 0, .vsel 0 0 0 0, .vtrd 0 32 0,
    .vtwr 32 0 0, .mma 0 0 0 0, .mma 48 48 0 0, .mclr 47, .tcvt 48 0 0, .thdrWr 32 0, .cbld 0 0, .tld 48 0, .tst 0 32,
    .tgat 32 0 0, .tsct 0 32 0, .dflag 1 2 0, .qbindS 31 0, .qsend 32 32, .qrecv 0 31, .qwidth 32 3, .mjoin 12,
    .amoAdd 1 2 3 6 0, .amoAdd 1 2 3 0 2, .amoAddF32 1 2 3 0 1, .sysrd 1 0x00B, .lseq 6 0 0, .lfirst 0 0] : List Instr).all
      (fun i => !i.wellFormed) = true := by decide

/-- A receive end of another module that names queue 5 of core 0 of module 0. -/
def peerEnd (mod core q : Nat) : PeerEnd :=
  { mod := mod, core := core, q := q, sends := false, world := 0, namesMod := 0, namesCore := 0, namesQ := 5 }

theorem test_ill_formed_events : ([
    .issueGroupAged 192 0 0, .issueGroupAged 0 32 0, .issueGroupAged 0 0 32, .binLaunch 0 32 0, .bindingPair 0 0 (peerEnd 16384 0 0) (1280, 8),
    .bindingPair 160 0 (peerEnd 0 0 0) (1280, 8), .peerUnpair 160 0, .tileFirstFlit 160 0, .tileLastFlit 160 0 [],
    .creditReturn 160 0, .linkTakeTile 160 0, .sendRetire 160 0, .qmarkRx 160 0 0 false, .qmarkAck 160 0,
    .bindingPair 0 0 (peerEnd 0 160 0) (1280, 8), .bindingPair 0 0 (peerEnd 0 0 16) (1280, 8), .entryShipment 160 0, .tileEntryWindowWrite 160 0 0 [], .cmbxSend 64 0, .dqDoorbell 16 0 0,
    .dqDoorbell 0 64 0, .chipletGate 24 0, .chanEnable 256 0, .orbitSlot 128, .wbStage 64 0, .wbStage 0 4,
    .pcieDmaRequest 2 false 0 8 0, .pcieDmaRequest 0 false 2 8 0, .controlCoreAccess 64 true .load 0 8 0,
    .controlCoreAccess 0 true .load 4 8 0, .controlCoreAccess 0 true (.amo .fadd 0 true true) 0 4 0] : List Instr).all
      (fun i => !i.wellFormed) = true := by decide

/-! ### Small states, and the witnesses of the statements on words

A witness names a statement and shows, clause by clause, states and operands that meet all its hypotheses. -/

/-- A task on array core 0, at one word of text, with a cursor selected. -/
def arr (cur : Cursor) : State := { State.reset.withFetchWord 32 0x02420FF8 with sel := .array 0 cur }

/-- The same with the core and its task changed. -/
def arrWith (cur : Cursor) (fk : ArrayCore → ArrayCore) (ft : Task → Task) : State :=
  let s := arr cur
  let k := fk (s.array 0)
  s.setArray 0 { k with task := k.task.map ft }

/-- A warp of some threads at one word of text in slot 0 of lane core 0, with its lane 0 selected. -/
def lanes (priv : Bool) (raw : Nat) (ts : Map Thread) : State :=
  let s1 := placeCommon State.reset raw .lane (.lane 0 0 0)
  let k := s1.lane 0
  let i := { placedInfo with priv := priv }
  let w := newWarp (ts.map fun x => (x.1, { x.2 with pc := word placedPage })) false 0 0
  let g : Workgroup := { info := i, scrBase := 0, scrSize := 8192, tiles := [], first := 0, pair := none, released := false }
  s1.setLane 0 { k with warps := [(0, w)], wgs := [(0, g)], sealing := false, saving := false }

/-- The warp of `lanes` changed. -/
def lanesWith (s : State) (f : Warp → Warp) : State := s.setLane 0 { s.lane 0 with warps := mapUpdate 0 f (s.lane 0).warps }

/-- A thread with some scalar registers. -/
def threadOf (rs : Map Word) : Thread := { Thread.blank with regs := rs }

/-- One thread. -/
def lane1 : State := lanes false 0x02420FF8 [(0, threadOf [(4, 5), (5, 7), (6, 3)])]

/-- Two threads, in lanes 0 and 3. -/
def lane2 : State := lanes false 0x02420FF8 [(0, threadOf [(4, 5), (5, 7), (6, 3)]), (3, threadOf [(4, 1), (5, 2), (6, 3)])]

/-- One thread of a privileged unit. -/
def laneP (t : Thread) : State := lanes true 0x02420FF8 [(0, t)]

/-- The issuing agent exists and meets a condition. -/
def issuerOk (s : State) (p : Issuer → Bool) : Bool := (s.issuer .Y).elim false p

/-- The next state of an instruction, where it has one. -/
def after (i : Instr) (s : State) : Option State := match exec i s with | .next t => some t | _ => none

/-- The next state of a step, where it has one. -/
def stepped (s : State) : Option State := match step s with | .next t => some t | _ => none

/-- A value that an operation gives. -/
def okOf {α β : Type} (r : Except α β) : Option β := match r with | .ok x => some x | .error _ => none

/-- StepRunsDecoded: a lane core with no aged group; one with an aged group; an array core; an event. -/
theorem witness_step_lane : (match lane2.sel, runningGroup lane2 0 0 0 with
    | .lane 0 0 0, some (k, w, g, group) =>
      lane2.inputs == [] && agedGroups (lane2.lane 0) == [] && coreAwake lane2 .lane 0 &&
      okOf (fetchRaw lane2 (portOfCore .lane 0) g.info (groupPc w group)) == some 0x02420FF8 && (notAWord .lane 0x02420FF8).isNone &&
      okOf (decodeWord 0x02420FF8) == some (.addImm 4 4 0xFF8) && mayIssueLane lane2 0 0 k w group 0x02420FF8
    | _, _ => false) = true := by decide

theorem witness_step_aged :
    let s := lanesWith lane2 fun w => { w with aged := [(9, 0)] }
    (match (agedGroups (s.lane 0)).foldr insertAged [], runningGroup s 0 0 0, after (.addImm 4 4 0xFF8) s with
    | [(9, 0, 0)], some (k, w, g, group), some t =>
      coreAwake s .lane 0 && okOf (fetchRaw s (portOfCore .lane 0) g.info (groupPc w group)) == some 0x02420FF8 &&
      mayIssueLane s 0 0 k w group 0x02420FF8 && issued s t 0 0
    | _, _, _ => false) = true := by decide

/-- The aged group in front has a word that may not issue, so the one behind it is picked. -/
theorem witness_step_aged_behind :
    let s0 := lanesWith lane2 fun w => { w with aged := [(9, 0)] }
    let w1 : Warp := { newWarp [(0, { Thread.blank with frozen := true })] false 0 0 with aged := [(3, 0)] }
    let s := s0.setLane 0 { s0.lane 0 with warps := mapSet 1 w1 (s0.lane 0).warps }
    (match (agedGroups (s.lane 0)).foldr insertAged [], stepGroup { s with sel := .lane 0 1 0 } 0 1 0,
        stepGroup { s with sel := .lane 0 0 0 } 0 0 0 with
    | [(3, 1, 0), (9, 0, 0)], .next u, .next t => !issued s u 0 1 && issued s t 0 0
    | _, _, _ => false) = true := by decide

theorem witness_step_array :
    let s := arr .S
    (match runningTask s 0 .S with
    | some (k, t) => match okOf (pathWord s 0 t .S) with
      | some (u, e) => s.inputs == [] && coreAwake s .array 0 && e.raw == 0x02420FF8 && (notAWord .array e.raw).isNone &&
        !e.skip && !badPlace u .S e && !behindWcnt u e.step && inWindowLimit k u .S && ownerOf e.raw == .S &&
        u.cursors.s.marks == [] && okOf (decodeWord e.raw) == some (.addImm 4 4 0xFF8) && mayIssueArray s 0 k u e
      | none => false
    | none => false) = true := by decide

theorem witness_step_event : isWord (.cmbxPop 3) = false ∧
    (stepped { State.reset with inputs := [.cmbxPop 3] }).isSome = true := by decide

/-- EncodedWordsDecode and DecodedWordsEncode. -/
theorem witness_encoded_words : (Instr.add 4 5 6).wellFormed = true ∧ encode (.add 4 5 6) = some 0x00429800 := by decide

theorem witness_decoded_words : 0x00429800 < 2 ^ 32 ∧ okOf (decodeWord 0x00429800) = some (.add 4 5 6) := by decide

/-- StepKeepsMemoryOk. -/
theorem witness_memory_kept : (arr .S).mem.wf = true ∧ (arr .S).arrays.all (fun k => k.2.localStore.wf) = true ∧
    (arr .S).lanes.all (fun k => k.2.scratch.wf) = true ∧ (stepped (arr .S)).isSome = true := by decide

/-- WrittenBytesReadBack: just below and just above the written range. -/
theorem witness_written_bytes : Memory.wf [(3, 7), (9, 1)] = true ∧ 3 < 4 ∧ 4 + [1, 2].length ≤ 6 := by decide

/-- IntegerRegisterFormsComplete, IntegerImmediateFormsComplete, MovesAndConstantsComplete, ScalarFloatWordsComplete: a word
that writes s[d], on both kinds of core; MovesAndConstantsComplete also on a task's predicate p15. -/
theorem witness_setting :
    let f : Ctx → Thread → Word := fun x t => t.reg x.ring 5 + t.reg x.ring 6
    (lane2.ran false (setting 4 f)).isSome = true ∧ ((arr .S).ran false (setting 31 f)).isSome = true := by decide

theorem witness_immediate_shift : (63 : BitVec 12).toNat < 64 ∧ (0 : BitVec 12).toNat < 64 ∧
    (lane1.ran false (setting 4 fun x t => t.reg x.ring 5)).isSome = true := by decide

theorem witness_moves : ((7 : BitVec 4).toNat < 8) ∧ (match lane1.sel with | .array _ _ => false | _ => true) = true ∧
    (lane1.ran false fun x t => (t.setHandle 3 (t.reg x.ring 5), none)).isSome = true ∧
    (runningTask (arr .S) 0 .S).isSome = true := by decide

/-- RegisterNamesResolve: a global, and the first and the last name of a window. -/
theorem witness_register_names :
    (threadOf []).phys 96 5 ≠ 0 ∧ (threadOf []).phys 96 6 ≠ (threadOf []).phys 96 5 ∧
    (23 : BitVec 5).toNat < 32 - 8 ∧ 32 - 8 ≤ (24 : BitVec 5).toNat ∧ 32 - 32 ≤ (1 : BitVec 5).toNat := by decide

/-- IntegerWordFrame. -/
theorem witness_integer_frame : (after (.add 4 5 6) lane2).isSome = true ∧ (after (.addpc 4 9) (arr .S)).isSome = true ∧
    ((mapGet? 0 (lane2.lane 0).warps).bind fun w => mapGet? 3 w.threads).isSome = true := by decide

/-- ConditionalBranchesComplete, JumpsComplete: taken and not taken, on both kinds of core. -/
theorem witness_branches :
    (lane2.ran true fun x t => (t, if t.reg x.ring 4 = 5 then some (t.pc + 8) else none)).isSome = true ∧
    ((arr .S).ran true fun _ t => (t, some (t.pc + 8))).isSome = true ∧ (runningTask (arr .S) 0 .S).isSome = true := by decide

/-- ScalarFormsRefused. -/
theorem witness_scalar_refused : 64 ≤ (64 : BitVec 12).toNat ∧ 8 ≤ (8 : BitVec 4).toNat ∧
    (lane2.faulted .S (refusing .illegalOperand)).isSome = true ∧
    ((arr .S).faulted .S (refusing .illegalOperand)).isSome = true := by decide

/-! #### Accesses -/

/-- A thread that has an address in s5. -/
def laneA (v : Word) : State := lanes false 0x02420FF8 [(0, threadOf [(5, v), (6, 3)])]

/-- A task that has an address in s5. -/
def arrA (cur : Cursor) (v : Word) : State := arrWith cur (fun k => { k with th := threadOf [(5, v), (6, 3)] }) id

/-- The accesses of a word all go to plain storage. -/
def plain (s : State) (cur : Cursor) (f : Ctx → Thread → MemOp) : Bool :=
  (s.asks cur fun x t => .ok (f x t)).elim false fun qs => plainAsks s qs

/-- LoadsAndStoresComplete, AtomicsComplete, MemoryWordFrame: a load, a store, an atomic and a reduction of a scratchpad and
of local store, with the scopes and sizes at the ends of their ranges. -/
theorem witness_plain_accesses :
    (plainAccesses 4 5 0).all (fun p => plain (laneA 0xFFFFFFFFF8001040) .S p.2) = true ∧
    (plainAccesses 4 5 0).all (fun p => plain (arrA .S 0xFFFFFFFFF8001040) .S p.2) = true := by decide

theorem witness_ordered_accesses : (0 : BitVec 3).toNat < 6 ∧ (5 : BitVec 3).toNat < 6 ∧
    (orderedAccesses 4 5 0 0).all (fun p => plain (laneA 0xFFFFFFFFF8001FF8) .S p.2) = true ∧
    (orderedAccesses 4 5 5 0).all (fun p => plain (arrA .S 0xFFFFFFFFF8001040) .S p.2) = true := by decide

theorem witness_updates : (0 : BitVec 2).toNat < 2 ∧ (1 : BitVec 2).toNat < 2 ∧
    (integerUpdates 4 5 6 5 1).all (fun p => plain (laneA 0xFFFFFFFFF8001040) .Y p.2) = true ∧
    (integerUpdates 4 5 6 0 0).all (fun p => plain (arrA .Y 0xFFFFFFFFF8001040) .Y p.2) = true ∧
    (floatUpdates 4 5 6 0 0).all (fun p => plain (laneA 0xFFFFFFFFF8001044) .Y p.2) = true := by decide

/-- TableAndWindowAccessesComplete: a read of a tile table by a load. -/
theorem witness_table_access :
    let s := laneA 0xFFFFFFFFF8000000
    (memoryWords 4 5 6 0 0 0 0).head?.elim false (fun p =>
      match s.asks p.2.1 (fun x t => .ok (p.2.2 x t)) with
      | some [q] => (match q.target with
        | .ok tg => isNow s .lane 0 tg && freeNow s q.agent q.op && heardNow s q.agent tg && !(makeNow s .lane 0 0 tg q.op).1.waits &&
            (makeNow s .lane 0 0 tg q.op).1.faults == []
        | .error _ => false)
      | _ => false) = true := by decide

/-- AccessFaultsArePrecise: a failing access, a scope of 6 and of 7, sizes 2 and 3, and a floating-point size of 1. -/
theorem witness_access_faults :
    (memoryWords 4 5 6 0 0 0 0).all (fun p =>
      ((laneA 0x8000000000000000).accessTrap p.2.1 fun x t => .ok (p.2.2 x t)).isSome) = true ∧
    ((arrA .S 0x8000000000000000).accessTrap .S fun x t => .ok (loadOp 8 false false 0 4 5 0 x t)).isSome = true ∧
    6 ≤ (6 : BitVec 3).toNat ∧ 2 ≤ (2 : BitVec 2).toNat ∧ (1 : BitVec 2).toNat ≠ 0 ∧
    (lane2.accessTrap .S fun _ _ => .error .illegalOperand).isSome = true ∧
    (lane2.accessTrap .Y fun _ _ => .error .illegalOperand).isSome = true := by decide

/-- AccessChecksInOrder: an address for each clause, and the first offset beyond a scratchpad. -/
theorem witness_access_checks :
    0xFFFFFFFFF8001041 % 8 ≠ 0 ∧ 0x8000000000000000 % 8 = 0 ∧ isCanonical 0x8000000000000000 = false ∧
    isCanonical 0x1000 = true ∧ apertureOff 0x1000 = none ∧ isCanonical 0xFFFFFFFFF8002000 = true ∧
    apertureOff 0xFFFFFFFFF8002000 = some 8192 := by decide

/-! #### Synchronisation and system words -/

/-- An agent that is a thread or a task of a core. -/
def isLaneAgent (s : State) : Bool := issuerOk s fun x => x.kind == .lane && (mapGet? x.slot (s.lane x.core).warps).isSome

def isArrayAgent (s : State) : Bool := issuerOk s fun x => x.kind == .array && (s.array x.core).task.isSome

/-- A matrix operation that has not retired. -/
def pendingOp : TileOp :=
  { id := 0, kind := .matrix, wg := 0, reads := [], heads := [],
    origin := { world := 0, job := 0, launch := 0, kind := .array, core := 0, idx := 0, slot := 0, key := 0, lane := 0, pc := 0, cursor := 2 },
    fill := none, sendQ := none, drain := none, imageAt := 0, image := [] }

/-- FencesAndWaitsComplete: each clause, with a counter above each limit. -/
theorem witness_fences :
    (0 : BitVec 3).toNat < 6 ∧ (5 : BitVec 3).toNat < 6 ∧ 6 ≤ (6 : BitVec 3).toNat ∧
    issuerOk lane2 (fun x => !matrixBusy lane2 x) = true ∧
    (let s := arrWith .Y (fun k => { k with ops := [pendingOp] }) id
     issuerOk s fun x => matrixBusy s x) = true ∧
    (let s := lanesWith lane2 fun w => { w with cnt := { ld := 1, st := 2, cp := 3, tl := 4 } }
     issuerOk s fun x => unitCounters s x == { ld := 1, st := 2, cp := 3, tl := 4 }) = true := by decide

/-- MasksAndBarriersComplete: registers 0 and 11; a warp that was spawned and one that was not; an access that has not
performed; and for release a full arrival set, a partial one and an empty register. -/
theorem witness_masks :
    (0 : BitVec 4).toNat < 12 ∧ (11 : BitVec 4).toNat < 12 ∧ 12 ≤ (12 : BitVec 4).toNat ∧ isLaneAgent lane2 = true ∧
    issuerOk lane2 (fun x => groupPerformed lane2 x 1 && groupPerformed lane2 x 2) = true ∧
    (let t := (after (.stD 4 5 0) (laneA 0xFFFFFFFFF8001040)).getD State.reset
     issuerOk t fun x => !groupPerformed t x 1) = true ∧
    (let s := lanesWith lane2 fun w => { w with spawned := true }
     ((mapGet? 0 (s.lane 0).warps).elim false (·.spawned))) = true := by decide

theorem witness_release :
    let w (a : BitVec 32) (m : BitVec 32) : Warp :=
      { newWarp [(0, { Thread.blank with run := .atMask 2 }), (3, Thread.blank)] false 0 0 with masks := [(2, m)], arrivals := [(2, a)] }
    (w 9 9).frozenLanes = 0 ∧ (w 9 9).mask 2 ≠ 0 ∧ (w 9 9).mask 2 &&& ~~~(w 9 9).arrived 2 = 0 ∧ (w 1 0).mask 2 = 0 ∧
    (w 1 9).mask 2 &&& ~~~(w 1 9).arrived 2 ≠ 0 := by decide

/-- ElectionAndExchangeComplete. -/
theorem witness_election : isLaneAgent lane2 = true ∧ issuerOk lane2 (fun x => x.group == [0, 3]) = true := by decide

/-- SpawningAndSchedulingComplete: an entry inside and outside the text; a task with entries of its own, with shipped ones,
with none in its group, and with some in its group; and a shipment of one of two entries. -/
theorem witness_spawn : isLaneAgent lane2 = true ∧
    issuerOk lane2 (fun x => decide (x.info.record.textBase.toNat ≤ x.pc.toNat) &&
      decide (x.pc.toNat < x.info.record.textLimit.toNat) &&
      decide (x.info.record.textLimit.toNat ≤ (x.pc + 4).toNat)) = true := by decide

/-- Two tasks of one launch, on cores 0 and 1. -/
def twoTasks (f g : Task → Task) : State :=
  let s := arrWith .Y id f
  (s.setPort 0 { s.port 0 with st := .running }).setArray 1 { s.array 0 with task := (s.array 0).task.map g }

theorem witness_entries :
    isArrayAgent (arrWith .Y id fun t => { t with entries := [7] }) = true ∧
    isArrayAgent (arrWith .Y id fun t => { t with shipped := [7] }) = true ∧
    (let s := arr .Y
     issuerOk s fun x => groupEmpty s x.info x.core) = true ∧
    (let s := twoTasks id fun t => { t with entries := [7, 8] }
     issuerOk s fun x => !groupEmpty s x.info x.core) = true ∧
    (let s := twoTasks (fun t => { t with asking := some [1] }) fun t => { t with asking := none, entries := [7, 8] }
     match (s.array 0).task with
     | some t => t.asking == some [1] && !(s.array 1).saving && ((groupTask s t.info 1).elim false fun u => decide (2 ≤ u.unstarted.length))
     | none => false) = true := by decide

/-- MailboxesComplete: a target that exists and one that does not; a mailbox with an entry and an empty one; the last core;
a core of another world. -/
theorem witness_mailboxes :
    issuerOk lane1 (fun x => mailTarget (x.reg 4) == some (0, 5) && !fencesOpen lane1 x.agent) = true ∧
    (let s := lanes false 0x02420FF8 [(0, threadOf [(4, 0x3FF)])]
     issuerOk s fun x => mailTarget (x.reg 4) == none) = true ∧
    (let s := arrWith .Y (fun k => { k with mailbox := [9] }) id
     issuerOk s fun x => x.kind == .array && (s.array x.core).mailbox == [9]) = true ∧
    (let s := lane1.setLane 0 { lane1.lane 0 with mailbox := [9] }
     issuerOk s fun x => x.kind == .lane && (s.lane x.core).mailbox == [9]) = true ∧
    issuerOk lane1 (fun x => coreBox lane1 x == []) = true ∧
    ((arr .Y).array 159).world = none ∧ isFenced (arr .Y) .array 159 = false ∧
    (arrWith .Y (fun k => { k with world := some 3 }) id).arrays.any (fun k => k.2.world == some 3) = true := by decide

/-- TrapWordsComplete: on both kinds of core, sealed and not. -/
theorem witness_traps :
    isArrayAgent (arr .Y) = true ∧ ((arr .Y).array 0).sealing = false ∧
    isArrayAgent (arrWith .Y (fun k => { k with sealing := true }) id) = true ∧
    isLaneAgent lane2 = true ∧ (lane2.lane 0).sealing = false ∧
    isLaneAgent (lane2.setLane 0 { lane2.lane 0 with sealing := true }) = true := by decide

/-- A thread whose handler is at 0x7000, in it or not. -/
def handling (inH : Bool) : Thread := { Thread.blank with evec := 0x7000, epc := 0x6000, inHandler := inH }

/-- A privileged task with a handler, in it or not. -/
def arrP (inH : Bool) : State :=
  arrWith .Y (fun k => { k with th := handling inH }) fun t =>
    { t with info := { t.info with priv := true },
             held := some { cursors := t.cursors, outq := [], outBase := 0, path := [], levels := t.levels, replay := [], limits := [] } }

/-- HandlerEntry. -/
theorem witness_handler_entry :
    (let s := lanes true 0x02420FF8 [(0, handling false), (3, handling false)]
     match mapGet? 0 (s.lane 0).warps with
     | some w => (mapGet? w.wg (s.lane 0).wgs).elim false (fun g => (mapGet? 0 w.threads).elim false fun th => mayEnter g.info.priv th)
         && (mapGet? 3 w.threads).isSome
     | none => false) = true ∧
    (let s := arrP false
     (s.array 0).task.elim false fun t => mayEnter t.info.priv (s.array 0).th) = true := by decide

/-- HandlerReturnComplete: without privilege, outside a handler, and in one on both kinds of core. -/
theorem witness_handler_return :
    issuerOk lane1 (fun x => !x.info.priv) = true ∧ issuerOk (laneP (handling false)) (fun x => x.info.priv && !x.th.inHandler) = true ∧
    (let s := laneP (handling true)
     issuerOk s fun x => x.info.priv && x.th.inHandler && x.kind == .lane &&
       ((mapGet? x.slot (s.lane x.core).warps).elim false fun w => !deadlocked (evalMasks (x.group.foldl laneReturn w)))) = true ∧
    (let s := arrP true
     issuerOk s fun x => x.info.priv && x.th.inHandler && x.kind == .array &&
       ((s.array x.core).task.elim false fun t => gathered t.cursors && t.held.isSome)) = true := by decide

/-- HaltComplete: on a lane core; on an array core before and after the other cursors have halted. -/
theorem witness_halt :
    issuerOk lane2 (fun x => x.kind == .lane &&
      ((mapGet? x.slot (lane2.lane x.core).warps).elim false fun w => !deadlocked (endThreads w x.group))) = true ∧
    (let h (c : CursorSt) : CursorSt := { c with halted := true }
     let s := arrWith .Y id fun t => { t with cursors :=
       { s := h t.cursors.s, v := h t.cursors.v, m := h t.cursors.m, d := h t.cursors.d, q := h t.cursors.q, y := t.cursors.y } }
     issuerOk s fun x => x.kind == .array && (s.array x.core).task.elim false fun t => othersHalted t.cursors) = true ∧
    (let s := arr .Y
     issuerOk s fun x => x.kind == .array && (s.array x.core).task.elim false fun t => !othersHalted t.cursors) = true := by decide

/-- SystemRegistersComplete: a plain register, a handler register with and without privilege, CUR_WIN, and numbers that the
core does not assign. -/
theorem witness_system_registers :
    issuerOk lane1 (fun x => assigned x.kind 0x000 && !isPrivReg 0x000 && assigned x.kind 0x207 && !assigned x.kind 0x101
      && isPrivReg 0x013 && assigned x.kind 0x013 && !x.info.priv) = true ∧
    issuerOk (laneP (handling false)) (fun x => assigned x.kind 0x013 && isPrivReg 0x013 && x.info.priv) = true ∧
    (let s := arr .Y
     issuerOk s fun x => assigned x.kind 0x101 && x.kind == .array && (s.array x.core).task.elim false fun t => gathered t.cursors) = true ∧
    issuerOk (arr .Y) (fun x => assigned x.kind 0x11F && !assigned x.kind 0x120) = true ∧
    mapGet? 0x004 ((arr .Y).array 0).shadow = none ∧ mapGet? (laneSysBase + 0x00A) (lane1.lane 0).shadow = none := by decide

/-- RegisterWindowsComplete: the least and the greatest window; a ring with room; depths 0, 1 and 2. -/
theorem witness_windows :
    8 ≤ (8 : BitVec 12).toNat ∧ (32 : BitVec 12).toNat ≤ 32 ∧ (7 : BitVec 12).toNat < 8 ∧ 32 < (33 : BitVec 12).toNat ∧
    (runningTask (arr .S) 0 .S).isSome = true ∧ (lane2.faulted .S (refusing .illegalOperand)).isSome = true ∧
    ((runningGroup lane1 0 0 0).elim false fun x => x.2.2.2 == [0] && (mapGet? 0 x.2.1.threads).elim false fun th =>
      th.win.depth != 4095 && decide (8 ≤ 96 - th.win.held) && th.win.depth == 0 &&
      (match callThread (laneCtx x.1 0 0 0 x.2.2.1) (.lane 0 0 0)
          { world := 0, job := 0, launch := 0, kind := .lane, core := 0, idx := 0, slot := 0, key := 0, lane := 0, pc := th.pc, cursor := 0xFF } (0, 8192) 8 th lane1 with
        | .ok r => r.2.win.depth == 1 && (match returnThread (laneCtx x.1 0 0 0 x.2.2.1) (.lane 0 0 0)
            { world := 0, job := 0, launch := 0, kind := .lane, core := 0, idx := 0, slot := 0, key := 0, lane := 0, pc := th.pc, cursor := 0xFF } (0, 8192) r.2 lane1 with
          | .ok q => q.2.win.depth == 0
          | _ => false)
        | _ => false)) = true := by decide

/-- RegisterWindowsComplete, a whole group: a ring that is full but for the 8 registers of the window, whose callers are at
depth 0 and 2; and callers at depth 1 and with two windows resident. -/
theorem witness_group_windows :
    let at2 (win : Windows) (win3 : Windows) : State := lanesWith lane2 fun w => { w with
      threads := [(0, { Thread.blank with win := win }), (3, { Thread.blank with win := win3 })] }
    let w0 := Thread.blank.win
    let full : Windows := { w0 with depth := 3, cur := 24, wbase := 64, resident := [24, 32, 32] }
    let fits (s : State) : Bool := (runningGroup s 0 0 0).elim false fun x =>
      x.2.2.2 == [0, 3] && x.2.2.2.all fun l => (mapGet? l x.2.1.threads).elim false fun u =>
        u.win.depth != 4095 && decide (8 ≤ ringOf x.1.code - u.win.held)
    let backs (s : State) : Bool := (runningGroup s 0 0 0).elim false fun x =>
      x.2.2.2 == [0, 3] && x.2.2.2.all fun l => (mapGet? l x.2.1.threads).elim false fun u =>
        u.win.depth == 1 || decide (1 < u.win.depth) && decide (2 ≤ u.win.resident.length)
    fits (at2 w0 full) = true ∧ full.held + 8 = 96 ∧
    backs (at2 { w0 with depth := 1, cur := 8, resident := [8] } { w0 with depth := 2, cur := 8, wbase := 8, resident := [8, 8] }) = true := by
  decide

/-! #### Loops -/

/-- A task with level 0 open from its second word to its fourth, and s4 set. -/
def arrL (active : Bool) (v : Word) : State :=
  arrWith .S (fun k => { k with th := threadOf [(4, v)] }) fun t => t.setLevel 0
    { t.level 0 with active := active, trip := 2, iter := 0, start := word placedPage, stop := word placedPage + 12 }

/-- The task of a state meets a condition. -/
def taskOk (s : State) (p : ArrayCore → Task → Bool) : Bool := (runningTask s 0 .S).elim false fun x => p x.1 x.2

/-- LoopWordsComplete: counts of 0, 1, 2^32 - 1 and 2^32; a level that is open, with and without iterations left, and one
that is not; marks, strides and level 5. -/
theorem witness_loops :
    (0 : BitVec 3).toNat < 6 ∧ (5 : BitVec 3).toNat < 6 ∧
    [0, 1, 0xFFFFFFFF, 0x100000000].all (fun v => taskOk (arrL false v) fun k t => !(t.level 0).active && k.th.reg 96 4 == v) = true ∧
    taskOk (arrL true 0) (fun _ t => (t.level 0).active && decide (t.cursors.s.pc.toNat + 4 < (t.level 0).stop.toNat) &&
      decide (t.cursors.s.pc.toNat + 8 < (t.level 0).stop.toNat)) = true ∧
    (let s := arrWith .S id fun t => t.setLevel 0 { t.level 0 with active := true, trip := 2, iter := 0, stop := word placedPage }
     taskOk s fun _ t => (t.level 0).active && !(t.level 1).active && t.cursors.s.pc == (t.level 0).stop &&
       decide ((t.level 0).iter + 1 < (t.level 0).trip)) = true ∧
    (let s := arrWith .S id fun t => t.setLevel 0 { t.level 0 with active := true, trip := 2, iter := 1, stop := word placedPage }
     taskOk s fun _ t => decide ((t.level 0).trip ≤ (t.level 0).iter + 1)) = true ∧
    taskOk (arrL false 0) (fun _ t => (t.level 0).slots.length == 0) = true := by decide

/-- LoopWordsRefused. -/
theorem witness_loops_refused :
    6 ≤ (6 : BitVec 3).toNat ∧ 6 ≤ (7 : BitVec 3).toNat ∧ (lane2.faulted .S (refusing .engineAbsent)).isSome = true ∧
    taskOk (arrL false 0) (fun _ t => !(t.level 0).active && !(t.level 4).active) = true ∧
    taskOk (arrL true 0) (fun _ t => (t.level 0).active) = true := by decide

/-! #### Vectors, tiles, copies and queues -/

/-- Format slot 0 of the test tasks: 16-bit floating point in the plain layout, with every source admitted. -/
def slot0 : BitVec 128 := 0x3F800000FFFFFFFFFFFFFFFF00000002

/-- A 2 by 2 tile of zeros through slot 0. -/
def tile0 : Built := zeroTile (slotOf slot0) 2 2

/-- An entry that holds `tile0` at a local store offset. -/
def entryAt (off : Nat) (st : TileSt) : TileEntry :=
  { TileEntry.blank with hdr := tile0.hdr.word, lsoff := BitVec.ofNat 32 off, cap := 128, st := st }

/-- A task with `tile0` ready in entries 0 and 1, entry 2 empty, h0 to h2 naming them, and some scalar registers. -/
def arrT (cur : Cursor) (rs : Map Word) : State :=
  arrWith cur
    (fun k => { k with
      th := { threadOf rs with handles := [(1, 1), (2, 2)] },
      tiles := [(0, entryAt 0 .ready), (1, entryAt 128 .ready), (2, entryAt 256 .empty)],
      localStore := writeBytes (writeBytes [] 0 tile0.hdr.bytes) 128 tile0.hdr.bytes })
    fun t => { t with info := { t.info with record := { t.info.record with slots := [slot0, slot0], ttCount := 8 } } }

/-- An issuer at a cursor meets a condition. -/
def at_ (s : State) (cur : Cursor) (p : Issuer → Bool) : Bool := (s.issuer cur).elim false p

/-- A pick of an entry. -/
def isPick (p : Pick) (n : Nat) : Bool := match p with | .ok m => m == n | _ => false

/-- A word's effect. -/
def isDone (r : Issue) : Bool := match r with | .done _ => true | _ => false

/-- VectorWordsComplete, PredicateWordsComplete: p0 and p15, and operand fields at the ends of their ranges. -/
theorem witness_vector : at_ (arr .V) .V (fun x => x.kind == .array) = true ∧ (15 : BitVec 6).toNat < 16 ∧
    ¬32 ≤ (31 : BitVec 6).toNat ∧ ¬16 ≤ (15 : BitVec 6).toNat ∧ (15 : BitVec 4) ≠ 0 := by decide

/-- A 2 by 2 tile of 32-bit zeros. -/
def tile1 : Built := zeroTile (slotOf 0x3F800000FFFFFFFFFFFFFFFF00000001) 2 2

/-- RowMovesComplete: a row of a tile read and written, raw and converted; a row of an accumulator. -/
theorem witness_row_moves :
    let s := arrT .V [(4, 1)]
    at_ s .V (fun x =>
      let k := s.array x.core
      let r := (rowOperand (x.reg6 4)).1
      let c0 := (rowOperand (x.reg6 4)).2
      let e := x.entry s 0
      x.kind == .array && tileName x.kind 0 == .handle 0 && isPick (pickHandle s x 0) 0 &&
      (rowChecks s x e r c0 true).all (·.ok) && e.readers == 0 && (x.fslot 0).admits 1 && (x.fslot 0).fmt == e.header.fmt &&
      isDone (readRow s x k 3 (e.header.cols - c0) e.header.poison 0 fun _ _ => (0, noFlag)) &&
      isDone (writeRow s x k 0 r c0 3 0 fun _ _ => (0, noFlag)) &&
      tileName x.kind 48 == .acc 0 && decide (r ≤ 127) && decide (c0 ≤ 127)) = true := by decide

theorem witness_raw_row_moves :
    let s0 := arrT .V [(4, 1)]
    let s := s0.setArray 0 { s0.array 0 with tiles := [(0, { entryAt 0 .ready with hdr := tile1.hdr.word })] }
    at_ s .V (fun x =>
      let e := x.entry s 0
      isPick (pickHandle s x 0) 0 && e.header.fmt == 1 && e.header.sparse == 0 &&
      (rowChecks s x e (rowOperand (x.reg6 4)).1 (rowOperand (x.reg6 4)).2 true).all (·.ok)) = true := by decide

/-- ProductsComplete, TileWordsComplete. -/
theorem witness_matrix :
    let s := arrT .M [(4, 0xFFFFFFFFF8001000)]
    at_ s .M (fun x =>
      let f := x.fslot 0
      let h : TileName := .handle 2
      !unitFull s x && accOf s x 48 == some 0 && tileName x.kind 0 == .handle 0 && tileName x.kind 2 == .handle 2 &&
      isPick (pickSource s x (.handle 0)) 0 && isPick (pickSource s x (.handle 1)) 1 && isPick (pickDest s x h) 2 && h.isDest &&
      allPass (mmaChecks s x f (.handle 0) (.handle 1) 0 1 (getAcc s x 0)) &&
      allPass (mmaChecks s x f (.handle 0) (.handle 1) 0 1 Acc.blank) &&
      allPass (tcvtChecks s x f h (.handle 0) 2 0) && allPass (mtrChecks s x h (.handle 0) 2 0) &&
      allPass (tzeroChecks s x f h 2 0) && isPick (pickFill s x 2) 2 &&
      (okOf (localAt s x 32 32 (x.reg6 4))).isSome && (okOf (localAt s x 128 1024 (x.reg6 4))).isSome &&
      allPass (thdrChecks s x 2 tile0.hdr.word.toNat)) = true := by decide

theorem witness_mout :
    let s := arrT .M []
    at_ s .M (fun x =>
      let s1 := setAcc s x 0 { Acc.blank with extent := some (2, 2) }
      at_ s1 .M fun x => allPass (moutChecks s1 x (x.fslot 0) (.handle 2) 2 (getAcc s1 x 0))) = true := by decide

/-- MatrixFaultsInOrder: a full lane core, a failing check of each word, no accumulator, and an
operand that is one where a tile is needed. -/
theorem witness_matrix_faults :
    (let s := lane1.setLane 0 { lane1.lane 0 with ops := List.replicate 16 pendingOp }
     at_ s .M fun x => unitFull s x) = true ∧
    (let s := arrT .M []
     at_ s .M fun x =>
      let f := slotOf 0
      !unitFull s x && (firstBad (mmaChecks s x f (.handle 0) (.handle 1) 0 1 Acc.blank)).isSome && (accOf s x 47).isNone &&
      !(tileName x.kind 48).isDest &&
      (firstBad (moutChecks s x f (.handle 2) 2 Acc.blank)).isSome &&
      (firstBad (tcvtChecks s x f (.handle 2) (.handle 0) 2 0)).isSome &&
      (let s2 := s.setArray 0 { s.array 0 with tiles := [(0, entryAt 0 .ready)] }
       (firstBad (mtrChecks s2 x (.handle 2) (.handle 0) 2 0)).isSome)) = true := by decide

/-- TileCopiesComplete: `tld` into an empty entry, `tst` of a ready one, and `tgat` and `tsct` with a list of two rows, all
within the aperture. -/
theorem witness_tile_copies :
    let s := arrT .D [(4, 0xFFFFFFFFF8001000), (5, 0xFFFFFFFFF8002000)]
    at_ s .D (fun x =>
      let a := (x.reg6 4).toNat
      let e := x.entry s 0
      isPick (pickDest s x (tileName x.kind 2)) 2 && a % 32 == 0 && (x.entry s 2).cap.toNat != 0 &&
      decide (rangesPass s x (segsOf s x.info .read a (x.entry s 2).cap.toNat)) &&
      isPick (pickSource s x (tileName x.kind 0)) 0 && decide (rangesPass s x (segsOf s x.info .both a e.header.tlen)) &&
      check1 e.hdr.toNat && e.header.check3 && (x.tiles s).inRange e && isPick (pickHandle s x 0) 0 && rowsAllowed e.header &&
      (match localAt s x 4 (4 * e.header.rows) (x.reg6 5) with
        | .ok off => decide (rangesPass s x (rowSegs s x .read (x.reg6 4) (rowBytes e.header) (rowList s x off e.header.rows))) &&
          decide (rangesPass s x (rowSegs s x .write (x.reg6 4) (rowBytes e.header) (rowList s x off e.header.rows)))
        | .error _ => false) &&
      e.readers == 0 && (x.tiles s).fits e e.header.tlen) = true := by decide

/-- CopiesAndBatchesComplete: a length of 8 and of 0, scopes 4 and 5, a thread with fewer than 16 batches and one with 16, and
numbers 0, of a batch and of none. -/
theorem witness_copies :
    let s := arrT .D [(4, 0xFFFFFFFFF8001000), (5, 0xFFFFFFFFF8002000), (6, 8)]
    at_ s .D (fun x =>
      (x.reg 6).toNat == 8 && (x.reg 0).toNat == 0 && (x.reg 4).toNat % 8 == 0 &&
      decide (rangesPass s x (segsOf s x.info .read (x.reg 5).toNat 8 ++ segsOf s x.info .write (x.reg 4).toNat 8)) &&
      decide (rangesPass s x (segsOf s x.info .write (x.reg 4).toNat 8)) &&
      decide (rangesPass s x (segsOf s x.info .read (x.reg 5).toNat 128)) && decide (x.th.batch.pend.length < 16) &&
      !x.th.batch.names 8) = true := by decide

theorem witness_batches :
    let b : Batches := { last := 16, sealedCount := 16, openCount := 0, openCmds := [],
                         pend := (List.range 16).map fun n => (n + 1, [n]), broken := [] }
    16 ≤ b.pend.length ∧ b.names 16 = true ∧ b.names 1 = true := by decide

/-- CopyFaultsArePrecise: a range that does not translate, scopes 3 and 6, and addresses that are not aligned. -/
theorem witness_copy_faults :
    let s := arrT .D [(4, 0x100004), (5, 0xFFFFFFFFF8002004), (6, 8)]
    at_ s .D (fun x =>
      (rangeFault s x (segsOf s x.info .read (x.reg 4).toNat 8 ++ segsOf s x.info .write (x.reg 5).toNat 8)).isSome &&
      (x.reg 5).toNat % 8 != 0 && (x.reg6 5).toNat % 32 != 0 && isPick (pickDest s x (tileName x.kind 2)) 2 &&
      isPick (pickSource s x (tileName x.kind 0)) 0) = true := by decide

/-- A task with a queue in q0. -/
def arrQ (f : Binding → Binding) (rs : Map Word) : State :=
  let s := arrT .Q rs
  s.setArray 0 { s.array 0 with queues := [(0, f { Binding.blank with base := 3, pool := 2 })] }

/-- A module whose channel 0 is configured to module 1, which it reaches, with a descriptor of that peer in local store. -/
def arrBind (peer : Nat) : State :=
  let s := arrT .Q [(4, 0xFFFFFFFFF8001000)]
  let s1 := s.setChan 0 { s.chan 0 with ctl := BitVec.ofNat 64 (2 ^ 49 + 2 ^ 50) }
  let s2 := s1.onHub fun h => { h with reach := [(0, 2)] }
  let desc := peer + 3 * 2 ^ 40 + 2 ^ 52 + 128 * 2 ^ 64 + 0x4000 * 2 ^ 96
  s2.setArray 0 { s2.array 0 with localStore := writeNat (s2.array 0).localStore 0x1000 16 desc }

/-- QueueWordsComplete: a descriptor that binds; a send and a receive queue without a forming tile; a send into a free entry
and a receive of a head; a queue that sends; and every width. -/
theorem witness_bind :
    let s := arrBind 1
    at_ s .Q (fun x => !unbinding (s.array 0) 0 && (match localAt s x 16 16 (x.reg6 4) with
      | .ok o => let d := qdescOf (natOfBytes (readCore s .array x.core o 16))
                 bindable s x.core 0 d && channelReady s d
      | .error _ => false)) = true := by decide

theorem witness_queue_words :
    32 ≤ (32 : BitVec 6).toNat ∧ (47 : BitVec 6).toNat < 48 ∧
    (let s := arrQ (fun b => { b with dir := .send, cap := 128 }) []
     let s1 := s.setArray 0 { s.array 0 with
       tiles := mapSet 3 { TileEntry.blank with cap := 128, lsoff := 512, qheld := true } (s.array 0).tiles }
     at_ s1 .Q fun x => !unbinding (s1.array 0) 0 && !forming (s1.array 0) ((s1.array 0).queue 0) &&
       (sendCheck ((s1.array 0).queue 0)).isNone && tileName x.kind 0 == .handle 0 && isPick (pickHandle s1 x 0) 0 &&
       isPick (pickSend s1 x 0) 3 && fitsDest s1 x (.queue 0) 3 (x.entry s1 0).header.tlen) = true ∧
    (let s := arrQ (fun b => { b with dir := .receive, fifo := [3] }) []
     let s1 := s.setArray 0 { s.array 0 with tiles := mapSet 3 { entryAt 0 .ready with qheld := true } (s.array 0).tiles }
     at_ s1 .Q fun x => ((s1.array 0).queue 0).dir == .receive && isPick (pickHead s1 x 0) 3 && isPick (pickFill s1 x 2) 2 &&
       check1 (x.entry s1 3).hdr.toNat && (x.entry s1 3).header.check3 && (x.tiles s1).inRange (x.entry s1 3) &&
       fitsDest s1 x (.handle 2) 2 (x.entry s1 3).header.tlen) = true := by decide

/-- QueueFaults: an unbound name, a receive queue where a send queue is needed, a bad descriptor and an absent peer. -/
theorem witness_queue_faults :
    (let s := arrT .Q []
     at_ s .Q fun _ => ((s.array 0).queue 0).dir == .unbound && !forming (s.array 0) ((s.array 0).queue 0) &&
       sendCheck ((s.array 0).queue 0) == some .queueUnbound) = true ∧
    (let s := arrBind 0
     at_ s .Q fun x => match localAt s x 16 16 (x.reg6 4) with
      | .ok o => !bindable s x.core 0 (qdescOf (natOfBytes (readCore s .array x.core o 16)))
      | .error _ => false) = true ∧
    (let s := arrBind 2
     at_ s .Q fun x => match localAt s x 16 16 (x.reg6 4) with
      | .ok o => let d := qdescOf (natOfBytes (readCore s .array x.core o 16))
                 bindable s x.core 0 d && !channelReady s d
      | .error _ => false) = true := by decide

/-- AbsentEngines. -/
theorem witness_absent_engines : at_ lane2 .V (fun x => x.kind == .lane) = true ∧ at_ lane2 .Q (fun x => x.kind == .lane) = true := by
  decide

/-! #### Events -/

/-- The state after an instruction, where it has one. -/
def run1 (i : Instr) (s : State) : State := (after i s).getD State.reset

/-- A thread's load from memory that has issued. -/
def loading : State := run1 (.ldD 4 5 0) (laneA 0x6000)

/-- A thread's store to its scratchpad that has issued. -/
def storing : State := run1 (.stD 4 5 0) (laneA 0xFFFFFFFFF8001040)

/-- Flight 0 meets a condition. -/
def flight0 (s : State) (p : Flight → Bool) : Bool := (findFlight s.flight 0).elim false p

/-- The same with flight 0 changed. -/
def flightWith (s : State) (g : Flight → Flight) : State := { s with flight := s.flight.map g }

/-- UnitEventsComplete, part by part. -/
theorem witness_group_aged : (runningGroup lane2 0 0 0).elim false (fun x => x.2.1.aged == [] && x.2.2.2 == [0, 3]) = true := by
  decide

theorem witness_bins :
    let k : LaneCore := { lane1.lane 0 with bins := [(3, { threads := [Thread.blank], wg := 0, due := true, entry := 0, after := [], since := 0 })] }
    (mapGet? 3 k.bins).elim false (fun x => binReady x && (mapGet? x.wg k.wgs).isSome && x.after == [] && !k.sealing && !k.saving) = true ∧
    (mapGet? 5 k.warps).isNone = true ∧ 5 < 32 := by decide

theorem witness_merge :
    let t : Thread := { Thread.blank with run := .atMask 0 }
    let w : Warp := newWarp [(0, t)] false 0 0
    w.gatheredAt = some 0 ∧ mergeable w 16 = true ∧ w.live.length + w.live.length ≤ 32 ∧ (16 : Nat) ≠ 0 := by decide

theorem witness_outcome :
    let s0 := State.reset.withFetchWord 32 0x12401FFD
    let t0 := (stepped { s0 with sel := .array 0 .S }).getD State.reset
    let s := (stepped { t0 with sel := .array 0 .V }).getD State.reset
    (runningTask t0 0 .V).isSome = true ∧ (runningTask s 0 .V).isSome = true ∧
    ((runningTask t0 0 .V).elim false fun x => match okOf (pathWord t0 0 x.2 .V) with
      | some (u, _) => u.mayTake .V
      | none => false) = true := by decide

theorem witness_unit_complete :
    (let s := arrWith .Y id fun t => { t with ended := true }
     (s.array 0).task.elim false fun t => t.ended && t.cnt.zero && (s.array 0).th.batchesDone && !(s.array 0).saving && !isFenced s .array 0) = true ∧
    (let s := lanes false 0x02420FF8 [(0, { Thread.blank with run := .ended })]
     (mapGet? 0 (s.lane 0).warps).elim false fun w => w.ended && w.cnt.zero && w.threads.all (fun y => y.2.batchesDone) &&
       (mapGet? w.wg (s.lane 0).wgs).isSome && !isFenced s .lane 0) = true := by decide

theorem witness_deferred : isDeferred .tornTile = true ∧ ((arr .Y).array 0).task.isSome = true ∧
    (mapGet? 0 (lane1.lane 0).warps).isSome = true := by decide

theorem witness_entry_write :
    isFenced State.reset .array 159 = false ∧ (coreWinWrite State.reset (.arrayTile 159 4095 60) [1, 2, 3, 4]).waits = false ∧
    60 + [1, 2, 3, 4].length ≤ 64 := by decide

/-- TrafficEventsComplete, part by part. -/
theorem witness_load_returns :
    let s := run1 (.homeRequest 0) loading
    let s2 := run1 (.probeResponse (0x6000 / 128)) s
    flight0 loading (fun f => f.stage == .issued && f.space == .domain && !f.kind.isFence && mayPerform loading f &&
      hubHears loading f.chip && (chipletServes loading f).isNone && !f.remote loading && !behindPosted loading f) = true ∧
    (groupOfWord loading 0).length = 1 ∧
    ((readyAll s2 ((groupOfWord s2 0).map (·.id))).isSome || (readyAll s ((groupOfWord s 0).map (·.id))).isSome) = true := by decide

theorem witness_store_accepted : (groupOfWord storing 0).length = 1 ∧ flight0 storing (fun f => !f.kind.reads) = true ∧
    (acceptAll storing ((groupOfWord storing 0).map (·.id))).isSome = true := by decide

/-- A load whose address lies in module 1, and a store there before it. -/
def farLoad : State := flightWith loading fun f => { f with addr := 2 ^ 42 + f.addr }

theorem witness_far_load :
    flight0 farLoad (fun f => f.remote farLoad && (lastTaken (sentStores farLoad f)).isNone && (chipletServes farLoad f).isNone && mayLeave farLoad (moduleOf f.addr) &&
      f.stage == .issued && mayPerform farLoad f) = true ∧
    (match farLoad.flight with
      | f :: _ =>
        let g := { f with id := 7, grp := 7, kind := .store, stage := .sent }
        let s := { farLoad with flight := [g, f] }
        f.kind == .load && f.remote s && (lastTaken (sentStores s f)).isSome && covered f.addr f.size g.addr g.size
      | [] => false) = true := by decide

theorem witness_probe :
    let s0 := run1 (.homeRequest 0) loading
    let s := s0.setDir (0x6000 / 128) { s0.dirLine (0x6000 / 128) with busy := some 0 }
    (s.dirLine (0x6000 / 128)).busy = some 0 ∧ (findFlight s.flight 0).isSome = true ∧
    flight0 s (fun f => (probed s (0x6000 / 128) f.chip f.kind.writes).all (answersProbe s)) = true := by decide

theorem witness_remote :
    let a (n : Nat) : Await := { seq := 0, id := 0, tries := n, since := 0 }
    let s (n : Nat) : State :=
      { State.reset with remote := [(1, { next := 1, waiting := [a n], floor := 0 })], merge := [(64, (8, 5))], time := 50000 * 65536 }
    (mapGet? 64 (s 3).merge).isSome = true ∧ State.reset.module = 0 ∧ appliedThere (s 3) 0 = true ∧
    ((s 2).waitingFor 1).waiting.find? (fun x => x.seq == 0) = some (a 2) ∧ (s 2).now = 50000 ∧
    ((s 3).waitingFor 1).waiting.find? (fun x => x.seq == 0) = some (a 3) ∧ waitsToLeave (s 3) 0 = false := by
  decide

/-- OperationEndsComplete: each kind of command that the statement names, issued where its accesses may be made. -/
def issuedCopy (i : Instr) (rs : Map Word) : State := run1 i (arrT .D rs)

/-- The first copy command of a state meets a condition. -/
def copy0 (s : State) (p : Copy → Bool) : Bool := match s.copies with | c :: _ => copyFree s c && p c | [] => false

theorem witness_copy_ends :
    let rs : Map Word := [(4, 0xFFFFFFFFF8001000), (5, 0xFFFFFFFFF8002000), (6, 8)]
    copy0 (issuedCopy (.tld 2 4) rs) (fun c => c.kind == .tld 2 none) = true ∧
    copy0 (issuedCopy (.tst 0 4) rs) (fun c => c.kind == .tst 0 false none) = true ∧
    copy0 (issuedCopy (.tgat 0 4 5) rs) (fun c => c.kind == .tgat 2 || c.kind == .tgat 0) = true ∧
    copy0 (issuedCopy (.tsct 4 0 5) rs) (fun c => c.kind == .tsct 0) = true ∧
    copy0 (issuedCopy (.dcpy 4 5 6) rs) (fun c => c.kind == .dcpy) = true ∧
    copy0 (issuedCopy (.cflush 4 6) rs) (fun c => c.kind == .cflush) = true := by decide

theorem witness_flag_write :
    let s := issuedCopy (.dflag 4 5 5) [(4, 0xFFFFFFFFF8001000), (5, 3)]
    copy0 s (fun c => (match c.kind with | .dflag _ true covers => covers == [] && !flagWaits s c (flagHome s c) covers | _ => false) &&
      !c.written && !c.failed &&
      (let r := putAll s c (layOver c.pieces 0 (clean (bytesOfNat 8 3)))
       !r.waits && r.lost == [])) = true := by decide

theorem witness_retire :
    let s := run1 (.mtr 2 0) (arrT .M [])
    (match retiring s { kind := .array, core := 0, slot := 0 } 0 with
      | some o => o.kind == .matrix && o.sendQ.isNone && !(writeCore s .array 0 o.imageAt o.image).waits
      | none => false) = true ∧
    (let u := run1 (.qunbind 32) (arrQ (fun b => { b with dir := .receive }) [])
     match retiring u { kind := .array, core := 0, slot := 0 } 0 with
      | some o => o.kind == .unbind 0 && ((u.array 0).queue 0).taken == [] && !claiming (u.array 0) 0
      | none => false) = true := by decide

/-- The copy of a tile that was sent becomes a send of queue 0. -/
theorem witness_retire_send :
    let s := arrQ (fun b => { b with dir := .send, cap := 128 }) []
    let s1 := s.setArray 0 { s.array 0 with
      tiles := mapSet 3 { TileEntry.blank with cap := 128, lsoff := 512, qheld := true } (s.array 0).tiles }
    let u := run1 (.qsend 32 0) s1
    (match (u.array 0).ops with
      | o :: _ => retiring u { kind := .array, core := 0, slot := 0 } o.id == some o && o.kind == .matrix && o.sendQ == some 0 &&
          !(writeCore u .array 0 o.imageAt o.image).waits &&
          o.fill.elim false fun e => ((u.array 0).queue 0).fifo.contains e.1
      | [] => false) = true := by decide

/-- LinkTileEventsComplete, part by part. -/
def bindingAt (s : State) (p : Holder → ArrayCore → Binding → Bool) : Bool :=
  (bindingHolder s 7).elim false fun x => p x.1 (holderCore s x.1) ((holderCore s x.1).queue x.2)

/-- A task with binding 7 to queue 3 of core 2 of module 1, in q0. -/
def arrB (f : Binding → Binding) : State :=
  arrQ (fun b => f { b with id := 7, core := 0, peerMod := 1, peerCore := 2, peerQ := 3, cap := 128 }) []

/-- Its task saved from the core, as context 9. -/
def savedB (f : Binding → Binding) : State :=
  let s := arrB f
  let v : Saved := { id := 9, addr := 0x100000, world := 0, task := some (s.array 0), lane := none, from? := 0, done := true }
  (s.setArray 0 { s.array 0 with task := none, queues := [] }).onHub fun h => { h with saved := [v] }

/-- The peer's end of binding 7. -/
def peer7 (sends : Bool) (k : ArrayCore) : PeerEnd :=
  { mod := 1, core := 2, q := 3, sends := sends, world := k.taskWorld, namesMod := 0, namesCore := 0, namesQ := 0 }

theorem witness_binding_pair :
    (let s := arrB fun b => { b with dir := .send }
     bindingAt s fun h k b => mayPair s h 0 k b (peer7 false k)) = true ∧
    (let s := savedB fun b => { b with dir := .send }
     bindingAt s fun h k b => h == .saved 9 && mayPair s h 0 k b (peer7 false k)) = true ∧
    (let s := arrB fun b => { b with dir := .receive, wantWidth := some 4 }
     bindingAt s fun h k b => mayPair s h 0 k b (peer7 true k)) = true := by decide

theorem witness_link_events :
    (let s := arrB fun b => { b with dir := .receive, paired := true, lent := 1 }
     let s1 := s.setArray 0 { s.array 0 with tiles := mapSet 3 { TileEntry.blank with cap := 128, qheld := true } (s.array 0).tiles }
     bindingAt s1 fun _ k b => b.dir == .receive && b.paired && !b.xoff && b.filling.isNone && b.lent != 0 && freeEntry k b == some 3) =
      true ∧
    bindingAt (savedB fun b => { b with dir := .receive, paired := true, lent := 1 })
      (fun h _ b => h == .saved 9 && b.dir == .receive && b.paired && !b.xoff && b.filling.isNone) = true ∧
    bindingAt (arrB fun b => { b with dir := .receive, filling := some 3 }) (fun _ _ b => b.filling == some 3) = true ∧
    bindingAt (arrB fun b => { b with dir := .send, paired := true }) (fun _ _ b => b.dir == .send && b.paired) = true := by decide

theorem witness_link_take :
    let s := arrB fun b => { b with dir := .send, paired := true, credit := 1, fifo := [3], granted := 256 }
    let s1 := s.setArray 0 { s.array 0 with tiles := mapSet 3 { entryAt 0 .ready with st := .draining } (s.array 0).tiles }
    let s2 := s1.setChan 0 { s1.chan 0 with st := .up, cur := 1, stripe := 1, have_ := 1 }
    bindingAt s2 (fun h k b => h == .core 0 &&
      b.nextTile == some 3 && b.dir == .send && b.paired && !b.xoff && b.credit != 0 &&
      (mapGet TileEntry.blank k.tiles 3).st == .draining && !unbinding k 0 && (s2.chan b.chan).st == .up &&
      decide ((mapGet TileEntry.blank k.tiles 3).header.tlen ≤ b.granted)) = true := by decide

/-- A tile of 32 bytes of header and 8 of payload, one flit: an allowance of one pays for it, none does not. -/
theorem witness_send_retire :
    let s := arrB fun b => { b with taken := [3], dir := .send, paired := true, marks := [(0, 5, false, true)] }
    let s1 := s.setArray 0 { s.array 0 with tiles := mapSet 3 { entryAt 0 .ready with st := .draining } (s.array 0).tiles }
    let c : Channel := { s1.chan 0 with st := .up, cur := 1, stripe := 1, locked := 1, volume := [(0, 512)], life := [(0, 1000000)] }
    let s2 (v : BitVec 8) : State := s1.setChan 0 { c with have_ := v }
    let left (s : State) : Bool := bindingAt s fun _ k b => b.taken == [3] &&
      decide (((s.chan b.chan).spend (flitsOf (mapGet TileEntry.blank k.tiles 3).header.tlen - b.sent)).2 <
        flitsOf (mapGet TileEntry.blank k.tiles 3).header.tlen - b.sent)
    left (s2 0) = true ∧ bindingAt (s2 1) (fun _ _ b => b.taken == [3]) = true ∧ left (s2 1) = false ∧
    bindingAt s (fun _ _ b => b.paired && b.marks == [(0, 5, false, true)]) = true := by decide
/-- A port of the module changed. -/
def portWith (p : Nat) (f : Port → Port) : State := State.reset.setPort p (f (State.reset.port p))

/-- HubEventsComplete, part by part. -/
theorem witness_ports :
    ((portWith 9 fun y => { y with st := .refused }).port 9).iso = .idle ∧
    (let s := portWith 9 fun y => { y with st := .running }
     (s.port 9).st == .running && chipletEmpty s 9) = true ∧
    (let s := arr .S
     (s.port (portOfCore .array 0)).st == .running && !chipletEmpty s (portOfCore .array 0)) = true ∧
    ((portWith 9 fun y => { y with st := .training, iso := .retraining }).port 9).iso = .retraining ∧
    tableOk 9 [] = false ∧ coresAt 3 ≠ [] ∧
    (let s := portWith 3 fun y => { y with st := .running, table := some (List.replicate 0x1A 0 ++ [6, 0]) }
     chipletEmpty s 3 && pstateOk (s.port 3) 1 && pstateOk (s.port 3) 2) = true := by decide

/-- A capability table of an ARR chiplet. -/
theorem witness_table :
    let body : List Byte := [0x43, 0x41, 0x42, 0x01, 2] ++ List.replicate 4087 0
    tableOk 9 (body ++ bytesOfNat 4 (crc32 body)) = true := by decide +kernel

theorem witness_hub :
    (let s := State.reset.onHub fun h => { h with sdnQueue := [(1, 0x6000, 0, 0, 5)], cmbxTgt := [(3, 0x105)], cmbx := [(3, [9])] }
     s.hub.sdnQueue.head? == some (1, 0x6000, 0, 0, 5) && (dropPages s fun h => pageHit h (1, 0x6000, 0, 0, 5)).hub.sdnQueue ==
     s.hub.sdnQueue && sdnWaits s (1, 0x6000, 0, 0, 5) == false && mailTarget (mapGet 0 s.hub.cmbxTgt 3) == some (1, 5) &&
     !fencesOpen s (.hart 3) && hartBox s 3 == [9] &&
     hartBox s 4 == []) = true ∧ 255 < regCount .chanCtl := by decide

/-- IsolationEventsComplete. -/
theorem witness_isolation :
    (let s := { State.reset with time := 65536 * 40000 }
     decide ((s.port 3).beat + 1000 * s.hub.isoLapse ≤ s.now)) = true ∧
    (0x17 : BitVec 64).toNat % 32 < 24 ∧
    ((portWith 3 fun y => { y with iso := .redispatching }).port 3).redone = false ∧
    (let y := (portWith 3 fun y => { y with st := .running }).port 3
     y.st != .down && y.st != .off && y.st != .training && decide (y.sealRun < 3)) = true ∧
    (let s := portWith 3 fun y => { y with st := .fenced, iso := .fencing }
     (s.port 3).iso == .fencing && s.flight.all fun f => f.stage != .queued) = true ∧
    ((portWith 3 fun y => { y with st := .fenced, iso := .cleaning }).port 3).iso = .cleaning ∧
    ((portWith 3 fun y => { y with st := .down, iso := .resetting }).port 3).iso = .resetting := by decide

/-- A module with a journal, an enabled queue 0 of world 0, a packet at its head and a launch record in memory. -/
def packetState (packet : Nat) : State :=
  let s := arr .S
  let m0 := writeNat s.mem (s.home 0x8000) 64 packet
  let m1 := writeNat (writeNat m0 (s.home 0x6000) 24 (0x6000 + 0x6004 * 2 ^ 64 + 2 ^ 160)) (s.home 0x607A) 3 0x010001
  let s1 := { s with mem := m1 }.onHub fun h => { h with jBase := 0x100000 }
  let s2 := s1.setArray 0 { s1.array 0 with task := none }
  s2.setDq 0 0 { s2.dq 0 0 with base := 0x8000, en := true, wptr := 1 }

/-- A LAUNCH packet: one unit of launch 1 of job 1, with its record at 0x6000. -/
def launchPacket : Nat := 1 + 0x6000 * 2 ^ 64 + 2 ^ (8 * 0x10) + 2 ^ (8 * 0x14) + 2 ^ (8 * 0x16) + 2 ^ (8 * 0x18) + 2 ^ (8 * 0x1C)

/-- The head packet of queue 0 of world 0. -/
def headOf (s : State) : Packet :=
  let x := s.dq 0 0
  packetAt s x x.rptr

/-- SequencerEventsComplete: a packet that is refused, one that is accepted and one for which no table has room. -/
theorem witness_packets :
    let s := packetState 0
    let t := packetState launchPacket
    (16 : Nat) ≤ 2 ^ (State.reset.dq 0 0).size ∧ 2 ^ (State.reset.dq 0 0).size < 17 ∧
    ((s.dq 0 0).en && !(s.dq 0 0).pause && (s.dq 0 0).rptr != (s.dq 0 0).wptr && journalOpen s) = true ∧
    refusal s 0 (s.dq 0 0) (headOf s) ≠ 0 ∧ journalOpen t = true ∧ refusal t 0 (t.dq 0 0) (headOf t) = 0 ∧
    tableRoom t 0 (headOf t) = true := by decide

/-- The next state of a meaning, or the reset state. -/
def orReset (r : Host.Outcome State Fault Refusal) : State := match r with | .next t => t | _ => State.reset

/-- The launch has been accepted; it has issued; its one unit has been placed. -/
def accepted : State := orReset (execPacketAccept 0 0 (packetState launchPacket))

def issuedLaunch : State := orReset (execLaunchIssue 0 1 1 accepted)

theorem witness_launch_issue :
    (match findLaunch accepted 0 1 1 with
      | some l => !l.issued && !l.cancelled && mayIssue accepted l && (issueRecord accepted l).isSome &&
        (issueRecord accepted { l with recordVa := 1 }).isNone
      | none => false) = true ∧ journalOpen accepted = true := by decide

theorem witness_place :
    (match findLaunch issuedLaunch 0 1 1 with
      | some l => l.issued && l.rec?.isSome && l.kind == some .array && l.next issuedLaunch == some 0 && l.placing issuedLaunch &&
        eligible issuedLaunch l 0 && hasTurn issuedLaunch l .array 0 && l.aged.isNone && levelLive issuedLaunch 0 0 1 1 &&
        !launchResident issuedLaunch { l with nextUnit := 1 } && effectsDone issuedLaunch l
      | none => false) = true ∧ issuedLaunch.hub.jAck ≤ 7 := by decide

/-- The launch ages 1 ms after its last placement. -/
theorem witness_launch_aged :
    let s := { issuedLaunch with time := 65536 * 2000000 }
    (match findLaunch s 0 1 1 with
      | some l => l.placing s && l.aged.isNone && decide (l.placedAt + 1000000 ≤ s.time / 65536) && l.kind == some .array
      | none => false) = true ∧
    (let h := { s.hub with reserved := [(0, 5)] }
     (mapGet? 0 h.reserved).isSome) = true := by decide

theorem witness_no_room :
    let t := (packetState launchPacket).onHub fun h => { h with jobs := (List.range 64).map fun n =>
      { world := 1, num := n, ended := false, flag := 0, err := false, cancelled := false, phases := [], graphs := [], nums := [],
        edges := [] } }
    tableRoom t 0 (headOf t) = false ∧ refusal t 0 (t.dq 0 0) (headOf t) = 0 := by decide

/-- UnitCommandsComplete: no unit, a stopped task, a stopped warp and a running task. -/
theorem witness_unit_commands :
    unitState State.reset (selectedUnit State.reset) = 0 ∧
    (let s := arrWith .Y id fun t => { t with stop := some { cause := .brk, cls := 1, code := 0, pc := 0, lanes := [] } }
     unitState s (selectedUnit s) == 2 && (selectedUnit s).kind == .array && (unitInfo s (selectedUnit s)).isSome) = true ∧
    (let s0 := lanesWith lane2 fun w => { w with stop := some { cause := .brk, cls := 1, code := 0, pc := 0, lanes := [0] } }
     let s := s0.onHub fun h => { h with unitSel := 0x10000 }
     unitState s (selectedUnit s) == 2 && (selectedUnit s).kind == .lane && (unitInfo s (selectedUnit s)).isSome) = true ∧
    (let s := (arr .Y).onHub fun h => { h with unitCtx := 0x100000 }
     unitState s (selectedUnit s) == 1 && mayBeSaved s (selectedUnit s) && !savingHere s .array 0 && isCoherent s.hub.unitCtx.toNat && chipletTakes s .array 0) = true := by
  decide

/-- A save of the task on array core 0, asked for and complete. -/
def saving1 : State := orReset (execUnitSave ((arr .Y).onHub fun h => { h with unitCtx := 0x100000 }))

theorem witness_save :
    savingHere saving1 .array 0 = true ∧ isFenced saving1 .array 0 = false ∧ taskDrained (setSealing saving1 .array 0 true true) 0 = true ∧
    (saving1.hub.saved.find? fun v => !v.done && v.kind == .array && v.from? == 0).isSome = true := by decide

/-- The context of the task on array core 0, saved at 0x100000, with a sound header and a sound section 15 in memory. -/
def ctx0 : Saved :=
  { id := 0, addr := 0x100000, world := 0, task := some ((arr .Y).array 0), lane := none, from? := 0, done := true }

def restorable : State :=
  { (State.reset.setPort (portOfCore .array 0) { State.reset.port (portOfCore .array 0) with st := .running }).onHub
      (fun h => { h with saved := [ctx0] }) with
    mem := [(0x100000, 0x43), (0x100001, 0x54), (0x100002, 0x58), (0x100003, 0x01), (0x100006, 2), (0x100FFC, 0xF9),
      (0x100FFD, 0x0D), (0x100FFE, 0x6B), (0x100FFF, 0x41), (0x25B008, 0x69), (0x25B009, 0xDF), (0x25B00A, 0x22),
      (0x25B00B, 0x65)] }

theorem witness_restore : mayRestore restorable ctx0 0 = true ∧ headerSound State.reset ctx0 = false := by decide +kernel

theorem witness_restore_header : headerSound restorable ctx0 = true := by decide +kernel

theorem witness_restore_private : privateSound restorable ctx0 = true := by decide +kernel

/-- ManagementEventsComplete, part by part. -/
theorem witness_management :
    (let s := State.reset.onHub fun h => { h with bootStep := 2, sessions := [(1, { gen := 1, up := false, keys := 0 }), (2, { gen := 1, up := true, keys := 0 })] }
     decide (2 ≤ s.hub.bootStep) && (mapGet? 1 s.hub.sessions).elim false (fun x => !x.up) &&
     (mapGet? 2 s.hub.sessions).elim false (fun x => x.up) && (mapGet? 3 s.hub.sessions).isNone) = true ∧
    (bootFuses ((moduleReset State.reset).onHub fun h => { h with bootClear := false })).isSome = true := by decide

theorem witness_images :
    ∃ f : FlashImage, imageSound State.reset.hub f = true ∧ imageSound State.reset.hub { f with sigOk := false } = false :=
  ⟨{ FlashImage.none with sigOk := true }, by decide⟩

theorem witness_weights :
    let g0 : GenSlot := { dir := 0, pins := 0, gen := 1, st := .staged, digest := 0 }
    let b (st : GenSt) : WBind := { id := 7, ctl := 1, slots := [(0, { g0 with st := st })], freed := 0, err := false, maxGen := 1 }
    (b .staged).id ≠ 0 ∧ ((b .staged).slot 1).st = .free ∧ imageOk State.reset (b .staged) g0 = true ∧ (b .staged).worlds = 1 ∧
    (b .measured).current = none ∧ (b .current).current = some 0 := by decide

/-- OutsideAccessesComplete: an address that is not canonical, one that does not translate and one that does. -/
theorem witness_outside :
    let s := (arr .S).setPort 0 { (arr .S).port 0 with st := .running }
    (s.port (31 / 32)).st = .running ∧ isAccess 8 8 = true ∧ isCanonical 0x8000000000000000 = false ∧
    (okOf (translate s 0 false none .read 0x9000)).isNone = true ∧ (okOf (translate s 0 false none .read 0x6000)).isSome = true ∧
    hartOpOk .load = true ∧ HartOp.isFence .load = false := by decide

/-- FabricEventsComplete, part by part. -/
theorem witness_channels :
    let x : Channel := { State.reset.chan 5 with ctl := BitVec.ofNat 64 (2 ^ 49 + 2 ^ 50 + 2 ^ 32 * 3), st := .up }
    let s := State.reset.setChan 5 x
    x.assigned.getLsbD 0 = true ∧ x.locked.getLsbD 0 = false ∧ laserWorks s x 0 = true ∧ x.parked.getLsbD 0 = false ∧
    x.have_.getLsbD 0 = false ∧ x.marker = none ∧ mapGet 0 x.frames 9 < 4 ∧ 4 ≤ mapGet 0 [(9, 4)] 9 ∧
    (let y := { x with st := .tuning, locked := x.assigned, have_ := x.assigned }
     y.assigned &&& ~~~y.parked &&& ~~~y.locked = 0 ∧ y.have_ ≠ 0 ∧ y.ctl.getLsbD 48 = false ∧ y.computed ≠ y.cur ∧
     mapGet 0 y.volume 0 < 512 ∧ mapGet 0 y.life 0 ≤ s.now ∧ y.hold.getLsbD 0 = false) ∧
    (namesOver s 5).length = 0 ∧ (x.ctl ||| 1 <<< 48).getLsbD 48 = true ∧ (s.rslot (4 * 5 + 0)).grantee = none ∧ 7 < 8 := by decide

/-- A channel that is up with a marker outstanding, an allowance asked for and one that lapses. -/
theorem witness_channel_up :
    let ctl : Word := BitVec.ofNat 64 (2 ^ 49 + 2 ^ 50 + 2 ^ 32)
    let x : Channel := { State.reset.chan 5 with ctl := ctl, st := .up, locked := 1, cur := 1, marker := some (0, 0), asked := 1 }
    let s := State.reset.setChan 5 x
    let t := State.reset.setChan 5 { x with have_ := 1, life := [(0, 0)] }
    ((sendSome s 5).chan 5).marker = some (0, 0) ∧
    ((sendSome s 5).chan 5).locked &&& ((sendSome s 5).chan 5).parked &&& ~~~(0 : BitVec 8) = 0 ∧
    x.assigned.getLsbD 0 = true ∧ x.asked.getLsbD 0 = true ∧ x.st = .up ∧
    ((t.chan 5).have_.getLsbD 0 && ((sendSome t 5).chan 5).locked.getLsbD 0 && !((sendSome t 5).chan 5).parked.getLsbD 0 &&
      !((sendSome t 5).chan 5).hold.getLsbD 0 && decide (mapGet 0 ((sendSome t 5).chan 5).life 0 ≤ (sendSome t 5).now)) = true := by
  decide

theorem witness_fabric :
    (let s := { State.reset with time := 65536 * 1000 }.onHub fun h => { h with ftLock := true }
     s.hub.ftLock && s.now / 250 % 128 == 4) = true ∧
    (mapGet { base := 0, limit := 0 } State.reset.hub.rwins (128 * 7 + 127)).base.getLsbD 0 = false ∧
    (let y : Channel := { State.reset.chan 5 with marker := some (1, 1) }
     y.locked &&& y.parked &&& ~~~(1 : BitVec 8) = 0) := by decide

/-! ### Steps: results worked out by hand from the rules -/

/-- s4 of the task after one step. -/
def s4After (s : State) : Option Nat := (stepped s).map fun t => ((t.array 0).th.reg 96 4).toNat

/-- The S cursor's place after one step. -/
def pcAfter (s : State) : Option Nat := (stepped s).bind fun t => (t.array 0).task.map fun k => k.cursors.s.pc.toNat

/-- A task with registers whose next word is given. -/
def wordState (raw : Nat) (rs : Map Word) : State :=
  let s := State.reset.withFetchWord 32 raw
  s.setArray 0 { s.array 0 with th := threadOf rs }

/-- 08 R215: `add s4, s5, s6` wraps. -/
theorem test_add_wraps : s4After (wordState 0x00429800 [(5, 0xFFFFFFFFFFFFFFFF), (6, 2)]) = some 1 := by decide

/-- 08 R216: `add s4, s4, -8`. -/
theorem test_add_negative : s4After (wordState 0x02420FF8 [(4, 5)]) = some 0xFFFFFFFFFFFFFFFD ∧
    pcAfter (wordState 0x02420FF8 [(4, 5)]) = some 0x6004 := by decide

/-- 08 R217: the most negative number by −1, and by 0. -/
theorem test_div_corners :
    s4After (wordState 0x00429805 [(5, 0x8000000000000000), (6, 0xFFFFFFFFFFFFFFFF)]) = some 0x8000000000000000 ∧
    s4After (wordState 0x00429807 [(5, 0x8000000000000000), (6, 0xFFFFFFFFFFFFFFFF)]) = some 0 ∧
    s4After (wordState 0x00429805 [(5, 9), (6, 0)]) = some 0xFFFFFFFFFFFFFFFF ∧
    s4After (wordState 0x00429807 [(5, 9), (6, 0)]) = some 9 := by decide

/-- 08 R215: the high half of −1 times 2, signed and unsigned. -/
theorem test_mulh :
    s4After (wordState 0x00429803 [(5, 0xFFFFFFFFFFFFFFFF), (6, 2)]) = some 0xFFFFFFFFFFFFFFFF ∧
    s4After (wordState 0x00429804 [(5, 0xFFFFFFFFFFFFFFFF), (6, 2)]) = some 1 := by decide

/-- 08 R219: the example of the rule. -/
theorem test_ldhi : s4After (wordState 0x06480000 []) = some 0xFFFFFFFF80000000 := by decide

/-- 08 R227: `b.ne s4, s0, -12` taken and not taken. -/
theorem test_branch : pcAfter (wordState 0x12401FFD [(4, 1)]) = some 0x5FF4 ∧
    pcAfter (wordState 0x12401FFD [(4, 0)]) = some 0x6004 := by decide

/-- 08 R233, R234: 1.5 + 0.75 in 32 bits. -/
theorem test_fadd : ((after (.fadd 4 5 6 .f32) (wordState 0 [(5, 0x3FC00000), (6, 0x3F400000)])).map fun t =>
    ((t.array 0).th.reg 96 4).toNat) = some 0x40100000 := by decide

/-- 12 R333: `amo.add` of 32 bits wraps, and `amo.min` is signed. -/
theorem test_amo : amoNew .add 32 0xFFFFFFFF 2 0 = (1, noFlag) ∧ amoNew .min 32 0x80000000 1 0 = (0x80000000, noFlag) := by decide

/-- 12 R326: the lowest lane is elected, and no other. -/
theorem test_elect : ((after (.elect 4) lane2).bind fun t => (mapGet? 0 (t.lane 0).warps).map fun w =>
    w.threads.map fun y => (y.2.preg 4).toNat) = some [1, 0] := by decide

/-- 12 R341: a trap word of a privileged thread with a handler: ESTAT.CAUSE 8, EVAL the code, EPC the next word. -/
theorem test_trap : ((after (.trap 5) (laneP (handling false))).bind fun t => (mapGet? 0 (t.lane 0).warps).bind fun w =>
    (mapGet? 0 w.threads).map fun y => (y.estatCause.toNat, y.eval.toNat, y.epc.toNat, y.pc.toNat, y.inHandler)) =
    some (8, 5, 0x6004, 0x7000, true) := by decide

/-- 07 R195: the all-zero word stops the task: its record names illegal-instruction. -/
theorem test_zero_word : ((stepped (wordState 0 [])).bind fun t => (t.array 0).task.bind fun k => k.stop.map (·.cause)) =
    some .illegalInstruction := by decide

/-- 04 R124: a held translation serves after the root is disabled, until its shootdown completes. -/
theorem test_old_translation :
    let s := fetchPage (wordState 0 []) 0 none 0x6000
    let off := s.onHub fun h => { h with roots := [], sdnQueue := [(1, 0x6000, 0, 0, 5)] }
    okOf (translate off 0 false none .read 0x6004) = some 0x6004 ∧
    (okOf (translate (run1 .shootdownComplete off) 0 false none .read 0x6004)).isNone = true := by decide

/-- 06 R172, 11 R305: a non-coherent chiplet keeps a write and reads it, its home reads the old byte; a flush writes it. -/
theorem test_kept_write :
    let s := { portWith 6 (fun y => { y with cclass := 2, st := .running }) with holding := [6] }
    let t := keepWrite s 6 0x2000 [5] pendingOp.origin 0 (.task 0) true
    keepsWrites s 6 = true ∧ peek t 0x2000 1 = [0] ∧ viewBytes t 6 0x2000 [0] = [5] ∧ viewBytes t 7 0x2000 [0] = [0] ∧
    peek (flushKept t 6 (lineOf 0x2000)) 0x2000 1 = [5] := by decide

/-! ### Witnesses of further clauses -/

/-- WrittenBytesReadBack. -/
theorem witness_memory : Memory.wf [(0x6000, 7)] = true ∧ 3 < 8 := by decide

/-- ScalarFormsRefused: words that only the other kind of core has. -/
theorem witness_other_kind :
    issuerOk lane1 (fun x => x.kind == .lane) = true ∧ at_ lane1 .M (fun x => x.kind == .lane && !unitFull lane1 x) = true ∧
    issuerOk (arr .Y) (fun x => x.kind == .array) = true := by decide

/-- A thread whose page at 0x9000 has a leaf, and the context of its unit. -/
def leafed (e : Nat) : State :=
  { laneA 0x9000 with pages := [{ world := 0, pin := none, base := 0x9000, bits := 12, leaf := some e, used := true }] }

def ctxOf (s : State) (p : Ctx → Bool) : Bool := (runningGroup s 0 0 0).elim false fun g => p (laneCtx g.1 0 0 0 g.2.2.1)

/-- The leaf of 0x9000 is the one that the caches hold, for an access of an unprivileged thread outside every binding. -/
def leafAt (e : Nat) : Bool :=
  let s := leafed e
  ctxOf s fun x => !x.isArray && !x.info.priv && leafOf s x.info.world x.info.pin 0x9000 == some (e, 12) &&
    (pinnedDir s x.info.pin 0x9000).isNone && !inBinding s 0x9000

/-- AccessChecksInOrder: leaves that refuse by each bit; a local place, a reserved one and a window of this module; and a
window, an address of no kind and memory of another. -/
theorem witness_leaves :
    isCanonical 0x9000 = true ∧ apertureOff 0x9000 = none ∧
    ctxOf (laneA 0x9000) (fun x => (leafOf (laneA 0x9000) x.info.world x.info.pin 0x9000).isNone) = true ∧
    ([0x6001, 0x6003, 0x6005, 0x6047, 0x6007, 0x18000000007, 0x30000000007, 0x70000000007, 0x73F00000007, 0x58000000007,
      0x40000006007].all leafAt) = true ∧
    bit 0x6001 1 = false ∧ bit 0x6003 2 = false ∧ bit 0x6047 6 = true ∧
    isReserved (leafed 7) 0x6000 = false ∧ isReserved (leafed 7) 0x18000000000 = true ∧ isWindowMap 0x6000 = false ∧
    winPart 0x30000000000 = some (.arrayStore 0 0) ∧ isReserved (leafed 7) 0x30000000000 = false ∧
    moduleOf 0x70000000000 = 1 ∧ isWindowMap (localOf 0x70000000000) = true ∧ winPart (localOf 0x70000000000) = some (.arrayStore 0 0) ∧
    winPart (localOf 0x73F00000000) = none ∧ isCoherent (localOf 0x58000000000) = false ∧
    isCoherent (localOf 0x40000006000) = true ∧ reachable (leafed 7) 1 = false := by decide

/-- MemoryWordFrame: a store and a load that issue. -/
theorem witness_frame :
    (after (.stD 4 5 0) (laneA 0xFFFFFFFFF8001040)).isSome = true ∧ (after (.ldD 4 5 0) (arrA .S 0xFFFFFFFFF8001040)).isSome = true := by
  decide

/-- MasksAndBarriersComplete: M operations that have not retired; every thread at an `mwait`, and one that is not. -/
theorem witness_mask_deadlock :
    (let s := lane2.setLane 0 { lane2.lane 0 with ops := [{ pendingOp with origin := { pendingOp.origin with kind := .lane } }] }
     issuerOk s fun x => matrixBusy s x && groupPerformed s x 2) = true ∧
    (let w : Warp := newWarp [(0, { Thread.blank with run := .atMask 2 }), (3, { Thread.blank with run := .atMask 1 })] false 0 0
     deadlocked w && (w.threads.filter fun t => t.2.run != Run.ended).head? == some (0, { Thread.blank with run := .atMask 2 })) = true ∧
    deadlocked (newWarp [(0, { Thread.blank with run := .atMask 2 }), (3, Thread.blank)] false 0 0) = false := by decide

/-- MailboxesComplete, SystemRegistersComplete. -/
theorem witness_hub_hears : issuerOk lane1 (fun x => hubHears lane1 x.agent.port) = true ∧ isArrayAgent (arr .Y) = true ∧
    mapGet? 0x100 ((arr .Y).array 0).shadow = none ∧ mapGet? 0x115 ((arr .Y).array 0).shadow = none := by decide

/-- LoopWordsRefused: a body that reaches the outer stop, `lend` at an inner level and off the end, four stride slots and a
mark to the end. -/
theorem witness_loops_refused_more :
    taskOk (arrL true 0) (fun _ t => (t.level 0).stop == t.cursors.s.pc + word (4 * 3) && decide ((t.level 0).stop.toNat ≤ t.cursors.s.pc.toNat + 4 * 3) &&
      t.cursors.s.pc != (t.level 0).stop) = true ∧
    taskOk (arrL false 0x100000000) (fun k _ => decide (2 ^ 32 ≤ (k.th.reg 96 4).toNat)) = true ∧
    (let s := arrWith .S id fun t => t.setLevel 1 { t.level 1 with active := true, slots := [(false, 1, 8), (false, 2, 8), (true, 1, 8), (true, 2, 8)] }
     taskOk s fun _ t => (t.level (0 + 1)).active && decide (4 ≤ ((t.level 1).slots.filter fun y => !(y.1 == false && y.2.1 == 5)).length)) = true := by
  decide

/-- LoopWordsRefused: a word at the end of the innermost level that is not its `lend`. -/
theorem witness_loop_end :
    let s := arrWith .S id fun t => t.setLevel 0 { t.level 0 with active := true, trip := 2, iter := 0, stop := word placedPage }
    taskOk s (fun k t =>
      let e : PathEntry := { step := t.cursors.s.step, pc := t.cursors.s.pc, raw := 0x02420FF8, skip := false, base := 0 }
      (notAWord .array e.raw).isNone && !behindWcnt t e.step && inWindowLimit k t .S && badEnd t e.pc e.raw &&
      match decodeWord e.raw with
      | .ok i => (failedRow t.info.priv e.raw i).isNone
      | .error _ => false) = true ∧ isLoopWord 0xC2000000 = true := by decide

/-- MatrixFaultsInOrder: the header words and the codebook load outside the aperture, a header that fails its checks, and
`tzero` through an empty format slot. -/
theorem witness_matrix_faults_more :
    let s := arrT .M [(4, 0x6000), (5, 0xFFFFFFFFF8001000)]
    at_ s .M (fun x => !unitFull s x && (okOf (localAt s x 32 32 (x.reg6 4))).isNone && (okOf (localAt s x 128 1024 (x.reg6 4))).isNone &&
      isPick (pickSource s x (.handle 0)) 0 && isPick (pickFill s x 2) 2 && tileName x.kind 2 == .handle 2 &&
      (match localAt s x 32 32 (x.reg6 5) with
        | .ok o => (firstBad (thdrChecks s x 2 (natOfBytes (readCore s x.kind x.core o 32)))).isSome
        | .error _ => false) &&
      isPick (pickHandle s x 0) 0 && isPick (pickDest s x (.handle 2)) 2 &&
      (firstBad (tzeroChecks s x (slotOf 0) (.handle 2) 2 0)).isSome && !(tileName x.kind 48).isDest) = true := by decide

/-- CopyFaultsArePrecise: ranges that do not translate, an entry without capacity, a header that fails its checks, and a list
outside the aperture or not aligned. -/
theorem witness_copy_faults_more :
    let s0 := arrT .D [(4, 0x100020), (5, 0xFFFFFFFFF8002000), (6, 8), (7, 0x100020), (8, 0x100000)]
    let s := s0.setArray 0 { s0.array 0 with tiles := [(0, entryAt 0 .ready), (1, { entryAt 128 .ready with hdr := 0 }),
      (2, { entryAt 256 .empty with cap := 0 }), (3, entryAt 256 .empty)] }
    at_ s .D (fun x =>
      let e := x.entry s 0
      let bad := x.entry s 1
      (x.reg6 4).toNat % 32 == 0 && isPick (pickDest s x (.handle 2)) 2 && (x.entry s 2).cap.toNat == 0 &&
      (rangeFault s x (segsOf s x.info .read (x.reg6 4).toNat 128)).isSome && (x.entry s 3).cap.toNat != 0 &&
      isPick (pickSource s x (.handle 0)) 0 && (rangeFault s x (segsOf s x.info .both (x.reg6 4).toNat e.header.tlen)).isSome &&
      isPick (pickSource s x (.handle 1)) 1 && decide (rangesPass s x (segsOf s x.info .both (x.reg6 5).toNat bad.header.tlen)) &&
      !check1 bad.hdr.toNat && isPick (pickHandle s x 0) 0 && isPick (pickHandle s x 1) 1 && e.readers == 0 &&
      (okOf (localAt s x 4 (4 * e.header.rows) (x.reg6 4))).isNone &&
      (match localAt s x 4 (4 * e.header.rows) (x.reg6 5) with
        | .ok off => (rangeFault s x (rowSegs s x .read (x.reg6 4) (rowBytes e.header) (rowList s x off e.header.rows))).isSome &&
          decide (rangesPass s x (rowSegs s x .read (x.reg6 5) (rowBytes e.header) (rowList s x off e.header.rows)))
        | .error _ => false) &&
      (rangeFault s x (segsOf s x.info .read 0x100000 128)).isSome && (rangeFault s x (segsOf s x.info .write (x.reg 8).toNat 8)).isSome &&
      (x.reg 8).toNat % 8 == 0 && tileName x.kind 48 == .acc 0) = true := by decide

/-- The task's h7 names entry 4, which is empty and may be in a pool. -/
def withHandle7 (s : State) : State :=
  s.setArray 0 { s.array 0 with th := { (s.array 0).th with handles := [(1, 1), (2, 2), (7, 4)] } }

/-- QueueFaults: a send to a name that does not send, an entry with a bad header, a receive from a name that is not bound, a
tile that does not fit, and a descriptor outside the aperture. -/
theorem witness_queue_faults_more :
    (let s := withHandle7 (arrT .Q [(4, 0x6000)])
     at_ s .Q fun x => !unbinding (s.array 0) 0 && isPick (pickHandle s x 0) 0 && (match pickHandle s x 7 with | .fault _ _ => true | _ => false) &&
       sendCheck ((s.array 0).queue 0) == some .queueUnbound && receiveCheck (s.array 0) ((s.array 0).queue 0) == some .queueUnbound &&
       (okOf (localAt s x 16 16 (x.reg6 4))).isNone) = true ∧
    (let s := arrQ (fun b => { b with dir := .send, cap := 32 }) []
     let s1 := s.setArray 0 { s.array 0 with
       tiles := mapSet 3 { TileEntry.blank with cap := 32, lsoff := 512, qheld := true } (s.array 0).tiles }
     at_ s1 .Q fun x => isPick (pickSend s1 x 0) 3 && !fitsDest s1 x (.queue 0) 3 (x.entry s1 0).header.tlen) = true ∧
    (let s := arrQ (fun b => { b with dir := .receive, fifo := [3] }) []
     let s1 := withHandle7 (s.setArray 0 { s.array 0 with
       tiles := mapSet 3 { entryAt 0 .ready with qheld := true, hdr := 0 } (s.array 0).tiles })
     at_ s1 .Q fun x => isPick (pickHead s1 x 0) 3 && !check1 (x.entry s1 3).hdr.toNat && isPick (pickFill s1 x 2) 2 &&
       (match pickFill s1 x 7 with | .fault _ _ => true | _ => false)) = true := by decide

/-- UnitEventsComplete: ports that answer, and cores that are not fenced. -/
theorem witness_units_heard :
    isFenced lane1 .lane 0 = false ∧ hubHears (arr .Y) (portOfCore .array 0) = true ∧ hubHears lane1 (portOfCore .lane 0) = true ∧
    (arr .Y).hub.saved = [] ∧ findFlight lane1.flight 5 = none := by decide

/-- OperationEndsComplete: a flag whose covered write failed, and one written at this module and at another. -/
theorem witness_flag_ends :
    let s := issuedCopy (.dflag 4 5 5) [(4, 0xFFFFFFFFF8001000), (5, 3)]
    let f : State := { s with copies := s.copies.map fun c => { c with failed := true } }
    let w : State := { s with copies := s.copies.map fun c => { c with written := true } }
    copy0 f (fun c => c.failed && !c.written && !flagWaits f c (flagHome f c) []) = true ∧
    copy0 w (fun c => c.written && (flagAsked w c.id).isNone) = true := by decide

/-- LinkTileEventsComplete: the ports of core 0 and of the link chiplet of channel 0 are heard. -/
theorem witness_links_heard : hubHears State.reset (portOfCore .array 0) = true ∧ hubHears State.reset (16 + 0 / 32) = true := by decide

/-- HubEventsComplete: a port whose entry is 0, tables that are new and known, and a message of a hart. -/
theorem witness_hub_more :
    portEntry State.reset 9 ≠ 2 ∧ (State.reset.port 9).table = none ∧ (State.reset.port 9).fromIso = false ∧
    (let s := (portWith 1 fun y => { y with st := .reading }).onHub fun h => { h with bootStep := 6 }
     (s.port 1).st == .reading && (s.port 1).table == none && decide (6 ≤ s.hub.bootStep) && !(s.port 1).fromIso) = true ∧
    ((portWith 9 fun y => { y with table := some [] }).port 9).table = some [] ∧ hubHears State.reset (3 / 32) = true ∧
    3 < regCount .cmbxSend ∧ regCount .cmbxSend < 100 ∧
    (let s := portWith 9 fun y => { y with waking := true }
     (s.port 9).waking) = true := by decide

/-- IsolationEventsComplete: a queued access of another port does not hold the fence up. -/
theorem witness_fence_drained :
    let s := { portWith 3 (fun y => { y with st := .fenced, iso := .fencing }) with flight := loading.flight }
    (s.port 3).iso = .fencing ∧ (s.flight.all fun f => f.chip != 3 || f.stage != .queued) = true := by decide

/-- UnitCommandsComplete: a context in a place that is not reserved and not busy. -/
theorem witness_save_place :
    let s := (arr .Y).onHub fun h => { h with unitCtx := 0x100000 }
    isReserved s s.hub.unitCtx.toNat = false ∧
    (let s0 := setSealing saving1 .array 0 true true
     let s1 := prepareCore s0 .array 0
     let c := contextOf s1 0 0x100000 .array 0 true
     busyRange s0 (s0.home c.addr) (areaSize c)) = false := by decide

/-- ManagementEventsComplete: sensors 0, 45 and 46, fuses that are no two adjacent counts, and a power loss within a raise. -/
theorem witness_management_more :
    (0 : Nat) < 46 ∧ 45 < 46 ∧ ¬46 < 46 ∧
    (bootFuses ((moduleReset State.reset).onHub fun h => { h with bootClear := false, fuseA := 5 })).isNone = true := by decide

/-- FabricEventsComplete: a channel that has drained and one that has not, a frame of its replay buffer and none, a position
that wakes, and parking in each kind of state. -/
theorem witness_channels_more :
    let ctl : Word := BitVec.ofNat 64 (2 ^ 49 + 2 ^ 50 + 2 ^ 32 * 3)
    let x : Channel := { State.reset.chan 5 with ctl := ctl, st := .draining, sentFrames := 3, acked := 3 }
    let s := State.reset.setChan 5 x
    x.reqs = [] ∧ x.sentFrames = x.acked ∧ (namesOver s 5).length = 0 ∧ { x with acked := 1 }.sentFrames ≠ 1 ∧
    (1 ≤ 2 ∧ 2 < x.sentFrames) ∧ x.sentFrames ≤ 3 ∧ mapGet 0 [(2, 4)] 2 = 4 ∧
    (let y := { x with st := .up, waking := 1, started := 1 }
     y.waking.getLsbD 0 && y.started.getLsbD 0 && !y.locked.getLsbD 0 && laserWorks s y 0 && decide (litCount s < s.hub.ceiling)) = true ∧
    (let y := { x with st := .up, hold := 1 }
     y.hold.getLsbD 0) = true ∧ ChanSt.up ≠ .draining ∧ ChanSt.up ≠ .dark := by decide

/-- FabricEventsComplete: a receive slot that is granted, with another sender that asks and the same one; a grant to renew and
one that lapses; fabric time in its domain and in another, and a sync that is 2 s old. -/
theorem witness_receiver :
    let y : RSlot := { RSlot.blank with grantee := some 3, tuned := some 3, volume := 100, lapse := 50 }
    let s := { State.reset.onHub (fun h => { h with slots := [(20, y)] }) with time := 65536 * 2000000000 }
    (s.rslot (4 * 5 + 0)).grantee = some 3 ∧ (s.rslot 20).queue.contains 3 = false ∧ (s.rslot 20).queue.contains 9 = false ∧
    (s.rslot 20).volume < 512 ∧ (s.rslot 20).lapse ≤ s.now ∧ s.hub.ftDomain < 256 ∧ (s.hub.ftDomain + 1) % 256 ≠ s.hub.ftDomain ∧
    s.hub.lastSync + 2000000000 * 65536 ≤ s.time - s.hub.ftHold ∧
    State.reset.time - State.reset.hub.ftHold < State.reset.hub.lastSync + 2000000000 * 65536 := by decide

/-- FabricEventsComplete: a frame that its receive slot hears, one of the orbit lane, and one that nothing hears. -/
theorem witness_frames :
    let fr : OpticalFrame := { source := 1, fibre := 0, band := 0, flits := 2, acked := 0, confirms := false }
    let x : Channel := { State.reset.chan 5 with ctl := BitVec.ofNat 64 (2 ^ 49 + 2 ^ 50), st := .up }
    let s := (State.reset.setChan 5 x).onHub fun h => { h with slots := [(0, { RSlot.blank with grantee := some 1, tuned := some 1 })] }
    x.peer = 1 ∧ orbitHears s fr = false ∧ hears s fr = true ∧ hears s { fr with band := 1 } = false ∧
    orbitHears s { fr with fibre := 3, band := 3, source := (s.now / 250 % 128 + memberOf s.module) % 128 } = true := by decide

/-- 13 R368: a record written after its packet was submitted issues as it stood at the doorbell. -/
theorem test_record_at_submission :
    let s := packetState launchPacket
    let s0 := s.setDq 0 0 { s.dq 0 0 with wptr := 0 }
    let s1 := orReset (execDqDoorbell 0 0 1 s0)
    let s2 := orReset (execPacketAccept 0 0 (poke s1 (s.home 0x6000) [0xFF]))
    (match findLaunch s2 0 1 1 with
      | some l => ((readRecord s2 l).getD []).take 1 == [0x00]
      | none => false) = true := by decide

/-- 09 R245: vabs and vneg leave a NaN as it is, and change the sign of an infinity. -/
theorem test_nan_pattern :
    keepNaN 0xFFC00007 (0xFFC00007 &&& 0x7FFFFFFF) = 0xFFC00007 ∧ keepNaN 0xFF800000 (0xFF800000 &&& 0x7FFFFFFF) = 0x7F800000 := by
  decide
end Sys2Proof.Tests
end

section
/-! Memory read after it is written (00 R9): bytes and little-endian numbers come back, and writing what is there
changes nothing. -/

namespace Sys2Proof.Machine

/-! ### Little-endian numbers -/

@[simp] theorem bytesOfNat_length (n v : Nat) : (bytesOfNat n v).length = n := by
  induction n generalizing v with
  | zero => rfl
  | succ n ih => simp [bytesOfNat, ih]

/-- The number that the `n` low bytes of a number hold is that number up to its width. -/
theorem natOfBytes_bytesOfNat (n v : Nat) : natOfBytes (bytesOfNat n v) = v % 2 ^ (8 * n) := by
  induction n generalizing v with
  | zero => simp [bytesOfNat, natOfBytes, Nat.mod_one]
  | succ n ih =>
    have split_width : 2 ^ (8 * (n + 1)) = 256 * 2 ^ (8 * n) := by rw [Nat.mul_succ, Nat.pow_add, Nat.mul_comm]
    rw [bytesOfNat, natOfBytes, ih, BitVec.toNat_ofNat, split_width, Nat.mod_mul]

/-- Byte `i` of a number is its bits 8i to 8i + 7. -/
theorem nth_bytesOfNat (d : Byte) {n i : Nat} (h : i < n) (v : Nat) :
    nth d (bytesOfNat n v) i = BitVec.ofNat 8 (v / 2 ^ (8 * i)) := by
  induction n generalizing i v with
  | zero => omega
  | succ n ih =>
    cases i with
    | zero => simp [bytesOfNat, nth]
    | succ i =>
      have split_shift : 2 ^ (8 * (i + 1)) = 256 * 2 ^ (8 * i) := by rw [Nat.mul_succ, Nat.pow_add, Nat.mul_comm]
      rw [bytesOfNat, nth, ih (by omega), split_shift, Nat.div_div_eq_div_mul]

/-! ### Reading what was written -/

theorem readBytes_writeBytes_same {m : Memory} (w : m.wf = true) (a : Nat) (bs : List Byte) :
    readBytes (writeBytes m a bs) a bs.length = bs := by
  induction bs generalizing m a with
  | nil => rfl
  | cons b rest ih =>
    have w' := writeByte_wf w a b
    have first : readByte (writeBytes (writeByte m a b) (a + 1) rest) a = b := by
      rw [readByte_writeBytes_outside w' rest (by omega), readByte_writeByte w, if_pos rfl]
    rw [writeBytes, List.length_cons, readBytes, first, ih w']

theorem readNat_writeNat_same {m : Memory} (w : m.wf = true) (a n v : Nat) :
    readNat (writeNat m a n v) a n = v % 2 ^ (8 * n) := by
  have back := readBytes_writeBytes_same w a (bytesOfNat n v)
  rw [bytesOfNat_length] at back
  rw [readNat, writeNat, back, natOfBytes_bytesOfNat]

theorem readByte_writeNat {m : Memory} (w : m.wf = true) (a v : Nat) {n i : Nat} (h : i < n) :
    readByte (writeNat m a n v) (a + i) = BitVec.ofNat 8 (v / 2 ^ (8 * i)) := by
  rw [writeNat, readByte_writeBytes w, bytesOfNat_length, if_pos (by omega), Nat.add_sub_cancel_left, nth_bytesOfNat _ h]

/-! ### Writing what is there -/

/-- Nothing is listed at an address that reads as blank: the canonical form lists no blank byte. -/
theorem dropByte_of_blank {lo : Nat} {m : Memory} (w : Memory.wfFrom lo m = true) {a : Nat}
    (h : readByte m a = Memory.blank) : dropByte a m = m := by
  induction m generalizing lo with
  | nil => rfl
  | cons x rest ih =>
    obtain ⟨j, b⟩ := x
    simp only [Memory.wfFrom, Bool.and_eq_true, decide_eq_true_eq] at w
    obtain ⟨⟨-, listed⟩, wrest⟩ := w
    simp only [readByte] at h
    simp only [dropByte]
    split
    · next here => exact absurd (by rwa [if_pos here] at h) listed
    · next other =>
      split
      · rfl
      · next after => rw [ih wrest (by rwa [if_neg other, if_neg after] at h)]

/-- An address that does not read as blank is listed, with the byte it reads as. -/
theorem putByte_readByte {m : Memory} {a : Nat} (h : readByte m a ≠ Memory.blank) : putByte a (readByte m a) m = m := by
  induction m with
  | nil => exact absurd rfl h
  | cons x rest ih =>
    obtain ⟨j, b⟩ := x
    simp only [readByte] at h ⊢
    simp only [putByte]
    split
    · next here => rw [here]
    · next other =>
      rw [if_neg other] at h
      split
      · next before => exact absurd (if_pos before) h
      · next after =>
        rw [if_neg after] at h
        rw [ih h]

theorem writeByte_readByte {m : Memory} (w : m.wf = true) (a : Nat) : writeByte m a (readByte m a) = m := by
  unfold writeByte
  split
  · next blank => exact dropByte_of_blank w blank
  · next listed => exact putByte_readByte listed

theorem writeBytes_readBytes {m : Memory} (w : m.wf = true) (a n : Nat) : writeBytes m a (readBytes m a n) = m := by
  induction n generalizing a with
  | zero => rfl
  | succ n ih => rw [readBytes, writeBytes, writeByte_readByte w, ih]

/-- Settles O8: the read-back, frame and idempotence laws of a memory in canonical form. -/
theorem writtenBytesReadBack : Obligations.WrittenBytesReadBack := by
  intro m a n v c bs w
  exact ⟨readBytes_writeBytes_same w a bs, readNat_writeNat_same w a n v, fun _ h => readByte_writeNat w a v h,
    readByte_writeBytes_outside w bs, writeBytes_readBytes w a n⟩

end Sys2Proof.Machine
end

section
/-! The scheduler's step (01 R20, R23, R34): an event that comes first, a word of an issue group, the aged groups that
stand before it, and a word of an array task's cursor. -/

namespace Sys2Proof.Machine

/-! ### Events and words -/

/-- An event that comes first is run in place of a word, and is removed. -/
theorem step_of_event {s : State} {i : Instr} {rest : List Instr}
    (first : (runCaches (advanceTime s)).inputs = i :: rest) (event : isWord i = false) :
    step s = exec i { runCaches (advanceTime s) with inputs := rest } := by
  simp only [step, stepMachine, first, event, Bool.false_eq_true, if_false]

/-- With no event before it, the agent that the scheduler chooses steps. -/
theorem step_of_no_event {s : State} (none_first : (runCaches (advanceTime s)).inputs = []) :
    step s = stepAgent (chooseAgent (runCaches (advanceTime s))) := by
  simp only [step, stepMachine, none_first]

/-! ### Lane cores -/

/-- A word that may issue at a group's place is what the group runs. -/
theorem stepGroup_of_mayIssue {s : State} {c slot lane raw : Nat} {i : Instr} {k : LaneCore} {w : Warp} {g : Workgroup}
    {group : List Nat} (awake : coreAwake s .lane c = true) (run : runningGroup s c slot lane = some (k, w, g, group))
    (fetch : fetchRaw s (portOfCore .lane c) g.info (groupPc w group) = .ok raw) (valid : notAWord .lane raw = none)
    (decoded : decodeWord raw = .ok i) (may : mayIssueLane s c slot k w group raw = true) :
    stepGroup s c slot lane = exec i s := by
  simp only [stepGroup, awake, if_true, run, fetch, valid, decoded, may]

/-- Where no group is aged, the group that the scheduler names steps. -/
theorem stepLane_of_no_aged {s : State} {c slot lane : Nat} (none_aged : agedGroups (s.lane c) = []) :
    stepLane s c slot lane = stepGroup { s with sel := .lane c slot lane } c slot lane := by
  simp only [stepLane, none_aged, List.foldr_nil, firstAged]

/-- Aged groups that do not issue are passed over (log entry 74). -/
theorem firstAged_append_of_idle {s : State} {c : Nat} {pre : List (Nat × Nat × Nat)} (rest : List (Nat × Nat × Nat))
    (idle : ∀ x ∈ pre, ∃ u, stepGroup { s with sel := .lane c x.2.1 x.2.2 } c x.2.1 x.2.2 = .next u ∧
      issued s u c x.2.1 = false) :
    firstAged s c (pre ++ rest) = firstAged s c rest := by
  induction pre with
  | nil => rfl
  | cons x xs ih =>
    obtain ⟨u, stays, not_issued⟩ := idle x (List.mem_cons_self ..)
    simp only [List.cons_append, firstAged, stays, not_issued, Bool.false_eq_true, if_false]
    exact ih fun y hy => idle y (List.mem_cons_of_mem _ hy)

/-- An aged group that issues is picked, and its marks go. -/
theorem firstAged_cons_of_issued {s t : State} {c time slot lane : Nat} (rest : List (Nat × Nat × Nat))
    (run : stepGroup { s with sel := .lane c slot lane } c slot lane = .next t) (done : issued s t c slot = true) :
    firstAged s c ((time, slot, lane) :: rest) =
      some (.next (unage t c slot ((mapGet? slot (s.lane c).warps).elim [] fun y => groupOf y lane))) := by
  simp only [firstAged, run, done, if_true]

/-! ### Array cores -/

/-- A cursor issues its own word where it may issue and no rule of its place stops it. -/
theorem moveOf_eq_issue {s : State} {c : Nat} {k : ArrayCore} {t : Task} {cur : Cursor} {e : PathEntry} {i : Instr}
    (valid : notAWord .array e.raw = none) (unmarked : e.skip = false) (placed : badPlace t cur e = false)
    (behind : behindWcnt t e.step = false) (inside : inWindowLimit k t cur = true) (own : ownerOf e.raw = cur)
    (decoded : decodeWord e.raw = .ok i) (may : mayIssueArray s c k t e = true) :
    moveOf s c k t cur e = .issue i := by
  simp [moveOf, valid, unmarked, placed, behind, inside, own, decoded, may]

/-- A cursor that issues a word runs it, with the word on the path. -/
theorem stepArray_of_issue {s : State} {c : Nat} {cur : Cursor} {k : ArrayCore} {t u : Task} {e : PathEntry} {i : Instr}
    (awake : coreAwake s .array c = true) (run : runningTask s c cur = some (k, t)) (path : pathWord s c t cur = .ok (u, e))
    (move : moveOf s c k u cur e = .issue i) :
    stepArray s c cur = exec i (s.setArray c { k with task := some u }) := by
  simp only [stepArray, awake, if_true, run, path, move]

/-- Settles O1, from one lemma for each kind of agent and one for events. -/
theorem stepRunsDecoded : Obligations.StepRunsDecoded := by
  intro s i raw s0 s1
  refine ⟨?group, ?aged, ?cursor, fun rest first event => step_of_event first event⟩
  case group =>
    intro c slot lane k w g group no_event sel none_aged awake run fetch valid decoded may
    have selected : { s1 with sel := .lane c slot lane } = s1 := by rw [← sel]
    calc step s = stepAgent s1 := step_of_no_event no_event
      _ = stepLane s1 c slot lane := by simp only [stepAgent, sel]
      _ = stepGroup s1 c slot lane := by rw [stepLane_of_no_aged none_aged, selected]
      _ = exec i s1 := stepGroup_of_mayIssue awake run fetch valid decoded may
  case aged =>
    intro c slot lane time slot' lane' pre rest k w g group t s2 no_event sel order idle awake run fetch valid decoded may
      ran done
    have picked : stepGroup s2 c slot' lane' = .next t :=
      (stepGroup_of_mayIssue awake run fetch valid decoded may).trans ran
    calc step s = stepAgent s1 := step_of_no_event no_event
      _ = stepLane s1 c slot lane := by simp only [stepAgent, sel]
      _ = .next (unage t c slot' ((mapGet? slot' (s1.lane c).warps).elim [] fun y => groupOf y lane')) := by
        simp only [stepLane, order, firstAged_append_of_idle _ idle, firstAged_cons_of_issued rest picked done]
  case cursor =>
    intro c cur k t u e no_event sel awake run path bits valid unmarked placed behind inside own decoded may
    subst bits
    calc step s = stepAgent s1 := step_of_no_event no_event
      _ = stepArray s1 c cur := by simp only [stepAgent, sel]
      _ = exec i (s1.setArray c { k with task := some u }) :=
        stepArray_of_issue awake run path (moveOf_eq_issue valid unmarked placed behind inside own decoded may)

end Sys2Proof.Machine
end

section
/-! The module after reset (01 R39; 12 R352; 16 to 22): every table of the state is empty, so that an entry is the blank one
of its table, and the registers read what those entries hold. -/

namespace Sys2Proof.Machine

/-! ### The entries of the empty tables -/

@[simp] theorem reset_port (p : Nat) : State.reset.port p = Port.blank p := rfl
@[simp] theorem reset_array (c : Nat) : State.reset.array c = ArrayCore.blank := rfl
@[simp] theorem reset_lane (c : Nat) : State.reset.lane c = LaneCore.blank := rfl
@[simp] theorem reset_dq (w q : Nat) : State.reset.dq w q = DQueue.blank := rfl
@[simp] theorem reset_flog (w : Nat) : State.reset.flog w = FaultLog.blank := rfl
@[simp] theorem reset_traceBuf (d : TraceBuf) (w : Nat) : mapGet d State.reset.hub.trace w = d := rfl
@[simp] theorem reset_chan (c : Nat) : State.reset.chan c = Channel.blank := rfl

/-! ### What the registers of a port read -/

/-- PORT_CTL after reset: the port's default class, enabled, with nothing else set (16 R396). -/
theorem reset_portCtl_toNat (p : Nat) : (portCtl State.reset p).toNat = defaultClass p * 2 ^ 10 + 1 := by
  have class_le : defaultClass p ≤ 1 := by unfold defaultClass; split <;> omega
  simp only [portCtl, reset_port, Port.blank, ofBool, word, BitVec.toNat_ofNat, Bool.false_eq_true, if_true, if_false]
  omega

/-- A port's place among those of its kind, by the first port of the kind (16 R396). -/
theorem place_of_port (p : Nat) : (p - if p < 2 then 0 else if p < 6 then 2 else if p < 16 then 6 else 16) =
    if p < 2 then p else if p < 6 then p - 2 else if p < 16 then p - 6 else p - 16 := by
  rw [apply_ite (p - ·), apply_ite (p - ·), apply_ite (p - ·), Nat.sub_zero]

/-- PORT_STAT after reset: the port's place among those of its kind, in state down (16 R396). -/
theorem reset_portStat_toNat {p : Nat} (h : p < 24) : (portStat State.reset p).toNat =
    (p - if p < 2 then 0 else if p < 6 then 2 else if p < 16 then 6 else 16) * 2 ^ 24 := by
  simp only [portStat, reset_port, Port.blank, ofBool, portNo, word, BitVec.toNat_ofNat, Bool.false_eq_true, if_false]
  omega

/-! ### What the registers of queues, logs and channels read -/

/-- DQ_CTL after reset: SIZE 4 and nothing else (17 R409). -/
theorem reset_dqCtl (q : Nat) : readReg State.reset (.rw .dqCtl) q = word (4 * 2 ^ 16) := by
  have fields : DQueue.blank.size * 2 ^ 16 + DQueue.blank.maxPrio * 2 ^ 8 + ofBool DQueue.blank.lock * 4
      + ofBool DQueue.blank.pause * 2 + ofBool DQueue.blank.en = 4 * 2 ^ 16 := by decide
  exact congrArg word fields

theorem reset_dqCtl_toNat (q : Nat) : (readReg State.reset (.rw .dqCtl) q).toNat = 4 * 2 ^ 16 :=
  (congrArg BitVec.toNat (reset_dqCtl q)).trans (by decide)

theorem reset_dqStat_toNat (q : Nat) : (readReg State.reset (.rw .dqStat) q).toNat = 1 := by
  simp [readReg, readRw, DQueue.blank, ofBool, word]

/-- CNT_STAT after reset: no entry holds the level selected (17 R417). -/
theorem reset_cntStat_toNat : (readReg State.reset .cntStat 0).toNat / 2 ^ 56 = 0xFF := by decide

theorem reset_flogCtl_toNat (w : Nat) : (readReg State.reset (.rw .flogCtl) w).toNat = 10 * 16 := by
  simp [readReg, readRw, FaultLog.blank, ofBool, word]

theorem reset_flogHead_toNat (w : Nat) : (readReg State.reset .flogHead w).toNat = 1 := by
  simp [readReg, FaultLog.blank, word]

theorem reset_chanWidth_toNat (d : Nat) : (readReg State.reset (.rw .chanWidth) d).toNat % 16 = 8 := by
  simp [readReg, readRw, Channel.blank, word]

theorem reset_trcCtl_toNat (w : Nat) : (readReg State.reset (.rw .trcCtl) w).toNat = 0xFF * 256 := by
  simp [readReg, readRw, TraceBuf.blank, ofBool, word]

theorem reset_trcHead_toNat (w : Nat) : (readReg State.reset .trcHead w).toNat / 2 ^ 32 = 1 := by
  simp [readReg, TraceBuf.blank, word]

theorem reset_trcTail_toNat (w : Nat) : (readReg State.reset .trcTail w).toNat / 2 ^ 32 = 1 := by
  simp [readReg, TraceBuf.blank, word]

/-- Settles O5: each register reads the entry of an empty table. -/
theorem resetState : Obligations.ResetState := by
  unfold Obligations.ResetState
  intro r
  have ports : ∀ p, p < 24 → r (.rw .portCtl) p % 2 = 1 ∧ r (.rw .portCtl) p / 2 ^ 10 = (if p < 6 then 0 else 1) ∧
      r (.rw .portStat) p / 2 ^ 24 = (if p < 2 then p else if p < 6 then p - 2 else if p < 16 then p - 6 else p - 16) := by
    intro p hp
    have ctl : r (.rw .portCtl) p = defaultClass p * 2 ^ 10 + 1 := reset_portCtl_toNat p
    have stat : r (.rw .portStat) p = _ := reset_portStat_toNat hp
    rw [ctl, stat, defaultClass]
    refine ⟨by omega, by omega, ?place⟩
    rw [Nat.mul_div_cancel _ (by decide), place_of_port]
  exact ⟨ports, fun _ => ⟨rfl, rfl⟩, rfl, by decide, fun q _ => ⟨reset_dqCtl_toNat q, reset_dqStat_toNat q⟩,
    reset_cntStat_toNat, by decide, by decide, by decide, fun w _ => ⟨reset_flogCtl_toNat w, reset_flogHead_toNat w⟩,
    by decide, by decide, fun d _ => reset_chanWidth_toNat d,
    fun w _ => ⟨reset_trcCtl_toNat w, reset_trcHead_toNat w, reset_trcTail_toNat w⟩, rfl, rfl⟩

end Sys2Proof.Machine
end

section
/-! Spawning threads and taking task entries (01 R28, R29, R45, R46; 12 R328 to R330). -/

namespace Sys2Proof.Machine

/-! ### Cores after one is replaced -/

theorem array_setArray_other (s : State) {c d : Nat} (h : c ≠ d) (x : ArrayCore) : (s.setArray d x).array c = s.array c :=
  mapGet_mapSet_other _ h x s.arrays

/-! ### `spawn` -/

/-- The target of a branch offset counts words from the word itself (07 R182). -/
theorem branchTarget_eq (pc : Word) (off : BitVec 12) : branchTarget pc off = pc + 4 * off.signExtend 64 := by
  have four_times : off.signExtend 64 <<< 2 = 4 * off.signExtend 64 := by
    rw [BitVec.shiftLeft_eq_mul_twoPow, BitVec.mul_comm]
    rfl
  rw [branchTarget, four_times]

/-- A word of lane cores whose work is done leaves its group past it. -/
theorem laneWordOnly_done {s t : State} {x : Issuer} {w : Warp} {f : Issuer → LaneCore → Warp → State → Issue}
    (h : s.issuer .Y = some x) (lane : x.kind = .lane) (warp : mapGet? x.slot (s.lane x.core).warps = some w)
    (done : f x (s.lane x.core) w s = .done t) : laneWordOnly s f = .next (x.passed .Y t) :=
  unitWord_done h (by simp only [lane, warp, done])

/-- A word of lane cores that faults is taken by its group. -/
theorem laneWordOnly_no {s : State} {x : Issuer} {w : Warp} {f : Issuer → LaneCore → Warp → State → Issue} {c : Cause}
    (h : s.issuer .Y = some x) (lane : x.kind = .lane) (warp : mapGet? x.slot (s.lane x.core).warps = some w)
    (fault : f x (s.lane x.core) w s = .no c) : laneWordOnly s f = .next (x.trapped .Y s c 0 0) :=
  unitWord_fault h (by simp only [lane, warp, fault, Issue.no])

/-- `spawn` with its target in the text spawns for every lane of the group (12 R328). -/
theorem execSpawn_of_target {s : State} {x : Issuer} {w : Warp} {d a : BitVec 5} {imm : BitVec 12}
    (h : s.issuer .Y = some x) (lane : x.kind = .lane) (warp : mapGet? x.slot (s.lane x.core).warps = some w)
    (above : x.info.record.textBase.toNat ≤ (branchTarget x.pc imm).toNat)
    (below : (branchTarget x.pc imm).toNat < x.info.record.textLimit.toNat) :
    execSpawn d a imm s = .next (x.passed .Y (spawnLanes x d a (branchTarget x.pc imm) x.group s)) := by
  unfold execSpawn
  exact laneWordOnly_done h lane warp (if_neg (by omega))

/-- `spawn` with its target outside the text is an illegal operand (12 R328). -/
theorem execSpawn_of_no_target {s : State} {x : Issuer} {w : Warp} {d a : BitVec 5} {imm : BitVec 12}
    (h : s.issuer .Y = some x) (lane : x.kind = .lane) (warp : mapGet? x.slot (s.lane x.core).warps = some w)
    (outside : (branchTarget x.pc imm).toNat < x.info.record.textBase.toNat ∨
      x.info.record.textLimit.toNat ≤ (branchTarget x.pc imm).toNat) :
    execSpawn d a imm s = .next (x.trapped .Y s .illegalOperand 0 0) := by
  unfold execSpawn
  exact laneWordOnly_no h lane warp (if_pos outside)

/-! ### `tnext` -/

section Tnext
variable {s : State} {x : Issuer} {t : Task} {d : BitVec 5} (h : s.issuer .Y = some x) (array : x.kind = .array)
  (task : (s.array x.core).task = some t)
include h array task

/-- A task takes its own entries first (12 R330). -/
theorem execTnext_of_own {e : Word} {rest : List Word} (own : t.entries = e :: rest) :
    execTnext d s = .next (x.passed .Y
      (x.setReg (s.setArray x.core { s.array x.core with task := some { t with entries := rest } }) d e)) := by
  unfold execTnext
  exact unitWord_done h (by simp only [array, task, own])

/-- With none of its own, a task takes the entries shipped to it (12 R330). -/
theorem execTnext_of_shipped {e : Word} {rest : List Word} (own : t.entries = []) (shipped : t.shipped = e :: rest) :
    execTnext d s = .next (x.passed .Y
      (x.setReg (s.setArray x.core { s.array x.core with task := some { t with shipped := rest } }) d e)) := by
  unfold execTnext
  exact unitWord_done h (by simp only [array, task, own, shipped])

/-- `tnext` gives −1 when the donation group has no entry left (12 R330). -/
theorem execTnext_of_empty_group (own : t.entries = []) (shipped : t.shipped = [])
    (empty : groupEmpty s t.info x.core = true) :
    execTnext d s = .next (x.passed .Y
      (x.setReg (s.setArray x.core { s.array x.core with task := some { t with asking := none } }) d (-1))) := by
  unfold execTnext
  exact unitWord_done h (by simp only [array, task, own, shipped, empty, if_true])

/-- A task without entries asks the victims of its group and stays at the word (01 R46). -/
theorem execTnext_of_other_entries (own : t.entries = []) (shipped : t.shipped = [])
    (others : groupEmpty s t.info x.core = false) (silent : t.asking = none) :
    execTnext d s = .next (s.setArray x.core
      { s.array x.core with task := some { t with asking := some (victims s t.info x.core) } }) := by
  unfold execTnext
  exact unitWord_stay h (by simp only [array, task, own, shipped, others, silent, Bool.false_eq_true, if_false])

end Tnext

/-! ### Entry shipment -/

/-- A victim that is asked ships the last half of its unstarted entries (01 R46). -/
theorem execEntryShipment_ships {s : State} {v thief : Nat} {rest : List Nat} {t u : Task} (distinct : v ≠ thief)
    (task : (s.array thief).task = some t) (asked : t.asking = some (v :: rest)) (unsaved : (s.array v).saving = false)
    (victim : groupTask s t.info v = some u) (enough : 2 ≤ u.unstarted.length) :
    let all := u.unstarted
    let kept := all.take (all.length - all.length / 2)
    let u1 := { u with entries := kept.take u.entries.length, shipped := kept.drop u.entries.length }
    let t1 := { t with shipped := t.shipped ++ lastN (all.length / 2) all, asking := none }
    execEntryShipment v thief s = .next
      ((s.setArray v { s.array v with task := some u1 }).setArray thief { s.array thief with task := some t1 }) := by
  have some_ship : ¬ u.unstarted.length / 2 = 0 := by omega
  simp only [execEntryShipment, task, asked, unsaved, victim, some_ship, array_setArray_other s distinct.symm, ne_eq,
    not_true_eq_false, Bool.false_eq_true, if_false]

/-- Settles O28, one lemma for each case of `spawn`, `tnext` and the shipment of entries. -/
theorem spawningAndSchedulingComplete : Obligations.SpawningAndSchedulingComplete := by
  intro s x d a imm t
  refine ⟨?spawn, ?tnext, fun v thief rest u distinct task asked unsaved victim enough =>
    execEntryShipment_ships distinct task asked unsaved victim enough⟩
  case spawn =>
    intro h lane there
    obtain ⟨w, warp⟩ := Option.isSome_iff_exists.1 there
    rw [← branchTarget_eq]
    exact ⟨execSpawn_of_target h lane warp, execSpawn_of_no_target h lane warp⟩
  case tnext =>
    intro h array task
    exact ⟨fun _ _ => execTnext_of_own h array task, fun _ _ => execTnext_of_shipped h array task,
      execTnext_of_empty_group h array task, execTnext_of_other_entries h array task⟩

end Sys2Proof.Machine
end

section
/-! The events of units (01 R23, R30 to R33, R36, R48, R57; 04 R120): what each does where it is enabled. -/

namespace Sys2Proof.Machine

theorem mapUpdate_of_get {α : Type} {k : Nat} {m : Map α} {a : α} (h : mapGet? k m = some a) (f : α → α) :
    mapUpdate k f m = mapSet k (f a) m := by
  simp only [mapUpdate, h]

/-! ### Issue groups, bins and warps of a lane core -/

/-- A ready group without a mark is marked with the time and its lowest lane (01 R23). -/
theorem execIssueGroupAged_of_unmarked {s : State} {c slot lane : Nat} {k : LaneCore} {w : Warp} {g : Workgroup}
    {group : List Nat} (run : runningGroup s c slot lane = some (k, w, g, group)) (unmarked : ∀ y ∈ w.aged, y.2 ∉ group) :
    execIssueGroupAged c slot lane s = .next (s.setLane c
      { k with warps := mapSet slot { w with aged := w.aged ++ [(s.time, group.headD 0)] } k.warps }) := by
  have none_marked : (w.aged.any fun y => group.contains y.2) = false := by simpa using unmarked
  simp only [execIssueGroupAged, run, none_marked, Bool.false_eq_true, if_false]

/-- A bin whose timer has passed is due (01 R30). -/
theorem execBinTimerExpiry_of_bin {s : State} {c bin : Nat} {x : Bin} (there : mapGet? bin (s.lane c).bins = some x) :
    execBinTimerExpiry c bin s = .next (s.setLane c
      { s.lane c with bins := mapSet bin { x with due := true } (s.lane c).bins }) := by
  simp only [execBinTimerExpiry, mapUpdate_of_get there]

/-- A core is neither sealed by a save nor fenced: units may start and move there (01 R30, R32; 18 R432, R438). -/
structure LaneOpen (s : State) (c : Nat) : Prop where
  unsealed : (s.lane c).sealing = false
  unsaved : (s.lane c).saving = false
  unfenced : isFenced s .lane c = false

/-- The operation with an identifier, access or M operation, that a thread of a bin comes after is done (12 R328). -/
def spawnerDone (s : State) (c i : Nat) : Bool :=
  match findFlight s.flight i with
  | some f => performedAt s.flight 2 f
  | none => (s.lane c).ops.all fun o => o.id != i

/-- The index that the next warp launched from a bin of a launch takes (01 R31). -/
def nextBinIndex (s : State) (i : UnitInfo) : Nat :=
  match findLaunch s i.world i.job i.launch with
  | some l => l.binIndex
  | none => 0

/-- A ready bin becomes a warp in a free slot (01 R30, R31). -/
theorem execBinLaunch_of_ready {s : State} {c bin slot : Nat} {x : Bin} {g : Workgroup}
    (there : mapGet? bin (s.lane c).bins = some x) (wg : mapGet? x.wg (s.lane c).wgs = some g) (ready : binReady x = true)
    (inRange : slot < 32) (ordered : x.after.all (spawnerDone s c) = true) (free : mapGet? slot (s.lane c).warps = none)
    (core : LaneOpen s c) :
    let y := newWarp (lanesFrom (nextBinIndex s g.info) 0 x.threads) true (nextBinIndex s g.info) x.wg
    let s1 := s.setLane c { s.lane c with warps := mapSet slot y (s.lane c).warps, bins := mapErase bin (s.lane c).bins }
    let s2 := onUnitLaunch s1 g.info fun l => { l with binIndex := l.binIndex + 1, units := l.units + 1 }
    execBinLaunch c bin slot s =
      .next (traceUnit s2 true .lane c g.info.world (nextBinIndex s g.info) g.info.launch) := by
  have slot_ok : ¬ 32 ≤ slot := by omega
  have enabled : (isFenced s .lane c || !binReady x || !x.after.all (spawnerDone s c) || decide (32 ≤ slot)
      || (mapGet? slot (s.lane c).warps).isSome || (s.lane c).sealing || (s.lane c).saving) = false := by
    simp [core.unfenced, core.unsealed, core.unsaved, ready, ordered, slot_ok, free]
  simp only [execBinLaunch, there, wg]
  exact if_neg (Bool.eq_false_iff.1 enabled)

/-- Two warps of one workgroup that wait at one mask and may merge do so in the lower slot (01 R32, R33). -/
theorem execWarpMerge_of_mergeable {s : State} {c a b n : Nat} {wa wb : Warp} {g : Workgroup} (lower : a < b)
    (first : mapGet? a (s.lane c).warps = some wa) (second : mapGet? b (s.lane c).warps = some wb) (same : wb.wg = wa.wg)
    (wg : mapGet? wa.wg (s.lane c).wgs = some g) (waits : wa.gatheredAt = some n) (waits' : wb.gatheredAt = some n)
    (merges : g.info.record.mergeThr ≠ 0) (may : mergeable wa g.info.record.mergeThr = true)
    (may' : mergeable wb g.info.record.mergeThr = true) (fits : wa.live.length + wb.live.length ≤ 32) (core : LaneOpen s c) :
    let s1 := s.setLane c { s.lane c with warps := mapErase b (mapSet a (mergedWarp wa wb n) (s.lane c).warps) }
    let s2 := ({ s1 with nextId := s.nextId + 1 }.rename (endedAgent c a b s.nextId wa wb) id).rename
      (moveAgent c a b (mergeLanes wa wb)) id
    execWarpMerge c a b s =
      .next (countDone (traceUnit s2 false .lane c g.info.world wb.idx.toNat g.info.launch) g.info) := by
  have enabled : (decide (a = b) || wa.wg != wb.wg || decide (g.info.record.mergeThr = 0) || n != n
      || !mergeable wa g.info.record.mergeThr || !mergeable wb g.info.record.mergeThr
      || decide (32 < wa.live.length + wb.live.length) || (s.lane c).sealing || (s.lane c).saving || isFenced s .lane c) =
      false := by
    simp [Nat.ne_of_lt lower, same, merges, may, may', Nat.not_lt.2 fits, core.unsealed, core.unsaved, core.unfenced]
  simp only [execWarpMerge, Nat.min_eq_left (Nat.le_of_lt lower), Nat.max_eq_right (Nat.le_of_lt lower), first, second, wg, waits, waits']
  exact if_neg (Bool.eq_false_iff.1 enabled)

/-! ### Cursors -/

/-- A cursor that waits at a branch word takes the next outcome (01 R36). -/
theorem execOutcomeTake_of_mayTake {s : State} {c : Nat} {cur : Cursor} {k : ArrayCore} {t : Task}
    (run : runningTask s c cur = some (k, t)) (may : t.mayTake cur = true) :
    execOutcomeTake c cur s = .next (s.setArray c { k with task := some (t.take cur) }) := by
  simp only [execOutcomeTake, run, may, if_true]

/-! ### The end of a unit -/

/-- A task that has ended, its counters zero and its batches complete, leaves its core (01 R48). -/
theorem execUnitComplete_array {s : State} {c m : Nat} {t : Task} (task : (s.array c).task = some t) (ended : t.ended = true)
    (zero : t.cnt.zero = true) (done : (s.array c).th.batchesDone = true) (unsaved : (s.array c).saving = false)
    (unfenced : isFenced s .array c = false) :
    let s1 := (upFrom 0 16).foldl (fun s q => dissolve s c q) s
    let s2 := s1.setArray c { s1.array c with task := none, tiles := [], queues := [], ops := [], sealing := false }
    let s3 := dropSave ({ s2 with nextId := s2.nextId + 1 }.rename (Agent.leaving .array c s2.nextId) id) c
    execUnitComplete { kind := .array, core := c, slot := m } s =
      .next (countDone (traceUnit s3 false .array c t.info.world t.idx.toNat t.info.launch) t.info) := by
  simp only [execUnitComplete, task, ended, zero, done, unsaved, unfenced, Bool.not_true, Bool.or_false, Bool.false_eq_true,
    if_false]

/-- A warp whose threads have ended, its counters zero and their batches complete, leaves its core (01 R48). -/
theorem execUnitComplete_lane {s : State} {c slot : Nat} {w : Warp} {g : Workgroup}
    (warp : mapGet? slot (s.lane c).warps = some w) (wg : mapGet? w.wg (s.lane c).wgs = some g) (ended : w.ended = true)
    (zero : w.cnt.zero = true) (done : w.threads.all (fun y => y.2.batchesDone) = true)
    (unfenced : isFenced s .lane c = false) :
    execUnitComplete { kind := .lane, core := c, slot := slot } s =
      .next (countDone (traceUnit (s.setLane c (releaseGroup { s.lane c with warps := mapErase slot (s.lane c).warps } w.wg))
        false .lane c g.info.world w.idx.toNat g.info.launch) g.info) := by
  simp only [execUnitComplete, warp, wg, ended, zero, done, unfenced, Bool.not_true, Bool.or_false, Bool.false_eq_true,
    if_false]

/-! ### Errors of engines, and writes through a tile table -/

/-- An engine's error is recorded for its task, which does not stop (01 R57). -/
theorem execDeferredFaultReport_array {s : State} {c m : Nat} {t : Task} {cause : Cause} {code : BitVec 16}
    {addr : BitVec 64} {place : WordPlace} (reported : isDeferred cause = true) (hears : hubHears s (portOfCore .array c) = true)
    (task : (s.array c).task = some t) :
    execDeferredFaultReport { kind := .array, core := c, slot := m } cause code addr place s =
      .next (deferred s t.info .array c t.idx.toNat 0xFF cause code.toNat addr.toNat place.pc.toNat (cursorNo place.cur)) := by
  simp only [execDeferredFaultReport, reported, hears, task, Bool.not_true, Bool.or_false, Bool.false_eq_true, if_false]

/-- An engine's error is recorded for its warp, which does not stop (01 R57). -/
theorem execDeferredFaultReport_lane {s : State} {c slot : Nat} {w : Warp} {g : Workgroup} {cause : Cause} {code : BitVec 16}
    {addr : BitVec 64} {place : WordPlace} (reported : isDeferred cause = true)
    (hears : hubHears s (portOfCore .lane c) = true) (warp : mapGet? slot (s.lane c).warps = some w)
    (wg : mapGet? w.wg (s.lane c).wgs = some g) :
    execDeferredFaultReport { kind := .lane, core := c, slot := slot } cause code addr place s =
      .next (deferred s g.info .lane c w.idx.toNat (if slot < 32 then slot else 0xFF) cause code.toNat addr.toNat
        place.pc.toNat 0xFF) := by
  simp only [execDeferredFaultReport, unitInfo, reported, hears, warp, wg, Option.map_some, Bool.not_true, Bool.or_false,
    Bool.false_eq_true, if_false]

/-- A privileged write of a tile-table entry that need not wait is made, its causes given as the reply (04 R120). -/
theorem execTileEntryWindowWrite_of_free {s : State} {c entry off : Nat} {bytes : List (BitVec 8)} (core : c < 160)
    (inTable : entry < 4096) (inEntry : off + bytes.length ≤ 64) (some_bytes : bytes ≠ [])
    (unfenced : isFenced s .array c = false) (free : (coreWinWrite s (.arrayTile c entry off) bytes).waits = false) :
    execTileEntryWindowWrite c entry off bytes s =
      .next { (coreWinWrite s (.arrayTile c entry off) bytes).state with
        reply := some ((coreWinWrite s (.arrayTile c entry off) bytes).faults.map fun y => word (causeCode y)) } := by
  have in_range : (decide (160 ≤ c) || decide (4096 ≤ entry) || decide (64 < off + bytes.length) || bytes.isEmpty) =
      false := by
    simp [core, inTable, inEntry, some_bytes]
  simp only [execTileEntryWindowWrite, in_range, unfenced, free, Bool.false_eq_true, if_false]

/-- Settles O50, one lemma for each event. -/
theorem unitEventsComplete : Obligations.UnitEventsComplete := by
  intro s c slot lane bin a b n m core entry off k w wa wb g group x cur t cause code addr place bytes
  refine ⟨execIssueGroupAged_of_unmarked, fun there => ⟨execBinTimerExpiry_of_bin there, ?launch⟩, ?merge,
    fun _ run may => execOutcomeTake_of_mayTake run may, execUnitComplete_array, execUnitComplete_lane,
    execDeferredFaultReport_array, execDeferredFaultReport_lane, execTileEntryWindowWrite_of_free⟩
  case launch =>
    intro wg ready inRange after unfenced free unsealed unsaved
    have ordered : x.after.all (spawnerDone s c) = true := List.all_eq_true.2 fun i hi => by
      have done := after i hi
      unfold spawnerDone
      cases found : findFlight s.flight i <;> simpa [found] using done
    exact execBinLaunch_of_ready there wg ready inRange ordered free ⟨unsealed, unsaved, unfenced⟩
  case merge =>
    intro lower first second same wg waits waits' merges may may' fits unsealed unsaved unfenced
    exact execWarpMerge_of_mergeable lower first second same wg waits waits' merges may may' fits
      ⟨unsealed, unsaved, unfenced⟩

end Sys2Proof.Machine
end

section
/-! The events of memory traffic (01 R50; 06 R155 to R176; 08 R222; 16 R401; 21 R477, R478): what each does where it is
enabled. -/

namespace Sys2Proof.Machine

/-! ### Data and acceptances that return -/

/-- Loaded data returns to the registers and LD falls (01 R50; 08 R222). -/
theorem execLoadDataReturn_of_ready {s s1 : State} {grp : Nat} {f : Flight} {fs : List Flight}
    (accesses : groupOfWord s grp = f :: fs) (reads : f.kind.reads = true)
    (ready : readyAll s ((f :: fs).map (·.id)) = some s1) :
    execLoadDataReturn grp s = .next
      (countOut ((((groupOfWord s1 grp).foldl writeBack s1).uncount grp).sweep) f.origin .ld) := by
  simp only [execLoadDataReturn, accesses, reads, ready, Bool.not_true, Bool.false_eq_true, if_false]

/-- A store is accepted and ST falls (01 R50; 06 R167). -/
theorem execStoreAccept_of_accepted {s s1 : State} {grp : Nat} {f : Flight} {fs : List Flight}
    (accesses : groupOfWord s grp = f :: fs) (stores : f.kind.reads = false)
    (accepted : acceptAll s ((f :: fs).map (·.id)) = some s1) :
    execStoreAccept grp s = .next (countOut (s1.uncount grp).sweep f.origin .st) := by
  simp only [execStoreAccept, accesses, stores, accepted, Bool.false_eq_true, if_false]

/-- A merge entry is written to memory (06 R174). -/
theorem execMergeEntryEvict_of_entry {s : State} {adr : Nat} {e : Nat × Word} (there : mapGet? adr s.merge = some e) :
    execMergeEntryEvict adr s = .next
      { s with merge := mapErase adr s.merge, mem := writeNat s.mem adr e.1 e.2.toNat } := by
  simp only [execMergeEntryEvict, there]

/-! ### Requests that reach their home or leave -/

/-- An access may go to its home: it has not gone yet, it is to the domain, no earlier access of its agent holds it, the hub
takes it, and its chiplet does not answer it itself (06 R157, R172; 16 R401). -/
structure MayGoHome (s : State) (id : Nat) (f : Flight) : Prop where
  found : findFlight s.flight id = some f
  here : f.stage = .issued ∨ f.stage = .posted
  domain : f.space = .domain
  access : f.kind.isFence = false
  ordered : mayPerform s f = true
  heard : hubHears s f.chip = true
  unserved : chipletServes s f = none

/-- An access that may go to its home goes to its slice, or leaves for another module. -/
theorem execHomeRequest_of_mayGoHome {s : State} {id : Nat} {f : Flight} (go : MayGoHome s id f) :
    execHomeRequest id s =
      if f.remote s then (if f.kind.writes && behindPosted s f then .next s else .next (leaveHere s f))
      else if behindPosted s f then .next s else .next (reachHome s f) := by
  have here : (f.stage == Stage.issued || f.stage == Stage.posted) = true := by simpa using go.here
  have domain : (f.space != Space.domain) = false := by simp [go.domain]
  simp only [execHomeRequest, go.found, here, domain, go.access, go.ordered, go.heard, go.unserved, Bool.not_true,
    Bool.or_false, Bool.false_eq_true, if_false]

theorem execHomeRequest_reaches {s : State} {id : Nat} {f : Flight} (go : MayGoHome s id f) (isLocal : f.remote s = false)
    (unposted : behindPosted s f = false) : execHomeRequest id s = .next (reachHome s f) := by
  simp only [execHomeRequest_of_mayGoHome go, isLocal, unposted, Bool.false_eq_true, if_false]

theorem execHomeRequest_leaves {s : State} {id : Nat} {f : Flight} (go : MayGoHome s id f) (remote : f.remote s = true)
    (unposted : f.kind.writes = true → behindPosted s f = false) :
    execHomeRequest id s = .next (leaveHere s f) := by
  have goes : (f.kind.writes && behindPosted s f) = false := by
    cases writes : f.kind.writes with
    | false => rfl
    | true => simpa using unposted writes
  simp only [execHomeRequest_of_mayGoHome go, remote, goes, Bool.false_eq_true, if_true, if_false]

/-- A request that takes no value from a store of its chiplet is sent when its module has room for one more (21 R478). -/
theorem leaveHere_eq_sendRemote {s : State} {f : Flight} (sends : f.kind ≠ .load ∨ lastTaken (sentStores s f) = none)
    (room : mayLeave s (moduleOf f.addr) = true) : leaveHere s f = sendRemote s f := by
  unfold leaveHere
  split
  · next g taken load => simp [load, taken] at sends
  · rw [if_pos room]

/-- A load takes its value from the store that its chiplet took last and that covers it (06 R161). -/
theorem leaveHere_of_covered {s : State} {f g : Flight} (taken : lastTaken (sentStores s f) = some g) (load : f.kind = .load)
    (covers : covered f.addr f.size g.addr g.size = true) :
    leaveHere s f =
      (s.onFlight f.id fun x => { x with stage := .applied, value := takeFrom g x, fwd := some g.id }).sweep := by
  simp only [leaveHere, taken, load, covers, if_true]

theorem findFlight_id {fs : List Flight} {id : Nat} {f : Flight} (h : findFlight fs id = some f) : f.id = id := by
  simpa using List.find?_some h

/-! ### Busy lines of the directory -/

/-- A line whose probes are answered serves its request and those behind it (16 R401). -/
theorem execProbeResponse_of_answered {s : State} {line id : Nat} {f : Flight} (busy : (s.dirLine line).busy = some id)
    (found : findFlight s.flight id = some f)
    (answered : (probed s line f.chip f.kind.writes).all (answersProbe s) = true) :
    execProbeResponse line s = .next
      (serveQueue line (s.dirLine line).queue (serveFlight (cleanFenced s line) f)).sweep := by
  simp only [execProbeResponse, busy, found, answered, if_true]

theorem execProbeResponse_of_unanswered {s : State} {line id : Nat} {f : Flight} (busy : (s.dirLine line).busy = some id)
    (found : findFlight s.flight id = some f)
    (unanswered : (probed s line f.chip f.kind.writes).all (answersProbe s) = false) :
    execProbeResponse line s = .next s := by
  simp only [execProbeResponse, busy, found, unanswered, Bool.false_eq_true, if_false]

/-- A line that stood by for a request that is no access goes on to those behind it (16 R401). -/
theorem execProbeResponse_of_no_flight {s : State} {line id : Nat} (busy : (s.dirLine line).busy = some id)
    (gone : findFlight s.flight id = none) :
    execProbeResponse line s = .next
      (serveQueue line (s.dirLine line).queue { s with sliceReqs := mapErase id s.sliceReqs }).sweep := by
  simp only [execProbeResponse, busy, gone]

/-! ### Requests between modules -/

theorem execRemoteRequestArrival_here {s : State} {src home seq floor : Nat} {r : RemoteReq} (here : home = s.module)
    (other : src ≠ s.module) :
    execRemoteRequestArrival src home seq floor r s = .next (arriveHere s src (seq % 2 ^ 32) floor r) :=
  if_pos ⟨here, other⟩

theorem execRemoteRequestArrival_there {s : State} {src home seq floor : Nat} {r : RemoteReq} (own : src = s.module)
    (there : home ≠ s.module) :
    execRemoteRequestArrival src home seq floor r s = .next (arriveThere s home seq) :=
  (if_neg fun h => there h.1).trans (if_pos ⟨own, there⟩)

section Awaited
variable {s : State} {home seq : Nat} {w : Await}
  (awaited : (s.waitingFor home).waiting.find? (fun x => x.seq == seq) = some w)
include awaited

/-- The reply of a request that its home has applied ends the wait for it (06 R176). -/
theorem execRemoteReply_of_applied (applied : appliedThere s w.id = true) :
    execRemoteReply home seq s = .next (dropWaiting s home seq).sweep := by
  simp only [execRemoteReply, awaited, applied, if_true]

theorem execRemoteReply_of_unapplied (unapplied : appliedThere s w.id = false) : execRemoteReply home seq s = .next s := by
  simp only [execRemoteReply, awaited, unapplied, Bool.false_eq_true, if_false]

/-- The timer of a request runs for 50 µs from when it left (21 R477). -/
theorem execE2eTimerExpiry_of_running (running : waitsToLeave s w.id = true ∨ s.now < w.since + 50000) :
    execE2eTimerExpiry home seq s = .next s := by
  have runs : (waitsToLeave s w.id || decide (s.now < w.since + 50000)) = true := by simpa using running
  simp only [execE2eTimerExpiry, awaited, runs, if_true]

/-- A request whose timer has expired fewer than four times is sent again (21 R477). -/
theorem execE2eTimerExpiry_resends (left : waitsToLeave s w.id = false) (expired : w.since + 50000 ≤ s.now)
    (again : w.tries < 3) :
    let ws := (s.waitingFor home).waiting.map fun x => if x.seq = seq then { x with tries := x.tries + 1 } else x
    execE2eTimerExpiry home seq s = .next
      (leaveFor { s with remote := mapSet home { s.waitingFor home with waiting := ws } s.remote } home w.id false) := by
  simp only [execE2eTimerExpiry, awaited, left, Nat.not_lt.2 expired, again, decide_false, Bool.or_false, Bool.false_eq_true,
    if_true, if_false]

/-- A request whose timer expires for the fourth time is abandoned (21 R477). -/
theorem execE2eTimerExpiry_abandons (left : waitsToLeave s w.id = false) (expired : w.since + 50000 ≤ s.now)
    (last : 3 ≤ w.tries) :
    execE2eTimerExpiry home seq s = .next (abandon (dropWaiting s home seq) w.id) := by
  simp only [execE2eTimerExpiry, awaited, left, Nat.not_lt.2 expired, Nat.not_lt.2 last, decide_false, Bool.or_false,
    Bool.false_eq_true, if_false]

end Awaited

/-- Settles O51, one lemma for each event and outcome. -/
theorem trafficEventsComplete : Obligations.TrafficEventsComplete := by
  intro s s1 grp id line home seq src floor adr f fs r e w
  refine ⟨execLoadDataReturn_of_ready, execStoreAccept_of_accepted, ?homeRequest, fun busy =>
    ⟨execProbeResponse_of_answered busy, execProbeResponse_of_unanswered busy, execProbeResponse_of_no_flight busy⟩,
    execMergeEntryEvict_of_entry, execRemoteRequestArrival_here, execRemoteRequestArrival_there, fun awaited =>
    ⟨execRemoteReply_of_applied awaited, execRemoteReply_of_unapplied awaited, execE2eTimerExpiry_of_running awaited,
      fun left expired =>
        ⟨execE2eTimerExpiry_resends awaited left expired, execE2eTimerExpiry_abandons awaited left expired⟩⟩⟩
  case homeRequest =>
    intro found here domain access ordered heard unserved
    have go : MayGoHome s id f := ⟨found, here, domain, access, ordered, heard, unserved⟩
    refine ⟨execHomeRequest_reaches go, ?sent, ?taken⟩
    case sent =>
      intro remote sends unposted room
      rw [← leaveHere_eq_sendRemote sends room]
      exact execHomeRequest_leaves go remote unposted
    case taken =>
      intro g remote taken load covers
      have no_write : f.kind.writes = true → behindPosted s f = false := by simp [load, AccKind.writes]
      obtain rfl : f.id = id := findFlight_id found
      rw [← leaveHere_of_covered taken load covers]
      exact execHomeRequest_leaves go remote no_write

end Sys2Proof.Machine
end

section
/-! The ends of operations and copy commands (01 R51, R52; 03 R106 to R110; 10 R263; 11 R294 to R303): what each event does
where the command's accesses may be made. -/

namespace Sys2Proof.Machine

/-! ### Copy commands -/

/-- A command that nothing holds makes what is left of its accesses, and the lines of its turns go on (11 R301; 16 R401). -/
theorem execCopyComplete_of_free {s : State} {id : Nat} {c : Copy} (found : s.copies.find? (fun y => y.id == id) = some c)
    (free : copyFree s c = true) : execCopyComplete id s = .next (passTurns (copyOn s c) id) := by
  simp only [execCopyComplete, found, free, Bool.not_true, Bool.false_eq_true, if_false]

/-! What is left of a command's accesses, for each kind of command. -/

theorem copyOn_tld {c : Copy} {n : Nat} {q : Option Nat} (kind : c.kind = .tld n q) (s : State) :
    copyOn s c = loadTile s c n q := by simp only [copyOn, kind]
theorem copyOn_tst {c : Copy} {n : Nat} {free : Bool} {q : Option Nat} (kind : c.kind = .tst n free q) (s : State) :
    copyOn s c = storeTile s c n free q := by simp only [copyOn, kind]
theorem copyOn_tgat {c : Copy} {n : Nat} (kind : c.kind = .tgat n) (s : State) : copyOn s c = gatherRows s c n := by
  simp only [copyOn, kind]
theorem copyOn_tsct {c : Copy} {n : Nat} (kind : c.kind = .tsct n) (s : State) : copyOn s c = scatterRows s c n := by
  simp only [copyOn, kind]
theorem copyOn_dcpy {c : Copy} (kind : c.kind = .dcpy) (s : State) : copyOn s c = copyBytes s c := by
  simp only [copyOn, kind]
theorem copyOn_cflush {c : Copy} (kind : c.kind = .cflush) (s : State) : copyOn s c = flushLines s c := by
  simp only [copyOn, kind]
theorem copyOn_cinval {c : Copy} (kind : c.kind = .cinval) (s : State) : copyOn s c = finishCopy (invalLines s c) c := by
  simp only [copyOn, kind]

/-! ### Completion flags -/

section Flag
variable {s : State} {id : Nat} {c : Copy} {v : Word} {sys : Bool} {covers : List Nat}
  (found : s.copies.find? (fun y => y.id == id) = some c) (kind : c.kind = .dflag v sys covers)
include found kind

/-- A flag whose covered writes are applied is written at its home, which traces it when that is this module (11 R302). -/
theorem execFlagWrite_of_applied (free : copyFree s c = true) (unwritten : c.written = false)
    (covered : flagWaits s c (flagHome s c) covers = false) (sound : c.failed = false)
    (done : (putAll s c (layOver c.pieces 0 (clean (bytesOfNat 8 v.toNat)))).waits = false)
    (kept : (putAll s c (layOver c.pieces 0 (clean (bytesOfNat 8 v.toNat)))).lost = []) :
    let r := putAll s c (layOver c.pieces 0 (clean (bytesOfNat 8 v.toNat)))
    let x := reportCopy r.state c r.causes
    let s2 := updateCopy x.1 { x.2 with written := true }
    execFlagWrite id s = .next (if flagHome s c = s.module then hubTrace s2 0x04 1 v.toNat c.origin.world else s2) := by
  simp only [execFlagWrite, found, kind, unwritten, free, covered, sound, done, kept, List.isEmpty_nil, Bool.not_true,
    Bool.or_false, Bool.false_eq_true, if_false]

/-- A flag that covers a write that failed is not written, and its `dflag` fails (11 R303). -/
theorem execFlagWrite_of_failed (free : copyFree s c = true) (unwritten : c.written = false)
    (covered : flagWaits s c (flagHome s c) covers = false) (failed : c.failed = true) :
    execFlagWrite id s = .next (finishCopy (reportCopy s c [.remoteFailed]).1 c) := by
  simp only [execFlagWrite, found, kind, unwritten, free, covered, failed, Bool.not_true, Bool.or_false, Bool.false_eq_true,
    if_true, if_false]

/-- A flag written at this module is acknowledged at once (11 R301). -/
theorem execDflagAck_of_home (written : c.written = true) (here : flagAsked s id = none) :
    execDflagAck id s = .next (finishCopy s c) := by
  simp only [execDflagAck, found, kind, written, here, Bool.not_true, Bool.false_eq_true, if_false]

/-- A flag of another module is acknowledged by the reply to its request (11 R301). -/
theorem execDflagAck_of_reply {f : Flight} (written : c.written = true) (asked : flagAsked s id = some f)
    (applied : f.applied = true) (replied : awaitsReply s f = false) :
    execDflagAck id s = .next (finishCopy { s with flight := s.flight.filter fun g => g.id != f.id } c) := by
  simp only [execDflagAck, found, kind, written, asked, applied, replied, Bool.not_true, Bool.not_false, Bool.and_true,
    Bool.false_eq_true, if_true, if_false]

end Flag

/-! ### Tile operations -/

/-- The state in which a tile operation has stored its result and reported its faults (03 R97; 10 R263). -/
def resultStored (s : State) (u : UnitRef) (o : TileOp) : State :=
  deferAll (storeResult (writeCore s u.kind u.core o.imageAt o.image).state u.kind u.core o) o.origin
    (writeCore s u.kind u.core o.imageAt o.image).faults

section Retire
variable {s : State} {u : UnitRef} {id : Nat} {o : TileOp} (found : retiring s u id = some o)
include found

section Matrix
variable (matrix : o.kind = .matrix) (free : (writeCore s u.kind u.core o.imageAt o.image).waits = false)
include matrix free

/-- An operation of a task whose result does not go to a send queue stores it and retires. -/
theorem execMatrixOpRetire_array (array : u.kind = .array) (unsent : o.sendQ = none ∨ o.fill = none) :
    execMatrixOpRetire u id s = .next (retireArray (resultStored s u o) u.core o) := by
  simp only [execMatrixOpRetire, found, matrix, free, Bool.false_eq_true, if_false]
  obtain none_sent | none_filled := unsent
  · simp only [array, none_sent, resultStored]
  · cases sent : o.sendQ <;> simp only [array, none_filled, resultStored]

/-- A result that fills an entry of a send queue is stored and waits there to be sent (05 R138). -/
theorem execMatrixOpRetire_send {q e : Nat} {h : BitVec 256} (array : u.kind = .array) (sent : o.sendQ = some q)
    (filled : o.fill = some (e, h)) (queued : ((s.array u.core).queue q).fifo.contains e = true) :
    execMatrixOpRetire u id s = .next (becomeSend (resultStored s u o) u.core o q e) := by
  rw [array] at free
  simp only [execMatrixOpRetire, found, matrix, free, array, sent, filled, queued, resultStored, Bool.false_eq_true, if_true,
    if_false]

/-- An operation of a lane core stores its result, leaves its readers and heads, and TL falls (10 R287; 01 R50). -/
theorem execMatrixOpRetire_lane (lane : u.kind = .lane) :
    let s2 := resultStored s u o
    let s3 := s2.setLane u.core { s2.lane u.core with ops := (s2.lane u.core).ops.drop 1 }
    execMatrixOpRetire u id s = .next (countOut (releaseTiles s3 .lane u.core o) o.origin .tl) := by
  rw [lane] at free
  simp only [execMatrixOpRetire, found, matrix, free, lane, resultStored, Bool.false_eq_true, if_false]

end Matrix

/-- `qunbind` retires once the link has no tile of its queue and no word claims a head of it (11 R311). -/
theorem execMatrixOpRetire_unbind {q : Nat} (unbind : o.kind = .unbind q)
    (gone : ((s.array u.core).queue q).taken = []) (unclaimed : claiming (s.array u.core) q = false) :
    execMatrixOpRetire u id s = .next (retireArray (dissolve s u.core q) u.core o) := by
  simp only [execMatrixOpRetire, found, unbind, gone, unclaimed, List.isEmpty_nil, Bool.not_false, Bool.and_true, if_true]

end Retire

/-- Settles O52, one lemma for each event and outcome, and one for each kind of command. -/
theorem operationEndsComplete : Obligations.OperationEndsComplete := by
  intro s id c u o v sys covers
  refine ⟨?copy, ?ack, ?retire, fun _ found => execMatrixOpRetire_unbind found⟩
  case copy =>
    intro found free
    have completes := execCopyComplete_of_free found free
    refine ⟨fun _ _ kind => copyOn_tld kind s ▸ completes, fun _ _ _ kind => copyOn_tst kind s ▸ completes,
      fun _ kind => copyOn_tgat kind s ▸ completes, fun _ kind => copyOn_tsct kind s ▸ completes,
      fun kind => copyOn_dcpy kind s ▸ completes, fun kind => copyOn_cflush kind s ▸ completes,
      fun kind => copyOn_cinval kind s ▸ completes, ?flag⟩
    case flag =>
      intro kind unwritten r home x s2 covered
      exact ⟨execFlagWrite_of_applied found kind free unwritten covered,
        execFlagWrite_of_failed found kind free unwritten covered⟩
  case ack =>
    intro found kind written
    exact ⟨execDflagAck_of_home found kind written, fun _ => execDflagAck_of_reply found kind written⟩
  case retire =>
    intro found matrix r s2 free
    exact ⟨execMatrixOpRetire_array found matrix free, fun _ _ _ => execMatrixOpRetire_send found matrix free,
      execMatrixOpRetire_lane found matrix free⟩

end Sys2Proof.Machine
end

section
/-! The matrix words where they do not complete (03 R104, R105; 10 R264, R266, R273 to R282, R287): a word waits for a place
in a full queue, and takes the fault of an operand of a wrong kind, of the address that it names, or of its first check that
fails. -/

namespace Sys2Proof.Machine

/-! ### Checks and operands -/

/-- The first check that fails decides (03 R104). -/
theorem checked_of_firstBad {cs : List Check} {c : Check} (bad : firstBad cs = some c) (r : Issue) :
    checked cs r = .fault c.cause 0 c.code := by
  induction cs with
  | nil => simp [firstBad] at bad
  | cons k rest ih =>
    cases passes : k.ok with
    | true =>
      have later : firstBad rest = some c := by simpa [firstBad, passes] using bad
      simp only [checked, passes, if_true, ih later]
    | false =>
      obtain rfl : k = c := by simpa [firstBad, passes] using bad
      simp only [checked, passes, Bool.false_eq_true, if_false]

/-- Only a handle or a queue yields an entry as a source. -/
theorem isDest_of_pickSource {s : State} {x : Issuer} {t : TileName} {e : Nat} (picked : pickSource s x t = .ok e) :
    t.isDest = true := by
  cases t with
  | handle | queue => rfl
  | acc | none => cases picked

theorem isScalar6_of_lt {f : BitVec 6} (small : f.toNat < 32) : isScalar6 f = true := decide_eq_true small

theorem isScalar6_of_le {f : BitVec 6} (large : 32 ≤ f.toNat) : isScalar6 f = false := decide_eq_false (by omega)

section Words
variable {s : State} {x : Issuer} {td ta tb : BitVec 6} {slot : BitVec 3} {n ea eb h key : Nat} {c : Check} {cause : Cause}
  {f : Issuer → State → Issue} (issued : s.issuer .M = some x)
include issued

/-! ### Any matrix word -/

/-- An M word waits while the lane core's queue is full (10 R287). -/
theorem matrixWord_of_full (full : unitFull s x = true) (f : Issuer → State → Issue) : matrixWord s f = .next s :=
  unitWord_wait issued (if_pos full)

variable (free : unitFull s x = false)
include free

theorem matrixWord_fault {a code : Nat} (fault : f x s = .fault cause a code) :
    matrixWord s f = .next (x.trapped .M s cause a code) :=
  unitWord_fault issued (by simp only [free, Bool.false_eq_true, if_false, fault])

/-- A word whose work is its checks takes the fault of the first that fails, with the code of that check (03 R104, R105). -/
theorem matrixWord_of_firstBad {cs : List Check} {r : Issue} (bad : firstBad cs = some c) (work : f x s = checked cs r) :
    matrixWord s f = .next (x.trapped .M s c.cause 0 c.code) :=
  matrixWord_fault issued free (work.trans (checked_of_firstBad bad r))

/-! ### Products -/

theorem mmaWord_of_firstBad {clear : Bool} (acc : accOf s x td = some key)
    (source_a : pickSource s x (tileName x.kind ta) = .ok ea) (source_b : pickSource s x (tileName x.kind tb) = .ok eb)
    (bad : firstBad (mmaChecks s x (x.fslot slot) (tileName x.kind ta) (tileName x.kind tb) ea eb
      (if clear then Acc.blank else getAcc s x key)) = some c) :
    mmaWord clear td ta tb slot s = .next (x.trapped .M s c.cause 0 c.code) := by
  unfold mmaWord
  exact matrixWord_of_firstBad issued free bad (by
    simp only [isDest_of_pickSource source_a, isDest_of_pickSource source_b, Bool.and_self, acc, source_a, source_b,
      Pick.bind]
    rfl)

theorem mmaWord_of_no_acc (clear : Bool) (no_acc : accOf s x td = none) :
    mmaWord clear td ta tb slot s = .next (x.trapped .M s .illegalOperand 0 0) := by
  unfold mmaWord
  exact matrixWord_fault issued free (by
    simp only [no_acc]
    cases (tileName x.kind ta).isDest && (tileName x.kind tb).isDest <;> rfl)

theorem mmaWord_of_no_tile (clear : Bool) (no_tile : ((tileName x.kind ta).isDest && (tileName x.kind tb).isDest) = false) :
    mmaWord clear td ta tb slot s = .next (x.trapped .M s .illegalOperand 0 0) := by
  unfold mmaWord
  exact matrixWord_fault issued free (by simp only [no_tile, Issue.no])

theorem execMclr_of_no_acc (no_acc : accOf s x td = none) :
    execMclr td s = .next (x.trapped .M s .illegalOperand 0 0) := by
  unfold execMclr
  exact matrixWord_fault issued free (by simp only [no_acc, Issue.no])

/-! ### Words that produce tiles -/

theorem execMout_of_firstBad (tile : (tileName x.kind td).isDest = true) (acc : accOf s x ta = some key)
    (dest : pickDest s x (tileName x.kind td) = .ok n)
    (bad : firstBad (moutChecks s x (x.fslot slot) (tileName x.kind td) n (getAcc s x key)) = some c) :
    execMout td ta slot s = .next (x.trapped .M s c.cause 0 c.code) := by
  unfold execMout
  exact matrixWord_of_firstBad issued free bad (by simp only [tile, acc, dest, Pick.bind]; rfl)

theorem execMout_of_operand (wrong : (tileName x.kind td).isDest = false ∨ accOf s x ta = none) :
    execMout td ta slot s = .next (x.trapped .M s .illegalOperand 0 0) := by
  unfold execMout
  obtain no_tile | no_acc := wrong
  · exact matrixWord_fault issued free (by simp only [no_tile, Issue.no])
  · exact matrixWord_fault issued free (by simp only [no_acc]; cases (tileName x.kind td).isDest <;> rfl)

section TwoTiles
variable (tile_d : (tileName x.kind td).isDest = true) (tile_a : (tileName x.kind ta).isDest = true)
  (source : pickSource s x (tileName x.kind ta) = .ok ea) (dest : pickDest s x (tileName x.kind td) = .ok n)
include tile_d tile_a source dest

theorem execTcvt_of_firstBad
    (bad : firstBad (tcvtChecks s x (x.fslot slot) (tileName x.kind td) (tileName x.kind ta) n ea) = some c) :
    execTcvt td ta slot s = .next (x.trapped .M s c.cause 0 c.code) := by
  unfold execTcvt
  exact matrixWord_of_firstBad issued free bad (by
    simp only [tile_d, tile_a, Bool.and_self, if_true, source, dest, Pick.bind]
    rfl)

theorem execMtr_of_firstBad (bad : firstBad (mtrChecks s x (tileName x.kind td) (tileName x.kind ta) n ea) = some c) :
    execMtr td ta s = .next (x.trapped .M s c.cause 0 c.code) := by
  unfold execMtr
  exact matrixWord_of_firstBad issued free bad (by
    simp only [tile_d, tile_a, Bool.and_self, if_true, source, dest, Pick.bind]
    rfl)

end TwoTiles

section NoTile
variable (no_tile : ((tileName x.kind td).isDest && (tileName x.kind ta).isDest) = false)
include no_tile

theorem execTcvt_of_no_tile : execTcvt td ta slot s = .next (x.trapped .M s .illegalOperand 0 0) := by
  unfold execTcvt
  exact matrixWord_fault issued free (by simp only [no_tile, Bool.false_eq_true, if_false, Issue.no])

theorem execMtr_of_no_tile : execMtr td ta s = .next (x.trapped .M s .illegalOperand 0 0) := by
  unfold execMtr
  exact matrixWord_fault issued free (by simp only [no_tile, Bool.false_eq_true, if_false, Issue.no])

end NoTile

theorem execTzero_of_firstBad (tile : (tileName x.kind td).isDest = true) (handle : tileName x.kind ta = .handle h)
    (source : pickHandle s x h = .ok ea) (dest : pickDest s x (tileName x.kind td) = .ok n)
    (bad : firstBad (tzeroChecks s x (x.fslot slot) (tileName x.kind td) n ea) = some c) :
    execTzero td ta slot s = .next (x.trapped .M s c.cause 0 c.code) := by
  unfold execTzero
  exact matrixWord_of_firstBad issued free bad (by simp only [tile, handle, source, dest, Pick.bind]; rfl)

theorem execTzero_of_operand (wrong : (tileName x.kind td).isDest = false ∨ ∀ m, tileName x.kind ta ≠ .handle m) :
    execTzero td ta slot s = .next (x.trapped .M s .illegalOperand 0 0) := by
  unfold execTzero
  obtain no_tile | no_handle := wrong
  · exact matrixWord_fault issued free (by simp only [no_tile, Issue.no])
  · cases name : tileName x.kind ta with
    | handle m => exact absurd name (no_handle m)
    | queue | acc | none =>
      exact matrixWord_fault issued free (by simp only [name]; cases (tileName x.kind td).isDest <;> rfl)

/-! ### Headers and codebooks -/

theorem execThdrRd_of_address (tile : (tileName x.kind ta).isDest = true) (small : tb.toNat < 32)
    (source : pickSource s x (tileName x.kind ta) = .ok ea) (outside : localAt s x 32 32 (x.reg6 tb) = .error cause) :
    execThdrRd ta tb s = .next (x.trapped .M s cause (x.reg6 tb).toNat 0) := by
  unfold execThdrRd
  exact matrixWord_fault issued free (by
    simp only [tile, isScalar6_of_lt small, Bool.and_self, if_true, source, Pick.bind, outside])

theorem execThdrRd_of_operand (wrong : (tileName x.kind ta).isDest = false ∨ 32 ≤ tb.toNat) :
    execThdrRd ta tb s = .next (x.trapped .M s .illegalOperand 0 0) := by
  have refused : ((tileName x.kind ta).isDest && isScalar6 tb) = false :=
    Bool.and_eq_false_iff.2 (wrong.imp_right isScalar6_of_le)
  unfold execThdrRd
  exact matrixWord_fault issued free (by simp only [refused, Bool.false_eq_true, if_false, Issue.no])

section Fill
variable (handle : tileName x.kind td = .handle h) (small : tb.toNat < 32) (dest : pickFill s x h = .ok n)
include handle small dest

theorem execThdrWr_of_address (outside : localAt s x 32 32 (x.reg6 tb) = .error cause) :
    execThdrWr td tb s = .next (x.trapped .M s cause (x.reg6 tb).toNat 0) := by
  unfold execThdrWr
  exact matrixWord_fault issued free (by simp only [handle, isScalar6_of_lt small, dest, Pick.bind, outside])

theorem execThdrWr_of_firstBad {o : Nat} (inside : localAt s x 32 32 (x.reg6 tb) = .ok o)
    (bad : firstBad (thdrChecks s x n (natOfBytes (readCore s x.kind x.core o 32))) = some c) :
    execThdrWr td tb s = .next (x.trapped .M s c.cause 0 c.code) := by
  unfold execThdrWr
  exact matrixWord_of_firstBad issued free bad (by
    simp only [handle, isScalar6_of_lt small, dest, Pick.bind, inside]
    rfl)

end Fill

theorem execThdrWr_of_operand (wrong : (∀ m, tileName x.kind td ≠ .handle m) ∨ 32 ≤ tb.toNat) :
    execThdrWr td tb s = .next (x.trapped .M s .illegalOperand 0 0) := by
  unfold execThdrWr
  obtain no_handle | large := wrong
  · cases name : tileName x.kind td with
    | handle m => exact absurd name (no_handle m)
    | queue | acc | none => exact matrixWord_fault issued free (by simp only [name, Issue.no])
  · exact matrixWord_fault issued free (by simp only [isScalar6_of_le large]; cases tileName x.kind td <;> rfl)

section Codebook
variable (array : x.kind = .array)
include array

theorem execCbld_of_address (small : ta.toNat < 32) (named : slot ≠ 0)
    (outside : localAt s x 128 1024 (x.reg6 ta) = .error cause) :
    execCbld ta slot s = .next (x.trapped .M s cause (x.reg6 ta).toNat 0) := by
  unfold execCbld
  exact matrixWord_fault issued free (by
    simp only [array, isScalar6_of_lt small, bne_iff_ne.2 named, Bool.and_self, if_true, outside])

theorem execCbld_of_operand (wrong : 32 ≤ ta.toNat ∨ slot = 0) :
    execCbld ta slot s = .next (x.trapped .M s .illegalOperand 0 0) := by
  have refused : (isScalar6 ta && slot != 0) = false :=
    Bool.and_eq_false_iff.2 (wrong.imp isScalar6_of_le bne_eq_false_iff_eq.2)
  unfold execCbld
  exact matrixWord_fault issued free (by simp only [array, refused, Bool.false_eq_true, if_false, Issue.no])

end Codebook

end Words

/-- Settles O43, one lemma for each word and each way in which it faults. -/
theorem matrixFaultsInOrder : Obligations.MatrixFaultsInOrder := by
  intro s x td ta tb slot key n ea eb h o c cause issued f d na nb fault
  simp only [List.forall_mem_cons, List.not_mem_nil, false_implies, implies_true, and_true]
  refine ⟨?full, fun free => ⟨?mma, ?no_acc, ?no_tile, execMout_of_firstBad issued free, ?convert,
    execTzero_of_firstBad issued free, execThdrRd_of_address issued free, ?header, execCbld_of_address issued free,
    execMout_of_operand issued free, ?no_tiles, execTzero_of_operand issued free, execThdrRd_of_operand issued free,
    execThdrWr_of_operand issued free, execCbld_of_operand issued free⟩⟩
  case full =>
    intro full
    show execMma td ta tb slot s = .next s ∧ execMmaZ td ta tb slot s = .next s ∧ execMout td ta slot s = .next s ∧
      execMclr td s = .next s ∧ execMtr td ta s = .next s ∧ execTcvt td ta slot s = .next s ∧
      execThdrRd ta tb s = .next s ∧ execThdrWr td tb s = .next s ∧ execCbld ta slot s = .next s ∧
      execTzero td ta slot s = .next s
    simp only [execMma, execMmaZ, mmaWord, execMout, execMclr, execMtr, execTcvt, execThdrRd, execThdrWr, execCbld,
      execTzero, matrixWord_of_full issued full, and_self]
  case mma =>
    intro acc source_a source_b
    exact ⟨mmaWord_of_firstBad (clear := false) issued free acc source_a source_b,
      mmaWord_of_firstBad (clear := true) issued free acc source_a source_b⟩
  case no_acc =>
    intro no_acc
    exact ⟨mmaWord_of_no_acc issued free false no_acc, mmaWord_of_no_acc issued free true no_acc,
      execMclr_of_no_acc issued free no_acc⟩
  case no_tile =>
    intro no_tile
    exact ⟨mmaWord_of_no_tile issued free false no_tile, mmaWord_of_no_tile issued free true no_tile⟩
  case convert =>
    intro tile_d tile_a source dest
    exact ⟨execTcvt_of_firstBad issued free tile_d tile_a source dest,
      execMtr_of_firstBad issued free tile_d tile_a source dest⟩
  case header =>
    intro handle small dest
    exact ⟨execThdrWr_of_address issued free handle small dest, execThdrWr_of_firstBad issued free handle small dest⟩
  case no_tiles =>
    intro no_tile
    exact ⟨execTcvt_of_no_tile issued free no_tile, execMtr_of_no_tile issued free no_tile⟩

end Sys2Proof.Machine
end

section
/-! The access of a one-thread group to a tile table or to a window (04 R119, R120): the words that make accesses, and
what such an access leaves when it is made as its word issues. -/

namespace Sys2Proof.Machine

/-! ### Words that make accesses -/

theorem acquireWord_of_isScope {scope : BitVec 3} (inScope : isScope scope = true) (size : Nat) (ext : Bool)
    (d a : BitVec 5) (imm : BitVec 9) (s : State) :
    acquireWord size ext d a scope imm s =
      memWord s .S fun x t => .ok (loadOp size ext true scope.toNat d a (imm.signExtend 64) x t) := by
  simp only [acquireWord, inScope, if_true]

theorem releaseWord_of_isScope {scope : BitVec 3} (inScope : isScope scope = true) (size : Nat) (d a : BitVec 5)
    (imm : BitVec 9) (s : State) :
    releaseWord size d a scope imm s =
      memWord s .S fun x t => .ok (storeOp size true scope.toNat d a (imm.signExtend 64) x t) := by
  simp only [releaseWord, inScope, if_true]

section Update
variable {scope : BitVec 3} {size : BitVec 2} {fp : Bool} {n : Nat} (inScope : isScope scope = true)
  (sized : amoSize fp size = some n)
include inScope sized

theorem amoWord_of_sized (op : AmoOp) (d a b : BitVec 5) (s : State) :
    amoWord op fp d a b scope size s =
      memWord s .Y fun x t => .ok (updateOp (.amo op) n (!fp) (some d) a b scope.toNat x t) := by
  simp only [amoWord, sized, inScope, if_true]
  rfl

theorem redWord_of_sized (op : AmoOp) (a b : BitVec 5) (s : State) :
    redWord op fp a b scope size s =
      memWord s .Y fun x t => .ok (updateOp (.red op) n false none a b scope.toNat x t) := by
  simp only [redWord, sized, inScope, if_true]
  rfl

end Update

/-- The size field of an integer atomic (12 R331). -/
theorem amoSize_integer {size : BitVec 2} (small : size.toNat < 2) : amoSize false size = some (4 * 2 ^ size.toNat) := by
  obtain zero | one : size.toNat = 0 ∨ size.toNat = 1 := by omega
  · simp [amoSize, zero]
  · simp [amoSize, one]

theorem amoSize_float {size : BitVec 2} (zero : size.toNat = 0) : amoSize true size = some 4 := by
  simp only [amoSize, zero]

/-! Each word of a list makes the access that stands beside it. -/

theorem exec_of_mem_plainAccesses {d a : BitVec 5} {imm : BitVec 12} {p : Instr × (Ctx → Thread → MemOp)}
    (listed : p ∈ plainAccesses d a imm) (s : State) : exec p.1 s = memWord s .S fun x t => .ok (p.2 x t) := by
  revert p
  simp only [plainAccesses, List.forall_mem_cons]
  exact ⟨rfl, rfl, rfl, rfl, rfl, rfl, rfl, rfl, rfl, rfl, rfl, nofun⟩

theorem exec_of_mem_orderedAccesses {d a : BitVec 5} {scope : BitVec 3} {imm : BitVec 9}
    {p : Instr × (Ctx → Thread → MemOp)} (inScope : isScope scope = true) (listed : p ∈ orderedAccesses d a scope imm)
    (s : State) : exec p.1 s = memWord s .S fun x t => .ok (p.2 x t) := by
  have load (size : Nat) (ext : Bool) := acquireWord_of_isScope inScope size ext d a imm s
  have store (size : Nat) := releaseWord_of_isScope inScope size d a imm s
  revert p
  simp only [orderedAccesses, List.forall_mem_cons]
  exact ⟨load .., load .., load .., load .., load .., load .., load .., store .., store .., store .., store .., nofun⟩

theorem exec_of_mem_integerUpdates {d a b : BitVec 5} {scope : BitVec 3} {size : BitVec 2}
    {p : Instr × (Ctx → Thread → MemOp)} (inScope : isScope scope = true) (small : size.toNat < 2)
    (listed : p ∈ integerUpdates d a b scope size) (s : State) : exec p.1 s = memWord s .Y fun x t => .ok (p.2 x t) := by
  have amo (op : AmoOp) := amoWord_of_sized inScope (amoSize_integer small) op d a b s
  have red (op : AmoOp) := redWord_of_sized inScope (amoSize_integer small) op a b s
  revert p
  simp only [integerUpdates, List.forall_mem_cons]
  exact ⟨amo _, amo _, amo _, amo _, amo _, amo _, amo _, amo _, amo _, amo _,
    red _, red _, red _, red _, red _, red _, red _, red _, nofun⟩

theorem exec_of_mem_floatUpdates {d a b : BitVec 5} {scope : BitVec 3} {size : BitVec 2}
    {p : Instr × (Ctx → Thread → MemOp)} (inScope : isScope scope = true) (zero : size.toNat = 0)
    (listed : p ∈ floatUpdates d a b scope size) (s : State) : exec p.1 s = memWord s .Y fun x t => .ok (p.2 x t) := by
  have amo (op : AmoOp) := amoWord_of_sized inScope (amoSize_float zero) op d a b s
  have red (op : AmoOp) := redWord_of_sized inScope (amoSize_float zero) op a b s
  revert p
  simp only [floatUpdates, List.forall_mem_cons]
  exact ⟨amo _, amo _, amo _, amo _, red _, nofun⟩

theorem isScope_iff {scope : BitVec 3} : isScope scope = true ↔ scope.toNat < 6 := decide_eq_true_iff

/-- A word of `memoryWords` makes, at its cursor, the access that stands beside it. -/
theorem exec_of_mem_memoryWords {d a b : BitVec 5} {imm : BitVec 12} {imm9 : BitVec 9} {sc : BitVec 3} {sz : BitVec 2}
    {p : Instr × Cursor × (Ctx → Thread → MemOp)} (listed : p ∈ memoryWords d a b imm imm9 sc sz) (s : State) :
    exec p.1 s = memWord s p.2.1 fun x t => .ok (p.2.2 x t) := by
  simp only [memoryWords, List.mem_append, List.mem_map, or_assoc, List.mem_ite_nil_right, ← isScope_iff] at listed
  obtain ⟨w, there, rfl⟩ | ⟨inScope, w, there, rfl⟩ | ⟨⟨inScope, small⟩, w, there, rfl⟩ |
    ⟨⟨inScope, zero⟩, w, there, rfl⟩ := listed
  · exact exec_of_mem_plainAccesses there s
  · exact exec_of_mem_orderedAccesses inScope there s
  · exact exec_of_mem_integerUpdates inScope small there s
  · exact exec_of_mem_floatUpdates inScope zero there s

/-! ### An access that is made at issue -/

/-- The one access of a word is made at issue, nothing holds it and it raises no fault: it is applied in flight, with what it
read and the flags that it raised. -/
theorem issueAll_now {s : State} {kind : CoreKind} {c grp : Nat} {q : Ask} {tg : Target} (goes : q.target = .ok tg)
    (now : isNow s kind c tg = true) (free : freeNow s q.agent q.op = true) (heard : heardNow s q.agent tg = true)
    (goesOn : (makeNow s kind c q.origin.world tg q.op).1.waits = false)
    (clean : (makeNow s kind c q.origin.world tg q.op).1.faults = []) :
    let (r, v, fl) := makeNow s kind c q.origin.world tg q.op
    issueAll kind c grp [q] s =
      ({ r.state with flight := r.state.flight ++ [flightOf q tg s.nextId grp .applied v fl], nextId := s.nextId + 1 },
        [], false) := by
  simp [issueAll, goes, now, free, heard, goesOn, clean]

/-- The group that a lane core runs, where its word makes the accesses `qs`. -/
theorem asks_lane {s : State} {cur : Cursor} {f : Ctx → Thread → Except Cause MemOp} {c slot l : Nat} {qs : List Ask}
    (selected : s.sel = .lane c slot l) (asks : s.asks cur f = some qs) :
    ∃ k w g group, runningGroup s c slot l = some (k, w, g, group) ∧
      laneAsks s k c slot w g (groupPc w group) f group = qs := by
  simpa [State.asks, selected] using asks

/-- A one-thread group whose access is made at issue is past its word, and the word's counter counts the access (04 R119,
R120). -/
theorem memWord_now {s : State} {cur : Cursor} {f : Ctx → Thread → Except Cause MemOp} {q : Ask} {tg : Target}
    {c slot l : Nat} (asks : s.asks cur f = some [q]) (goes : q.target = .ok tg) (selected : s.sel = .lane c slot l)
    (now : isNow s .lane c tg = true) (free : freeNow s q.agent q.op = true) (heard : heardNow s q.agent tg = true)
    (goesOn : (makeNow s .lane c q.origin.world tg q.op).1.waits = false)
    (clean : (makeNow s .lane c q.origin.world tg q.op).1.faults = []) :
    memWord s cur f = .next (s.accessedNow q tg) := by
  obtain ⟨k, w, g, group, running, made⟩ := asks_lane selected asks
  simp only [memWord, State.accessedNow, selected, running, made, issueAll_now goes now free heard goesOn clean, asksKind]

/-- Settles O20: each word makes the access that stands beside it in `memoryWords`, and that access is made at issue. -/
theorem tableAndWindowAccessesComplete : Obligations.TableAndWindowAccessesComplete := by
  intro s d a b imm imm9 sc sz q tg c slot l p listed asks goes selected now free heard goesOn clean
  rw [exec_of_mem_memoryWords listed]
  exact memWord_now asks goes selected now free heard goesOn clean

end Sys2Proof.Machine
end

section
/-! The events of the ports and of the hub's commands (04 R124; 16 R393 to R398, R406, R407; 19 R452): what each does where
it is enabled. -/

namespace Sys2Proof.Machine

/-! ### Moves of a port -/

section Port
variable {s : State} {p : Nat}

/-- ENABLE trains a refused port again, unless the boot record leaves it out (16 R394; 19 R451). -/
theorem execPortEnable_of_refused (refused : (s.port p).st = .refused) (idle : (s.port p).iso = .idle)
    (kept : portEntry s p ≠ 2) :
    execPortEnable p s = .next (toTraining (onPort s p fun y => { y with enable := true }) p) := by
  simp [execPortEnable, refused, idle, kept]

theorem execPortRun_of_assigned (assigned : (s.port p).st = .assigned) : execPortRun p s = .next (toRunning s p) := by
  simp [execPortRun, assigned]

theorem execPortReenum_of_empty (running : (s.port p).st = .running) (empty : chipletEmpty s p = true) :
    execPortReenum p s = .next (bumpGen (onPort (recallPort s p) p fun y =>
      { y with st := .reading, lock := false, fromIso := false })) := by
  simp [execPortReenum, running, empty]

theorem execPortReenum_of_resident (running : (s.port p).st = .running) (resident : chipletEmpty s p = false) :
    execPortReenum p s = .next (portBusy s p) := by
  simp [execPortReenum, running, resident]

theorem execPortReenum_of_off (off : (s.port p).st = .off) : execPortReenum p s = .next (toTraining s p) := by
  simp only [execPortReenum, off]

theorem execPortOff_of_empty (running : (s.port p).st = .running) (empty : chipletEmpty s p = true) :
    execPortOff p s = .next (bumpGen (onPort (loseState (recallPort s p) p) p fun y =>
      { y with st := .off, lock := false, pstate := 3, fromIso := false })) := by
  simp [execPortOff, running, empty]

theorem execPortOff_of_resident (running : (s.port p).st = .running) (resident : chipletEmpty s p = false) :
    execPortOff p s = .next (portBusy s p) := by
  simp [execPortOff, running, resident]

theorem execPortLinkUp_of_training (training : (s.port p).st = .training) :
    execPortLinkUp p s = .next (onPort s p fun y => { y with st := .reading, lock := false }) := by
  simp [execPortLinkUp, training]

/-- A failure to train raises the port's entry one level; in isolation it is one attempt of the agent (16 R394; 18 R436). -/
theorem execPortTrainingFail_of_training (training : (s.port p).st = .training) :
    let s1 := moveEntry (onPort s p fun y => { y with st := .down, terr := true }) p (min 2 (portEntry s p + 1))
    execPortTrainingFail p s = .next (bootSeven (if (s.port p).iso = .retraining then retry s1 p else s1)) := by
  simp [execPortTrainingFail, training]

end Port

/-! ### The capability table -/

/-- A port takes a table that it has not kept: its ids and class are assigned, its generation rises, and software is told
(16 R394 to R398). -/
def takeTable (s : State) (p : Nat) (bytes : List (BitVec 8)) : State :=
  topoEvent (onPort s p fun y => { y with
    st := .assigned, table := some bytes, queueIds := some (64 * p), cclass := defaultClass p, gen := (y.gen + 1) % 256 }) p

section Table
variable {s : State} {p : Nat} {bytes : List (BitVec 8)} (reading : (s.port p).st = .reading)
include reading

/-- A table that does not match its port refuses the port (16 R394). -/
theorem execCapabilityTableRead_of_bad (bad : tableOk p bytes = false) (isolated : (s.port p).iso ≠ .retraining) :
    execCapabilityTableRead p bytes s = .next
      (bootSeven (topoEvent (onPort s p fun y => { y with st := .refused }) p)) := by
  simp [execCapabilityTableRead, reading, bad, isolated]

/-- A table that equals the kept copy assigns the port as it was (16 R395). -/
theorem execCapabilityTableRead_of_kept (ok : tableOk p bytes = true) (kept : (s.port p).table = some bytes)
    (enumerating : (s.port p).fromIso = false) :
    execCapabilityTableRead p bytes s = .next (onPort s p fun y => { y with st := .assigned }) := by
  simp [execCapabilityTableRead, reading, ok, kept, enumerating]

/-- Another table is taken, and a digest that differs is a change of what is measured (16 R395; 19 R448). -/
theorem execCapabilityTableRead_of_new (ok : tableOk p bytes = true) (new : (s.port p).table ≠ some bytes)
    (known : (s.port p).table ≠ none ∨ 2 ≤ p) :
    execCapabilityTableRead p bytes s = .next
      (if (s.port p).table.map tableDigest = some (tableDigest bytes) then takeTable s p bytes
        else bumpGen (takeTable s p bytes)) := by
  have no_boot : ¬((s.port p).table = none ∧ p < 2 ∧ 6 ≤ s.hub.bootStep ∧ (!(s.port p).fromIso) = true) :=
    fun ⟨first, control, _⟩ => known.elim (· first) (Nat.not_le.2 control)
  simp only [execCapabilityTableRead, reading, ok, new, no_boot, takeTable, bne_self_eq_false, Bool.not_true,
    Bool.false_eq_true, if_false]

/-- A control chiplet that is enumerated for the first time at boot step 7 runs (16 R394; 19 R450). -/
theorem execCapabilityTableRead_of_boot (ok : tableOk p bytes = true) (first : (s.port p).table = none) (control : p < 2)
    (step : 6 ≤ s.hub.bootStep) (enumerating : (s.port p).fromIso = false) :
    execCapabilityTableRead p bytes s = .next (bootSeven (toRunning (bumpGen (takeTable s p bytes)) p)) := by
  simp [execCapabilityTableRead, reading, ok, first, control, step, enumerating, takeTable, bootRuns]

end Table

/-! ### Shootdowns -/

/-- No held translation that a predicate names is left (04 R124). -/
theorem pages_dropPages {s : State} {gone : HeldPage → Bool} : ∀ h ∈ (dropPages s gone).pages, gone h = false := by
  simp [dropPages]

/-- The oldest shootdown completes when its range has been dropped and nothing issued before it waits (04 R124; 16 R406). -/
theorem execShootdownComplete_of_free {s : State} {q0 q : Nat × Word × Nat × Nat × Nat}
    {rest : List (Nat × Word × Nat × Nat × Nat)} (oldest : s.hub.sdnQueue.head? = some q0)
    (dropped : (dropPages s fun h => pageHit h q0).hub.sdnQueue = q :: rest)
    (free : sdnWaits (dropPages s fun h => pageHit h q0) q = false) :
    execShootdownComplete s = .next (freeSlots ((dropPages s fun h => pageHit h q0).onHub fun h =>
      { h with sdnQueue := rest, sdnDone := q.1 })) := by
  obtain ⟨tail, queued⟩ := List.head?_eq_some_iff.1 oldest
  simp only [execShootdownComplete, queued, dropped, free, Bool.false_eq_true, if_false]

/-! ### Mailboxes of control harts, and registers -/

/-- A hart's message goes to a target that exists, once its fences are complete and the hub takes it (16 R407; 06 R168). -/
theorem execCmbxSend_of_target {s : State} {hart : Nat} {tg : Nat × Nat}
    (target : mailTarget (mapGet 0 s.hub.cmbxTgt hart) = some tg) (fenced : fencesOpen s (.hart hart) = false)
    (heard : hubHears s (hart / 32) = true) (data : BitVec 64) :
    execCmbxSend hart data s = .next ((sendMail s 0 tg data).1.onHub fun h =>
      { h with cmbxLast := mapSet hart (sendMail s 0 tg data).2 h.cmbxLast }) := by
  have heard_hart : hubHears s (Agent.port (.hart hart)) = true := heard
  simp only [execCmbxSend, hartMail, target, fenced, heard_hart, Bool.not_true, Bool.or_false, Bool.false_eq_true, if_false]

theorem execCmbxPop_of_message {s : State} {hart : Nat} {m : Word} {ms : List Word} (box : hartBox s hart = m :: ms) :
    execCmbxPop hart s = .next ({ s with reply := some [m] }.onHub fun h => { h with cmbx := mapSet hart ms h.cmbx }) := by
  simp only [execCmbxPop, box]

theorem execCmbxPop_of_empty {s : State} {hart : Nat} (box : hartBox s hart = []) :
    execCmbxPop hart s = .next { s with reply := some [0] } := by
  simp only [execCmbxPop, box]

/-- A write of CMBX_SEND sends the hart's message (00 R10). -/
theorem execRegisterWrite_cmbxSend {n : Nat} (there : n < regCount .cmbxSend) (v : BitVec 64) (s : State) :
    execRegisterWrite .cmbxSend n v s = execCmbxSend n v s := if_neg (Nat.not_le.2 there)

theorem execRegisterWrite_of_ne {r : HubReg} {n : Nat} (there : n < regCount r) (other : r ≠ .cmbxSend) (v : BitVec 64)
    (s : State) : execRegisterWrite r n v s = .next (writeReg s r n v) := by
  unfold execRegisterWrite
  rw [if_neg (Nat.not_le.2 there)]
  split
  · contradiction
  · rfl

/-! ### Power states -/

/-- The governor gates a chiplet of cores that runs without a unit (19 R452). -/
theorem execChipletGate_of_empty {s : State} {p st : Nat} (running : (s.port p).st = .running)
    (awake : (s.port p).waking = false) (cores : coresAt p ≠ []) (empty : chipletEmpty s p = true)
    (gated : st = 1 ∨ st = 2) (supported : pstateOk (s.port p) st = true) :
    execChipletGate p st s = .next (onPort s p fun y => { y with pstate := st }) := by
  have gate : (st == 1 || st == 2) = true := by simpa using gated
  simp [execChipletGate, running, awake, cores, empty, gate, supported]

theorem execChipletWakeComplete_of_waking {s : State} {p : Nat} (waking : (s.port p).waking = true) :
    execChipletWakeComplete p s = .next (onPort s p fun y => { y with waking := false, pstate := 0 }) := by
  simp only [execChipletWakeComplete, waking, if_true]

/-- Settles O54, one lemma for each event and outcome. -/
theorem hubEventsComplete : Obligations.HubEventsComplete := by
  intro s p hart st n v data bytes r q rest tg m ms x
  refine ⟨execPortEnable_of_refused, execPortRun_of_assigned,
    fun running empty => ⟨execPortReenum_of_empty running empty, execPortOff_of_empty running empty⟩,
    fun running resident => ⟨execPortReenum_of_resident running resident, execPortOff_of_resident running resident⟩,
    execPortReenum_of_off,
    fun training => ⟨execPortLinkUp_of_training training, execPortTrainingFail_of_training training⟩,
    fun reading => ⟨execCapabilityTableRead_of_bad reading, execCapabilityTableRead_of_kept reading,
      execCapabilityTableRead_of_new reading, execCapabilityTableRead_of_boot reading⟩,
    rfl, fun _ oldest => ⟨pages_dropPages, execShootdownComplete_of_free oldest⟩, ?mail, execCmbxPop_of_message,
    execCmbxPop_of_empty, fun there other => execRegisterWrite_of_ne there other v s, execChipletGate_of_empty,
    execChipletWakeComplete_of_waking⟩
  case mail =>
    intro target fenced heard i listed
    have sent := execCmbxSend_of_target target fenced heard data
    simp only [List.mem_append, List.mem_ite_nil_right, List.mem_singleton] at listed
    obtain rfl | ⟨there, rfl⟩ := listed
    · exact sent
    · exact (execRegisterWrite_cmbxSend there data s).trans sent

end Sys2Proof.Machine
end

section
/-! The events of a link-tile queue (05 R135 to R147; 11 R312 to R314): what each does where it is enabled, on the core or in
the saved context that holds the binding. -/

namespace Sys2Proof.Machine

/-! ### The binding at which an event is -/

/-- Binding `id` is queue `q` of what holds it: `h`, with the core `k`. -/
structure BoundAt (s : State) (id : Nat) (h : Holder) (q : Nat) (k : ArrayCore) (b : Binding) : Prop where
  holder : bindingHolder s id = some (h, q)
  core : holderCore s h = k
  binding : k.queue q = b

/-- An event at a binding that stands acts on it, when it names the core that the binding was made on (05 R146, R147). -/
theorem BoundAt.atBinding {s : State} {id q : Nat} {h : Holder} {k : ArrayCore} {b : Binding} (bound : BoundAt s id h q k b)
    (f : Holder → Nat → ArrayCore → Binding → State) : atBinding s b.core id f = .next (f h q k b) := by
  obtain ⟨holder, rfl, rfl⟩ := bound
  simp only [Machine.atBinding, holder, if_true]

/-- A change of a queue that gives `f` of the binding there is the change by `f`. -/
theorem ArrayCore.onQueue_const {k : ArrayCore} {q : Nat} {b : Binding} (binding : k.queue q = b) (f : Binding → Binding) :
    (k.onQueue q fun _ => f b) = k.onQueue q f := by
  simp only [ArrayCore.onQueue, binding]

/-- The width that `qwidth` asked of an unpaired binding, requested at its channel (11 R315). -/
def requestWidth (s : State) (b : Binding) : State :=
  match b.wantWidth with
  | some w => s.setChan b.chan { s.chan b.chan with req := w }
  | none => s

/-- The oldest `qmark` of a queue retired (05 R141). -/
def ArrayCore.retireMark (k : ArrayCore) (q : Nat) : ArrayCore :=
  match k.ops.find? fun o => o.kind == .mark q with
  | some o => k.retire o
  | none => k

/-- The link chiplet may take a draining tile of a paired send queue that has a credit, while the channel is up (05 R139; 21
R471). -/
theorem mayTake_of_draining {s : State} {k : ArrayCore} {q e : Nat} {b : Binding} (sends : b.dir = .send)
    (paired : b.paired = true) (goes : b.xoff = false) (credit : b.credit ≠ 0)
    (draining : (mapGet TileEntry.blank k.tiles e).st = .draining) (kept : unbinding k q = false)
    (up : (s.chan b.chan).st = .up) : mayTake s k q b e = true := by
  simp [mayTake, State.chanUp, sends, paired, goes, credit, draining, kept, up]

section Bound
variable {s : State} {id q : Nat} {h : Holder} {k : ArrayCore} {b : Binding} (bound : BoundAt s id h q k b)
include bound

/-! ### Pairing and credits -/

/-- A send end pairs with the capacity and the credits that its peer grants (05 R135). -/
theorem execBindingPair_of_send {peer : PeerEnd} (pairs : mayPair s h q k b peer = true) (sends : b.dir = .send)
    (grant : Nat × Nat) :
    execBindingPair b.core id peer grant s = .next (placeHeld (setHolder (requestWidth s b) h (k.onQueue q fun b =>
      { b with paired := true, granted := grant.1, credit := grant.2, wantWidth := none })) h q) := by
  rw [execBindingPair, bound.atBinding, ← ArrayCore.onQueue_const bound.binding]
  simp only [pairs, sends, Bool.not_true, Bool.false_eq_true, if_false]
  rfl

/-- A receive end pairs and grants a credit for each empty entry of its pool, with its capacity (05 R135). -/
theorem execBindingPair_of_receive {peer : PeerEnd} (pairs : mayPair s h q k b peer = true) (receives : b.dir = .receive)
    (grant : Nat × Nat) :
    let free := b.pool - heldCount k b
    execBindingPair b.core id peer grant s = .next (placeHeld (setHolder
      { requestWidth s b with reply := some [word free, word b.cap] } h (k.onQueue q fun b =>
      { b with paired := true, lent := free, wantWidth := none })) h q) := by
  intro free
  rw [execBindingPair, bound.atBinding, ← ArrayCore.onQueue_const bound.binding]
  simp only [pairs, receives, beq_self_eq_true, Bool.not_true, Bool.false_eq_true, if_false, if_true]
  rfl

theorem execPeerUnpair_of_paired (paired : b.paired = true) :
    execPeerUnpair b.core id s = .next (setHolder s h
      ((k.dropMarks q).onQueue q fun b => { b with paired := false, credit := 0, lent := 0 })) := by
  simp only [execPeerUnpair, bound.atBinding, paired, if_true]

theorem execCreditReturn_of_paired (sends : b.dir = .send) (paired : b.paired = true) :
    execCreditReturn b.core id s = .next (setHolder s h (k.onQueue q fun b => { b with credit := b.credit + 1 })) := by
  simp only [execCreditReturn, bound.atBinding, sends, paired, beq_self_eq_true, Bool.and_self, if_true]

/-! ### Arrival of tiles -/

/-- Under a credit, a tile begins to arrive in the lowest empty entry of the pool (05 R136; log entry 15). -/
theorem execTileFirstFlit_of_credit {e : Nat} (receives : b.dir = .receive) (paired : b.paired = true)
    (goes : b.xoff = false) (idle : b.filling = none) (credit : b.lent ≠ 0) (free : freeEntry k b = some e) :
    let y := { mapGet TileEntry.blank k.tiles e with st := .filling, qheld := true, qidx := q }
    execTileFirstFlit b.core id s = .next (setHolder s h
      { k with tiles := mapSet e y k.tiles,
               queues := mapSet q { b with fifo := b.fifo ++ [e], filling := some e, lent := b.lent - 1 } k.queues }) := by
  simp [execTileFirstFlit, bound.atBinding, receives, paired, goes, idle, credit, free]

/-- The last flit makes the arriving tile ready, with its header unchanged and its image in its local store (05 R136; 03
R112). -/
theorem execTileLastFlit_of_filling {e : Nat} (filling : b.filling = some e) (image : List (BitVec 8)) :
    let x := mapGet TileEntry.blank k.tiles e
    let y := { x with hdr := BitVec.ofNat 256 (natOfBytes (image.take 32)), st := .ready }
    execTileLastFlit b.core id image s = .next (setHolder s h
      { k with localStore := writeBytes k.localStore x.lsoff.toNat (image.take b.cap),
               top := max k.top (x.lsoff.toNat + (image.take b.cap).length), tiles := mapSet e y k.tiles,
               queues := mapSet q { b with filling := none } k.queues }) := by
  simp only [execTileLastFlit, bound.atBinding, filling]

/-! ### Departure of tiles -/

/-- Flits of the oldest tile taken leave, as many as the allowances pay for (05 R139). -/
theorem execSendRetire_of_part {e : Nat} {rest : List Nat} (taken : b.taken = e :: rest) :
    let n := flitsOf (mapGet TileEntry.blank k.tiles e).header.tlen - b.sent
    let r := (s.chan b.chan).charge n
    r.2 < n → execSendRetire b.core id s = .next
      (setHolder (s.setChan b.chan r.1) h (k.onQueue q fun b => { b with sent := b.sent + r.2 })) := by
  intro n r part
  simp only [execSendRetire, bound.atBinding, taken]
  rw [if_pos part]

/-- With its last flit the tile has left, and its send retires (05 R139, R145). -/
theorem execSendRetire_of_whole {e : Nat} {rest : List Nat} (taken : b.taken = e :: rest) :
    let n := flitsOf (mapGet TileEntry.blank k.tiles e).header.tlen - b.sent
    let r := (s.chan b.chan).charge n
    n ≤ r.2 → execSendRetire b.core id s = .next
      (placeHeld (setHolder (s.setChan b.chan r.1) h ((k.discardSend q e).onQueue q fun b =>
        { b with taken := rest, sent := 0, marks := b.marks.map fun y => (y.1 - 1, y.2) })) h q) := by
  intro n r whole
  simp only [execSendRetire, bound.atBinding, taken]
  rw [if_neg (Nat.not_lt.2 whole)]

/-! ### Markers -/

/-- A receive end acknowledges a marker when no tile is arriving before it (05 R141, R150). -/
theorem execQmarkRx_of_idle (receives : b.dir = .receive) (paired : b.paired = true) (goes : b.xoff = false)
    (idle : b.filling = none) (stepNo : BitVec 16) (isEnd : Bool) :
    execQmarkRx b.core id stepNo isEnd s = .next (traceMark s 2 k.taskWorld q b stepNo isEnd) := by
  simp [execQmarkRx, bound.atBinding, receives, paired, goes, idle]

/-- The oldest marker, placed and behind no tile that has not left, is acknowledged, and its `qmark` retires (05 R141). -/
theorem execQmarkAck_of_oldest {m : Nat × BitVec 16 × Bool × Bool} {ms : List (Nat × BitVec 16 × Bool × Bool)}
    (oldest : b.marks = m :: ms) (placed : m.2.2.2 = true) (ahead : m.1 = 0) (paired : b.paired = true) :
    execQmarkAck b.core id s = .next (setHolder (traceMark s 3 k.taskWorld q b m.2.1 m.2.2.1) h
      ((k.retireMark q).onQueue q fun b => { b with marks := ms })) := by
  simp only [execQmarkAck, bound.atBinding, oldest, placed, ahead, paired, bne_self_eq_false, Bool.not_true, Bool.or_self,
    Bool.false_eq_true, if_false]
  rfl

end Bound

/-- The link chiplet takes the next tile of a resident send queue with one credit, when the hub takes from both chiplets and
the tile fits the capacity granted at pairing (05 R138, R139; 18 R437; log entry 16). -/
theorem execLinkTakeTile_of_mayTake {s : State} {id c q e : Nat} {k : ArrayCore} {b : Binding}
    (bound : BoundAt s id (.core c) q k b) (next : b.nextTile = some e) (take : mayTake s k q b e = true)
    (heard : hubHears s (portOfCore .array c) = true) (linked : hubHears s (16 + b.chan / 32) = true)
    (fits : (mapGet TileEntry.blank k.tiles e).header.tlen ≤ b.granted) :
    execLinkTakeTile b.core id s = .next (placeMarks (onQueue s c q fun b =>
      { b.dropNext with credit := b.credit - 1, taken := b.taken ++ [e] }) c q) := by
  simp [execLinkTakeTile, bound.atBinding, next, take, heard, linked, Nat.not_lt.2 fits]

/-- Settles O53, one lemma for each event and outcome. -/
theorem linkTileEventsComplete : Obligations.LinkTileEventsComplete := by
  intro s id core q e h rest image stepNo isEnd peer grant m ms holder k b free
  have bound : BoundAt s id h q k b := ⟨holder, rfl, rfl⟩
  refine ⟨fun pairs => ⟨fun sends => execBindingPair_of_send bound pairs sends grant,
      fun receives => execBindingPair_of_receive bound pairs receives grant⟩,
    execPeerUnpair_of_paired bound, execTileFirstFlit_of_credit bound,
    fun filling => execTileLastFlit_of_filling bound filling image, execCreditReturn_of_paired bound, ?take,
    fun taken => ⟨execSendRetire_of_part bound taken, execSendRetire_of_whole bound taken⟩,
    fun receives paired goes idle => execQmarkRx_of_idle bound receives paired goes idle stepNo isEnd,
    execQmarkAck_of_oldest bound⟩
  case take =>
    intro resident next sends paired goes credit draining kept up heard linked fits
    subst resident
    exact execLinkTakeTile_of_mayTake bound next (mayTake_of_draining sends paired goes credit draining kept up) heard linked
      fits

end Sys2Proof.Machine
end

section
/-! The accesses of control harts and of devices behind a root port (06 R169; 04 R118, R121; 16 R390): what each does where
its port runs. -/

namespace Sys2Proof.Machine

/-! ### Devices behind a root port -/

section Dma
variable {s : State} {port size : Nat} {va : BitVec 64} (control : port < 2) (running : (s.port port).st = .running)
  (aligned : isAccess va.toNat size = true) (write : Bool) (data : BitVec 64)
include control running aligned

/-- An address that is not canonical is refused before it is translated (04 R121). -/
theorem execPcieDmaRequest_of_not_canonical (bad : isCanonical va.toNat = false) :
    execPcieDmaRequest port write va size data s = .next (outsideAccess (.pcie port)
      (hartMemOp (if write then .store else .load) va.toNat size data) (.error .nonCanonical) s) := by
  simp [execPcieDmaRequest, Nat.not_le.2 control, running, aligned, bad]

/-- The cause of a translation that fails is the reply (16 R390; log entry 5). -/
theorem execPcieDmaRequest_of_translate_error {c : Cause} (canonical : isCanonical va.toNat = true)
    (refused : translate s 0 false none (if write then .write else .read) va.toNat = .error c) :
    execPcieDmaRequest port write va size data s = .next (outsideReply s (causeCode c) 0) := by
  simp [execPcieDmaRequest, outsideAccess, Nat.not_le.2 control, running, aligned, canonical, refused]

/-- An address that translates under world 0's tables is accessed without privilege (16 R390; 04 R118). -/
theorem execPcieDmaRequest_of_translate_ok {a : Nat} (canonical : isCanonical va.toNat = true)
    (translated : translate s 0 false none (if write then .write else .read) va.toNat = .ok a) :
    execPcieDmaRequest port write va size data s = .next (outsideAccess (.pcie port)
      (hartMemOp (if write then .store else .load) va.toNat size data) (physTarget s 0 false a) s) := by
  simp [execPcieDmaRequest, Nat.not_le.2 control, running, aligned, canonical, translated]

end Dma

/-! ### Control harts -/

section Hart
variable {s : State} {hart : Nat} (there : hart < 64) (running : (s.port (hart / 32)).st = .running) (sup : Bool)
include there running

/-- A hart's operation, other than a fence, acts on the place that its physical address names (06 R169; log entry 70). -/
theorem execControlCoreAccess_of_access {op : HartOp} {addr size : Nat} (has : hartOpOk op = true)
    (access : op.isFence = false) (aligned : isAccess addr size = true) (data : BitVec 64) :
    execControlCoreAccess hart sup op addr size data s = .next
      (hartAccess hart op size (hartMemOp op addr size data) (physTarget s 0 sup addr) s) := by
  cases op with
  | fence => cases access
  | _ => simp [execControlCoreAccess, Nat.not_le.2 there, running, has, aligned]

/-- A hart's fence orders its accesses, whatever address and size stand beside it (06 R169). -/
theorem execControlCoreAccess_of_fence (predR predW succR succW : Bool) (addr size : Nat) (data : BitVec 64) :
    execControlCoreAccess hart sup (.fence predR predW succR succW) addr size data s = .next
      (hartFence hart predR predW succR succW s) := by
  simp [execControlCoreAccess, Nat.not_le.2 there, running, hartOpOk]

end Hart

/-- Settles O59, one lemma for each outcome of a device's request and of a hart's operation. -/
theorem outsideAccessesComplete : Obligations.OutsideAccessesComplete := by
  intro s port hart addr size write sup predR predW succR succW va data op
  refine ⟨fun control running aligned => ⟨?bad, ?refused, ?translated⟩, fun there running => ⟨?access, ?fence⟩⟩
  case bad => exact execPcieDmaRequest_of_not_canonical control running aligned write data
  case refused => exact fun _ => execPcieDmaRequest_of_translate_error control running aligned write data
  case translated => exact fun _ => execPcieDmaRequest_of_translate_ok control running aligned write data
  case access => exact fun has access aligned => execControlCoreAccess_of_access there running sup has access aligned data
  case fence => exact execControlCoreAccess_of_fence there running sup predR predW succR succW addr size data

end Sys2Proof.Machine
end

section
/-! Engines that lane cores do not have (07 R180): a V word or a Q word is engine-absent for its whole issue group. -/

namespace Sys2Proof.Machine

theorem issuer_of_lane {s : State} {cur : Cursor} {x : Issuer} (issued : s.issuer cur = some x) (lane : x.kind = .lane)
    (other : Cursor) : s.issuer other = some x := by
  unfold State.issuer at issued ⊢
  split at issued
  case h_1 sel => simpa only [sel] using issued
  case h_2 sel =>
    split at issued
    · obtain ⟨_, _, rfl⟩ := Option.map_eq_some_iff.1 issued
      cases lane
    · cases issued

theorem trapped_of_lane {x : Issuer} (lane : x.kind = .lane) (cur other : Cursor) (s : State) (c : Cause) (a code : Nat) :
    x.trapped cur s c a code = x.trapped other s c a code := by
  simp only [Issuer.trapped, lane]

section
variable {s : State} {x : Issuer} {cur : Cursor} (issued : s.issuer cur = some x) (lane : x.kind = .lane)
include issued lane

theorem unitWord_of_lane_fault {own : Cursor} {f : Issuer → State → Issue} {c : Cause} {a code : Nat}
    (fault : f x s = .fault c a code) : unitWord s own f = .next (x.trapped cur s c a code) := by
  rw [trapped_of_lane lane cur own]
  exact unitWord_fault (issuer_of_lane issued lane own) fault

theorem vectorWord_of_lane (f : Issuer → ArrayCore → State → Issue) :
    vectorWord s f = .next (x.trapped cur s .engineAbsent 0 0) :=
  unitWord_of_lane_fault issued lane (by simp only [lane, Issue.no])

theorem queueWord_of_lane (q : BitVec 6) (g : Issuer → Nat → State → Issue) :
    queueWord s q g = .next (x.trapped cur s .engineAbsent 0 0) :=
  unitWord_of_lane_fault issued lane (by simp only [lane, Issue.no])

/-- Each V word is `vectorWord` of what it does on an array core. -/
theorem execV_of_lane (d a b : BitVec 6) (m : BitVec 4) (slot : BitVec 3) :
    ∀ answer ∈ [
      execVaddF32 d a b m s, execVsubF32 d a b m s, execVmulF32 d a b m s, execVfmaF32 d a b m s, execVminF32 d a b m s,
      execVmaxF32 d a b m s, execVabsF32 d a m s, execVnegF32 d a m s, execVaddI32 d a b m s, execVsubI32 d a b m s,
      execVmulI32 d a b m s, execVand d a b m s, execVor d a b m s, execVxor d a b m s, execVshl d a b m s,
      execVsar d a b m s, execVexp2 d a m s, execVlog2 d a m s, execVrcp d a m s, execVrsqrt d a m s, execVtanh d a m s,
      execVcmpEqF32 d a b m s, execVcmpLtF32 d a b m s, execVcmpLeF32 d a b m s, execVcmpUnF32 d a b m s,
      execVcmpEqI32 d a b m s, execVcmpLtI32 d a b m s, execVcmpLeI32 d a b m s, execVcmpLtuI32 d a b m s,
      execVsel d a b m s, execPand d a b m s, execPor d a b m s, execPxor d a b m s, execPnot d a m s, execVrsumF32 d a m s,
      execVrmaxF32 d a m s, execVrminF32 d a m s, execVrsumI32 d a m s, execVrmaxI32 d a m s, execVrminI32 d a m s,
      execVperm d a b m s, execVbcast d a m s, execVslup d a b m s, execVsldn d a b m s, execVmov d a m s, execVlane d m s,
      execVtrd d a b s, execVtwr d a b s, execVtrdc d a b s, execVtwrc d a b slot s],
      answer = .next (x.trapped cur s .engineAbsent 0 0) := by
  simp only [List.forall_mem_cons, List.not_mem_nil, false_implies, implies_true, and_self,
    execVaddF32, execVsubF32, execVmulF32, execVfmaF32, execVminF32, execVmaxF32, execVabsF32, execVnegF32, execVaddI32,
    execVsubI32, execVmulI32, execVand, execVor, execVxor, execVshl, execVsar, execVexp2, execVlog2, execVrcp, execVrsqrt,
    execVtanh, execVcmpEqF32, execVcmpLtF32, execVcmpLeF32, execVcmpUnF32, execVcmpEqI32, execVcmpLtI32, execVcmpLeI32,
    execVcmpLtuI32, execVsel, execPand, execPor, execPxor, execPnot, execVrsumF32, execVrmaxF32, execVrminF32, execVrsumI32,
    execVrmaxI32, execVrminI32, execVperm, execVbcast, execVslup, execVsldn, execVmov, execVlane, execVtrd, execVtwr,
    execVtrdc, execVtwrc, laneWord, laneWord1, funWord, cmpWord, predWord, reduceWord, vectorWord_of_lane issued lane]

/-- Each Q word is `queueWord` of what it does on an array core. -/
theorem execQ_of_lane (d a : BitVec 6) (m : BitVec 4) :
    ∀ answer ∈ [
      execQbindS d a s, execQbindR d a s, execQunbind d s, execQsend d a s, execQsendF d a s, execQrecv d a s,
      execQmarkStart d a s, execQmarkEnd d a s, execQwidth d m s, execQstat d a s, execQdrop d s],
      answer = .next (x.trapped cur s .engineAbsent 0 0) := by
  simp only [List.forall_mem_cons, List.not_mem_nil, false_implies, implies_true, and_self,
    execQbindS, execQbindR, execQunbind, execQsend, execQsendF, execQrecv, execQmarkStart, execQmarkEnd, execQwidth,
    execQstat, execQdrop, qbindWord, qsendWord, qmarkWord, queueWord_of_lane issued lane]

end

/-- Settles O49: the words of the list are the V words and the Q words. -/
theorem absentEngines : Obligations.AbsentEngines := by
  intro s x cur d a b m slot issued lane i listed
  have answers := List.forall_mem_append.2 ⟨execV_of_lane issued lane d a b m slot, execQ_of_lane issued lane d a m⟩
  exact answers (exec i s) (List.mem_map_of_mem (f := fun i => exec i s) listed)

end Sys2Proof.Machine
end

section
/-! The formats of words (07 R181, R188, R191 to R193). For each format, `encode`'s sum of a fixed part and fields is a word
exactly where the decoder reads the major, the fixed bits and the operands from it. `fixed` is the word with zero operands;
the names list the operands. -/

namespace Sys2Proof.Machine

/-! ### Words as fields -/

theorem fld_lt (w lo len : Nat) : fld w lo len < 2 ^ len := Nat.mod_lt _ (Nat.two_pow_pos _)

/-- A word from its fields, each a width and a value, low bits first, under the bits `top`. -/
def pack (top : Nat) : List (Nat × Nat) → Nat
  | [] => top
  | (len, v) :: rest => v + 2 ^ len * pack top rest

/-- Each value has the width that stands beside it. -/
def Fits : List (Nat × Nat) → Prop
  | [] => True
  | (len, v) :: rest => v < 2 ^ len ∧ Fits rest

/-- From bit `lo` up a word has the fields listed, and `top` above them. -/
def Reads (w top : Nat) : Nat → List (Nat × Nat) → Prop
  | lo, [] => w / 2 ^ lo = top
  | lo, (len, v) :: rest => fld w lo len = v ∧ Reads w top (lo + len) rest

theorem pack_eq_div_iff {w top : Nat} {fs : List (Nat × Nat)} (fits : Fits fs) (lo : Nat) :
    pack top fs = w / 2 ^ lo ↔ Reads w top lo fs := by
  induction fs generalizing lo with
  | nil => exact eq_comm
  | cons p rest ih =>
    rw [Reads, ← ih fits.2, pack, fld, Nat.pow_add, ← Nat.div_div_eq_div_mul, eq_comm (a := pack top rest), and_comm,
      Nat.div_mod_unique (Nat.two_pow_pos _), eq_comm, and_iff_left fits.1]

theorem put_eq_iff {fixed top w : Nat} {fs segs : List (Nat × Nat)} (same : put fixed fs = pack top segs)
    (fits : Fits segs) : put fixed fs = w ↔ Reads w top 0 segs := by
  rw [same, ← pack_eq_div_iff fits, Nat.pow_zero, Nat.div_one]

theorem ofNat_eq_iff {n v : Nat} {x : BitVec n} (h : v < 2 ^ n) : BitVec.ofNat n v = x ↔ v = x.toNat := by
  rw [← BitVec.toNat_inj, BitVec.toNat_ofNat, Nat.mod_eq_of_lt h]

theorem ofNat_fld_eq_iff {n w lo : Nat} {x : BitVec n} : BitVec.ofNat n (fld w lo n) = x ↔ fld w lo n = x.toNat :=
  ofNat_eq_iff (fld_lt ..)

/-- A vector operand of format A, whose high bit stands apart (07 R188). -/
theorem ofNat_split_iff {w hi lo : Nat} {x : BitVec 6} :
    BitVec.ofNat 6 (32 * fld w hi 1 + fld w lo 5) = x ↔ fld w hi 1 = x.toNat / 32 ∧ fld w lo 5 = x.toNat % 32 := by
  have := fld_lt w hi 1
  have := fld_lt w lo 5
  rw [ofNat_eq_iff (by omega)]
  omega

theorem decodeFType_eq_some_iff {w : Nat} {ft : FType} : decodeFType w = some ft ↔ fld w 8 2 = ftCode ft := by
  unfold decodeFType
  have := fld_lt w 8 2
  cases ft <;> split <;> simp_all [ftCode]

theorem ftCode_lt (ft : FType) : ftCode ft < 2 ^ 2 := by cases ft <;> decide

/-! ### Format A: register operands, the function in the low bits

Operands as in `encode`: d, a, b; p a predicate; t the type of a scalar floating-point word; m the mask `k` of a V word, whose
register operands have their high bits apart (R188); s a scope and a size (R192). -/

theorem formatA_dab_iff {fixed m w : Nat} {d a b : BitVec 5} (bits : fixed = 2 ^ 25 * m + fixed % 2 ^ 10) :
    some (put fixed [(20, d.toNat), (15, a.toNat), (10, b.toNat)]) = some w ↔
      fld w 0 10 = fixed % 2 ^ 10 ∧ BitVec.ofNat 5 (fld w 10 5) = b ∧ BitVec.ofNat 5 (fld w 15 5) = a ∧
      BitVec.ofNat 5 (fld w 20 5) = d ∧ w / 2 ^ 25 = m := by
  rw [Option.some.injEq, put_eq_iff (top := m) (segs := [(10, fixed % 2 ^ 10), (5, b.toNat), (5, a.toNat), (5, d.toNat)])
    (by simp only [put, pack]; omega) (by simp only [Fits, and_true]; omega)]
  simp only [Reads, ofNat_fld_eq_iff]

theorem formatA_da_iff {fixed m w : Nat} {d a : BitVec 5} (bits : fixed = 2 ^ 25 * m + fixed % 2 ^ 15) :
    some (put fixed [(20, d.toNat), (15, a.toNat)]) = some w ↔
      fld w 0 15 = fixed % 2 ^ 15 ∧ BitVec.ofNat 5 (fld w 15 5) = a ∧ BitVec.ofNat 5 (fld w 20 5) = d ∧ w / 2 ^ 25 = m := by
  rw [Option.some.injEq, put_eq_iff (top := m) (segs := [(15, fixed % 2 ^ 15), (5, a.toNat), (5, d.toNat)])
    (by simp only [put, pack]; omega) (by simp only [Fits, and_true]; omega)]
  simp only [Reads, ofNat_fld_eq_iff]

theorem formatA_d_iff {fixed m w : Nat} {d : BitVec 5} (bits : fixed = 2 ^ 25 * m + fixed % 2 ^ 20) :
    some (put fixed [(20, d.toNat)]) = some w ↔
      fld w 0 20 = fixed % 2 ^ 20 ∧ BitVec.ofNat 5 (fld w 20 5) = d ∧ w / 2 ^ 25 = m := by
  rw [Option.some.injEq, put_eq_iff (top := m) (segs := [(20, fixed % 2 ^ 20), (5, d.toNat)])
    (by simp only [put, pack]; omega) (by simp only [Fits, and_true]; omega)]
  simp only [Reads, ofNat_fld_eq_iff]

theorem formatA_a_iff {fixed m w : Nat} {a : BitVec 5} (bits : fixed = 2 ^ 25 * m + fixed % 2 ^ 15) :
    some (put fixed [(15, a.toNat)]) = some w ↔
      fld w 0 15 = fixed % 2 ^ 15 ∧ BitVec.ofNat 5 (fld w 15 5) = a ∧ fld w 20 5 = 0 ∧ w / 2 ^ 25 = m := by
  rw [Option.some.injEq, put_eq_iff (top := m) (segs := [(15, fixed % 2 ^ 15), (5, a.toNat), (5, 0)])
    (by simp only [put, pack]; omega) (by simp only [Fits, and_true]; omega)]
  simp only [Reads, ofNat_fld_eq_iff]

theorem formatA_ab_iff {fixed m w : Nat} {a b : BitVec 5} (bits : fixed = 2 ^ 25 * m + fixed % 2 ^ 10) :
    some (put fixed [(15, a.toNat), (10, b.toNat)]) = some w ↔
      fld w 0 10 = fixed % 2 ^ 10 ∧ BitVec.ofNat 5 (fld w 10 5) = b ∧ BitVec.ofNat 5 (fld w 15 5) = a ∧ fld w 20 5 = 0 ∧
      w / 2 ^ 25 = m := by
  rw [Option.some.injEq, put_eq_iff (top := m) (segs := [(10, fixed % 2 ^ 10), (5, b.toNat), (5, a.toNat), (5, 0)])
    (by simp only [put, pack]; omega) (by simp only [Fits, and_true]; omega)]
  simp only [Reads, ofNat_fld_eq_iff]

theorem formatA_dabp_iff {fixed m w : Nat} {d a b : BitVec 5} {p : BitVec 4}
    (bits : fixed = 2 ^ 25 * m + 2 ^ 4 * (fixed / 2 ^ 4 % 2 ^ 6)) :
    some (put fixed [(20, d.toNat), (15, a.toNat), (10, b.toNat), (0, p.toNat)]) = some w ↔
      BitVec.ofNat 4 (fld w 0 4) = p ∧ fld w 4 6 = fixed / 2 ^ 4 % 2 ^ 6 ∧ BitVec.ofNat 5 (fld w 10 5) = b ∧
      BitVec.ofNat 5 (fld w 15 5) = a ∧ BitVec.ofNat 5 (fld w 20 5) = d ∧ w / 2 ^ 25 = m := by
  rw [Option.some.injEq, put_eq_iff (top := m) (segs := [(4, p.toNat), (6, fixed / 2 ^ 4 % 2 ^ 6), (5, b.toNat),
    (5, a.toNat), (5, d.toNat)])
    (by simp only [put, pack]; omega) (by simp only [Fits, and_true]; omega)]
  simp only [Reads, ofNat_fld_eq_iff]

theorem formatA_dabt_iff {fixed m w : Nat} {d a b : BitVec 5} {ft : FType} (bits : fixed = 2 ^ 25 * m + fixed % 2 ^ 8) :
    some (put fixed [(20, d.toNat), (15, a.toNat), (10, b.toNat), (8, ftCode ft)]) = some w ↔
      fld w 0 8 = fixed % 2 ^ 8 ∧ decodeFType w = some ft ∧ BitVec.ofNat 5 (fld w 10 5) = b ∧
      BitVec.ofNat 5 (fld w 15 5) = a ∧ BitVec.ofNat 5 (fld w 20 5) = d ∧ w / 2 ^ 25 = m := by
  rw [Option.some.injEq, put_eq_iff (top := m) (segs := [(8, fixed % 2 ^ 8), (2, ftCode ft), (5, b.toNat), (5, a.toNat),
    (5, d.toNat)])
    (by simp only [put, pack]; omega) (by simp only [Fits, and_true]; have := ftCode_lt ft; omega)]
  simp only [Reads, ofNat_fld_eq_iff, decodeFType_eq_some_iff]

theorem formatA_dat_iff {fixed m w : Nat} {d a : BitVec 5} {ft : FType} (bits : fixed = 2 ^ 25 * m + fixed % 2 ^ 8) :
    some (put fixed [(20, d.toNat), (15, a.toNat), (8, ftCode ft)]) = some w ↔
      fld w 0 8 = fixed % 2 ^ 8 ∧ decodeFType w = some ft ∧ fld w 10 5 = 0 ∧ BitVec.ofNat 5 (fld w 15 5) = a ∧
      BitVec.ofNat 5 (fld w 20 5) = d ∧ w / 2 ^ 25 = m := by
  rw [Option.some.injEq, put_eq_iff (top := m) (segs := [(8, fixed % 2 ^ 8), (2, ftCode ft), (5, 0), (5, a.toNat),
    (5, d.toNat)])
    (by simp only [put, pack]; omega) (by simp only [Fits, and_true]; have := ftCode_lt ft; omega)]
  simp only [Reads, ofNat_fld_eq_iff, decodeFType_eq_some_iff]

theorem formatA_dabm_iff {fixed m w : Nat} {d a b : BitVec 6} {k : BitVec 4} (bits : fixed = 2 ^ 25 * m + fixed % 2 ^ 3) :
    some (put fixed [(20, d.toNat % 32), (9, d.toNat / 32), (15, a.toNat % 32), (8, a.toNat / 32), (10, b.toNat % 32),
      (7, b.toNat / 32), (3, k.toNat)]) = some w ↔
      fld w 0 3 = fixed % 2 ^ 3 ∧ BitVec.ofNat 4 (fld w 3 4) = k ∧ BitVec.ofNat 6 (32 * fld w 7 1 + fld w 10 5) = b ∧
      BitVec.ofNat 6 (32 * fld w 8 1 + fld w 15 5) = a ∧ BitVec.ofNat 6 (32 * fld w 9 1 + fld w 20 5) = d ∧
      w / 2 ^ 25 = m := by
  rw [Option.some.injEq, put_eq_iff (top := m) (segs := [(3, fixed % 2 ^ 3), (4, k.toNat), (1, b.toNat / 32),
    (1, a.toNat / 32), (1, d.toNat / 32), (5, b.toNat % 32), (5, a.toNat % 32), (5, d.toNat % 32)])
    (by simp only [put, pack]; omega) (by simp only [Fits, and_true]; omega)]
  simp only [Reads, ofNat_fld_eq_iff, ofNat_split_iff]
  exact ⟨fun ⟨hf, hk, bh, ah, dh, bl, al, dl, hm⟩ => ⟨hf, hk, ⟨bh, bl⟩, ⟨ah, al⟩, ⟨dh, dl⟩, hm⟩,
    fun ⟨hf, hk, ⟨bh, bl⟩, ⟨ah, al⟩, ⟨dh, dl⟩, hm⟩ => ⟨hf, hk, bh, ah, dh, bl, al, dl, hm⟩⟩

theorem formatA_dam_iff {fixed m w : Nat} {d a : BitVec 6} {k : BitVec 4} (bits : fixed = 2 ^ 25 * m + fixed % 2 ^ 3) :
    some (put fixed [(20, d.toNat % 32), (9, d.toNat / 32), (15, a.toNat % 32), (8, a.toNat / 32), (3, k.toNat)])
      = some w ↔
      fld w 0 3 = fixed % 2 ^ 3 ∧ BitVec.ofNat 4 (fld w 3 4) = k ∧ fld w 7 1 = 0 ∧
      BitVec.ofNat 6 (32 * fld w 8 1 + fld w 15 5) = a ∧ BitVec.ofNat 6 (32 * fld w 9 1 + fld w 20 5) = d ∧
      fld w 10 5 = 0 ∧ w / 2 ^ 25 = m := by
  rw [Option.some.injEq, put_eq_iff (top := m) (segs := [(3, fixed % 2 ^ 3), (4, k.toNat), (1, 0), (1, a.toNat / 32),
    (1, d.toNat / 32), (5, 0), (5, a.toNat % 32), (5, d.toNat % 32)])
    (by simp only [put, pack]; omega) (by simp only [Fits, and_true]; omega)]
  simp only [Reads, ofNat_fld_eq_iff, ofNat_split_iff]
  exact ⟨fun ⟨hf, hk, hz, ah, dh, hy, al, dl, hm⟩ => ⟨hf, hk, hz, ⟨ah, al⟩, ⟨dh, dl⟩, hy, hm⟩,
    fun ⟨hf, hk, hz, ⟨ah, al⟩, ⟨dh, dl⟩, hy, hm⟩ => ⟨hf, hk, hz, ah, dh, hy, al, dl, hm⟩⟩

theorem formatA_dm_iff {fixed m w : Nat} {d : BitVec 6} {k : BitVec 4} (bits : fixed = 2 ^ 25 * m + fixed % 2 ^ 3) :
    some (put fixed [(20, d.toNat % 32), (9, d.toNat / 32), (3, k.toNat)]) = some w ↔
      fld w 0 3 = fixed % 2 ^ 3 ∧ BitVec.ofNat 4 (fld w 3 4) = k ∧ fld w 7 2 = 0 ∧
      BitVec.ofNat 6 (32 * fld w 9 1 + fld w 20 5) = d ∧ fld w 10 10 = 0 ∧ w / 2 ^ 25 = m := by
  rw [Option.some.injEq, put_eq_iff (top := m) (segs := [(3, fixed % 2 ^ 3), (4, k.toNat), (2, 0), (1, d.toNat / 32),
    (10, 0), (5, d.toNat % 32)])
    (by simp only [put, pack]; omega) (by simp only [Fits, and_true]; omega)]
  simp only [Reads, ofNat_fld_eq_iff, ofNat_split_iff]
  exact ⟨fun ⟨hf, hk, hz, dh, hy, dl, hm⟩ => ⟨hf, hk, hz, ⟨dh, dl⟩, hy, hm⟩,
    fun ⟨hf, hk, hz, ⟨dh, dl⟩, hy, hm⟩ => ⟨hf, hk, hz, dh, hy, dl, hm⟩⟩

theorem formatA_dabss_iff {fixed m w : Nat} {d a b : BitVec 5} {scope : BitVec 3} {size : BitVec 2}
    (bits : fixed = 2 ^ 25 * m + fixed % 2 ^ 5) :
    some (put fixed [(20, d.toNat), (15, a.toNat), (10, b.toNat), (7, scope.toNat), (5, size.toNat)]) = some w ↔
      fld w 0 5 = fixed % 2 ^ 5 ∧ BitVec.ofNat 2 (fld w 5 2) = size ∧ BitVec.ofNat 3 (fld w 7 3) = scope ∧
      BitVec.ofNat 5 (fld w 10 5) = b ∧ BitVec.ofNat 5 (fld w 15 5) = a ∧ BitVec.ofNat 5 (fld w 20 5) = d ∧
      w / 2 ^ 25 = m := by
  rw [Option.some.injEq, put_eq_iff (top := m) (segs := [(5, fixed % 2 ^ 5), (2, size.toNat), (3, scope.toNat),
    (5, b.toNat), (5, a.toNat), (5, d.toNat)])
    (by simp only [put, pack]; omega) (by simp only [Fits, and_true]; omega)]
  simp only [Reads, ofNat_fld_eq_iff]

theorem formatA_abss_iff {fixed m w : Nat} {a b : BitVec 5} {scope : BitVec 3} {size : BitVec 2}
    (bits : fixed = 2 ^ 25 * m + fixed % 2 ^ 5) :
    some (put fixed [(15, a.toNat), (10, b.toNat), (7, scope.toNat), (5, size.toNat)]) = some w ↔
      fld w 0 5 = fixed % 2 ^ 5 ∧ BitVec.ofNat 2 (fld w 5 2) = size ∧ BitVec.ofNat 3 (fld w 7 3) = scope ∧
      BitVec.ofNat 5 (fld w 10 5) = b ∧ BitVec.ofNat 5 (fld w 15 5) = a ∧ fld w 20 5 = 0 ∧ w / 2 ^ 25 = m := by
  rw [Option.some.injEq, put_eq_iff (top := m) (segs := [(5, fixed % 2 ^ 5), (2, size.toNat), (3, scope.toNat),
    (5, b.toNat), (5, a.toNat), (5, 0)])
    (by simp only [put, pack]; omega) (by simp only [Fits, and_true]; omega)]
  simp only [Reads, ofNat_fld_eq_iff]

/-! ### Formats B and D: an immediate in the low bits (i), with a scope above or in it (s), or a mask number (k) -/

theorem formatB_dai_iff {fixed m w : Nat} {d a : BitVec 5} {imm : BitVec 12}
    (bits : fixed = 2 ^ 25 * m + 2 ^ 12 * (fixed / 2 ^ 12 % 2 ^ 3)) :
    some (put fixed [(20, d.toNat), (15, a.toNat), (0, imm.toNat)]) = some w ↔
      BitVec.ofNat 12 (fld w 0 12) = imm ∧ fld w 12 3 = fixed / 2 ^ 12 % 2 ^ 3 ∧ BitVec.ofNat 5 (fld w 15 5) = a ∧
      BitVec.ofNat 5 (fld w 20 5) = d ∧ w / 2 ^ 25 = m := by
  rw [Option.some.injEq, put_eq_iff (top := m) (segs := [(12, imm.toNat), (3, fixed / 2 ^ 12 % 2 ^ 3), (5, a.toNat),
    (5, d.toNat)])
    (by simp only [put, pack]; omega) (by simp only [Fits, and_true]; omega)]
  simp only [Reads, ofNat_fld_eq_iff]

theorem formatB_dasi_iff {fixed m w : Nat} {d a : BitVec 5} {scope : BitVec 3} {imm : BitVec 9}
    (bits : fixed = 2 ^ 25 * m + 2 ^ 12 * (fixed / 2 ^ 12 % 2 ^ 3)) :
    some (put fixed [(20, d.toNat), (15, a.toNat), (9, scope.toNat), (0, imm.toNat)]) = some w ↔
      BitVec.ofNat 9 (fld w 0 9) = imm ∧ BitVec.ofNat 3 (fld w 9 3) = scope ∧ fld w 12 3 = fixed / 2 ^ 12 % 2 ^ 3 ∧
      BitVec.ofNat 5 (fld w 15 5) = a ∧ BitVec.ofNat 5 (fld w 20 5) = d ∧ w / 2 ^ 25 = m := by
  rw [Option.some.injEq, put_eq_iff (top := m) (segs := [(9, imm.toNat), (3, scope.toNat), (3, fixed / 2 ^ 12 % 2 ^ 3),
    (5, a.toNat), (5, d.toNat)])
    (by simp only [put, pack]; omega) (by simp only [Fits, and_true]; omega)]
  simp only [Reads, ofNat_fld_eq_iff]

theorem formatB_i_iff {fixed m w : Nat} {imm : BitVec 12}
    (bits : fixed = 2 ^ 25 * m + 2 ^ 12 * (fixed / 2 ^ 12 % 2 ^ 13)) :
    some (put fixed [(0, imm.toNat)]) = some w ↔
      BitVec.ofNat 12 (fld w 0 12) = imm ∧ fld w 12 13 = fixed / 2 ^ 12 % 2 ^ 13 ∧ w / 2 ^ 25 = m := by
  rw [Option.some.injEq, put_eq_iff (top := m) (segs := [(12, imm.toNat), (13, fixed / 2 ^ 12 % 2 ^ 13)])
    (by simp only [put, pack]; omega) (by simp only [Fits, and_true]; omega)]
  simp only [Reads, ofNat_fld_eq_iff]

theorem formatB_di_iff {fixed m w : Nat} {d : BitVec 5} {imm : BitVec 12}
    (bits : fixed = 2 ^ 25 * m + 2 ^ 12 * (fixed / 2 ^ 12 % 2 ^ 8)) :
    some (put fixed [(20, d.toNat), (0, imm.toNat)]) = some w ↔
      BitVec.ofNat 12 (fld w 0 12) = imm ∧ fld w 12 8 = fixed / 2 ^ 12 % 2 ^ 8 ∧ BitVec.ofNat 5 (fld w 20 5) = d ∧
      w / 2 ^ 25 = m := by
  rw [Option.some.injEq, put_eq_iff (top := m) (segs := [(12, imm.toNat), (8, fixed / 2 ^ 12 % 2 ^ 8), (5, d.toNat)])
    (by simp only [put, pack]; omega) (by simp only [Fits, and_true]; omega)]
  simp only [Reads, ofNat_fld_eq_iff]

theorem formatB_ai_iff {fixed m w : Nat} {a : BitVec 5} {imm : BitVec 12}
    (bits : fixed = 2 ^ 25 * m + 2 ^ 12 * (fixed / 2 ^ 12 % 2 ^ 3)) :
    some (put fixed [(15, a.toNat), (0, imm.toNat)]) = some w ↔
      BitVec.ofNat 12 (fld w 0 12) = imm ∧ fld w 12 3 = fixed / 2 ^ 12 % 2 ^ 3 ∧ BitVec.ofNat 5 (fld w 15 5) = a ∧
      fld w 20 5 = 0 ∧ w / 2 ^ 25 = m := by
  rw [Option.some.injEq, put_eq_iff (top := m) (segs := [(12, imm.toNat), (3, fixed / 2 ^ 12 % 2 ^ 3), (5, a.toNat),
    (5, 0)])
    (by simp only [put, pack]; omega) (by simp only [Fits, and_true]; omega)]
  simp only [Reads, ofNat_fld_eq_iff]

theorem formatB_das_iff {fixed m w : Nat} {d a : BitVec 5} {scope : BitVec 3}
    (bits : fixed = 2 ^ 25 * m + 2 ^ 3 * (fixed / 2 ^ 3 % 2 ^ 12)) :
    some (put fixed [(20, d.toNat), (15, a.toNat), (0, scope.toNat)]) = some w ↔
      BitVec.ofNat 3 (fld w 0 3) = scope ∧ fld w 3 12 = fixed / 2 ^ 3 % 2 ^ 12 ∧ BitVec.ofNat 5 (fld w 15 5) = a ∧
      BitVec.ofNat 5 (fld w 20 5) = d ∧ w / 2 ^ 25 = m := by
  rw [Option.some.injEq, put_eq_iff (top := m) (segs := [(3, scope.toNat), (12, fixed / 2 ^ 3 % 2 ^ 12), (5, a.toNat),
    (5, d.toNat)])
    (by simp only [put, pack]; omega) (by simp only [Fits, and_true]; omega)]
  simp only [Reads, ofNat_fld_eq_iff]

theorem formatB_s_iff {fixed m w : Nat} {scope : BitVec 3}
    (bits : fixed = 2 ^ 25 * m + 2 ^ 3 * (fixed / 2 ^ 3 % 2 ^ 22)) :
    some (put fixed [(0, scope.toNat)]) = some w ↔
      BitVec.ofNat 3 (fld w 0 3) = scope ∧ fld w 3 22 = fixed / 2 ^ 3 % 2 ^ 22 ∧ w / 2 ^ 25 = m := by
  rw [Option.some.injEq, put_eq_iff (top := m) (segs := [(3, scope.toNat), (22, fixed / 2 ^ 3 % 2 ^ 22)])
    (by simp only [put, pack]; omega) (by simp only [Fits, and_true]; omega)]
  simp only [Reads, ofNat_fld_eq_iff]

theorem formatB_k_iff {fixed m w : Nat} {k : BitVec 4} (bits : fixed = 2 ^ 25 * m + 2 ^ 4 * (fixed / 2 ^ 4 % 2 ^ 21)) :
    some (put fixed [(0, k.toNat)]) = some w ↔
      BitVec.ofNat 4 (fld w 0 4) = k ∧ fld w 4 21 = fixed / 2 ^ 4 % 2 ^ 21 ∧ w / 2 ^ 25 = m := by
  rw [Option.some.injEq, put_eq_iff (top := m) (segs := [(4, k.toNat), (21, fixed / 2 ^ 4 % 2 ^ 21)])
    (by simp only [put, pack]; omega) (by simp only [Fits, and_true]; omega)]
  simp only [Reads, ofNat_fld_eq_iff]

/-! ### Formats C and E: d and 20 bits -/

theorem formatC_di_iff {fixed m w : Nat} {d : BitVec 5} {imm : BitVec 20} (bits : fixed = 2 ^ 25 * m) :
    some (put fixed [(20, d.toNat), (0, imm.toNat)]) = some w ↔
      BitVec.ofNat 20 (fld w 0 20) = imm ∧ BitVec.ofNat 5 (fld w 20 5) = d ∧ w / 2 ^ 25 = m := by
  rw [Option.some.injEq, put_eq_iff (top := m) (segs := [(20, imm.toNat), (5, d.toNat)])
    (by simp only [put, pack]; omega) (by simp only [Fits, and_true]; omega)]
  simp only [Reads, ofNat_fld_eq_iff]

/-! ### Words without operands -/

theorem format_fixed_iff {fixed m w : Nat} (bits : fixed = 2 ^ 25 * m + fixed % 2 ^ 25) :
    some (put fixed []) = some w ↔
      fld w 0 25 = fixed % 2 ^ 25 ∧ w / 2 ^ 25 = m := by
  rw [Option.some.injEq, put_eq_iff (top := m) (segs := [(25, fixed % 2 ^ 25)])
    (by simp only [put, pack]; omega) (by simp only [Fits, and_true]; omega)]
  simp only [Reads]

/-! ### Format T: six-bit operands d, a, b, a slot (s), or the width of `qwidth` (w) -/

theorem formatT_dabs_iff {fixed m w : Nat} {td ta tb : BitVec 6} {slot : BitVec 3}
    (bits : fixed = 2 ^ 25 * m + fixed % 2 ^ 4) :
    some (put fixed [(19, td.toNat), (13, ta.toNat), (7, tb.toNat), (4, slot.toNat)]) = some w ↔
      fld w 0 4 = fixed % 2 ^ 4 ∧ BitVec.ofNat 3 (fld w 4 3) = slot ∧ BitVec.ofNat 6 (fld w 7 6) = tb ∧
      BitVec.ofNat 6 (fld w 13 6) = ta ∧ BitVec.ofNat 6 (fld w 19 6) = td ∧ w / 2 ^ 25 = m := by
  rw [Option.some.injEq, put_eq_iff (top := m) (segs := [(4, fixed % 2 ^ 4), (3, slot.toNat), (6, tb.toNat),
    (6, ta.toNat), (6, td.toNat)])
    (by simp only [put, pack]; omega) (by simp only [Fits, and_true]; omega)]
  simp only [Reads, ofNat_fld_eq_iff]

theorem formatT_dab_iff {fixed m w : Nat} {td ta tb : BitVec 6} (bits : fixed = 2 ^ 25 * m + fixed % 2 ^ 7) :
    some (put fixed [(19, td.toNat), (13, ta.toNat), (7, tb.toNat)]) = some w ↔
      fld w 0 7 = fixed % 2 ^ 7 ∧ BitVec.ofNat 6 (fld w 7 6) = tb ∧ BitVec.ofNat 6 (fld w 13 6) = ta ∧
      BitVec.ofNat 6 (fld w 19 6) = td ∧ w / 2 ^ 25 = m := by
  rw [Option.some.injEq, put_eq_iff (top := m) (segs := [(7, fixed % 2 ^ 7), (6, tb.toNat), (6, ta.toNat), (6, td.toNat)])
    (by simp only [put, pack]; omega) (by simp only [Fits, and_true]; omega)]
  simp only [Reads, ofNat_fld_eq_iff]

theorem formatT_das_iff {fixed m w : Nat} {td ta : BitVec 6} {slot : BitVec 3}
    (bits : fixed = 2 ^ 25 * m + fixed % 2 ^ 4) :
    some (put fixed [(19, td.toNat), (13, ta.toNat), (4, slot.toNat)]) = some w ↔
      fld w 0 4 = fixed % 2 ^ 4 ∧ BitVec.ofNat 3 (fld w 4 3) = slot ∧ fld w 7 6 = 0 ∧ BitVec.ofNat 6 (fld w 13 6) = ta ∧
      BitVec.ofNat 6 (fld w 19 6) = td ∧ w / 2 ^ 25 = m := by
  rw [Option.some.injEq, put_eq_iff (top := m) (segs := [(4, fixed % 2 ^ 4), (3, slot.toNat), (6, 0), (6, ta.toNat),
    (6, td.toNat)])
    (by simp only [put, pack]; omega) (by simp only [Fits, and_true]; omega)]
  simp only [Reads, ofNat_fld_eq_iff]

theorem formatT_da_iff {fixed m w : Nat} {td ta : BitVec 6} (bits : fixed = 2 ^ 25 * m + fixed % 2 ^ 13) :
    some (put fixed [(19, td.toNat), (13, ta.toNat)]) = some w ↔
      fld w 0 13 = fixed % 2 ^ 13 ∧ BitVec.ofNat 6 (fld w 13 6) = ta ∧ BitVec.ofNat 6 (fld w 19 6) = td ∧ w / 2 ^ 25 = m := by
  rw [Option.some.injEq, put_eq_iff (top := m) (segs := [(13, fixed % 2 ^ 13), (6, ta.toNat), (6, td.toNat)])
    (by simp only [put, pack]; omega) (by simp only [Fits, and_true]; omega)]
  simp only [Reads, ofNat_fld_eq_iff]

theorem formatT_ab_iff {fixed m w : Nat} {ta tb : BitVec 6} (bits : fixed = 2 ^ 25 * m + fixed % 2 ^ 7) :
    some (put fixed [(13, ta.toNat), (7, tb.toNat)]) = some w ↔
      fld w 0 7 = fixed % 2 ^ 7 ∧ BitVec.ofNat 6 (fld w 7 6) = tb ∧ BitVec.ofNat 6 (fld w 13 6) = ta ∧ fld w 19 6 = 0 ∧
      w / 2 ^ 25 = m := by
  rw [Option.some.injEq, put_eq_iff (top := m) (segs := [(7, fixed % 2 ^ 7), (6, tb.toNat), (6, ta.toNat), (6, 0)])
    (by simp only [put, pack]; omega) (by simp only [Fits, and_true]; omega)]
  simp only [Reads, ofNat_fld_eq_iff]

theorem formatT_db_iff {fixed m w : Nat} {td tb : BitVec 6} (bits : fixed = 2 ^ 25 * m + fixed % 2 ^ 7) :
    some (put fixed [(19, td.toNat), (7, tb.toNat)]) = some w ↔
      fld w 0 7 = fixed % 2 ^ 7 ∧ BitVec.ofNat 6 (fld w 7 6) = tb ∧ fld w 13 6 = 0 ∧ BitVec.ofNat 6 (fld w 19 6) = td ∧
      w / 2 ^ 25 = m := by
  rw [Option.some.injEq, put_eq_iff (top := m) (segs := [(7, fixed % 2 ^ 7), (6, tb.toNat), (6, 0), (6, td.toNat)])
    (by simp only [put, pack]; omega) (by simp only [Fits, and_true]; omega)]
  simp only [Reads, ofNat_fld_eq_iff]

theorem formatT_as_iff {fixed m w : Nat} {ta : BitVec 6} {slot : BitVec 3} (bits : fixed = 2 ^ 25 * m + fixed % 2 ^ 4) :
    some (put fixed [(13, ta.toNat), (4, slot.toNat)]) = some w ↔
      fld w 0 4 = fixed % 2 ^ 4 ∧ BitVec.ofNat 3 (fld w 4 3) = slot ∧ fld w 7 6 = 0 ∧ BitVec.ofNat 6 (fld w 13 6) = ta ∧
      fld w 19 6 = 0 ∧ w / 2 ^ 25 = m := by
  rw [Option.some.injEq, put_eq_iff (top := m) (segs := [(4, fixed % 2 ^ 4), (3, slot.toNat), (6, 0), (6, ta.toNat),
    (6, 0)])
    (by simp only [put, pack]; omega) (by simp only [Fits, and_true]; omega)]
  simp only [Reads, ofNat_fld_eq_iff]

theorem formatT_d_iff {fixed m w : Nat} {td : BitVec 6} (bits : fixed = 2 ^ 25 * m + fixed % 2 ^ 19) :
    some (put fixed [(19, td.toNat)]) = some w ↔
      fld w 0 19 = fixed % 2 ^ 19 ∧ BitVec.ofNat 6 (fld w 19 6) = td ∧ w / 2 ^ 25 = m := by
  rw [Option.some.injEq, put_eq_iff (top := m) (segs := [(19, fixed % 2 ^ 19), (6, td.toNat)])
    (by simp only [put, pack]; omega) (by simp only [Fits, and_true]; omega)]
  simp only [Reads, ofNat_fld_eq_iff]

theorem formatT_dw_iff {fixed m w : Nat} {td : BitVec 6} {width : BitVec 4}
    (bits : fixed = 2 ^ 25 * m + 2 ^ 4 * (fixed / 2 ^ 4 % 2 ^ 15)) :
    some (put fixed [(19, td.toNat), (0, width.toNat)]) = some w ↔
      BitVec.ofNat 4 (fld w 0 4) = width ∧ fld w 4 15 = fixed / 2 ^ 4 % 2 ^ 15 ∧ BitVec.ofNat 6 (fld w 19 6) = td ∧
      w / 2 ^ 25 = m := by
  rw [Option.some.injEq, put_eq_iff (top := m) (segs := [(4, width.toNat), (15, fixed / 2 ^ 4 % 2 ^ 15), (6, td.toNat)])
    (by simp only [put, pack]; omega) (by simp only [Fits, and_true]; omega)]
  simp only [Reads, ofNat_fld_eq_iff]

/-! ### Format W: the four limits -/

theorem formatW_iff {fixed m w : Nat} {ld st cp tl : BitVec 6} (bits : fixed = 2 ^ 25 * m + fixed % 2 ^ 1) :
    some (put fixed [(19, ld.toNat), (13, st.toNat), (7, cp.toNat), (1, tl.toNat)]) = some w ↔
      fld w 0 1 = fixed % 2 ^ 1 ∧ BitVec.ofNat 6 (fld w 1 6) = tl ∧ BitVec.ofNat 6 (fld w 7 6) = cp ∧
      BitVec.ofNat 6 (fld w 13 6) = st ∧ BitVec.ofNat 6 (fld w 19 6) = ld ∧ w / 2 ^ 25 = m := by
  rw [Option.some.injEq, put_eq_iff (top := m) (segs := [(1, fixed % 2 ^ 1), (6, tl.toNat), (6, cp.toNat), (6, st.toNat),
    (6, ld.toNat)])
    (by simp only [put, pack]; omega) (by simp only [Fits, and_true]; omega)]
  simp only [Reads, ofNat_fld_eq_iff]

/-! ### Format L: a level, and what R193 lists for each word -/

theorem formatL_seq_iff {fixed m w : Nat} {lvl : BitVec 3} {trip : BitVec 5} {len : BitVec 8}
    (bits : fixed = 2 ^ 25 * m + fixed % 2 ^ 8 + 2 ^ 16 * (fixed / 2 ^ 16 % 2 ^ 1)) :
    some (put fixed [(22, lvl.toNat), (17, trip.toNat), (8, len.toNat)]) = some w ↔
      fld w 0 8 = fixed % 2 ^ 8 ∧ BitVec.ofNat 8 (fld w 8 8) = len ∧ fld w 16 1 = fixed / 2 ^ 16 % 2 ^ 1 ∧
      BitVec.ofNat 5 (fld w 17 5) = trip ∧ BitVec.ofNat 3 (fld w 22 3) = lvl ∧ w / 2 ^ 25 = m := by
  rw [Option.some.injEq, put_eq_iff (top := m) (segs := [(8, fixed % 2 ^ 8), (8, len.toNat), (1, fixed / 2 ^ 16 % 2 ^ 1),
    (5, trip.toNat), (3, lvl.toNat)])
    (by simp only [put, pack]; omega) (by simp only [Fits, and_true]; omega)]
  simp only [Reads, ofNat_fld_eq_iff]

theorem formatL_end_iff {fixed m w : Nat} {lvl : BitVec 3} (bits : fixed = 2 ^ 25 * m + fixed % 2 ^ 22) :
    some (put fixed [(22, lvl.toNat)]) = some w ↔
      fld w 0 22 = fixed % 2 ^ 22 ∧ BitVec.ofNat 3 (fld w 22 3) = lvl ∧ w / 2 ^ 25 = m := by
  rw [Option.some.injEq, put_eq_iff (top := m) (segs := [(22, fixed % 2 ^ 22), (3, lvl.toNat)])
    (by simp only [put, pack]; omega) (by simp only [Fits, and_true]; omega)]
  simp only [Reads, ofNat_fld_eq_iff]

theorem formatL_n_iff {fixed m w : Nat} {lvl : BitVec 3} {n : BitVec 8}
    (bits : fixed = 2 ^ 25 * m + 2 ^ 8 * (fixed / 2 ^ 8 % 2 ^ 14)) :
    some (put fixed [(22, lvl.toNat), (0, n.toNat)]) = some w ↔
      BitVec.ofNat 8 (fld w 0 8) = n ∧ fld w 8 14 = fixed / 2 ^ 8 % 2 ^ 14 ∧ BitVec.ofNat 3 (fld w 22 3) = lvl ∧
      w / 2 ^ 25 = m := by
  rw [Option.some.injEq, put_eq_iff (top := m) (segs := [(8, n.toNat), (14, fixed / 2 ^ 8 % 2 ^ 14), (3, lvl.toNat)])
    (by simp only [put, pack]; omega) (by simp only [Fits, and_true]; omega)]
  simp only [Reads, ofNat_fld_eq_iff]

theorem formatL_stride_iff {fixed m w : Nat} {lvl : BitVec 3} {k : BitVec 1} {r : BitVec 5} {s : BitVec 16}
    (bits : fixed = 2 ^ 25 * m) :
    some (put fixed [(22, lvl.toNat), (21, k.toNat), (16, r.toNat), (0, s.toNat)]) = some w ↔
      BitVec.ofNat 16 (fld w 0 16) = s ∧ BitVec.ofNat 5 (fld w 16 5) = r ∧ BitVec.ofNat 1 (fld w 21 1) = k ∧
      BitVec.ofNat 3 (fld w 22 3) = lvl ∧ w / 2 ^ 25 = m := by
  rw [Option.some.injEq, put_eq_iff (top := m) (segs := [(16, s.toNat), (5, r.toNat), (1, k.toNat), (3, lvl.toNat)])
    (by simp only [put, pack]; omega) (by simp only [Fits, and_true]; omega)]
  simp only [Reads, ofNat_fld_eq_iff]

theorem formatL_brk_iff {fixed m w : Nat} {lvl : BitVec 3} {s : BitVec 5} (bits : fixed = 2 ^ 25 * m + fixed % 2 ^ 17) :
    some (put fixed [(22, lvl.toNat), (17, s.toNat)]) = some w ↔
      fld w 0 17 = fixed % 2 ^ 17 ∧ BitVec.ofNat 5 (fld w 17 5) = s ∧ BitVec.ofNat 3 (fld w 22 3) = lvl ∧ w / 2 ^ 25 = m := by
  rw [Option.some.injEq, put_eq_iff (top := m) (segs := [(17, fixed % 2 ^ 17), (5, s.toNat), (3, lvl.toNat)])
    (by simp only [put, pack]; omega) (by simp only [Fits, and_true]; omega)]
  simp only [Reads, ofNat_fld_eq_iff]

end Sys2Proof.Machine
end

section
/-! A word that decodes is the word of its instruction (07 R195): no bit of it is ignored. -/

namespace Sys2Proof.Machine

/-- Where `r` is an instruction, `w` is its word. -/
def HasWord (w : Nat) (r : Except Reject Instr) : Prop := ∀ i, r = .ok i → encode i = some w

namespace HasWord

theorem ok {w : Nat} {i : Instr} (word : encode i = some w) : HasWord w (.ok i) :=
  fun _ same => Except.ok.inj same ▸ word

theorem error {w : Nat} {e : Reject} : HasWord w (.error e) := fun _ same => nomatch same

theorem ite {w : Nat} {c : Prop} [Decidable c] {i : Instr} {r : Except Reject Instr} (word : c → encode i = some w)
    (rest : HasWord w r) : HasWord w (if c then .ok i else r) := by
  split
  case isTrue h => exact .ok (word h)
  case isFalse => exact rest

end HasWord

/-! ### The majors

Each branch of a major's decoder tests the fixed bits of one instruction's format. -/

section Majors
variable {w : Nat}

theorem decodeS0_hasWord (hm : w / 2 ^ 25 = 0) : HasWord w (decodeS0 w) := by
  unfold decodeS0
  iterate 21 refine .ite (fun hf => (formatA_dab_iff (m := 0) rfl).2 ⟨hf, rfl, rfl, rfl, hm⟩) ?_
  iterate 2 refine .ite (fun hf => (formatA_da_iff (m := 0) rfl).2 ⟨hf, rfl, rfl, hm⟩) ?_
  exact .ite (fun hf => (formatA_dabp_iff (m := 0) rfl).2 ⟨rfl, hf, rfl, rfl, rfl, hm⟩) .error

theorem decodeS1_hasWord (hm : w / 2 ^ 25 = 1) : HasWord w (decodeS1 w) := by
  unfold decodeS1
  iterate 8 refine .ite (fun hf => (formatB_dai_iff (m := 1) rfl).2 ⟨rfl, hf, rfl, rfl, hm⟩) ?_
  exact .error

theorem decodeS2_hasWord (hm : w / 2 ^ 25 = 2) : HasWord w (decodeS2 w) := by
  unfold decodeS2
  iterate 4 refine .ite (fun hf => (formatB_dai_iff (m := 2) rfl).2 ⟨rfl, hf, rfl, rfl, hm⟩) ?_
  exact .error

theorem decodeS3_hasWord (hm : w / 2 ^ 25 = 3) : HasWord w (decodeS3 w) :=
  .ok ((formatC_di_iff (m := 3) rfl).2 ⟨rfl, rfl, hm⟩)

theorem decodeS4_hasWord (hm : w / 2 ^ 25 = 4) : HasWord w (decodeS4 w) :=
  .ok ((formatC_di_iff (m := 4) rfl).2 ⟨rfl, rfl, hm⟩)

theorem decodeS5_hasWord (hm : w / 2 ^ 25 = 5) : HasWord w (decodeS5 w) := by
  unfold decodeS5
  iterate 7 refine .ite (fun hf => (formatB_dai_iff (m := 5) rfl).2 ⟨rfl, hf, rfl, rfl, hm⟩) ?_
  exact .error

theorem decodeS6_hasWord (hm : w / 2 ^ 25 = 6) : HasWord w (decodeS6 w) := by
  unfold decodeS6
  iterate 7 refine .ite (fun hf => (formatB_dasi_iff (m := 6) rfl).2 ⟨rfl, rfl, hf, rfl, rfl, hm⟩) ?_
  exact .error

theorem decodeS7_hasWord (hm : w / 2 ^ 25 = 7) : HasWord w (decodeS7 w) := by
  unfold decodeS7
  iterate 4 refine .ite (fun hf => (formatB_dai_iff (m := 7) rfl).2 ⟨rfl, hf, rfl, rfl, hm⟩) ?_
  exact .error

theorem decodeS8_hasWord (hm : w / 2 ^ 25 = 8) : HasWord w (decodeS8 w) := by
  unfold decodeS8
  iterate 4 refine .ite (fun hf => (formatB_dasi_iff (m := 8) rfl).2 ⟨rfl, rfl, hf, rfl, rfl, hm⟩) ?_
  exact .error

theorem decodeS9_hasWord (hm : w / 2 ^ 25 = 9) : HasWord w (decodeS9 w) := by
  unfold decodeS9
  iterate 7 refine .ite (fun hf => (formatB_dai_iff (m := 9) rfl).2 ⟨rfl, hf, rfl, rfl, hm⟩) ?_
  exact .error

theorem decodeSA_hasWord (hm : w / 2 ^ 25 = 10) : HasWord w (decodeSA w) :=
  .ok ((formatC_di_iff (m := 10) rfl).2 ⟨rfl, rfl, hm⟩)

theorem decodeSB_hasWord (hm : w / 2 ^ 25 = 11) : HasWord w (decodeSB w) :=
  .ite (fun hf => (formatB_dai_iff (m := 11) rfl).2 ⟨rfl, hf, rfl, rfl, hm⟩) .error

theorem decodeSC_hasWord (hm : w / 2 ^ 25 = 12) : HasWord w (decodeSC w) :=
  .ite (fun hf => (formatB_i_iff (m := 12) rfl).2 ⟨rfl, hf, hm⟩)
  <| .ite (fun hf => (format_fixed_iff (m := 12) rfl).2 ⟨hf, hm⟩) .error

theorem decodeSD_hasWord (hm : w / 2 ^ 25 = 13) : HasWord w (decodeSD w) := by
  unfold decodeSD
  split
  case h_1 => exact .error
  case h_2 ft ht =>
    iterate 4 refine .ite (fun hf => (formatA_dabt_iff (m := 13) rfl).2 ⟨hf, ht, rfl, rfl, rfl, hm⟩) ?_
    refine .ite (fun ⟨hf, hz⟩ => (formatA_dat_iff (m := 13) rfl).2 ⟨hf, ht, hz, rfl, rfl, hm⟩) ?_
    iterate 7 refine .ite (fun hf => (formatA_dabt_iff (m := 13) rfl).2 ⟨hf, ht, rfl, rfl, rfl, hm⟩) ?_
    iterate 10 refine .ite (fun ⟨hf, hz⟩ => (formatA_dat_iff (m := 13) rfl).2 ⟨hf, ht, hz, rfl, rfl, hm⟩) ?_
    split <;> exact .error

theorem decodeSE_hasWord (hm : w / 2 ^ 25 = 14) : HasWord w (decodeSE w) := by
  unfold decodeSE
  refine .ite (fun hf => (formatB_dai_iff (m := 14) rfl).2 ⟨rfl, hf, rfl, rfl, hm⟩) ?_
  iterate 3 refine .ite (fun hf => (formatA_da_iff (m := 14) rfl).2 ⟨hf, rfl, rfl, hm⟩) ?_
  exact .error

theorem decodeV0_hasWord (hm : w / 2 ^ 25 = 16) : HasWord w (decodeV0 w) := by
  unfold decodeV0
  iterate 6 refine .ite (fun hf => (formatA_dabm_iff (m := 16) rfl).2 ⟨hf, rfl, rfl, rfl, rfl, hm⟩) ?_
  iterate 2 refine .ite (fun ⟨hf, hz, hy⟩ => (formatA_dam_iff (m := 16) rfl).2 ⟨hf, rfl, hz, rfl, rfl, hy, hm⟩) ?_
  exact .error

theorem decodeV1_hasWord (hm : w / 2 ^ 25 = 17) : HasWord w (decodeV1 w) := by
  unfold decodeV1
  iterate 8 refine .ite (fun hf => (formatA_dabm_iff (m := 17) rfl).2 ⟨hf, rfl, rfl, rfl, rfl, hm⟩) ?_
  exact .error

theorem decodeV2_hasWord (hm : w / 2 ^ 25 = 18) : HasWord w (decodeV2 w) := by
  unfold decodeV2
  iterate 5 refine .ite (fun ⟨hf, hz, hy⟩ => (formatA_dam_iff (m := 18) rfl).2 ⟨hf, rfl, hz, rfl, rfl, hy, hm⟩) ?_
  exact .error

theorem decodeV3_hasWord (hm : w / 2 ^ 25 = 19) : HasWord w (decodeV3 w) := by
  unfold decodeV3
  iterate 8 refine .ite (fun hf => (formatA_dabm_iff (m := 19) rfl).2 ⟨hf, rfl, rfl, rfl, rfl, hm⟩) ?_
  exact .error

theorem decodeV4_hasWord (hm : w / 2 ^ 25 = 20) : HasWord w (decodeV4 w) := by
  unfold decodeV4
  iterate 4 refine .ite (fun hf => (formatA_dabm_iff (m := 20) rfl).2 ⟨hf, rfl, rfl, rfl, rfl, hm⟩) ?_
  exact .ite (fun ⟨hf, hz, hy⟩ => (formatA_dam_iff (m := 20) rfl).2 ⟨hf, rfl, hz, rfl, rfl, hy, hm⟩) .error

theorem decodeV5_hasWord (hm : w / 2 ^ 25 = 21) : HasWord w (decodeV5 w) := by
  unfold decodeV5
  iterate 6 refine .ite (fun ⟨hf, hz, hy⟩ => (formatA_dam_iff (m := 21) rfl).2 ⟨hf, rfl, hz, rfl, rfl, hy, hm⟩) ?_
  exact .error

theorem decodeV6_hasWord (hm : w / 2 ^ 25 = 22) : HasWord w (decodeV6 w) := by
  unfold decodeV6
  refine .ite (fun hf => (formatA_dabm_iff (m := 22) rfl).2 ⟨hf, rfl, rfl, rfl, rfl, hm⟩) ?_
  refine .ite (fun ⟨hf, hz, hy⟩ => (formatA_dam_iff (m := 22) rfl).2 ⟨hf, rfl, hz, rfl, rfl, hy, hm⟩) ?_
  iterate 2 refine .ite (fun hf => (formatA_dabm_iff (m := 22) rfl).2 ⟨hf, rfl, rfl, rfl, rfl, hm⟩) ?_
  refine .ite (fun ⟨hf, hz, hy⟩ => (formatA_dam_iff (m := 22) rfl).2 ⟨hf, rfl, hz, rfl, rfl, hy, hm⟩) ?_
  exact .ite (fun ⟨hf, hz, hy⟩ => (formatA_dm_iff (m := 22) rfl).2 ⟨hf, rfl, hz, rfl, hy, hm⟩) .error

theorem decodeV7_hasWord (hm : w / 2 ^ 25 = 23) : HasWord w (decodeV7 w) := by
  unfold decodeV7
  iterate 3 refine .ite (fun hf => (formatT_dab_iff (m := 23) rfl).2 ⟨hf, rfl, rfl, rfl, hm⟩) ?_
  exact .ite (fun hf => (formatT_dabs_iff (m := 23) rfl).2 ⟨hf, rfl, rfl, rfl, rfl, hm⟩) .error

theorem decodeM0_hasWord (hm : w / 2 ^ 25 = 32) : HasWord w (decodeM0 w) := by
  unfold decodeM0
  iterate 2 refine .ite (fun hf => (formatT_dabs_iff (m := 32) rfl).2 ⟨hf, rfl, rfl, rfl, rfl, hm⟩) ?_
  exact .error

theorem decodeM1_hasWord (hm : w / 2 ^ 25 = 33) : HasWord w (decodeM1 w) :=
  .ite (fun ⟨hf, hz⟩ => (formatT_das_iff (m := 33) rfl).2 ⟨hf, rfl, hz, rfl, rfl, hm⟩) .error

theorem decodeM2_hasWord (hm : w / 2 ^ 25 = 34) : HasWord w (decodeM2 w) :=
  .ite (fun hf => (formatT_d_iff (m := 34) rfl).2 ⟨hf, rfl, hm⟩) .error

theorem decodeM3_hasWord (hm : w / 2 ^ 25 = 35) : HasWord w (decodeM3 w) :=
  .ite (fun hf => (formatT_da_iff (m := 35) rfl).2 ⟨hf, rfl, rfl, hm⟩) .error

theorem decodeM4_hasWord (hm : w / 2 ^ 25 = 36) : HasWord w (decodeM4 w) :=
  .ite (fun ⟨hf, hz⟩ => (formatT_das_iff (m := 36) rfl).2 ⟨hf, rfl, hz, rfl, rfl, hm⟩) .error

theorem decodeM5_hasWord (hm : w / 2 ^ 25 = 37) : HasWord w (decodeM5 w) :=
  .ite (fun ⟨hf, hz⟩ => (formatT_ab_iff (m := 37) rfl).2 ⟨hf, rfl, rfl, hz, hm⟩)
  <| .ite (fun ⟨hf, hz⟩ => (formatT_db_iff (m := 37) rfl).2 ⟨hf, rfl, hz, rfl, hm⟩) .error

theorem decodeM6_hasWord (hm : w / 2 ^ 25 = 38) : HasWord w (decodeM6 w) :=
  .ite (fun ⟨hf, hz, hy⟩ => (formatT_as_iff (m := 38) rfl).2 ⟨hf, rfl, hz, rfl, hy, hm⟩) .error

theorem decodeM7_hasWord (hm : w / 2 ^ 25 = 39) : HasWord w (decodeM7 w) :=
  .ite (fun ⟨hf, hz⟩ => (formatT_das_iff (m := 39) rfl).2 ⟨hf, rfl, hz, rfl, rfl, hm⟩) .error

theorem decodeD0_hasWord (hm : w / 2 ^ 25 = 48) : HasWord w (decodeD0 w) :=
  .ite (fun hf => (formatT_da_iff (m := 48) rfl).2 ⟨hf, rfl, rfl, hm⟩) .error

theorem decodeD1_hasWord (hm : w / 2 ^ 25 = 49) : HasWord w (decodeD1 w) := by
  unfold decodeD1
  iterate 2 refine .ite (fun ⟨hf, hz⟩ => (formatT_ab_iff (m := 49) rfl).2 ⟨hf, rfl, rfl, hz, hm⟩) ?_
  exact .error

theorem decodeD2_hasWord (hm : w / 2 ^ 25 = 50) : HasWord w (decodeD2 w) :=
  .ite (fun hf => (formatT_dab_iff (m := 50) rfl).2 ⟨hf, rfl, rfl, rfl, hm⟩) .error

theorem decodeD3_hasWord (hm : w / 2 ^ 25 = 51) : HasWord w (decodeD3 w) :=
  .ite (fun hf => (formatT_dab_iff (m := 51) rfl).2 ⟨hf, rfl, rfl, rfl, hm⟩) .error

theorem decodeD4_hasWord (hm : w / 2 ^ 25 = 52) : HasWord w (decodeD4 w) :=
  .ite (fun hf => (formatA_dab_iff (m := 52) rfl).2 ⟨hf, rfl, rfl, rfl, hm⟩) .error

theorem decodeD5_hasWord (hm : w / 2 ^ 25 = 53) : HasWord w (decodeD5 w) :=
  .ite (fun hf => (formatB_das_iff (m := 53) rfl).2 ⟨rfl, hf, rfl, rfl, hm⟩) .error

theorem decodeD6_hasWord (hm : w / 2 ^ 25 = 54) : HasWord w (decodeD6 w) :=
  .ite (fun hf => (formatA_d_iff (m := 54) rfl).2 ⟨hf, rfl, hm⟩)
  <| .ite (fun ⟨hf, hz⟩ => (formatA_a_iff (m := 54) rfl).2 ⟨hf, rfl, hz, hm⟩) .error

theorem decodeD7_hasWord (hm : w / 2 ^ 25 = 55) : HasWord w (decodeD7 w) := by
  unfold decodeD7
  iterate 2 refine .ite (fun ⟨hf, hz⟩ => (formatA_ab_iff (m := 55) rfl).2 ⟨hf, rfl, rfl, hz, hm⟩) ?_
  exact .error

theorem decodeQ0_hasWord (hm : w / 2 ^ 25 = 64) : HasWord w (decodeQ0 w) := by
  unfold decodeQ0
  iterate 2 refine .ite (fun hf => (formatT_da_iff (m := 64) rfl).2 ⟨hf, rfl, rfl, hm⟩) ?_
  exact .error

theorem decodeQ1_hasWord (hm : w / 2 ^ 25 = 65) : HasWord w (decodeQ1 w) :=
  .ite (fun hf => (formatT_d_iff (m := 65) rfl).2 ⟨hf, rfl, hm⟩) .error

theorem decodeQ2_hasWord (hm : w / 2 ^ 25 = 66) : HasWord w (decodeQ2 w) := by
  unfold decodeQ2
  iterate 2 refine .ite (fun hf => (formatT_da_iff (m := 66) rfl).2 ⟨hf, rfl, rfl, hm⟩) ?_
  exact .error

theorem decodeQ3_hasWord (hm : w / 2 ^ 25 = 67) : HasWord w (decodeQ3 w) :=
  .ite (fun hf => (formatT_da_iff (m := 67) rfl).2 ⟨hf, rfl, rfl, hm⟩) .error

theorem decodeQ4_hasWord (hm : w / 2 ^ 25 = 68) : HasWord w (decodeQ4 w) := by
  unfold decodeQ4
  iterate 2 refine .ite (fun hf => (formatT_da_iff (m := 68) rfl).2 ⟨hf, rfl, rfl, hm⟩) ?_
  exact .error

theorem decodeQ5_hasWord (hm : w / 2 ^ 25 = 69) : HasWord w (decodeQ5 w) :=
  .ite (fun hf => (formatT_dw_iff (m := 69) rfl).2 ⟨rfl, hf, rfl, hm⟩) .error

theorem decodeQ6_hasWord (hm : w / 2 ^ 25 = 70) : HasWord w (decodeQ6 w) :=
  .ite (fun hf => (formatT_da_iff (m := 70) rfl).2 ⟨hf, rfl, rfl, hm⟩) .error

theorem decodeQ7_hasWord (hm : w / 2 ^ 25 = 71) : HasWord w (decodeQ7 w) :=
  .ite (fun hf => (formatT_d_iff (m := 71) rfl).2 ⟨hf, rfl, hm⟩) .error

theorem decodeY0_hasWord (hm : w / 2 ^ 25 = 80) : HasWord w (decodeY0 w) := by
  unfold decodeY0
  iterate 3 refine .ite (fun hf => (formatB_s_iff (m := 80) rfl).2 ⟨rfl, hf, hm⟩) ?_
  exact .error

theorem decodeY1_hasWord (hm : w / 2 ^ 25 = 81) : HasWord w (decodeY1 w) :=
  .ite (fun hf => (formatW_iff (m := 81) rfl).2 ⟨hf, rfl, rfl, rfl, rfl, hm⟩) .error

theorem decodeY2_hasWord (hm : w / 2 ^ 25 = 82) : HasWord w (decodeY2 w) := by
  unfold decodeY2
  refine .ite (fun hf => (format_fixed_iff (m := 82) rfl).2 ⟨hf, hm⟩) ?_
  refine .ite (fun hf => (formatA_d_iff (m := 82) rfl).2 ⟨hf, rfl, hm⟩) ?_
  iterate 3 refine .ite (fun hf => (formatB_k_iff (m := 82) rfl).2 ⟨rfl, hf, hm⟩) ?_
  exact .error

theorem decodeY3_hasWord (hm : w / 2 ^ 25 = 83) : HasWord w (decodeY3 w) := by
  unfold decodeY3
  iterate 4 refine .ite (fun hf => (formatA_dab_iff (m := 83) rfl).2 ⟨hf, rfl, rfl, rfl, hm⟩) ?_
  exact .error

theorem decodeY4_hasWord (hm : w / 2 ^ 25 = 84) : HasWord w (decodeY4 w) :=
  .ite (fun hf => (formatB_dai_iff (m := 84) rfl).2 ⟨rfl, hf, rfl, rfl, hm⟩) .error

theorem decodeY5_hasWord (hm : w / 2 ^ 25 = 85) : HasWord w (decodeY5 w) :=
  .ite (fun hf => (formatA_d_iff (m := 85) rfl).2 ⟨hf, rfl, hm⟩) .error

theorem decodeY6_hasWord (hm : w / 2 ^ 25 = 86) : HasWord w (decodeY6 w) := by
  unfold decodeY6
  iterate 10 refine .ite (fun hf => (formatA_dabss_iff (m := 86) rfl).2 ⟨hf, rfl, rfl, rfl, rfl, rfl, hm⟩) ?_
  exact .error

theorem decodeY7_hasWord (hm : w / 2 ^ 25 = 87) : HasWord w (decodeY7 w) := by
  unfold decodeY7
  iterate 4 refine .ite (fun hf => (formatA_dabss_iff (m := 87) rfl).2 ⟨hf, rfl, rfl, rfl, rfl, rfl, hm⟩) ?_
  exact .error

theorem decodeY8_hasWord (hm : w / 2 ^ 25 = 88) : HasWord w (decodeY8 w) := by
  unfold decodeY8
  iterate 8 refine .ite (fun ⟨hf, hz⟩ => (formatA_abss_iff (m := 88) rfl).2 ⟨hf, rfl, rfl, rfl, rfl, hz, hm⟩) ?_
  exact .error

theorem decodeY9_hasWord (hm : w / 2 ^ 25 = 89) : HasWord w (decodeY9 w) :=
  .ite (fun ⟨hf, hz⟩ => (formatA_abss_iff (m := 89) rfl).2 ⟨hf, rfl, rfl, rfl, rfl, hz, hm⟩) .error

theorem decodeYA_hasWord (hm : w / 2 ^ 25 = 90) : HasWord w (decodeYA w) :=
  .ite (fun hf => (formatA_dab_iff (m := 90) rfl).2 ⟨hf, rfl, rfl, rfl, hm⟩)
  <| .ite (fun hf => (formatA_d_iff (m := 90) rfl).2 ⟨hf, rfl, hm⟩) .error

theorem decodeYB_hasWord (hm : w / 2 ^ 25 = 91) : HasWord w (decodeYB w) := by
  unfold decodeYB
  iterate 3 refine .ite (fun hf => (formatB_i_iff (m := 91) rfl).2 ⟨rfl, hf, hm⟩) ?_
  iterate 2 refine .ite (fun hf => (format_fixed_iff (m := 91) rfl).2 ⟨hf, hm⟩) ?_
  exact .error

theorem decodeYC_hasWord (hm : w / 2 ^ 25 = 92) : HasWord w (decodeYC w) :=
  .ite (fun hf => (formatB_di_iff (m := 92) rfl).2 ⟨rfl, hf, rfl, hm⟩)
  <| .ite (fun ⟨hf, hz⟩ => (formatB_ai_iff (m := 92) rfl).2 ⟨rfl, hf, rfl, hz, hm⟩) .error

theorem decodeL0_hasWord (hm : w / 2 ^ 25 = 96) : HasWord w (decodeL0 w) := by
  unfold decodeL0
  iterate 2 refine .ite (fun ⟨hf, hz⟩ => (formatL_seq_iff (m := 96) rfl).2 ⟨hf, rfl, hz, rfl, rfl, hm⟩) ?_
  exact .error

theorem decodeL1_hasWord (hm : w / 2 ^ 25 = 97) : HasWord w (decodeL1 w) :=
  .ite (fun hf => (formatL_end_iff (m := 97) rfl).2 ⟨hf, rfl, hm⟩) .error

theorem decodeL2_hasWord (hm : w / 2 ^ 25 = 98) : HasWord w (decodeL2 w) :=
  .ite (fun hf => (formatL_n_iff (m := 98) rfl).2 ⟨rfl, hf, rfl, hm⟩) .error

theorem decodeL3_hasWord (hm : w / 2 ^ 25 = 99) : HasWord w (decodeL3 w) :=
  .ite (fun hf => (formatL_n_iff (m := 99) rfl).2 ⟨rfl, hf, rfl, hm⟩) .error

theorem decodeL4_hasWord (hm : w / 2 ^ 25 = 100) : HasWord w (decodeL4 w) :=
  .ok ((formatL_stride_iff (m := 100) rfl).2 ⟨rfl, rfl, rfl, rfl, hm⟩)

theorem decodeL5_hasWord (hm : w / 2 ^ 25 = 101) : HasWord w (decodeL5 w) :=
  .ite (fun hf => (formatL_brk_iff (m := 101) rfl).2 ⟨hf, rfl, rfl, hm⟩) .error

end Majors

theorem decodeWord_hasWord (w : Nat) : HasWord w (decodeWord w) := by
  unfold decodeWord
  split
  · exact .error
  · split
    next hm => exact decodeS0_hasWord hm
    next hm => exact decodeS1_hasWord hm
    next hm => exact decodeS2_hasWord hm
    next hm => exact decodeS3_hasWord hm
    next hm => exact decodeS4_hasWord hm
    next hm => exact decodeS5_hasWord hm
    next hm => exact decodeS6_hasWord hm
    next hm => exact decodeS7_hasWord hm
    next hm => exact decodeS8_hasWord hm
    next hm => exact decodeS9_hasWord hm
    next hm => exact decodeSA_hasWord hm
    next hm => exact decodeSB_hasWord hm
    next hm => exact decodeSC_hasWord hm
    next hm => exact decodeSD_hasWord hm
    next hm => exact decodeSE_hasWord hm
    next hm => exact decodeV0_hasWord hm
    next hm => exact decodeV1_hasWord hm
    next hm => exact decodeV2_hasWord hm
    next hm => exact decodeV3_hasWord hm
    next hm => exact decodeV4_hasWord hm
    next hm => exact decodeV5_hasWord hm
    next hm => exact decodeV6_hasWord hm
    next hm => exact decodeV7_hasWord hm
    next hm => exact decodeM0_hasWord hm
    next hm => exact decodeM1_hasWord hm
    next hm => exact decodeM2_hasWord hm
    next hm => exact decodeM3_hasWord hm
    next hm => exact decodeM4_hasWord hm
    next hm => exact decodeM5_hasWord hm
    next hm => exact decodeM6_hasWord hm
    next hm => exact decodeM7_hasWord hm
    next hm => exact decodeD0_hasWord hm
    next hm => exact decodeD1_hasWord hm
    next hm => exact decodeD2_hasWord hm
    next hm => exact decodeD3_hasWord hm
    next hm => exact decodeD4_hasWord hm
    next hm => exact decodeD5_hasWord hm
    next hm => exact decodeD6_hasWord hm
    next hm => exact decodeD7_hasWord hm
    next hm => exact decodeQ0_hasWord hm
    next hm => exact decodeQ1_hasWord hm
    next hm => exact decodeQ2_hasWord hm
    next hm => exact decodeQ3_hasWord hm
    next hm => exact decodeQ4_hasWord hm
    next hm => exact decodeQ5_hasWord hm
    next hm => exact decodeQ6_hasWord hm
    next hm => exact decodeQ7_hasWord hm
    next hm => exact decodeY0_hasWord hm
    next hm => exact decodeY1_hasWord hm
    next hm => exact decodeY2_hasWord hm
    next hm => exact decodeY3_hasWord hm
    next hm => exact decodeY4_hasWord hm
    next hm => exact decodeY5_hasWord hm
    next hm => exact decodeY6_hasWord hm
    next hm => exact decodeY7_hasWord hm
    next hm => exact decodeY8_hasWord hm
    next hm => exact decodeY9_hasWord hm
    next hm => exact decodeYA_hasWord hm
    next hm => exact decodeYB_hasWord hm
    next hm => exact decodeYC_hasWord hm
    next hm => exact decodeL0_hasWord hm
    next hm => exact decodeL1_hasWord hm
    next hm => exact decodeL2_hasWord hm
    next hm => exact decodeL3_hasWord hm
    next hm => exact decodeL4_hasWord hm
    next hm => exact decodeL5_hasWord hm
    · split <;> exact .error

/-- Settles O4, one lemma for each major. -/
theorem decodedWordsEncode : Obligations.DecodedWordsEncode :=
  fun i w _ decoded => decodeWord_hasWord w i decoded

end Sys2Proof.Machine
end

section
/-! The word of a well-formed instruction decodes to it (07 R181 to R193). -/

namespace Sys2Proof.Machine

theorem ne_zero_of_major {w m : Nat} (hm : w / 2 ^ 25 = m + 1) : w ≠ 0 := by
  rintro rfl
  cases hm

/-- A field of a field. -/
theorem fld_of_fld {w lo n v k len : Nat} (hv : fld w lo n = v) (inside : k + len ≤ n) :
    fld w (lo + k) len = v / 2 ^ k % 2 ^ len := by
  obtain ⟨r, rfl⟩ := Nat.exists_eq_add_of_le inside
  have split : 2 ^ (k + len + r) = 2 ^ k * 2 ^ (len + r) := by rw [← Nat.pow_add, Nat.add_assoc]
  have dvd : 2 ^ len ∣ 2 ^ (len + r) := Nat.pow_dvd_pow 2 (Nat.le_add_right ..)
  rw [← hv, fld, fld, split, Nat.mod_mul_right_div_self, Nat.mod_mod_of_dvd _ dvd, Nat.pow_add, Nat.div_div_eq_div_mul]

/-- A branch that tests bits among which other bits stand is not taken. -/
theorem ne_of_fld {w lo n u v k len : Nat} (hv : fld w (lo + k) len = v) (inside : k + len ≤ n)
    (other : u / 2 ^ k % 2 ^ len ≠ v) : fld w lo n ≠ u :=
  fun hu => other ((fld_of_fld hu inside).symm.trans hv)

/-- The decoder inverts the encoder on well-formed words: the format gives the major and the fixed bits, and these select
the branch of the major's decoder. -/
theorem decodeWord_of_encode {i : Instr} {w : Nat} (known : i.wellFormed = true) (hw : encode i = some w) :
    decodeWord w = .ok i := by
  cases i with
  | add d a b =>
    obtain ⟨hf, rfl, rfl, rfl, hm⟩ := (formatA_dab_iff (m := 0) rfl).1 hw
    rw [decodeWord, if_neg (by rintro rfl; cases known), hm, decodeS0, hf]
    rfl
  | sub d a b | mul d a b | mulh d a b | mulhu d a b | div d a b | divu d a b | rem d a b | remu d a b | and d a b
    | or d a b | xor d a b | shl d a b | shr d a b | sar d a b | slt d a b | sltu d a b | min d a b | max d a b
    | minu d a b | maxu d a b =>
    obtain ⟨hf, rfl, rfl, rfl, hm⟩ := (formatA_dab_iff (m := 0) rfl).1 hw
    rw [decodeWord, if_neg (by rintro rfl; exact absurd hf (by decide)), hm, decodeS0, hf]
    rfl
  | clz d a | popc d a =>
    obtain ⟨hf, rfl, rfl, hm⟩ := (formatA_da_iff (m := 0) rfl).1 hw
    have hs : fld w 0 10 = _ := fld_of_fld (k := 0) hf (by decide)
    rw [decodeWord, if_neg (by rintro rfl; exact absurd hf (by decide)), hm, decodeS0, hs, hf]
    rfl
  | sel d a b p =>
    obtain ⟨rfl, hf, rfl, rfl, rfl, hm⟩ := (formatA_dabp_iff (m := 0) rfl).1 hw
    rw [decodeWord, if_neg (by rintro rfl; exact absurd hf (by decide)), hm]
    show decodeS0 w = _
    iterate 23 refine (if_neg (ne_of_fld (k := 4) hf (by decide) (by decide))).trans ?_
    exact if_pos hf
  | addImm d a imm | andImm d a imm | orImm d a imm | xorImm d a imm | shlImm d a imm | shrImm d a imm | sarImm d a imm
    | sltImm d a imm =>
    obtain ⟨rfl, hf, rfl, rfl, hm⟩ := (formatB_dai_iff (m := 1) rfl).1 hw
    rw [decodeWord, if_neg (ne_zero_of_major hm), hm, decodeS1, hf]
    rfl
  | sltuImm d a imm | minImm d a imm | maxImm d a imm | mulImm d a imm =>
    obtain ⟨rfl, hf, rfl, rfl, hm⟩ := (formatB_dai_iff (m := 2) rfl).1 hw
    rw [decodeWord, if_neg (ne_zero_of_major hm), hm, decodeS2, hf]
    rfl
  | ldhi d imm =>
    obtain ⟨rfl, rfl, hm⟩ := (formatC_di_iff (m := 3) rfl).1 hw
    rw [decodeWord, if_neg (ne_zero_of_major hm), hm]
    rfl
  | addpc d imm =>
    obtain ⟨rfl, rfl, hm⟩ := (formatC_di_iff (m := 4) rfl).1 hw
    rw [decodeWord, if_neg (ne_zero_of_major hm), hm]
    rfl
  | ldB d a imm | ldBu d a imm | ldH d a imm | ldHu d a imm | ldW d a imm | ldWu d a imm | ldD d a imm =>
    obtain ⟨rfl, hf, rfl, rfl, hm⟩ := (formatB_dai_iff (m := 5) rfl).1 hw
    rw [decodeWord, if_neg (ne_zero_of_major hm), hm, decodeS5, hf]
    rfl
  | ldBAcq d a scope imm | ldBuAcq d a scope imm | ldHAcq d a scope imm | ldHuAcq d a scope imm | ldWAcq d a scope imm
    | ldWuAcq d a scope imm | ldDAcq d a scope imm =>
    obtain ⟨rfl, rfl, hf, rfl, rfl, hm⟩ := (formatB_dasi_iff (m := 6) rfl).1 hw
    rw [decodeWord, if_neg (ne_zero_of_major hm), hm, decodeS6, hf]
    rfl
  | stB d a imm | stH d a imm | stW d a imm | stD d a imm =>
    obtain ⟨rfl, hf, rfl, rfl, hm⟩ := (formatB_dai_iff (m := 7) rfl).1 hw
    rw [decodeWord, if_neg (ne_zero_of_major hm), hm, decodeS7, hf]
    rfl
  | stBRel d a scope imm | stHRel d a scope imm | stWRel d a scope imm | stDRel d a scope imm =>
    obtain ⟨rfl, rfl, hf, rfl, rfl, hm⟩ := (formatB_dasi_iff (m := 8) rfl).1 hw
    rw [decodeWord, if_neg (ne_zero_of_major hm), hm, decodeS8, hf]
    rfl
  | bEq a b off | bNe a b off | bLt a b off | bGe a b off | bLtu a b off | bGeu a b off | brot a b off =>
    obtain ⟨rfl, hf, rfl, rfl, hm⟩ := (formatB_dai_iff (m := 9) rfl).1 hw
    rw [decodeWord, if_neg (ne_zero_of_major hm), hm, decodeS9, hf]
    rfl
  | j link off =>
    obtain ⟨rfl, rfl, hm⟩ := (formatC_di_iff (m := 10) rfl).1 hw
    rw [decodeWord, if_neg (ne_zero_of_major hm), hm]
    rfl
  | jr d a imm =>
    obtain ⟨rfl, hf, rfl, rfl, hm⟩ := (formatB_dai_iff (m := 11) rfl).1 hw
    rw [decodeWord, if_neg (ne_zero_of_major hm), hm, decodeSB, hf]
    rfl
  | callw n =>
    obtain ⟨rfl, hf, hm⟩ := (formatB_i_iff (m := 12) rfl).1 hw
    rw [decodeWord, if_neg (ne_zero_of_major hm), hm, decodeSC, hf]
    rfl
  | retw =>
    obtain ⟨hf, hm⟩ := (format_fixed_iff (m := 12) rfl).1 hw
    have hs : fld w 12 13 = _ := fld_of_fld (k := 12) hf (by decide)
    rw [decodeWord, if_neg (ne_zero_of_major hm), hm, decodeSC, hs, hf]
    rfl
  | fadd d a b ft | fsub d a b ft | fmul d a b ft | fdiv d a b ft =>
    obtain ⟨hf, ht, rfl, rfl, rfl, hm⟩ := (formatA_dabt_iff (m := 13) rfl).1 hw
    rw [decodeWord, if_neg (ne_zero_of_major hm), hm, decodeSD, ht, hf]
    rfl
  | fsqrt d a ft =>
    obtain ⟨hf, ht, hz, rfl, rfl, hm⟩ := (formatA_dat_iff (m := 13) rfl).1 hw
    rw [decodeWord, if_neg (ne_zero_of_major hm), hm, decodeSD, ht, hf, hz]
    rfl
  | fmin d a b ft | fmax d a b ft | ffma d a b ft | fcmpEq d a b ft | fcmpLt d a b ft | fcmpLe d a b ft
    | fcmpUn d a b ft =>
    obtain ⟨hf, ht, rfl, rfl, rfl, hm⟩ := (formatA_dabt_iff (m := 13) rfl).1 hw
    rw [decodeWord, if_neg (ne_zero_of_major hm), hm, decodeSD, ht, hf]
    rfl
  | fcvtFloatFloat d a ft | fcvtFToI32 d a ft | fcvtuFToU32 d a ft | fcvtFToI64 d a ft | fcvtuFToU64 d a ft
    | fcvtI32ToF d a ft | fcvtuU32ToF d a ft | fcvtI64ToF d a ft | fcvtuU64ToF d a ft | fclass d a ft =>
    obtain ⟨hf, ht, hz, rfl, rfl, hm⟩ := (formatA_dat_iff (m := 13) rfl).1 hw
    rw [decodeWord, if_neg (ne_zero_of_major hm), hm, decodeSD, ht, hf, hz]
    rfl
  | hset d a imm =>
    obtain ⟨rfl, hf, rfl, rfl, hm⟩ := (formatB_dai_iff (m := 14) rfl).1 hw
    rw [decodeWord, if_neg (ne_zero_of_major hm), hm, decodeSE, hf]
    rfl
  | hget d a | pset d a | pget d a =>
    obtain ⟨hf, rfl, rfl, hm⟩ := (formatA_da_iff (m := 14) rfl).1 hw
    have hs : fld w 12 3 = _ := fld_of_fld (k := 12) hf (by decide)
    rw [decodeWord, if_neg (ne_zero_of_major hm), hm, decodeSE, hs, hf]
    rfl
  | vaddF32 d a b m | vsubF32 d a b m | vmulF32 d a b m | vfmaF32 d a b m | vminF32 d a b m | vmaxF32 d a b m =>
    obtain ⟨hf, rfl, rfl, rfl, rfl, hm⟩ := (formatA_dabm_iff (m := 16) rfl).1 hw
    rw [decodeWord, if_neg (ne_zero_of_major hm), hm, decodeV0, hf]
    rfl
  | vabsF32 d a m | vnegF32 d a m =>
    obtain ⟨hf, rfl, hz, rfl, rfl, hy, hm⟩ := (formatA_dam_iff (m := 16) rfl).1 hw
    rw [decodeWord, if_neg (ne_zero_of_major hm), hm, decodeV0, hf, hz, hy]
    rfl
  | vaddI32 d a b m | vsubI32 d a b m | vmulI32 d a b m | vand d a b m | vor d a b m | vxor d a b m | vshl d a b m
    | vsar d a b m =>
    obtain ⟨hf, rfl, rfl, rfl, rfl, hm⟩ := (formatA_dabm_iff (m := 17) rfl).1 hw
    rw [decodeWord, if_neg (ne_zero_of_major hm), hm, decodeV1, hf]
    rfl
  | vexp2 d a m | vlog2 d a m | vrcp d a m | vrsqrt d a m | vtanh d a m =>
    obtain ⟨hf, rfl, hz, rfl, rfl, hy, hm⟩ := (formatA_dam_iff (m := 18) rfl).1 hw
    rw [decodeWord, if_neg (ne_zero_of_major hm), hm, decodeV2, hf, hz, hy]
    rfl
  | vcmpEqF32 d a b m | vcmpLtF32 d a b m | vcmpLeF32 d a b m | vcmpUnF32 d a b m | vcmpEqI32 d a b m | vcmpLtI32 d a b m
    | vcmpLeI32 d a b m | vcmpLtuI32 d a b m =>
    obtain ⟨hf, rfl, rfl, rfl, rfl, hm⟩ := (formatA_dabm_iff (m := 19) rfl).1 hw
    rw [decodeWord, if_neg (ne_zero_of_major hm), hm, decodeV3, hf]
    rfl
  | vsel d a b m | pand d a b m | por d a b m | pxor d a b m =>
    obtain ⟨hf, rfl, rfl, rfl, rfl, hm⟩ := (formatA_dabm_iff (m := 20) rfl).1 hw
    rw [decodeWord, if_neg (ne_zero_of_major hm), hm, decodeV4, hf]
    rfl
  | pnot d a m =>
    obtain ⟨hf, rfl, hz, rfl, rfl, hy, hm⟩ := (formatA_dam_iff (m := 20) rfl).1 hw
    rw [decodeWord, if_neg (ne_zero_of_major hm), hm, decodeV4, hf, hz, hy]
    rfl
  | vrsumF32 d a m | vrmaxF32 d a m | vrminF32 d a m | vrsumI32 d a m | vrmaxI32 d a m | vrminI32 d a m =>
    obtain ⟨hf, rfl, hz, rfl, rfl, hy, hm⟩ := (formatA_dam_iff (m := 21) rfl).1 hw
    rw [decodeWord, if_neg (ne_zero_of_major hm), hm, decodeV5, hf, hz, hy]
    rfl
  | vperm d a b m =>
    obtain ⟨hf, rfl, rfl, rfl, rfl, hm⟩ := (formatA_dabm_iff (m := 22) rfl).1 hw
    rw [decodeWord, if_neg (ne_zero_of_major hm), hm, decodeV6, hf]
    rfl
  | vbcast d a m =>
    obtain ⟨hf, rfl, hz, rfl, rfl, hy, hm⟩ := (formatA_dam_iff (m := 22) rfl).1 hw
    rw [decodeWord, if_neg (ne_zero_of_major hm), hm, decodeV6, hf, hz, hy]
    rfl
  | vslup d a b m | vsldn d a b m =>
    obtain ⟨hf, rfl, rfl, rfl, rfl, hm⟩ := (formatA_dabm_iff (m := 22) rfl).1 hw
    rw [decodeWord, if_neg (ne_zero_of_major hm), hm, decodeV6, hf]
    rfl
  | vmov d a m =>
    obtain ⟨hf, rfl, hz, rfl, rfl, hy, hm⟩ := (formatA_dam_iff (m := 22) rfl).1 hw
    rw [decodeWord, if_neg (ne_zero_of_major hm), hm, decodeV6, hf, hz, hy]
    rfl
  | vlane d m =>
    obtain ⟨hf, rfl, hz, rfl, hy, hm⟩ := (formatA_dm_iff (m := 22) rfl).1 hw
    rw [decodeWord, if_neg (ne_zero_of_major hm), hm, decodeV6, hf, hz, hy]
    rfl
  | vtrd td ta tb | vtwr td ta tb | vtrdc td ta tb =>
    obtain ⟨hf, rfl, rfl, rfl, hm⟩ := (formatT_dab_iff (m := 23) rfl).1 hw
    rw [decodeWord, if_neg (ne_zero_of_major hm), hm, decodeV7, hf]
    rfl
  | vtwrc td ta tb slot =>
    obtain ⟨hf, rfl, rfl, rfl, rfl, hm⟩ := (formatT_dabs_iff (m := 23) rfl).1 hw
    rw [decodeWord, if_neg (ne_zero_of_major hm), hm]
    show decodeV7 w = _
    iterate 3 refine (if_neg (ne_of_fld (k := 0) hf (by decide) (by decide))).trans ?_
    exact if_pos hf
  | mma td ta tb slot | mmaZ td ta tb slot =>
    obtain ⟨hf, rfl, rfl, rfl, rfl, hm⟩ := (formatT_dabs_iff (m := 32) rfl).1 hw
    rw [decodeWord, if_neg (ne_zero_of_major hm), hm, decodeM0, hf]
    rfl
  | mout td ta slot =>
    obtain ⟨hf, rfl, hz, rfl, rfl, hm⟩ := (formatT_das_iff (m := 33) rfl).1 hw
    rw [decodeWord, if_neg (ne_zero_of_major hm), hm, decodeM1, hf, hz]
    rfl
  | mclr td =>
    obtain ⟨hf, rfl, hm⟩ := (formatT_d_iff (m := 34) rfl).1 hw
    rw [decodeWord, if_neg (ne_zero_of_major hm), hm, decodeM2, hf]
    rfl
  | mtr td ta =>
    obtain ⟨hf, rfl, rfl, hm⟩ := (formatT_da_iff (m := 35) rfl).1 hw
    rw [decodeWord, if_neg (ne_zero_of_major hm), hm, decodeM3, hf]
    rfl
  | tcvt td ta slot =>
    obtain ⟨hf, rfl, hz, rfl, rfl, hm⟩ := (formatT_das_iff (m := 36) rfl).1 hw
    rw [decodeWord, if_neg (ne_zero_of_major hm), hm, decodeM4, hf, hz]
    rfl
  | thdrRd ta tb =>
    obtain ⟨hf, rfl, rfl, hz, hm⟩ := (formatT_ab_iff (m := 37) rfl).1 hw
    rw [decodeWord, if_neg (ne_zero_of_major hm), hm, decodeM5, hf, hz]
    rfl
  | thdrWr td tb =>
    obtain ⟨hf, rfl, hz, rfl, hm⟩ := (formatT_db_iff (m := 37) rfl).1 hw
    rw [decodeWord, if_neg (ne_zero_of_major hm), hm, decodeM5, hf, hz]
    rfl
  | cbld ta tbl =>
    obtain ⟨hf, rfl, hz, rfl, hy, hm⟩ := (formatT_as_iff (m := 38) rfl).1 hw
    rw [decodeWord, if_neg (ne_zero_of_major hm), hm, decodeM6, hf, hz, hy]
    rfl
  | tzero td ta slot =>
    obtain ⟨hf, rfl, hz, rfl, rfl, hm⟩ := (formatT_das_iff (m := 39) rfl).1 hw
    rw [decodeWord, if_neg (ne_zero_of_major hm), hm, decodeM7, hf, hz]
    rfl
  | tld td ta =>
    obtain ⟨hf, rfl, rfl, hm⟩ := (formatT_da_iff (m := 48) rfl).1 hw
    rw [decodeWord, if_neg (ne_zero_of_major hm), hm, decodeD0, hf]
    rfl
  | tst ta tb | tstF ta tb =>
    obtain ⟨hf, rfl, rfl, hz, hm⟩ := (formatT_ab_iff (m := 49) rfl).1 hw
    rw [decodeWord, if_neg (ne_zero_of_major hm), hm, decodeD1, hf, hz]
    rfl
  | tgat td ta tb =>
    obtain ⟨hf, rfl, rfl, rfl, hm⟩ := (formatT_dab_iff (m := 50) rfl).1 hw
    rw [decodeWord, if_neg (ne_zero_of_major hm), hm, decodeD2, hf]
    rfl
  | tsct td ta tb =>
    obtain ⟨hf, rfl, rfl, rfl, hm⟩ := (formatT_dab_iff (m := 51) rfl).1 hw
    rw [decodeWord, if_neg (ne_zero_of_major hm), hm, decodeD3, hf]
    rfl
  | dcpy d a b =>
    obtain ⟨hf, rfl, rfl, rfl, hm⟩ := (formatA_dab_iff (m := 52) rfl).1 hw
    rw [decodeWord, if_neg (ne_zero_of_major hm), hm, decodeD4, hf]
    rfl
  | dflag d a scope =>
    obtain ⟨rfl, hf, rfl, rfl, hm⟩ := (formatB_das_iff (m := 53) rfl).1 hw
    rw [decodeWord, if_neg (ne_zero_of_major hm), hm, decodeD5, hf]
    rfl
  | dseal d =>
    obtain ⟨hf, rfl, hm⟩ := (formatA_d_iff (m := 54) rfl).1 hw
    rw [decodeWord, if_neg (ne_zero_of_major hm), hm, decodeD6, hf]
    rfl
  | dwait a =>
    obtain ⟨hf, rfl, hz, hm⟩ := (formatA_a_iff (m := 54) rfl).1 hw
    rw [decodeWord, if_neg (ne_zero_of_major hm), hm]
    show decodeD6 w = _
    refine (if_neg (ne_of_fld (k := 0) hf (by decide) (by decide))).trans ?_
    exact if_pos ⟨hf, hz⟩
  | cflush a b | cinval a b =>
    obtain ⟨hf, rfl, rfl, hz, hm⟩ := (formatA_ab_iff (m := 55) rfl).1 hw
    rw [decodeWord, if_neg (ne_zero_of_major hm), hm, decodeD7, hf, hz]
    rfl
  | qbindS td ta | qbindR td ta =>
    obtain ⟨hf, rfl, rfl, hm⟩ := (formatT_da_iff (m := 64) rfl).1 hw
    rw [decodeWord, if_neg (ne_zero_of_major hm), hm, decodeQ0, hf]
    rfl
  | qunbind td =>
    obtain ⟨hf, rfl, hm⟩ := (formatT_d_iff (m := 65) rfl).1 hw
    rw [decodeWord, if_neg (ne_zero_of_major hm), hm, decodeQ1, hf]
    rfl
  | qsend td ta | qsendF td ta =>
    obtain ⟨hf, rfl, rfl, hm⟩ := (formatT_da_iff (m := 66) rfl).1 hw
    rw [decodeWord, if_neg (ne_zero_of_major hm), hm, decodeQ2, hf]
    rfl
  | qrecv td ta =>
    obtain ⟨hf, rfl, rfl, hm⟩ := (formatT_da_iff (m := 67) rfl).1 hw
    rw [decodeWord, if_neg (ne_zero_of_major hm), hm, decodeQ3, hf]
    rfl
  | qmarkStart td ta | qmarkEnd td ta =>
    obtain ⟨hf, rfl, rfl, hm⟩ := (formatT_da_iff (m := 68) rfl).1 hw
    rw [decodeWord, if_neg (ne_zero_of_major hm), hm, decodeQ4, hf]
    rfl
  | qwidth td width =>
    obtain ⟨rfl, hf, rfl, hm⟩ := (formatT_dw_iff (m := 69) rfl).1 hw
    rw [decodeWord, if_neg (ne_zero_of_major hm), hm, decodeQ5, hf]
    rfl
  | qstat td ta =>
    obtain ⟨hf, rfl, rfl, hm⟩ := (formatT_da_iff (m := 70) rfl).1 hw
    rw [decodeWord, if_neg (ne_zero_of_major hm), hm, decodeQ6, hf]
    rfl
  | qdrop td =>
    obtain ⟨hf, rfl, hm⟩ := (formatT_d_iff (m := 71) rfl).1 hw
    rw [decodeWord, if_neg (ne_zero_of_major hm), hm, decodeQ7, hf]
    rfl
  | fenceAcq scope | fenceRel scope | fence scope =>
    obtain ⟨rfl, hf, hm⟩ := (formatB_s_iff (m := 80) rfl).1 hw
    rw [decodeWord, if_neg (ne_zero_of_major hm), hm, decodeY0, hf]
    rfl
  | wcnt ld st cp tl =>
    obtain ⟨hf, rfl, rfl, rfl, rfl, hm⟩ := (formatW_iff (m := 81) rfl).1 hw
    rw [decodeWord, if_neg (ne_zero_of_major hm), hm, decodeY1, hf]
    rfl
  | bar =>
    obtain ⟨hf, hm⟩ := (format_fixed_iff (m := 82) rfl).1 hw
    rw [decodeWord, if_neg (ne_zero_of_major hm), hm, decodeY2, hf]
    rfl
  | elect d =>
    obtain ⟨hf, rfl, hm⟩ := (formatA_d_iff (m := 82) rfl).1 hw
    rw [decodeWord, if_neg (ne_zero_of_major hm), hm]
    show decodeY2 w = _
    refine (if_neg (ne_of_fld (k := 0) hf (by decide) (by decide))).trans ?_
    exact if_pos hf
  | mjoin k | mleave k | mwait k =>
    obtain ⟨rfl, hf, hm⟩ := (formatB_k_iff (m := 82) rfl).1 hw
    rw [decodeWord, if_neg (ne_zero_of_major hm), hm]
    show decodeY2 w = _
    have hs : fld w 4 16 = _ := fld_of_fld (k := 0) hf (by decide)
    refine (if_neg (ne_of_fld (k := 4) hf (by decide) (by decide))).trans ?_
    refine (if_neg (ne_of_fld (k := 4) hs (by decide) (by decide))).trans ?_
    rw [hf]
    rfl
  | xchIdx d a b | xchUp d a b | xchDown d a b | xchXor d a b =>
    obtain ⟨hf, rfl, rfl, rfl, hm⟩ := (formatA_dab_iff (m := 83) rfl).1 hw
    rw [decodeWord, if_neg (ne_zero_of_major hm), hm, decodeY3, hf]
    rfl
  | spawn d a imm =>
    obtain ⟨rfl, hf, rfl, rfl, hm⟩ := (formatB_dai_iff (m := 84) rfl).1 hw
    rw [decodeWord, if_neg (ne_zero_of_major hm), hm, decodeY4, hf]
    rfl
  | tnext d =>
    obtain ⟨hf, rfl, hm⟩ := (formatA_d_iff (m := 85) rfl).1 hw
    rw [decodeWord, if_neg (ne_zero_of_major hm), hm, decodeY5, hf]
    rfl
  | amoAdd d a b scope size | amoAnd d a b scope size | amoOr d a b scope size | amoXor d a b scope size
    | amoMin d a b scope size | amoMax d a b scope size | amoMinu d a b scope size | amoMaxu d a b scope size
    | amoSwap d a b scope size | amoCas d a b scope size =>
    obtain ⟨hf, rfl, rfl, rfl, rfl, rfl, hm⟩ := (formatA_dabss_iff (m := 86) rfl).1 hw
    rw [decodeWord, if_neg (ne_zero_of_major hm), hm, decodeY6, hf]
    rfl
  | amoAddF32 d a b scope size | amoMinF32 d a b scope size | amoMaxF32 d a b scope size | amoCasF32 d a b scope size =>
    obtain ⟨hf, rfl, rfl, rfl, rfl, rfl, hm⟩ := (formatA_dabss_iff (m := 87) rfl).1 hw
    rw [decodeWord, if_neg (ne_zero_of_major hm), hm, decodeY7, hf]
    rfl
  | redAdd a b scope size | redAnd a b scope size | redOr a b scope size | redXor a b scope size | redMin a b scope size
    | redMax a b scope size | redMinu a b scope size | redMaxu a b scope size =>
    obtain ⟨hf, rfl, rfl, rfl, rfl, hz, hm⟩ := (formatA_abss_iff (m := 88) rfl).1 hw
    rw [decodeWord, if_neg (ne_zero_of_major hm), hm, decodeY8, hf, hz]
    rfl
  | redAddF32 a b scope size =>
    obtain ⟨hf, rfl, rfl, rfl, rfl, hz, hm⟩ := (formatA_abss_iff (m := 89) rfl).1 hw
    rw [decodeWord, if_neg (ne_zero_of_major hm), hm, decodeY9, hf, hz]
    rfl
  | mbxSend d a b =>
    obtain ⟨hf, rfl, rfl, rfl, hm⟩ := (formatA_dab_iff (m := 90) rfl).1 hw
    rw [decodeWord, if_neg (ne_zero_of_major hm), hm, decodeYA, hf]
    rfl
  | mbxRecv d =>
    obtain ⟨hf, rfl, hm⟩ := (formatA_d_iff (m := 90) rfl).1 hw
    have hs : fld w 0 10 = _ := fld_of_fld (k := 0) hf (by decide)
    rw [decodeWord, if_neg (ne_zero_of_major hm), hm, decodeYA, hs, hf]
    rfl
  | trap c | svc c | brk c =>
    obtain ⟨rfl, hf, hm⟩ := (formatB_i_iff (m := 91) rfl).1 hw
    rw [decodeWord, if_neg (ne_zero_of_major hm), hm, decodeYB, hf]
    rfl
  | halt | eret =>
    obtain ⟨hf, hm⟩ := (format_fixed_iff (m := 91) rfl).1 hw
    have hs : fld w 12 13 = _ := fld_of_fld (k := 12) hf (by decide)
    rw [decodeWord, if_neg (ne_zero_of_major hm), hm, decodeYB, hs, hf]
    rfl
  | sysrd d r =>
    obtain ⟨rfl, hf, rfl, hm⟩ := (formatB_di_iff (m := 92) rfl).1 hw
    rw [decodeWord, if_neg (ne_zero_of_major hm), hm, decodeYC, hf]
    rfl
  | syswr a r =>
    obtain ⟨rfl, hf, rfl, hz, hm⟩ := (formatB_ai_iff (m := 92) rfl).1 hw
    rw [decodeWord, if_neg (ne_zero_of_major hm), hm]
    show decodeYC w = _
    refine (if_neg (ne_of_fld (k := 0) hf (by decide) (by decide))).trans ?_
    exact if_pos ⟨hf, hz⟩
  | lseq lvl trip len | lseqRot lvl trip len =>
    obtain ⟨hf, rfl, hz, rfl, rfl, hm⟩ := (formatL_seq_iff (m := 96) rfl).1 hw
    rw [decodeWord, if_neg (ne_zero_of_major hm), hm, decodeL0, hf, hz]
    rfl
  | lend lvl =>
    obtain ⟨hf, rfl, hm⟩ := (formatL_end_iff (m := 97) rfl).1 hw
    rw [decodeWord, if_neg (ne_zero_of_major hm), hm, decodeL1, hf]
    rfl
  | lfirst lvl n =>
    obtain ⟨rfl, hf, rfl, hm⟩ := (formatL_n_iff (m := 98) rfl).1 hw
    rw [decodeWord, if_neg (ne_zero_of_major hm), hm, decodeL2, hf]
    rfl
  | llast lvl n =>
    obtain ⟨rfl, hf, rfl, hm⟩ := (formatL_n_iff (m := 99) rfl).1 hw
    rw [decodeWord, if_neg (ne_zero_of_major hm), hm, decodeL3, hf]
    rfl
  | lstride lvl k r s =>
    obtain ⟨rfl, rfl, rfl, rfl, hm⟩ := (formatL_stride_iff (m := 100) rfl).1 hw
    rw [decodeWord, if_neg (ne_zero_of_major hm), hm]
    rfl
  | lbrk lvl s =>
    obtain ⟨hf, rfl, rfl, hm⟩ := (formatL_brk_iff (m := 101) rfl).1 hw
    rw [decodeWord, if_neg (ne_zero_of_major hm), hm, decodeL5, hf]
    rfl
  | _ => cases hw

/-- Settles O3, one case for each format of each major. -/
theorem encodedWordsDecode : Obligations.EncodedWordsDecode :=
  fun _ _ known word => decodeWord_of_encode known word

/-- Settles O2: the encoder and the decoder evaluate on each word of the two lists. -/
theorem wordsDecode : Obligations.WordsDecode := by
  simp only [Obligations.WordsDecode, List.forall_mem_cons]
  exact ⟨⟨⟨rfl, rfl⟩, ⟨rfl, rfl⟩, ⟨rfl, rfl⟩, ⟨rfl, rfl⟩, ⟨rfl, rfl⟩, nofun⟩, rfl, rfl, rfl, nofun⟩

end Sys2Proof.Machine
end

section
/-! Scalar register names (08 R209, R210): s0, globals and the window ring, and a register read after it is written. -/

namespace Sys2Proof.Machine

/-! ### Physical registers -/

theorem Thread.preg_setPreg_same (t : Thread) {p : Nat} (listed : p ≠ 0) (v : Word) : (t.setPreg p v).preg p = v := by
  simp only [Thread.setPreg, Thread.preg, if_neg listed, mapGet_mapSet_same]

theorem Thread.preg_setPreg_other (t : Thread) {p q : Nat} (other : q ≠ p) (v : Word) :
    (t.setPreg p v).preg q = t.preg q := by
  unfold Thread.setPreg
  split
  · rfl
  · simp only [Thread.preg, mapGet_mapSet_other _ other]

/-- A write to a register opens no window, so a name means the same register after it. -/
@[simp] theorem Thread.phys_setReg (ring : Nat) (t : Thread) (n m : BitVec 5) (v : Word) :
    (t.setReg ring n v).phys ring m = t.phys ring m := by
  simp only [Thread.phys, Thread.setReg_win]

theorem Thread.reg_setReg_same {ring : Nat} {t : Thread} {n : BitVec 5} (listed : t.phys ring n ≠ 0) (v : Word) :
    (t.setReg ring n v).reg ring n = v := by
  rw [Thread.reg, Thread.phys_setReg]
  exact t.preg_setPreg_same listed v

theorem Thread.reg_setReg_other {ring : Nat} {t : Thread} {n m : BitVec 5} (other : t.phys ring m ≠ t.phys ring n)
    (v : Word) : (t.setReg ring n v).reg ring m = t.reg ring m := by
  rw [Thread.reg, Thread.phys_setReg]
  exact t.preg_setPreg_other other v

/-! ### Names -/

@[simp] theorem physReg_zero (ring cur wbase : Nat) : physReg ring cur wbase 0 = 0 := if_pos rfl

theorem physReg_of_global {ring cur wbase n : Nat} (global : n < 32 - cur ∨ cur = 0) : physReg ring cur wbase n = n := by
  unfold physReg
  split
  · omega
  · exact if_neg (by omega)

theorem physReg_of_window {ring cur wbase n : Nat} (named : n ≠ 0) (opened : cur ≠ 0) (inside : 32 - cur ≤ n) :
    physReg ring cur wbase n = 32 + (wbase + n - (32 - cur)) % ring := by
  rw [physReg, if_neg named, if_pos ⟨opened, inside⟩]

theorem physReg_lt {ring n : Nat} (some_ring : 0 < ring) (name : n < 32) (cur wbase : Nat) :
    physReg ring cur wbase n < 32 + ring := by
  by_cases global : n < 32 - cur ∨ cur = 0
  · rw [physReg_of_global global]
    omega
  · by_cases named : n = 0
    · rw [named, physReg_zero]
      omega
    · rw [physReg_of_window named (by omega) (by omega)]
      exact Nat.add_lt_add_left (Nat.mod_lt _ some_ring) 32

/-- Settles O12: names first, then the reads after a write. -/
theorem registerNamesResolve : Obligations.RegisterNamesResolve := by
  constructor
  · intro ring th n m v
    have s0 : th.phys ring 0 = 0 := physReg_zero ..
    refine ⟨?_, ?_, fun listed => Thread.reg_setReg_same listed v, fun other => Thread.reg_setReg_other other v⟩
    · rw [Thread.reg, s0, Thread.preg, if_pos rfl]
    · rw [Thread.setReg, s0, Thread.setPreg, if_pos rfl]
  · intro ring cur wbase n some_ring _
    refine ⟨physReg_zero .., fun _ => physReg_of_global, fun named opened => physReg_of_window ?_ opened,
      physReg_lt some_ring n.isLt cur wbase⟩
    exact fun zero => named (BitVec.eq_of_toNat_eq zero)

end Sys2Proof.Machine
end

section
/-! Words that each thread of a group, or the task, runs on its own registers: what a word answers that every thread
completes or that every thread refuses (08 R209; 04 R122). -/

namespace Sys2Proof.Machine

/-! ### Forms of scalar words -/

/-- The threads of a lane group see a context of a lane core. -/
theorem runLanes_congr {f g : Ctx → Thread → ThreadOut} (same : ∀ x t, x.isArray = false → f x t = g x t) {x : Ctx}
    (lane : x.isArray = false) (w : Warp) (group : List Nat) : runLanes f x w group = runLanes g x w group := by
  induction group generalizing w with
  | nil => rfl
  | cons l rest ih =>
    have head (t : Thread) : f { x with lane := l } t = g { x with lane := l } t := same _ t lane
    simp only [runLanes, head, ih]

/-- On a lane core, what a word does to the threads of a task is not asked. -/
theorem scalarWord_congr_lane {s : State} {f g : Ctx → Thread → ThreadOut} (lane : ∀ c cur, s.sel ≠ .array c cur)
    (same : ∀ x t, x.isArray = false → f x t = g x t) (cur : Cursor) (branch : Bool) :
    scalarWord s cur branch f = scalarWord s cur branch g := by
  unfold scalarWord
  split
  case h_1 => simp only [runLanes_congr same (x := laneCtx ..) rfl]
  case h_2 c cur' sel => exact absurd sel (lane c cur')

/-- A word that every thread of a lane group completes. -/
theorem scalarWord_lane_ran {s t : State} {branch : Bool} {f : Ctx → Thread → ThreadOut}
    {g : Ctx → Thread → Thread × Option Word} (lane : ∀ c cur, s.sel ≠ .array c cur)
    (done : ∀ x th, x.isArray = false → f x th = .done (g x th).1 (g x th).2) (ran : s.ran branch g = some t) :
    scalarWord s .S branch f = .next t := by
  rw [scalarWord_congr_lane lane done]
  exact scalarWord_ran ran

/-- A word that the task of an array core completes and that is no branch. -/
theorem scalarWord_array_done {s : State} {c : Nat} {k : ArrayCore} {tk : Task} {th : Thread}
    {f : Ctx → Thread → ThreadOut} (sel : s.sel = .array c .S) (running : runningTask s c .S = some (k, tk))
    (done : f (taskCtx k c tk .S) { k.th with pc := tk.cursors.s.pc } = .done th none) :
    scalarWord s .S false f = .next (s.setArray c
      { k with th := { th with pc := k.th.pc }, task := some (tk.pass .S (tk.cursors.s.pc + 4)) }) := by
  simp only [scalarWord, sel, running, Cursors.get, done, if_true, Option.getD_none, Bool.false_eq_true, if_false]

/-- A group that runs is the issue group of a warp of the core (01 R20). -/
theorem runningGroup_spec {s : State} {c slot lane : Nat} {k : LaneCore} {w : Warp} {g : Workgroup} {group : List Nat}
    (running : runningGroup s c slot lane = some (k, w, g, group)) :
    k = s.lane c ∧ mapGet? slot k.warps = some w ∧ groupOf w lane = group ∧ group ≠ [] := by
  unfold runningGroup at running
  dsimp only at running
  split at running
  case h_1 => cases running
  case h_2 w' warp =>
    split at running
    case h_2 => cases running
    case h_1 there =>
      split at running
      case isFalse => cases running
      case isTrue =>
        cases running
        exact ⟨rfl, warp, there, List.cons_ne_nil _ _⟩

theorem mem_of_mapGet? {α : Type} {k : Nat} {m : Map α} {a : α} (h : mapGet? k m = some a) : (k, a) ∈ m := by
  induction m with
  | nil => cases h
  | cons x rest ih =>
    obtain ⟨j, b⟩ := x
    simp only [mapGet?] at h
    split at h
    · next same => cases h; exact same ▸ List.mem_cons_self ..
    · split at h
      · cases h
      · exact List.mem_cons_of_mem _ (ih h)

/-- The thread that the scheduler picked is in the group that runs. -/
theorem runningGroup_picked {s : State} {c slot lane : Nat} {k : LaneCore} {w : Warp} {g : Workgroup} {group : List Nat}
    (running : runningGroup s c slot lane = some (k, w, g, group)) :
    lane ∈ group ∧ ∃ t, mapGet? lane w.threads = some t := by
  obtain ⟨-, -, members, some_lane⟩ := runningGroup_spec running
  unfold groupOf at members
  split at members
  case h_1 => exact absurd members.symm some_lane
  case h_2 t there =>
    split at members
    case isFalse => exact absurd members.symm some_lane
    case isTrue ready =>
      rw [← members]
      refine ⟨List.mem_map.2 ⟨(lane, t), List.mem_filter.2 ⟨mem_of_mapGet? there, ?_⟩, rfl⟩, t, there⟩
      simp only [ready, beq_self_eq_true, Bool.and_self]

/-- The faults of the threads of a group that all refuse a word, in lane order. -/
def refusals (cause : Cause) (w : Warp) (group : List Nat) : List LaneFault :=
  group.filterMap fun l => (mapGet? l w.threads).map fun _ =>
    { lane := l, cause := cause, value := 0, code := 0, addr := 0 }

theorem refusals_eq_cons {s : State} {c slot lane : Nat} {k : LaneCore} {w : Warp} {g : Workgroup} {group : List Nat}
    (running : runningGroup s c slot lane = some (k, w, g, group)) (cause : Cause) :
    ∃ y ys, refusals cause w group = y :: ys := by
  obtain ⟨member, t, there⟩ := runningGroup_picked running
  refine List.exists_cons_of_ne_nil (List.ne_nil_of_mem (a := ⟨lane, cause, 0, 0, 0⟩) ?_)
  exact List.mem_filterMap.2 ⟨lane, member, by rw [there]; rfl⟩

theorem runLanes_refused {f : Ctx → Thread → ThreadOut} {cause : Cause} (refused : ∀ x t, f x t = .fault cause 0) (x : Ctx)
    (w : Warp) (group : List Nat) : runLanes f x w group = (w, refusals cause w group, false) := by
  induction group with
  | nil => rfl
  | cons l rest ih =>
    rw [refusals, List.filterMap_cons]
    cases there : mapGet? l w.threads with
    | none =>
      simp only [runLanes, there]
      exact ih
    | some t =>
      simp only [runLanes, there, refused, ih]
      rfl

/-- A word that no thread executes: each thread of the group, or the task, takes its fault (04 R122). -/
theorem scalarWord_refused {s t : State} {cur : Cursor} {branch : Bool} {f : Ctx → Thread → ThreadOut} {cause : Cause}
    (refused : ∀ x th, f x th = .fault cause 0) (faulted : s.faulted cur (refusing cause) = some t) :
    scalarWord s cur branch f = .next t := by
  cases sel : s.sel with
  | lane c slot lane =>
    simp only [State.faulted, sel] at faulted
    obtain ⟨⟨k, w, g, group⟩, running, rfl⟩ := Option.map_eq_some_iff.1 faulted
    obtain ⟨y, ys, listed⟩ := refusals_eq_cons running cause
    simp only [scalarWord, sel, running, runLanes_refused refused, listed]
    rw [← listed]
    rfl
  | array c cur' =>
    simp only [State.faulted, sel] at faulted
    split at faulted
    case isFalse => cases faulted
    case isTrue same =>
      obtain ⟨⟨k, tk⟩, running, rfl⟩ := Option.map_eq_some_iff.1 faulted
      simp only [scalarWord, sel, same, running, refused, if_true]
      rfl

end Sys2Proof.Machine
end

section
/-! The integer words, the constants and the moves of the S engine (08 R215 to R220): each word's function on both kinds of
core, and the forms that no thread of the core's kind executes. -/

namespace Sys2Proof.Machine

/-! ### Values -/

/-- Signed division, with the table of 08 R217: only the overflowing quotient is no 64-bit integer. -/
theorem opDiv_eq (x y : Word) : opDiv x y =
    if y = 0 then 0xFFFFFFFFFFFFFFFF
    else if x = 0x8000000000000000 ∧ y = 0xFFFFFFFFFFFFFFFF then 0x8000000000000000
    else BitVec.ofInt 64 (x.toInt.tdiv y.toInt) := by
  unfold opDiv
  split
  · rfl
  · split
    · next overflow =>
      obtain ⟨rfl, rfl⟩ := overflow
      decide
    · rfl

theorem opDivu_eq (x y : Word) :
    opDivu x y = if y = 0 then 0xFFFFFFFFFFFFFFFF else BitVec.ofNat 64 (x.toNat / y.toNat) := rfl

/-- The signed remainder is what the quotient leaves (08 R217). -/
theorem opRem_eq (x y : Word) : opRem x y =
    if y = 0 then x
    else if x = 0x8000000000000000 ∧ y = 0xFFFFFFFFFFFFFFFF then 0
    else x - y * BitVec.ofInt 64 (x.toInt.tdiv y.toInt) := by
  unfold opRem
  split
  · rfl
  · split
    · next overflow =>
      obtain ⟨rfl, rfl⟩ := overflow
      decide
    · refine BitVec.eq_sub_iff_add_eq.2 ?_
      calc wordOfInt (x.toInt.tmod y.toInt) + y * BitVec.ofInt 64 (x.toInt.tdiv y.toInt)
        _ = BitVec.ofInt 64 (x.toInt.tmod y.toInt + y.toInt * x.toInt.tdiv y.toInt) := by
          rw [BitVec.ofInt_add, BitVec.ofInt_mul, BitVec.ofInt_toInt, wordOfInt]
        _ = x := by rw [Int.tmod_add_mul_tdiv, BitVec.ofInt_toInt]

/-- The unsigned remainder is what the quotient leaves (08 R217). -/
theorem opRemu_eq (x y : Word) :
    opRemu x y = if y = 0 then x else x - y * BitVec.ofNat 64 (x.toNat / y.toNat) := by
  unfold opRemu word
  split
  · rfl
  · refine BitVec.eq_sub_iff_add_eq.2 ?_
    calc BitVec.ofNat 64 (x.toNat % y.toNat) + y * BitVec.ofNat 64 (x.toNat / y.toNat)
      _ = BitVec.ofNat 64 (x.toNat % y.toNat + y.toNat * (x.toNat / y.toNat)) := by
        rw [BitVec.ofNat_add, BitVec.ofNat_mul, BitVec.ofNat_toNat, BitVec.setWidth_eq]
      _ = x := by rw [Nat.mod_add_div, BitVec.ofNat_toNat, BitVec.setWidth_eq]

theorem opClz_eq (x : Word) : opClz x = BitVec.ofNat 64 (if x = 0 then 64 else 63 - x.toNat.log2) := by
  unfold opClz
  split <;> rfl

theorem popFrom_eq (x n : Nat) : popFrom x n = ((List.range n).filter x.testBit).length := by
  induction n with
  | zero => rfl
  | succ n ih =>
    rw [popFrom, ih, List.range_succ, List.filter_append, List.length_append, ← Nat.toNat_testBit, Nat.add_comm]
    cases h : x.testBit n <;> simp [h]

theorem opPopc_eq (x : Word) : opPopc x = BitVec.ofNat 64 ((List.range 64).filter x.getLsbD).length := by
  rw [opPopc, popFrom_eq]
  rfl

theorem immC_eq (imm : BitVec 20) : immC imm = (imm.setWidth 32 <<< 12).signExtend 64 := by
  have low_zero : (imm ++ 0#12 : BitVec (20 + 12)) = imm.setWidth 32 <<< 12 := by
    refine BitVec.eq_of_getLsbD_eq fun i inside => ?_
    rw [BitVec.getLsbD_append]
    by_cases low : i < 12 <;> simp [low, inside]
  exact congrArg (BitVec.signExtend 64) low_zero

/-! ### Words that write s[d] -/

section
variable {s t : State} {d a b : BitVec 5} {imm : BitVec 12}

theorem writesReg_of_ran {v v' : Ctx → Thread → Word} (same : ∀ x th, v x th = v' x th)
    (ran : s.ran false (setting d v') = some t) : writesReg s d v = .next t := by
  rw [funext fun x => funext (same x)]
  exact scalarWord_ran ran

theorem intOp_of_ran {op value : Word → Word → Word} (same : ∀ x y, op x y = value x y)
    (ran : s.ran false (setting d fun x th => value (th.reg x.ring a) (th.reg x.ring b)) = some t) :
    intOp op d a b s = .next t :=
  writesReg_of_ran (fun _ _ => same ..) ran

theorem immOp_of_ran {op : Word → Word → Word}
    (ran : s.ran false (setting d fun x th => op (th.reg x.ring a) (imm.signExtend 64)) = some t) :
    immOp op d a imm s = .next t :=
  writesReg_of_ran (fun _ _ => rfl) ran

theorem isShift_iff : isShift imm = true ↔ imm.toNat < 64 := decide_eq_true_iff

theorem shiftImm_of_ran {op : Word → Word → Word} {value : Word → Word} (small : imm.toNat < 64)
    (same : ∀ x, op x (imm.setWidth 64) = value x)
    (ran : s.ran false (setting d fun x th => value (th.reg x.ring a)) = some t) :
    shiftImm op d a imm s = .next t := by
  simp only [shiftImm, isShift_iff.2 small, if_true, same]
  exact scalarWord_ran ran

/-- A shift reads the low six bits of its amount, which hold an immediate of 0 to 63 (08 R216). -/
theorem immediate_amount (small : imm.toNat < 64) : (imm.setWidth 64).toNat % 64 = imm.toNat := by
  rw [BitVec.toNat_setWidth_of_le (by decide), Nat.mod_eq_of_lt small]

theorem opShl_immediate (small : imm.toNat < 64) (x : Word) : opShl x (imm.setWidth 64) = x <<< imm.toNat := by
  rw [opShl, immediate_amount small]

theorem opShr_immediate (small : imm.toNat < 64) (x : Word) : opShr x (imm.setWidth 64) = x >>> imm.toNat := by
  rw [opShr, immediate_amount small]

theorem opSar_immediate (small : imm.toNat < 64) (x : Word) :
    opSar x (imm.setWidth 64) = x.sshiftRight imm.toNat := by
  rw [opSar, immediate_amount small]

end

/-- Settles O9: each word's function is the one beside it, by the table of R217 for the four that divide. -/
theorem integerRegisterFormsComplete : Obligations.IntegerRegisterFormsComplete := by
  intro s t d a b
  simp only [List.forall_mem_cons, List.not_mem_nil, false_implies, implies_true, and_true]
  have same (op : Word → Word → Word) (x y : Word) : op x y = op x y := rfl
  exact ⟨(intOp_of_ran (same _) ·), (intOp_of_ran (same _) ·), (intOp_of_ran (same _) ·),
    (intOp_of_ran (same opMulh) ·), (intOp_of_ran (same opMulhu) ·), (intOp_of_ran opDiv_eq ·),
    (intOp_of_ran opDivu_eq ·), (intOp_of_ran opRem_eq ·), (intOp_of_ran opRemu_eq ·), (intOp_of_ran (same _) ·),
    (intOp_of_ran (same _) ·), (intOp_of_ran (same _) ·), (intOp_of_ran (same opShl) ·),
    (intOp_of_ran (same opShr) ·), (intOp_of_ran (same opSar) ·), (intOp_of_ran (same opSlt) ·),
    (intOp_of_ran (same opSltu) ·), (intOp_of_ran (same opMin) ·), (intOp_of_ran (same opMax) ·),
    (intOp_of_ran (same opMinu) ·), (intOp_of_ran (same opMaxu) ·)⟩

/-- Settles O10: the immediate forms, then the shifts by an amount that fits. -/
theorem integerImmediateFormsComplete : Obligations.IntegerImmediateFormsComplete := by
  intro s t d a imm
  simp only [List.forall_mem_cons, List.not_mem_nil, false_implies, implies_true, and_true]
  refine ⟨⟨(immOp_of_ran ·), (immOp_of_ran ·), (immOp_of_ran ·), (immOp_of_ran ·), (immOp_of_ran (op := opSlt) ·),
    (immOp_of_ran (op := opSltu) ·), (immOp_of_ran (op := opMin) ·), (immOp_of_ran (op := opMax) ·),
    (immOp_of_ran ·)⟩, ?shl, ?shr, ?sar⟩
  case shl => exact fun small ran => shiftImm_of_ran small (opShl_immediate small) ran
  case shr => exact fun small ran => shiftImm_of_ran small (opShr_immediate small) ran
  case sar => exact fun small ran => shiftImm_of_ran small (opSar_immediate small) ran

/-! ### Predicates -/

section
variable {s t : State} {d a b : BitVec 5} {n : BitVec 4}

theorem toNat_pred5 : (n.setWidth 5).toNat = n.toNat := BitVec.toNat_setWidth_of_le (by decide)

theorem isPred5_pred4 : isPred5 (n.setWidth 5) = true := by
  have small : n.toNat < 16 := n.isLt
  exact decide_eq_true (by rw [toNat_pred5]; exact small)

/-- A lane thread has p0 to p7 (08 R218). -/
theorem scalarPred_lane {x : Ctx} (lane : x.isArray = false) (th : Thread) (m : Nat) :
    scalarPred x th m = if m < 8 then some (th.preds.getLsbD m) else none := by
  simp only [scalarPred, lane, Bool.false_eq_true, if_false]

/-- `pset` of a predicate field runs on the group's threads, except in a task (08 R220). -/
theorem execPset_of_lane (lane : ∀ c cur, s.sel ≠ .array c cur) :
    execPset d a s = scalarWord s .S false fun x t =>
      if d.toNat < 8 ∧ ¬ x.isArray then
        .done { t with preds := setBit8 t.preds d.toNat (t.reg x.ring a != 0) } none
      else .fault .illegalOperand 0 := by
  unfold execPset
  split
  · next sel _ => exact absurd sel (lane _ _)
  · rfl

section
variable (lane : ∀ c cur, s.sel ≠ .array c cur) (small : n.toNat < 8)
include lane small

theorem execSel_lane (ran : s.ran false
      (setting d fun x th => if th.preds.getLsbD n.toNat then th.reg x.ring a else th.reg x.ring b) = some t) :
    execSel d a b n s = .next t :=
  scalarWord_lane_ran lane (fun x th group => by simp only [scalarPred_lane group, small, if_true, setting]) ran

theorem execPget_lane (ran : s.ran false (setting d fun _ th => if th.preds.getLsbD n.toNat then 1 else 0) = some t) :
    execPget d (n.setWidth 5) s = .next t :=
  scalarWord_lane_ran lane
    (fun x th group => by simp only [isPred5_pred4, toNat_pred5, scalarPred_lane group, small, if_true, setting]) ran

theorem execPset_lane (ran : s.ran false
      (fun x th => ({ th with preds := setBit8 th.preds n.toNat (th.reg x.ring a != 0) }, none)) = some t) :
    execPset (n.setWidth 5) a s = .next t := by
  rw [execPset_of_lane lane]
  exact scalarWord_lane_ran lane (fun x th group => by
    simp only [toNat_pred5, small, group, Bool.false_eq_true, not_false_eq_true, and_self, if_true]) ran

end

/-- A task writes a register beside its own program counter. -/
theorem setReg_setPc (ring : Nat) (th : Thread) (pc : Word) (v : Word) :
    { Thread.setReg ring { th with pc := pc } d v with pc := th.pc } = th.setReg ring d v := by
  unfold Thread.setReg Thread.setPreg Thread.phys
  split <;> rfl

section
variable {c : Nat} {k : ArrayCore} {tk : Task} (sel : s.sel = .array c .S) (running : runningTask s c .S = some (k, tk))
include sel running

/-- A task's word that writes s[d] (08 R209). -/
theorem scalarWord_array_setReg {f : Ctx → Thread → ThreadOut} {v : Word}
    (done : f (taskCtx k c tk .S) { k.th with pc := tk.cursors.s.pc } =
      .done (Thread.setReg 96 { k.th with pc := tk.cursors.s.pc } d v) none) :
    scalarWord s .S false f = .next (s.setArray c
      { k with th := k.th.setReg 96 d v, task := some (tk.pass .S (tk.cursors.s.pc + 4)) }) := by
  rw [scalarWord_array_done sel running done, setReg_setPc]

theorem execSel_array :
    let elem := (mapGet 0 k.preds (rotP tk.cursors.s.base n.toNat)).getLsbD 0
    execSel d a b n s = .next (s.setArray c
      { k with th := k.th.setReg 96 d (if elem then k.th.reg 96 a else k.th.reg 96 b),
               task := some (tk.pass .S (tk.cursors.s.pc + 4)) }) :=
  scalarWord_array_setReg sel running rfl

theorem execPget_array :
    let elem := (mapGet 0 k.preds (rotP tk.cursors.s.base n.toNat)).getLsbD 0
    execPget d (n.setWidth 5) s = .next (s.setArray c
      { k with th := k.th.setReg 96 d (if elem then 1 else 0), task := some (tk.pass .S (tk.cursors.s.pc + 4)) }) :=
  scalarWord_array_setReg sel running (by simp only [isPred5_pred4, toNat_pred5, if_true]; rfl)

/-- `pset` of a task sets every element of the predicate (08 R220). -/
theorem execPset_array :
    execPset (n.setWidth 5) a s = .next (s.setArray c
      { k with preds := mapSet (rotP tk.cursors.s.base n.toNat)
                 (if k.th.reg 96 a = 0 then 0 else BitVec.allOnes 128) k.preds,
               task := some (tk.pass .S (tk.cursors.s.pc + 4)) }) := by
  simp only [execPset, sel, isPred5_pred4, psetArray, running, toNat_pred5, ite_not]
  rfl

end

end

/-- Settles O11: the words that write s[d] from the thread alone, `hset`, and the predicates of each kind of core. -/
theorem movesAndConstantsComplete : Obligations.MovesAndConstantsComplete := by
  intro s t d a b imm imm20 n
  simp only [List.forall_mem_cons, List.not_mem_nil, false_implies, implies_true, and_true]
  refine ⟨⟨(writesReg_of_ran (fun x th => opClz_eq (th.reg x.ring a)) ·),
    (writesReg_of_ran (fun x th => opPopc_eq (th.reg x.ring a)) ·), (writesReg_of_ran (fun _ _ => immC_eq imm20) ·),
    (writesReg_of_ran (fun _ th => congrArg (th.pc + ·) (immC_eq imm20)) ·), (writesReg_of_ran (fun _ _ => rfl) ·)⟩,
    (scalarWord_ran ·), fun small lane => execSel_lane lane small, fun small lane => execPget_lane lane small,
    fun small lane => execPset_lane lane small, fun c k tk sel running => ?task⟩
  exact ⟨execSel_array sel running, execPget_array sel running, execPset_array sel running⟩

end Sys2Proof.Machine
end

section
/-! Branches and jumps (08 R227 to R230), and the scalar floating-point words (08 R233 to R239). -/

namespace Sys2Proof.Machine

/-! ### Branches and jumps -/

/-- The target of a jump offset counts words from the word itself (07 R182). -/
theorem jumpTarget_eq (pc : Word) (off : BitVec 20) : jumpTarget pc off = pc + 4 * off.signExtend 64 := by
  have four_times : off.signExtend 64 <<< 2 = 4 * off.signExtend 64 := by
    rw [BitVec.shiftLeft_eq_mul_twoPow, BitVec.mul_comm]
    rfl
  rw [jumpTarget, four_times]

section
variable {s t : State} {d a b : BitVec 5}

theorem condBranch_of_ran {cond taken : Word → Word → Bool} {off : BitVec 12} (same : ∀ x y, cond x y = taken x y)
    (ran : s.ran true (fun x th => (th, if taken (th.reg x.ring a) (th.reg x.ring b)
      then some (th.pc + 4 * off.signExtend 64) else none)) = some t) :
    condBranch cond a b off s = .next t := by
  simp only [condBranch, same, branchTarget_eq]
  exact scalarWord_ran ran

theorem execJ_of_ran {off : BitVec 20}
    (ran : s.ran true (fun x th => (th.setReg x.ring d (th.pc + 4), some (th.pc + 4 * off.signExtend 64))) = some t) :
    execJ d off s = .next t := by
  simp only [execJ, jumpTarget_eq]
  exact scalarWord_ran ran

/-- `brot` in a task branches on inequality at the lowered base (08 R230). -/
theorem execBrot_array {off : BitVec 12} {c : Nat} {k : ArrayCore} {tk : Task} (sel : s.sel = .array c .S)
    (running : runningTask s c .S = some (k, tk)) :
    let target := if k.th.reg 96 a ≠ k.th.reg 96 b then some (tk.cursors.s.pc + 4 * off.signExtend 64) else none
    let base := (tk.cursors.s.base + 31) % 32
    execBrot a b off s = .next (s.setArray c
      { k with rotBase := base, task := some ((tk.leave target).branch base (target.getD (tk.cursors.s.pc + 4))) }) := by
  simp only [execBrot, sel, running, branchTarget_eq, bne_iff_ne]
  rfl

end

/-- Settles O14: each word's condition is the one beside it. -/
theorem conditionalBranchesComplete : Obligations.ConditionalBranchesComplete := by
  intro s t a b off
  simp only [List.forall_mem_cons, List.not_mem_nil, false_implies, implies_true, and_true]
  have differ (x y : Word) : (x != y) = decide (x ≠ y) := (decide_not ..).symm
  exact ⟨fun ran => show execBEq a b off s = _ from condBranch_of_ran (fun _ _ => rfl) ran,
    fun ran => show execBNe a b off s = _ from condBranch_of_ran differ ran,
    fun ran => show execBLt a b off s = _ from condBranch_of_ran (fun _ _ => rfl) ran,
    fun ran => show execBGe a b off s = _ from condBranch_of_ran (fun _ _ => rfl) ran,
    fun ran => show execBLtu a b off s = _ from condBranch_of_ran (fun _ _ => rfl) ran,
    fun ran => show execBGeu a b off s = _ from condBranch_of_ran (fun _ _ => rfl) ran⟩

/-- Settles O15, one lemma for each word. -/
theorem jumpsComplete : Obligations.JumpsComplete :=
  fun _ _ _ _ _ _ _ _ => ⟨(execJ_of_ran ·), (scalarWord_ran ·), fun _ _ _ sel running => execBrot_array sel running⟩

/-! ### Floating point -/

/-- A thread whose s[d] takes a floating-point result, with the flags raised (08 R239). -/
def fpDone (d : BitVec 5) (f : Ctx → Thread → Nat × Flag) (x : Ctx) (th : Thread) : Thread × Option Word :=
  ((th.setReg x.ring d (BitVec.ofNat 64 (f x th).1)).raise (f x th).2, none)

section
variable {s t : State} {d a : BitVec 5} {ft : FType}

theorem fpWord_of_ran {f : Ctx → Thread → Nat × Flag} (ran : s.ran false (fpDone d f) = some t) :
    fpWord d s f = .next t :=
  scalarWord_ran ran

theorem fpWord_of_ran_bits {f : Ctx → Thread → Rounded} (ran : s.ran false (fpDone d fun x th => fpBits (f x th)) = some t) :
    (fpWord d s fun x th => ((f x th).bits, (f x th).flags)) = .next t :=
  fpWord_of_ran ran

theorem fpWord_of_ran_truth {f : Ctx → Thread → Bool × Flag}
    (ran : s.ran false (fpDone d fun x th => fpTruth (f x th)) = some t) :
    (fpWord d s fun x th => (ofBool (f x th).1, (f x th).2)) = .next t :=
  fpWord_of_ran ran

theorem fpArith_of_ran {f : Nat → Ctx → Thread → FRes}
    (ran : s.ran false (fpDone d fun x th => fpRounded ft (rmOf th.fpstat) (f (rmOf th.fpstat) x th)) = some t) :
    fpArith ft d s f = .next t :=
  fpWord_of_ran ran

theorem fromIntWord_of_ran {v : Word → Int}
    (ran : s.ran false (fpDone d fun x th => fpRounded ft (rmOf th.fpstat) (fpExact (v (th.reg x.ring a)))) = some t) :
    fromIntWord ft v d a s = .next t :=
  fpArith_of_ran ran

theorem toIntWord_of_ran {lo hi : Int} (ran : s.ran false (fpDone d fun x th =>
      fpInt (toRange (rmOf th.fpstat) 0 true lo hi (fpVal ft x th a))) = some t) :
    toIntWord ft lo hi d a s = .next t :=
  fpWord_of_ran ran

end

/-- Settles O16: each word computes the result beside it. -/
theorem scalarFloatWordsComplete : Obligations.ScalarFloatWordsComplete := by
  intro s t d a b ft
  simp only [List.forall_mem_cons, List.not_mem_nil, false_implies, implies_true, and_true]
  exact ⟨fun ran => show execFadd d a b ft s = _ from fpArith_of_ran ran,
    fun ran => show execFsub d a b ft s = _ from fpArith_of_ran ran,
    fun ran => show execFmul d a b ft s = _ from fpArith_of_ran ran,
    fun ran => show execFdiv d a b ft s = _ from fpArith_of_ran ran,
    fun ran => show execFsqrt d a ft s = _ from fpArith_of_ran ran,
    fun ran => show execFfma d a b ft s = _ from fpArith_of_ran ran,
    fun ran => show execFmin d a b ft s = _ from fpWord_of_ran_bits ran,
    fun ran => show execFmax d a b ft s = _ from fpWord_of_ran_bits ran,
    fun ran => show execFcmpEq d a b ft s = _ from fpWord_of_ran_truth ran,
    fun ran => show execFcmpLt d a b ft s = _ from fpWord_of_ran_truth ran,
    fun ran => show execFcmpLe d a b ft s = _ from fpWord_of_ran_truth ran,
    fun ran => show execFcmpUn d a b ft s = _ from fpWord_of_ran_truth ran,
    fun ran => show execFcvtFloatFloat d a ft s = _ from fpWord_of_ran_bits ran,
    fun ran => show execFcvtFToI32 d a ft s = _ from toIntWord_of_ran ran,
    fun ran => show execFcvtuFToU32 d a ft s = _ from toIntWord_of_ran ran,
    fun ran => show execFcvtFToI64 d a ft s = _ from toIntWord_of_ran ran,
    fun ran => show execFcvtuFToU64 d a ft s = _ from toIntWord_of_ran ran,
    fun ran => show execFcvtI32ToF d a ft s = _ from fromIntWord_of_ran ran,
    fun ran => show execFcvtuU32ToF d a ft s = _ from fromIntWord_of_ran ran,
    fun ran => show execFcvtI64ToF d a ft s = _ from fromIntWord_of_ran ran,
    fun ran => show execFcvtuU64ToF d a ft s = _ from fromIntWord_of_ran ran,
    fun ran => show execFclass d a ft s = _ from fpWord_of_ran ran⟩

end Sys2Proof.Machine
end

section
/-! The forms of scalar words that no thread of the core's kind executes (08 R216, R218, R220, R230; 07 R194, R195). -/

namespace Sys2Proof.Machine

section
variable {s t : State} {d a b : BitVec 5} {n : BitVec 4}

theorem shiftImm_refused {imm : BitVec 12} (large : 64 ≤ imm.toNat)
    (faulted : s.faulted .S (refusing .illegalOperand) = some t) (op : Word → Word → Word) :
    shiftImm op d a imm s = .next t := by
  have wide : ¬ isShift imm = true := fun small => absurd (isShift_iff.1 small) (by omega)
  exact scalarWord_refused (fun _ _ => if_neg wide) faulted

/-- A word that every thread of a lane group refuses. -/
theorem scalarWord_lane_refused {f : Ctx → Thread → ThreadOut} {cause : Cause} {branch : Bool}
    (lane : ∀ c cur, s.sel ≠ .array c cur) (refused : ∀ x th, x.isArray = false → f x th = .fault cause 0)
    (faulted : s.faulted .S (refusing cause) = some t) : scalarWord s .S branch f = .next t := by
  rw [scalarWord_congr_lane lane (g := fun _ _ => .fault cause 0) refused]
  exact scalarWord_refused (fun _ _ => rfl) faulted

section
variable (lane : ∀ c cur, s.sel ≠ .array c cur)
include lane

/-- A lane thread has no predicate above p7 (08 R218, R220). -/
theorem pred_refused (large : 8 ≤ n.toNat) (faulted : s.faulted .S (refusing .illegalOperand) = some t) :
    execSel d a b n s = .next t ∧ execPget d (n.setWidth 5) s = .next t ∧ execPset (n.setWidth 5) a s = .next t := by
  have none_there {x : Ctx} (group : x.isArray = false) (th : Thread) : scalarPred x th n.toNat = none := by
    rw [scalarPred_lane group, if_neg (by omega)]
  have large5 : ¬ n.toNat < 8 := by omega
  refine ⟨scalarWord_lane_refused lane (fun x th group => ?_) faulted,
    scalarWord_lane_refused lane (fun x th group => ?_) faulted, ?pset⟩
  · simp only [none_there group]
  · simp only [isPred5_pred4, toNat_pred5, none_there group, if_true]
  case pset =>
    rw [execPset_of_lane lane]
    exact scalarWord_refused (fun _ _ => if_neg (by rw [toNat_pred5]; omega)) faulted

theorem execBrot_lane {off : BitVec 12} (faulted : s.faulted .S (refusing .illegalInstruction) = some t) :
    execBrot a b off s = .next t := by
  unfold execBrot
  split
  · next sel => exact absurd sel (lane _ _)
  · exact scalarWord_refused (fun _ _ => rfl) faulted

end

theorem execTnext_lane {x : Issuer} (issued : s.issuer .Y = some x) (lane : x.kind = .lane) :
    execTnext d s = .next (x.trapped .Y s .illegalInstruction 0 0) :=
  unitWord_fault issued (by simp only [lane, Issue.no])

theorem execCbld_lane {x : Issuer} {ta : BitVec 6} {tbl : BitVec 3} (issued : s.issuer .M = some x) (lane : x.kind = .lane)
    (free : unitFull s x = false) : execCbld ta tbl s = .next (x.trapped .M s .illegalInstruction 0 0) :=
  matrixWord_fault issued free (by simp only [lane, Issue.no])

theorem laneWordOnly_array {x : Issuer} {f : Issuer → LaneCore → Warp → State → Issue} (issued : s.issuer .Y = some x)
    (array : x.kind = .array) : laneWordOnly s f = .next (x.trapped .Y s .illegalInstruction 0 0) :=
  unitWord_fault issued (by simp only [array, Issue.no])

end

/-- Settles O17, one lemma for each form. -/
theorem scalarFormsRefused : Obligations.ScalarFormsRefused := by
  intro s t d a b imm n
  simp only [List.forall_mem_cons, List.not_mem_nil, false_implies, implies_true, and_true]
  refine ⟨fun large faulted => ?shifts, fun lane large faulted => pred_refused lane large faulted,
    fun lane faulted => execBrot_lane lane faulted, fun x issued lane => execTnext_lane issued lane,
    fun x issued lane free ta tbl => execCbld_lane issued lane free, fun x issued array => ?laneOnly⟩
  case shifts =>
    have refused := shiftImm_refused (d := d) (a := a) large faulted
    exact ⟨refused opShl, refused opShr, refused opSar⟩
  case laneOnly =>
    show execBar s = _ ∧ execElect d s = _ ∧ execMjoin n s = _ ∧ execMleave n s = _ ∧ execMwait n s = _ ∧
      execXchIdx d a b s = _ ∧ execXchUp d a b s = _ ∧ execXchDown d a b s = _ ∧ execXchXor d a b s = _ ∧
      execSpawn d a imm s = _
    simp only [execBar, execElect, execMjoin, execMleave, execMwait, maskWord, execXchIdx, execXchUp, execXchDown,
      execXchXor, xchWord, laneValues, execSpawn, laneWordOnly_array issued array, and_self]

end Sys2Proof.Machine
end

section
/-! What an integer word that writes s[d] leaves unchanged (08 R209, R215, R216): of the machine all but the cores, of a
core all but its registers and the place of its unit, and of the registers all but the one that d names. -/

namespace Sys2Proof.Machine

/-! ### Cores after one is replaced -/

@[simp] theorem lane_setLane_same (s : State) (c : Nat) (x : LaneCore) : (s.setLane c x).lane c = x :=
  mapGet_mapSet_same _ c x s.lanes

theorem lane_setLane_other (s : State) {c d : Nat} (h : c ≠ d) (x : LaneCore) : (s.setLane d x).lane c = s.lane c :=
  mapGet_mapSet_other _ h x s.lanes

@[simp] theorem array_setArray_same (s : State) (c : Nat) (x : ArrayCore) : (s.setArray c x).array c = x :=
  mapGet_mapSet_same _ c x s.arrays

theorem runningTask_core {s : State} {c : Nat} {cur : Cursor} {k : ArrayCore} {tk : Task}
    (running : runningTask s c cur = some (k, tk)) : k = s.array c := by
  unfold runningTask at running
  dsimp only at running
  split at running
  case h_1 => cases running
  case h_2 =>
    split at running
    case isFalse => cases running
    case isTrue =>
      cases running
      rfl

/-- A lane core whose warps alone are replaced, in a state with the same lane cores. -/
theorem lane_setLane_warps {s s1 : State} (lanes : s1.lanes = s.lanes) (c c' : Nat) (ws : Map Warp) :
    (s1.setLane c { s.lane c with warps := ws }).lane c' = { s.lane c' with
      warps := ((s1.setLane c { s.lane c with warps := ws }).lane c').warps } := by
  by_cases same : c' = c
  · rw [same, lane_setLane_same]
  · rw [lane_setLane_other s1 same, State.lane, lanes]
    rfl

/-- Of the warps of every lane core, replacing one leaves the others. -/
theorem mapGet?_warps_setLane {s s1 : State} (lanes : s1.lanes = s.lanes) (c c' slot slot' : Nat) (w : Warp) :
    mapGet? slot' ((s1.setLane c { s.lane c with warps := mapSet slot w (s.lane c).warps }).lane c').warps =
      if c' = c ∧ slot' = slot then some w else mapGet? slot' (s.lane c').warps := by
  by_cases core : c' = c
  · subst core
    rw [lane_setLane_same]
    by_cases there : slot' = slot
    · rw [if_pos ⟨rfl, there⟩, there, mapGet?_mapSet_same]
    · rw [if_neg (fun same => there same.2)]
      exact mapGet?_mapSet_other there ..
  · rw [lane_setLane_other s1 core, if_neg (fun same => core same.1), State.lane, lanes]
    rfl

/-! ### Where a word that completes goes -/

/-- Where no running unit stands at a word, nothing executes it. -/
theorem scalarWord_of_ran_none {s : State} {branch : Bool} {f : Ctx → Thread → Thread × Option Word}
    (none_there : s.ran branch f = none) (g : Ctx → Thread → ThreadOut) : scalarWord s .S branch g = .fault .noUnit := by
  unfold State.ran at none_there
  unfold scalarWord
  split at none_there
  case h_1 c slot lane sel => simp only [sel, Option.map_eq_none_iff.1 none_there]
  case h_2 c sel => simp only [sel, Option.map_eq_none_iff.1 none_there, if_true]
  case h_3 c cur not_S sel => simp only [sel, if_neg not_S]

theorem ran_of_scalarWord {s t : State} {branch : Bool} {f : Ctx → Thread → Thread × Option Word}
    (next : scalarWord s .S branch (fun x th => .done (f x th).1 (f x th).2) = .next t) : s.ran branch f = some t := by
  cases ran : s.ran branch f with
  | some u =>
    rw [scalarWord_ran ran] at next
    cases next
    rfl
  | none =>
    rw [scalarWord_of_ran_none ran] at next
    cases next

/-- A word that completes leaves a new warp on one lane core, or new registers and a new place on one array core. -/
theorem ran_cases {s t : State} {branch : Bool} {f : Ctx → Thread → Thread × Option Word} (ran : s.ran branch f = some t) :
    (∃ c slot lane w g group, mapGet? slot (s.lane c).warps = some w ∧
      t = s.setLane c { s.lane c with
        warps := mapSet slot (allDone f (laneCtx (s.lane c) c slot lane g) w group) (s.lane c).warps }) ∨
    (∃ c tk pc tk', t = s.setArray c { s.array c with
      th := { (f (taskCtx (s.array c) c tk .S) { (s.array c).th with pc := pc }).1 with pc := (s.array c).th.pc },
      task := some tk' }) := by
  unfold State.ran at ran
  split at ran
  case h_1 c slot lane _ =>
    obtain ⟨⟨k, w, g, group⟩, running, rfl⟩ := Option.map_eq_some_iff.1 ran
    obtain ⟨rfl, warp, -⟩ := runningGroup_spec running
    exact .inl ⟨c, slot, lane, w, g, group, warp, rfl⟩
  case h_2 c _ =>
    obtain ⟨⟨k, tk⟩, running, rfl⟩ := Option.map_eq_some_iff.1 ran
    obtain rfl := runningTask_core running
    exact .inr ⟨c, tk, _, _, rfl⟩
  case h_3 => cases ran

/-! ### Threads -/

/-- A thread after words that write s[d]: only its place and the register that d names may differ. -/
structure Thread.Wrote (ring : Nat) (d : BitVec 5) (th th' : Thread) : Prop where
  rest : th' = { th with pc := th'.pc, regs := th'.regs }
  others : ∀ p, p ≠ th.phys ring d → th'.preg p = th.preg p

theorem Thread.Wrote.refl (ring : Nat) (d : BitVec 5) (th : Thread) : th.Wrote ring d th := ⟨rfl, fun _ _ => rfl⟩

theorem Thread.Wrote.trans {ring : Nat} {d : BitVec 5} {th th1 th2 : Thread} (first : th.Wrote ring d th1)
    (second : th1.Wrote ring d th2) : th.Wrote ring d th2 := by
  have same : th1.phys ring d = th.phys ring d := by rw [first.rest]; rfl
  refine ⟨?_, fun p other => (second.others p (same ▸ other)).trans (first.others p other)⟩
  rw [second.rest, first.rest]

theorem Thread.wrote_setReg (ring : Nat) (d : BitVec 5) (th : Thread) (v pc pc' : Word) :
    th.Wrote ring d { Thread.setReg ring { th with pc := pc } d v with pc := pc' } := by
  constructor
  · unfold Thread.setReg Thread.setPreg
    split <;> rfl
  · intro p other
    exact Thread.preg_setPreg_other { th with pc := pc } other v

theorem allDone_eq (f : Ctx → Thread → Thread × Option Word) (x : Ctx) (w : Warp) (group : List Nat) :
    allDone f x w group = { w with threads := (allDone f x w group).threads } := by
  induction group generalizing w with
  | nil => rfl
  | cons l rest ih =>
    unfold allDone
    split
    · exact ih w
    · exact ih _

/-- A group's word that writes s[d] does so in every thread of the group, and leaves the other threads. -/
theorem allDone_setting_wrote {d : BitVec 5} {v : Ctx → Thread → Word} {x : Ctx} {w : Warp} {group : List Nat} {l : Nat}
    {th : Thread} (there : mapGet? l w.threads = some th) :
    ∃ th', mapGet? l (allDone (setting d v) x w group).threads = some th' ∧ th.Wrote x.ring d th' := by
  induction group generalizing w th with
  | nil => exact ⟨th, there, .refl ..⟩
  | cons m rest ih =>
    unfold allDone
    split
    case h_1 => exact ih there
    case h_2 u there_m =>
      by_cases same : l = m
      · subst same
        obtain rfl := Option.some.inj (there.symm.trans there_m)
        obtain ⟨th', there', wrote⟩ := ih (w := { w with threads := mapSet l _ w.threads }) (mapGet?_mapSet_same ..)
        exact ⟨th', there', (th.wrote_setReg x.ring d _ th.pc _).trans wrote⟩
      · exact ih ((mapGet?_mapSet_other same ..).trans there)

/-! ### Integer words -/

/-- The words of the list write s[d], each with its own value. -/
theorem exec_writesReg (s : State) (d a b : BitVec 5) (imm : BitVec 12) (imm20 : BitVec 20) : ∀ i ∈ ([
      .add d a b, .sub d a b, .mul d a b, .mulh d a b, .mulhu d a b, .div d a b, .divu d a b, .rem d a b, .remu d a b,
      .and d a b, .or d a b, .xor d a b, .shl d a b, .shr d a b, .sar d a b, .slt d a b, .sltu d a b, .min d a b,
      .max d a b, .minu d a b, .maxu d a b, .clz d a, .popc d a, .addImm d a imm, .andImm d a imm, .orImm d a imm,
      .xorImm d a imm, .sltImm d a imm, .sltuImm d a imm, .minImm d a imm, .maxImm d a imm, .mulImm d a imm,
      .ldhi d imm20, .addpc d imm20, .hget d a] : List Instr),
    ∃ v, exec i s = writesReg s d v := by
  simp only [List.forall_mem_cons, List.not_mem_nil, false_implies, implies_true, and_true]
  exact ⟨⟨_, rfl⟩, ⟨_, rfl⟩, ⟨_, rfl⟩, ⟨_, rfl⟩, ⟨_, rfl⟩, ⟨_, rfl⟩, ⟨_, rfl⟩, ⟨_, rfl⟩, ⟨_, rfl⟩, ⟨_, rfl⟩, ⟨_, rfl⟩,
    ⟨_, rfl⟩, ⟨_, rfl⟩, ⟨_, rfl⟩, ⟨_, rfl⟩, ⟨_, rfl⟩, ⟨_, rfl⟩, ⟨_, rfl⟩, ⟨_, rfl⟩, ⟨_, rfl⟩, ⟨_, rfl⟩, ⟨_, rfl⟩, ⟨_, rfl⟩,
    ⟨_, rfl⟩, ⟨_, rfl⟩, ⟨_, rfl⟩, ⟨_, rfl⟩, ⟨_, rfl⟩, ⟨_, rfl⟩, ⟨_, rfl⟩, ⟨_, rfl⟩, ⟨_, rfl⟩, ⟨_, rfl⟩, ⟨_, rfl⟩, ⟨_, rfl⟩⟩

/-- Settles O13: the frame of a word that writes s[d], on each kind of core. -/
theorem integerWordFrame : Obligations.IntegerWordFrame := by
  intro s t d a b imm imm20 i listed next
  obtain ⟨v, word⟩ := exec_writesReg s d a b imm imm20 i listed
  have ran : s.ran false (setting d v) = some t := ran_of_scalarWord (word.symm.trans next)
  obtain ⟨c, slot, lane, w, g, group, warp, rfl⟩ | ⟨c, tk, pc, tk', rfl⟩ := ran_cases ran
  · refine ⟨rfl, fun _ => rfl, fun _ => rfl, fun _ _ _ => rfl, fun c' => lane_setLane_warps rfl c c' _,
      fun c' slot' l w' th warp' there => ?_⟩
    rw [mapGet?_warps_setLane rfl]
    by_cases same : c' = c ∧ slot' = slot
    · rw [if_pos same]
      obtain ⟨rfl, rfl⟩ := same
      obtain rfl := Option.some.inj (warp.symm.trans warp')
      obtain ⟨th', there', wrote⟩ := allDone_setting_wrote (d := d) (v := v)
        (x := laneCtx (s.lane c') c' slot' lane g) (group := group) there
      exact ⟨_, th', rfl, there', allDone_eq .., wrote.rest, wrote.others⟩
    · rw [if_neg same]
      exact ⟨w', th, warp', there, rfl, rfl, fun _ _ => rfl⟩
  · have wrote := (s.array c).th.wrote_setReg 96 d (v (taskCtx (s.array c) c tk .S) { (s.array c).th with pc := pc }) pc
      (s.array c).th.pc
    refine ⟨rfl, fun _ => rfl, fun c' => ?core, fun c' p other => ?register, fun _ => rfl,
      fun c' slot l w th warp there => ⟨w, th, warp, there, rfl, rfl, fun _ _ => rfl⟩⟩
    case core =>
      by_cases same : c' = c
      · subst same
        rw [array_setArray_same]
        exact congrArg (fun th => { s.array c' with th := th, task := some tk' }) wrote.rest
      · rw [array_setArray_other s same]
    case register =>
      by_cases same : c' = c
      · subst same
        rw [array_setArray_same]
        exact wrote.others p other
      · rw [array_setArray_other s same]

end Sys2Proof.Machine
end

section
/-! Words that make accesses (08 R221 to R223; 12 R331, R332; 04 R122): loads and stores that issue, what issuing leaves
unchanged, and the faults of accesses that are not made. -/

namespace Sys2Proof.Machine

/-- Settles O18: each word makes the access that stands beside it, and plain accesses issue. -/
theorem loadsAndStoresComplete : Obligations.LoadsAndStoresComplete := by
  intro s d a imm imm9 sc qs
  refine ⟨fun p listed asks plain => ?plain, fun inScope p listed asks plain => ?ordered⟩
  case plain =>
    rw [exec_of_mem_plainAccesses listed]
    exact memWord_plain asks plain
  case ordered =>
    rw [exec_of_mem_orderedAccesses (isScope_iff.2 inScope) listed]
    exact memWord_plain asks plain

/-! ### Faults -/

/-- Accesses that are all in flight or not made raise the faults of those not made, in lane order. -/
theorem issueAll_faults {c grp : Nat} {qs : List Ask} {s : State}
    (issued : ∀ q ∈ qs, ∀ t, q.target = .ok t → isNow s .lane c t = false) :
    (issueAll .lane c grp qs s).2.1 = askFaults qs := by
  induction qs generalizing s with
  | nil => rfl
  | cons q rest ih =>
    have later (u : State) (lanes : u.lanes = s.lanes) : (issueAll .lane c grp rest u).2.1 = askFaults rest :=
      ih fun q' member t goes => (isNow_congr lanes c t).trans (issued q' (List.mem_cons_of_mem _ member) t goes)
    cases goes : q.target with
    | error e => simp only [issueAll, askFaults, List.filterMap_cons, goes, later s rfl]
    | ok t =>
      have plain := issued q (List.mem_cons_self ..) t goes
      simp only [issueAll, askFaults, List.filterMap_cons, goes, plain, Bool.false_eq_true, if_false]
      exact later _ rfl

/-- Accesses that are not made at issue have no effect on a fault. -/
theorem foldl_faultEffects {c : Nat} {qs : List Ask} {s : State}
    (issued : ∀ q ∈ qs, ∀ t, q.target = .ok t → isNow s .lane c t = false) : qs.foldl (faultEffects .lane c) s = s := by
  induction qs with
  | nil => rfl
  | cons q rest ih =>
    have none_made : faultEffects .lane c s q = s := by
      unfold faultEffects
      cases goes : q.target with
      | error e => rfl
      | ok t => simp only [issued q (List.mem_cons_self ..) t goes, Bool.false_eq_true, if_false]
    rw [List.foldl_cons, none_made]
    exact ih fun q' member => issued q' (List.mem_cons_of_mem _ member)

/-- A group some of whose accesses fail their checks makes none of them (04 R122). -/
theorem memWord_of_faults {s : State} {cur : Cursor} {f : Ctx → Thread → Except Cause MemOp} {c slot lane : Nat}
    {k : LaneCore} {w : Warp} {g : Workgroup} {group : List Nat} (sel : s.sel = .lane c slot lane)
    (running : runningGroup s c slot lane = some (k, w, g, group))
    (issued : ∀ q ∈ laneAsks s k c slot w g (groupPc w group) f group, ∀ t, q.target = .ok t →
      isNow s .lane c t = false)
    (fails : askFaults (laneAsks s k c slot w g (groupPc w group) f group) ≠ []) :
    memWord s cur f = .next (laneException s c slot group (groupPc w group) (groupPc w group)
      (askFaults (laneAsks s k c slot w g (groupPc w group) f group))) := by
  obtain ⟨y, ys, faults⟩ := List.exists_cons_of_ne_nil fails
  have made := issueAll_faults (grp := s.nextId) issued
  rw [faults] at made ⊢
  rcases result : issueAll .lane c s.nextId (laneAsks s k c slot w g (groupPc w group) f group) s with
    ⟨s1, fs, waits⟩
  rw [result] at made
  obtain rfl : fs = y :: ys := made
  simp only [memWord, sel, running, result, foldl_faultEffects issued]

/-- Where the accesses of a word fault, none is made. -/
theorem memWord_of_accessTrap {s t : State} {cur : Cursor} {f : Ctx → Thread → Except Cause MemOp}
    (trap : s.accessTrap cur f = some t) : memWord s cur f = .next t := by
  cases sel : s.sel with
  | lane c slot lane =>
    cases running : runningGroup s c slot lane with
    | none => simp only [State.accessTrap, sel, running, reduceCtorEq] at trap
    | some y =>
      obtain ⟨k, w, g, group⟩ := y
      simp only [State.accessTrap, sel, running] at trap
      split at trap
      case isTrue => cases trap
      case isFalse admitted =>
        obtain ⟨fails, none_now⟩ := not_or.1 admitted
        cases trap
        refine memWord_of_faults sel running (fun q member t goes => Bool.eq_false_iff.2 fun now => ?_) fails
        exact none_now (List.any_eq_true.2 ⟨q, member, by simp only [goes, now]⟩)
  | array c cur' =>
    by_cases same : cur' = cur
    · subst same
      cases running : runningTask s c cur' with
      | none => simp only [State.accessTrap, sel, running, if_true, reduceCtorEq] at trap
      | some y =>
        obtain ⟨k, tk⟩ := y
        cases asked : f (taskCtx k c tk cur') k.th with
        | error e =>
          simp only [State.accessTrap, sel, running, asked, if_true, Option.some.injEq] at trap
          simp only [memWord, sel, running, asked, trap, if_true]
        | ok m =>
          cases target : memTarget s (taskCtx k c tk cur') 0 m with
          | error e =>
            simp only [State.accessTrap, sel, running, asked, target, if_true, Option.some.injEq] at trap
            simp only [memWord, sel, running, asked, target, trap, if_true]
          | ok tg => simp only [State.accessTrap, sel, running, asked, target, if_true, reduceCtorEq] at trap
    · simp only [State.accessTrap, sel, same, if_false, reduceCtorEq] at trap

/-! ### Forms that no thread executes -/

section Refused
variable {scope : BitVec 3} {size : BitVec 2} {fp : Bool}

theorem acquireWord_of_not_scope (outside : isScope scope = false) (n : Nat) (ext : Bool) (d a : BitVec 5)
    (imm : BitVec 9) (s : State) : acquireWord n ext d a scope imm s = memWord s .S fun _ _ => .error .illegalOperand := by
  simp only [acquireWord, outside, Bool.false_eq_true, if_false]

theorem releaseWord_of_not_scope (outside : isScope scope = false) (n : Nat) (d a : BitVec 5) (imm : BitVec 9)
    (s : State) : releaseWord n d a scope imm s = memWord s .S fun _ _ => .error .illegalOperand := by
  simp only [releaseWord, outside, Bool.false_eq_true, if_false]

theorem amoWord_of_no_form (no_form : isScope scope = false ∨ amoSize fp size = none) (op : AmoOp) (d a b : BitVec 5)
    (s : State) : amoWord op fp d a b scope size s = memWord s .Y fun _ _ => .error .illegalOperand := by
  unfold amoWord
  obtain outside | unsized := no_form
  · cases amoSize fp size with
    | none => rfl
    | some n => simp only [outside, Bool.false_eq_true, if_false]
  · simp only [unsized]

theorem redWord_of_no_form (no_form : isScope scope = false ∨ amoSize fp size = none) (op : AmoOp) (a b : BitVec 5)
    (s : State) : redWord op fp a b scope size s = memWord s .Y fun _ _ => .error .illegalOperand := by
  unfold redWord
  obtain outside | unsized := no_form
  · cases amoSize fp size with
    | none => rfl
    | some n => simp only [outside, Bool.false_eq_true, if_false]
  · simp only [unsized]

theorem not_isScope (large : 6 ≤ scope.toNat) : isScope scope = false :=
  Bool.eq_false_iff.2 fun inScope => absurd (isScope_iff.1 inScope) (by omega)

/-- Size 2 and size 3 are no size of an atomic (12 R331). -/
theorem amoSize_large (large : 2 ≤ size.toNat) : amoSize false size = none := by
  obtain two | three : size.toNat = 2 ∨ size.toNat = 3 := by have := size.isLt; omega
  · simp only [amoSize, two]
  · simp only [amoSize, three]

/-- A floating-point atomic has size 0 alone (12 R334). -/
theorem amoSize_float_nonzero (nonzero : size.toNat ≠ 0) : amoSize true size = none := by
  obtain one | two | three : size.toNat = 1 ∨ size.toNat = 2 ∨ size.toNat = 3 := by have := size.isLt; omega
  · simp only [amoSize, one, if_true]
  · simp only [amoSize, two]
  · simp only [amoSize, three]

end Refused

theorem exec_of_orderedAccesses_refused {d a : BitVec 5} {scope : BitVec 3} {imm : BitVec 9}
    (outside : isScope scope = false) (s : State) :
    ∀ p ∈ orderedAccesses d a scope imm, exec p.1 s = memWord s .S fun _ _ => .error .illegalOperand := by
  have load (size : Nat) (ext : Bool) := acquireWord_of_not_scope outside size ext d a imm s
  have store (size : Nat) := releaseWord_of_not_scope outside size d a imm s
  simp only [orderedAccesses, List.forall_mem_cons, List.not_mem_nil, false_implies, implies_true, and_true]
  exact ⟨load .., load .., load .., load .., load .., load .., load .., store .., store .., store .., store ..⟩

theorem exec_of_integerUpdates_refused {d a b : BitVec 5} {scope : BitVec 3} {size : BitVec 2}
    (no_form : isScope scope = false ∨ amoSize false size = none) (s : State) :
    ∀ p ∈ integerUpdates d a b scope size, exec p.1 s = memWord s .Y fun _ _ => .error .illegalOperand := by
  have amo (op : AmoOp) := amoWord_of_no_form no_form op d a b s
  have red (op : AmoOp) := redWord_of_no_form no_form op a b s
  simp only [integerUpdates, List.forall_mem_cons, List.not_mem_nil, false_implies, implies_true, and_true]
  exact ⟨amo _, amo _, amo _, amo _, amo _, amo _, amo _, amo _, amo _, amo _,
    red _, red _, red _, red _, red _, red _, red _, red _⟩

theorem exec_of_floatUpdates_refused {d a b : BitVec 5} {scope : BitVec 3} {size : BitVec 2}
    (no_form : isScope scope = false ∨ amoSize true size = none) (s : State) :
    ∀ p ∈ floatUpdates d a b scope size, exec p.1 s = memWord s .Y fun _ _ => .error .illegalOperand := by
  have amo (op : AmoOp) := amoWord_of_no_form no_form op d a b s
  have red (op : AmoOp) := redWord_of_no_form no_form op a b s
  simp only [floatUpdates, List.forall_mem_cons, List.not_mem_nil, false_implies, implies_true, and_true]
  exact ⟨amo _, amo _, amo _, amo _, red _⟩

/-- Settles O21: a failing access by `memWord_of_accessTrap`, and the forms that a word does not have. -/
theorem accessFaultsArePrecise : Obligations.AccessFaultsArePrecise := by
  intro s t d a b imm imm9 sc sz
  refine ⟨fun p listed trap => ?_, fun large trap p listed => ?_, fun no_form trap p listed => ?_,
    fun no_form trap p listed => ?_⟩
  · rw [exec_of_mem_memoryWords listed]
    exact memWord_of_accessTrap trap
  · rw [exec_of_orderedAccesses_refused (not_isScope large) s p listed]
    exact memWord_of_accessTrap trap
  · rw [exec_of_integerUpdates_refused (no_form.imp not_isScope amoSize_large) s p listed]
    exact memWord_of_accessTrap trap
  · rw [exec_of_floatUpdates_refused (no_form.imp not_isScope amoSize_float_nonzero) s p listed]
    exact memWord_of_accessTrap trap

end Sys2Proof.Machine
end

section
/-! What a word that makes accesses leaves unchanged as it issues to plain storage (08 R221; 12 R331; 06 R155). -/

namespace Sys2Proof.Machine

/-! ### Tables -/

theorem mapSet_mapSet {α : Type} (k : Nat) (a b : α) (m : Map α) : mapSet k a (mapSet k b m) = mapSet k a m := by
  induction m with
  | nil => simp only [mapSet, if_true]
  | cons x rest ih =>
    obtain ⟨j, c⟩ := x
    by_cases here : j = k
    · simp only [mapSet, here, if_true]
    · by_cases below : k < j
      · simp only [mapSet, here, below, if_true, if_false]
      · simp only [mapSet, here, below, if_false, ih]

theorem mapGet?_mapAll {α β : Type} (f : Nat → α → β) (k : Nat) (m : Map α) :
    mapGet? k (mapAll f m) = (mapGet? k m).map (f k) := by
  induction m with
  | nil => rfl
  | cons x rest ih =>
    obtain ⟨j, a⟩ := x
    simp only [mapAll, mapGet?]
    split
    · next same => rw [same, Option.map_some]
    · split
      · rfl
      · exact ih

theorem setLane_setLane (s : State) (c : Nat) (x y : LaneCore) : (s.setLane c y).setLane c x = s.setLane c x := by
  simp only [State.setLane, mapSet_mapSet]

theorem setArray_setArray (s : State) (c : Nat) (x y : ArrayCore) : (s.setArray c y).setArray c x = s.setArray c x := by
  simp only [State.setArray, mapSet_mapSet]

/-! ### Units -/

/-- A group that goes on moves the places of its threads alone. -/
theorem advanceGroup_thread {w : Warp} {l : Nat} {th : Thread} (there : mapGet? l w.threads = some th) (pc : Word)
    (group : List Nat) : ∃ pc', mapGet? l (advanceGroup w pc group).threads = some { th with pc := pc' } := by
  simp only [advanceGroup, mapGet?_mapAll, there, Option.map_some]
  split
  · exact ⟨pc + 4, rfl⟩
  · exact ⟨th.pc, rfl⟩

/-- A group that goes on past a word whose operation is counted. -/
theorem countUp_advanceGroup {s : State} {c slot : Nat} {w : Warp} (warp : mapGet? slot (s.lane c).warps = some w)
    (pc : Word) (group : List Nat) (n : CounterName) :
    countUp (s.setLane c { s.lane c with
      warps := mapUpdate slot (fun y => advanceGroup y pc group) (s.lane c).warps }) .lane c slot n =
    s.setLane c { s.lane c with
      warps := mapSet slot { advanceGroup w pc group with cnt := w.cnt.set n (w.cnt.get n + 1) } (s.lane c).warps } := by
  simp only [countUp, onCounters, lane_setLane_same, mapUpdate_of_get warp, mapUpdate_of_get (mapGet?_mapSet_same ..),
    setLane_setLane, mapSet_mapSet]
  rfl

theorem countUp_setArray (s : State) (c slot : Nat) (k : ArrayCore) (n : CounterName) :
    countUp (s.setArray c k) .array c slot n = s.setArray c
      { k with task := k.task.map fun t => { t with cnt := t.cnt.set n (t.cnt.get n + 1) } } := by
  simp only [countUp, onCounters, array_setArray_same, setArray_setArray]

/-- A word whose accesses issue leaves, on one lane core, a warp with its group past the word and the access counted, or, on
one array core, a task past the word. -/
theorem accessed_cases {s : State} {cur : Cursor} {f : Ctx → Thread → Except Cause MemOp} {qs : List Ask}
    (asks : s.asks cur f = some qs) :
    ∃ fl id, let s1 := { s with flight := fl, nextId := id }
      (∃ c slot w pc group cnt, mapGet? slot (s.lane c).warps = some w ∧
        s.accessed cur qs = s1.setLane c { s.lane c with
          warps := mapSet slot { advanceGroup w pc group with cnt := cnt } (s.lane c).warps }) ∨
      (∃ c task, s.accessed cur qs = s1.setArray c { s.array c with task := task }) := by
  refine ⟨s.flight ++ flightsOf s.nextId s.nextId qs, s.nextId + qs.length, ?_⟩
  unfold State.asks at asks
  unfold State.accessed
  split at asks
  case h_1 c slot lane _ =>
    obtain ⟨⟨k, w, g, group⟩, running, -⟩ := Option.map_eq_some_iff.1 asks
    obtain ⟨rfl, warp, -⟩ := runningGroup_spec running
    refine .inl ⟨c, slot, w, groupPc w group, group, ?count, warp, ?next⟩
    case next =>
      simp only [running]
      exact countUp_advanceGroup
        (s := { s with flight := s.flight ++ flightsOf s.nextId s.nextId qs, nextId := s.nextId + qs.length }) warp ..
  case h_2 c cur' _ =>
    split at asks
    case isFalse => cases asks
    case isTrue same =>
      split at asks
      case h_1 => cases asks
      case h_2 k tk running =>
        obtain rfl := runningTask_core running
        refine .inr ⟨c, ?task, ?next⟩
        case next => exact countUp_setArray ..

/-- Settles O24: the frame of the unit that goes on, on each kind of core. -/
theorem memoryWordFrame : Obligations.MemoryWordFrame := by
  intro s t d a b imm imm9 sc sz qs p listed asks plain next
  rw [exec_of_mem_memoryWords listed, memWord_plain asks plain] at next
  obtain rfl : s.accessed p.2.1 qs = t := by cases next; rfl
  obtain ⟨fl, id, ⟨c, slot, w, pc, group, cnt, warp, after⟩ | ⟨c, task, after⟩⟩ := accessed_cases asks
  · rw [after]
    refine ⟨rfl, fun _ => rfl, fun _ => rfl, fun c' => lane_setLane_warps rfl c c' _,
      fun c' slot' l w' th warp' there => ?_⟩
    rw [mapGet?_warps_setLane (s := s) (s1 := { s with flight := fl, nextId := id }) rfl]
    by_cases same : c' = c ∧ slot' = slot
    · rw [if_pos same]
      obtain ⟨rfl, rfl⟩ := same
      obtain rfl := Option.some.inj (warp.symm.trans warp')
      obtain ⟨pc', there'⟩ := advanceGroup_thread there pc group
      exact ⟨_, _, rfl, there', rfl, rfl⟩
    · rw [if_neg same]
      exact ⟨w', th, warp', there, rfl, rfl⟩
  · rw [after]
    refine ⟨rfl, fun _ => rfl, fun c' => ?_, fun _ => rfl,
      fun _ _ _ w th warp there => ⟨w, th, warp, there, rfl, rfl⟩⟩
    by_cases same : c' = c
    · subst same
      rw [array_setArray_same]
    · rw [array_setArray_other _ same]
      rfl

end Sys2Proof.Machine
end

section
/-! `callw` and `retw` (08 R212 to R214): what each does to a thread, to a group, to a thread alone and to a task. -/

namespace Sys2Proof.Machine

/-! ### One thread -/

/-- A thread with a window of `n` registers opened, which read as zero (08 R212). -/
def Thread.windowOpened (ring n : Nat) (u : Thread) : Thread :=
  let p := (u.win.wbase + u.win.cur) % ring
  { (ringRegs ring p n).foldl (fun (y : Thread) r => y.setPreg r 0) u with
      win := { u.win with wbase := p, cur := n, depth := u.win.depth + 1, resident := n :: u.win.resident } }

/-- A thread returned to its caller's resident window, at depth 1 to none (08 R213). -/
def Thread.windowReturned (ring : Nat) (u : Thread) : Thread :=
  if u.win.depth = 1 then { u with win := { u.win with cur := 0, wbase := 0, depth := 0, resident := [] } }
  else
    let m := nth 0 u.win.resident 1
    { u with win := { u.win with resident := u.win.resident.drop 1, wbase := (u.win.wbase + ring - m) % ring, cur := m,
                                 depth := u.win.depth - 1 } }

section
variable (x : Ctx) (a : Agent) (o : Origin) (scr : Nat × Nat) {n : Nat} {th : Thread} (s : State)

/-- A thread may open a window of `n` registers and store none: it is not at the greatest depth and its ring has room. -/
def Thread.hasRoom (ring n : Nat) (th : Thread) : Prop := th.win.depth ≠ 4095 ∧ n ≤ ring - th.win.held

/-- A thread's caller needs no load: there is none, or its window is resident. -/
def Thread.callerResident (th : Thread) : Prop := th.win.depth = 1 ∨ 1 < th.win.depth ∧ 2 ≤ th.win.resident.length

theorem callThread_of_room (least : 8 ≤ n) (most : n ≤ 32) (room : th.hasRoom x.ring n) :
    callThread x a o scr n th s = .ok (s, th.windowOpened x.ring n) := by
  obtain ⟨shallow, free⟩ := room
  have size : ¬(n < 8 ∨ 32 < n) := by omega
  simp only [callThread, size, shallow, spillFor, free, if_true, if_false]
  rfl

theorem callThread_of_size (size : n < 8 ∨ 32 < n) : callThread x a o scr n th s = .fault .illegalOperand 0 :=
  if_pos size

theorem returnThread_of_no_window (outside : th.win.depth = 0) : returnThread x a o scr th s = .fault .illegalOperand 0 :=
  if_pos outside

theorem returnThread_of_resident (caller : th.callerResident) :
    returnThread x a o scr th s = .ok (s, th.windowReturned x.ring) := by
  obtain outermost | ⟨deep, two⟩ := caller
  · simp only [returnThread, Thread.windowReturned, outermost, if_true, Nat.one_ne_zero, if_false]
  · have open0 : th.win.depth ≠ 0 := by omega
    have open1 : th.win.depth ≠ 1 := by omega
    match windows : th.win.resident with
    | [] => simp [windows] at two
    | [_] => simp [windows] at two
    | _ :: m :: rest =>
      simp only [returnThread, Thread.windowReturned, windows, open0, open1, if_false, nth, List.drop_succ_cons,
        List.drop_zero]

end

/-! ### A group -/

section
variable {f : Ctx → Agent → Origin → Nat × Nat → Thread → State → SpillOut (State × Thread)}

theorem windowLanes_done {g : Thread → Thread} {x : Ctx} {o : Origin} {scr : Nat × Nat} {w : Warp} {s : State}
    {group : List Nat} (done : ∀ l ∈ group, ∀ u, mapGet? l w.threads = some u →
      ∀ a o, f { x with lane := l } a o scr u s = .ok (s, g u)) :
    windowLanes f x o scr w group s = (s, group.filterMap fun l => (mapGet? l w.threads).map fun u => (l, g u), [], false) := by
  induction group with
  | nil => rfl
  | cons l rest ih =>
    have tail := ih fun m member => done m (List.mem_cons_of_mem _ member)
    cases there : mapGet? l w.threads with
    | none => simp only [windowLanes, List.filterMap_cons, there, tail, Option.map_none]
    | some u =>
      simp only [windowLanes, List.filterMap_cons, there, done l (List.mem_cons_self ..) u there, tail, Option.map_some]

theorem windowLanes_alone {x : Ctx} {o : Origin} {scr : Nat × Nat} {w : Warp} {s s1 : State} {lane : Nat} {th th1 : Thread}
    (there : mapGet? lane w.threads = some th)
    (done : f { x with lane := lane } (.lane x.core x.slot lane) { o with lane := lane } scr th s = .ok (s1, th1)) :
    windowLanes f x o scr w [lane] s = (s1, [(lane, th1)], [], false) := by
  simp only [windowLanes, there, done]

theorem windowLanes_refused {cause : Cause} (refused : ∀ x a o scr t s, f x a o scr t s = .fault cause 0) (x : Ctx)
    (o : Origin) (scr : Nat × Nat) (w : Warp) (group : List Nat) (s : State) :
    windowLanes f x o scr w group s = (s, [], refusals cause w group, false) := by
  induction group with
  | nil => rfl
  | cons l rest ih =>
    rw [refusals, List.filterMap_cons]
    cases there : mapGet? l w.threads with
    | none =>
      simp only [windowLanes, there]
      exact ih
    | some t =>
      simp only [windowLanes, there, refused, ih]
      rfl

section
variable {s : State} {c slot lane : Nat} {k : LaneCore} {w : Warp} {g : Workgroup} (sel : s.sel = .lane c slot lane)
include sel

/-- A group each of whose threads completes a window word goes on at the next word. -/
theorem windowWord_group {group : List Nat} (running : runningGroup s c slot lane = some (k, w, g, group))
    {done : Thread → Thread} (all : ∀ l ∈ group, ∀ u, mapGet? l w.threads = some u → ∀ a o,
      f { laneCtx k c slot lane g with lane := l } a o (g.scrBase, g.scrSize) u s = .ok (s, done u)) (ok : Bool) :
    let each : List (Nat × Thread) := group.filterMap fun l =>
      (mapGet? l w.threads).map fun u => (l, { done u with pc := groupPc w group + 4 })
    windowWord s ok f = .next (s.setLane c
      { k with warps := mapSet slot { w with threads := each.foldl (fun m y => mapSet y.1 y.2 m) w.threads } k.warps }) := by
  obtain ⟨rfl, warp, -⟩ := runningGroup_spec running
  have moved : (group.filterMap fun l => (mapGet? l w.threads).map fun u => (l, { done u with pc := groupPc w group + 4 })) =
      (group.filterMap fun l => (mapGet? l w.threads).map fun u => (l, done u)).map
        fun y => (y.1, { y.2 with pc := groupPc w group + 4 }) := by
    simp only [List.map_filterMap, Option.map_map, Function.comp_def]
  simp only [windowWord, sel, running, windowLanes_done all, mapUpdate_of_get warp, moved, List.foldl_map]

/-- A thread alone in its group completes a window word that its thread completes. -/
theorem windowWord_alone (running : runningGroup s c slot lane = some (k, w, g, [lane])) {th th1 : Thread} {s1 : State}
    (there : mapGet? lane w.threads = some th) (ok : Bool) :
    let o : Origin := { world := g.info.world, job := g.info.job, launch := g.info.launch, kind := .lane, core := c,
                        idx := w.idx.toNat, slot := slot, key := slot, lane := lane, pc := th.pc, cursor := 0xFF }
    f (laneCtx k c slot lane g) (.lane c slot lane) o (g.scrBase, g.scrSize) th s = .ok (s1, th1) →
    windowWord s ok f = .next (s1.setLane c { s1.lane c with
      warps := mapUpdate slot (fun z => { z with threads := mapSet lane { th1 with pc := th.pc + 4 } z.threads })
        (s1.lane c).warps }) := by
  intro o done
  have place : groupPc w [lane] = th.pc := by simp only [groupPc, there, Option.map_some, Option.getD_some]
  have alone := windowLanes_alone (f := f) (x := laneCtx k c slot lane g) (o := o) there done
  simp only [o] at alone
  simp only [windowWord, sel, running, place, alone, List.foldl_cons, List.foldl_nil]

end

/-- A window word has no effect in a task (08 R214). -/
theorem windowWord_array {s : State} {c : Nat} {k : ArrayCore} {tk : Task} (sel : s.sel = .array c .S)
    (running : runningTask s c .S = some (k, tk)) :
    windowWord s true f = .next (s.setArray c { k with task := some (tk.pass .S (tk.cursors.s.pc + 4)) }) := by
  simp only [windowWord, sel, if_true]
  rw [scalarWord_array_done sel running rfl]

/-- A window word of a size that no window has faults in every thread and in a task. -/
theorem windowWord_refused {s t : State} (refused : ∀ x a o scr th s, f x a o scr th s = .fault .illegalOperand 0)
    (faulted : s.faulted .S (refusing .illegalOperand) = some t) : windowWord s false f = .next t := by
  unfold windowWord
  split
  case h_1 => exact scalarWord_refused (fun _ _ => if_neg Bool.false_ne_true) faulted
  case h_2 c slot lane sel =>
    simp only [State.faulted, sel] at faulted
    obtain ⟨⟨k, w, g, group⟩, running, rfl⟩ := Option.map_eq_some_iff.1 faulted
    obtain ⟨y, ys, listed⟩ := refusals_eq_cons running .illegalOperand
    simp only [running, windowLanes_refused refused, listed]
    rw [← listed]
    rfl

end

/-- Settles O35: the group, the task, the thread alone, the sizes that no window has, and one thread. -/
theorem registerWindowsComplete : Obligations.RegisterWindowsComplete := by
  intro s n c slot lane k w g th th1 s1
  refine ⟨fun group sel running => ?group, fun least most c k tk sel running => ?task,
    fun sel running there => ?alone, fun u size faulted => ?size, fun x a o scr => ?thread⟩
  case group =>
    let x (l : Nat) : Ctx := { laneCtx k c slot lane g with lane := l }
    refine ⟨fun least most room => ?_, fun caller => ?_⟩
    · exact windowWord_group sel running (done := Thread.windowOpened (ringOf k.code) n.toNat)
        (fun l member u there a o => callThread_of_room (x l) a o _ s least most (room l member u there)) _
    · exact windowWord_group sel running (done := Thread.windowReturned (ringOf k.code))
        (fun l member u there a o => returnThread_of_resident (x l) a o _ s (caller l member u there)) _
  case task =>
    have size : (decide (8 ≤ n.toNat) && decide (n.toNat ≤ 32)) = true := by simp only [least, most, decide_true, Bool.and_self]
    refine ⟨?_, windowWord_array sel running⟩
    show windowWord s (decide (8 ≤ n.toNat) && decide (n.toNat ≤ 32)) _ = _
    rw [size]
    exact windowWord_array sel running
  case alone =>
    exact ⟨windowWord_alone (f := fun x a o scr t s => callThread x a o scr n.toNat t s) sel running there _,
      windowWord_alone (f := fun x a o scr t s => returnThread x a o scr t s) sel running there _⟩
  case size =>
    have none_fits : (decide (8 ≤ n.toNat) && decide (n.toNat ≤ 32)) = false := by
      simp only [Bool.and_eq_false_iff, decide_eq_false_iff_not]
      omega
    show windowWord s (decide (8 ≤ n.toNat) && decide (n.toNat ≤ 32)) _ = _
    rw [none_fits]
    exact windowWord_refused (fun x a o scr th s => callThread_of_size x a o scr s size) faulted
  case thread =>
    exact ⟨fun least most shallow free => callThread_of_room x a o scr s least most ⟨shallow, free⟩,
      returnThread_of_no_window x a o scr s, returnThread_of_resident x a o scr s, callThread_of_size x a o scr s⟩

end Sys2Proof.Machine
end

section
/-! The checks of an access in their order (08 R223; 12 R332; 16 R404; 04 R118, R119, R125, R130; 22 R487): the address, its
leaf, then its place in this module or in another. -/

namespace Sys2Proof.Machine

/-! ### The place that a physical address names -/

section
variable {s : State} {world : Nat} {priv : Bool} {a : Nat}

theorem physTarget_of_reserved (here : moduleOf a = s.module) (reserved : isReserved s (localOf a) = true) :
    physTarget s world priv a = .error .addressRange := by
  simp only [physTarget, physPlace, here, reserved, if_true]

theorem physTarget_of_memory (here : moduleOf a = s.module) (free : isReserved s (localOf a) = false)
    (memory : isWindowMap (localOf a) = false) : physTarget s world priv a = .ok (.mem a) := by
  simp only [physTarget, physPlace, here, free, memory, Bool.false_eq_true, if_true, if_false]

theorem physTarget_of_window {p : WinPart} (here : moduleOf a = s.module) (free : isReserved s (localOf a) = false)
    (window : isWindowMap (localOf a) = true) (part : winPart (localOf a) = some p) :
    physTarget s world priv a =
      if windowAllowed s world priv p = false then .error .windowAccess
      else if windowBusy s p = true then .error .windowBusy else .ok (.window p) := by
  simp only [physTarget, physPlace, here, free, window, part, Bool.false_eq_true, if_true, if_false]
  cases windowAllowed s world priv p <;> rfl

theorem physTarget_of_other_window (there : moduleOf a ≠ s.module) (window : isWindowMap (localOf a) = true) :
    physTarget s world priv a =
      .error (if winPart (localOf a) = none then .addressRange else .windowAccess) := by
  simp only [physTarget, physPlace, there, window, if_true, if_false]
  cases winPart (localOf a) <;> rfl

theorem physTarget_of_other_memory (there : moduleOf a ≠ s.module) (memory : isWindowMap (localOf a) = false) :
    physTarget s world priv a =
      if isCoherent (localOf a) = false then .error .addressRange
      else if reachable s (moduleOf a) = false then .error .peerUnreachable else .ok (.mem a) := by
  simp only [physTarget, physPlace, there, memory, Bool.false_eq_true, if_false]
  cases isCoherent (localOf a)
  · rfl
  · cases reachable s (moduleOf a) <;> rfl

end

/-! ### The leaf of an address -/

/-- A leaf refuses an access, for what it needs, for the weight binding that maps the address or for its privilege. -/
def leafRefuses (s : State) (i : UnitInfo) (need : Need) (va e : Nat) : Prop :=
  need ≠ .write ∧ bit e 1 = false ∨ need ≠ .read ∧ bit e 2 = false ∨
    need ≠ .read ∧ ((pinnedDir s i.pin va).isSome = true ∨ inBinding s va = true) ∨ bit e 6 = true ∧ i.priv = false

section
variable {s : State} {i : UnitInfo} {need : Need} {va e n : Nat} (outside : apertureOff va = none)
include outside

theorem translate_of_no_leaf (no_leaf : leafOf s i.world i.pin va = none) :
    translate s i.world i.priv i.pin need va = .error .translation := by
  simp only [translate, outside, no_leaf, Option.isSome_none, Bool.false_eq_true, if_false]

variable (leaf : leafOf s i.world i.pin va = some (e, n)) (access : need ≠ .exec)
include leaf access

theorem translate_of_leaf [Decidable (leafRefuses s i need va e)] :
    translate s i.world i.priv i.pin need va = if leafRefuses s i need va e then .error .permission
      else .ok (e / 4096 % 2 ^ 44 * 4096 / 2 ^ n * 2 ^ n + va % 2 ^ n) := by
  have bound : (pinnedDir s i.pin va).isNone = !(pinnedDir s i.pin va).isSome := by cases pinnedDir s i.pin va <;> rfl
  simp only [translate, outside, leaf, Option.isSome_none, Bool.false_eq_true, if_false, bound]
  refine ite_congr (propext ?_) (fun _ => rfl) fun _ => rfl
  cases need with
  | exec => exact absurd rfl access
  | read => simp [leafRefuses]
  | write => simp [leafRefuses, or_assoc]
  | both => simp [leafRefuses, or_assoc]

end

theorem needOf_ne_exec (k : AccKind) : needOf k ≠ .exec := by
  cases k <;> exact nofun

theorem needOf_of_atomic {k : AccKind} (atomic : k.atomic = true) : needOf k = .both := by
  cases k with
  | amo | red => rfl
  | _ => cases atomic

/-! ### The checks -/

theorem noWindow_error {c : Cause} (other : c ≠ .windowBusy) : noWindow (.error c) = .error c := by
  cases c with
  | windowBusy => exact absurd rfl other
  | _ => rfl

section
variable {s : State} {x : Ctx} {scr : Nat} {m : MemOp}

theorem memTarget_of_misaligned (part : m.addr.toNat % m.size ≠ 0) : memTarget s x scr m = .error .alignment := if_pos part

variable (whole : m.addr.toNat % m.size = 0)
include whole

theorem memTarget_of_not_canonical (beyond : isCanonical m.addr.toNat = false) :
    memTarget s x scr m = .error .nonCanonical := by
  simp only [memTarget, whole, arrayAtomic, arrayTarget, laneTarget, beyond]
  cases x.isArray <;> cases m.kind.atomic <;> rfl

/-- An address outside the aperture goes where translation and the place lead, but an atomic to no window (12 R332). -/
theorem memTarget_of_mapped {r : Except Cause Target} (mapped : x.isArray = false ∨ m.kind.atomic = true)
    (on_lane : laneTarget s x.info scr (needOf m.kind) m.addr.toNat m.size = r)
    (on_array : m.kind.atomic = true → arrayAtomic s x.info m.addr.toNat = noWindow r) :
    memTarget s x scr m = if m.kind.atomic = true then noWindow r else r := by
  cases kind : m.kind.atomic with
  | false =>
    have lane : x.isArray = false := mapped.resolve_right (by rw [kind]; exact Bool.false_ne_true)
    simp only [memTarget, whole, lane, kind, on_lane]
    rfl
  | true =>
    cases array : x.isArray with
    | false =>
      simp only [memTarget, whole, array, kind, on_lane]
      rfl
    | true =>
      simp only [memTarget, whole, array, kind, on_array kind]
      rfl

variable (canonical : isCanonical m.addr.toNat = true)
include canonical

theorem memTarget_of_local_only (array : x.isArray = true) (plain : m.kind.atomic = false)
    (outside : apertureOff m.addr.toNat = none) : memTarget s x scr m = .error .localOnly := by
  simp only [memTarget, whole, array, plain, arrayTarget, canonical, outside]
  rfl

theorem memTarget_of_local_store {o : Nat} (array : x.isArray = true) (inside : apertureOff m.addr.toNat = some o) :
    memTarget s x scr m = .ok (.core o) := by
  simp only [memTarget, whole, array, arrayAtomic, arrayTarget, canonical, inside]
  cases m.kind.atomic <;> rfl

theorem memTarget_of_scratchpad {o : Nat} (lane : x.isArray = false) (inside : apertureOff m.addr.toNat = some o) :
    memTarget s x scr m = if o + m.size ≤ scr then .ok (.core o) else .error .scratchBound := by
  simp only [memTarget, whole, lane, laneTarget, canonical, inside]
  cases m.kind.atomic
  · rfl
  · by_cases fits : o + m.size ≤ scr <;> simp [fits, noWindow]

section
variable (outside : apertureOff m.addr.toNat = none) (mapped : x.isArray = false ∨ m.kind.atomic = true)
include outside mapped

theorem memTarget_of_translate_error {c : Cause} (other : c ≠ .windowBusy)
    (failed : translate s x.info.world x.info.priv x.info.pin (needOf m.kind) m.addr.toNat = .error c) :
    memTarget s x scr m = .error c := by
  rw [memTarget_of_mapped whole mapped (r := .error c), noWindow_error other, ite_self]
  · simp only [laneTarget, canonical, outside, failed]
    rfl
  · intro atomic
    rw [needOf_of_atomic atomic] at failed
    simp only [arrayAtomic, canonical, outside, failed, noWindow_error other]
    rfl

theorem memTarget_of_translate_ok {a : Nat}
    (found : translate s x.info.world x.info.priv x.info.pin (needOf m.kind) m.addr.toNat = .ok a) :
    memTarget s x scr m =
      if m.kind.atomic = true then noWindow (physTarget s x.info.world x.info.priv a)
      else physTarget s x.info.world x.info.priv a := by
  apply memTarget_of_mapped whole mapped
  · simp only [laneTarget, canonical, outside, found]
    rfl
  · intro atomic
    rw [needOf_of_atomic atomic] at found
    simp only [arrayAtomic, canonical, outside, found]
    rfl

section
variable {e n : Nat} (leaf : leafOf s x.info.world x.info.pin m.addr.toNat = some (e, n))
include leaf

theorem memTarget_of_refused (refused : leafRefuses s x.info (needOf m.kind) m.addr.toNat e) :
    memTarget s x scr m = .error .permission := by
  classical
  refine memTarget_of_translate_error whole canonical outside mapped nofun ?_
  rw [translate_of_leaf outside leaf (needOf_ne_exec _), if_pos refused]

variable (admitted : ¬ leafRefuses s x.info (needOf m.kind) m.addr.toNat e)
include admitted

/-- An access that its leaf admits goes to the physical address that the leaf gives, but an atomic to no window. -/
theorem memTarget_of_admitted :
    let a := e / 4096 % 2 ^ 44 * 4096 / 2 ^ n * 2 ^ n + m.addr.toNat % 2 ^ n
    memTarget s x scr m =
      if m.kind.atomic = true then noWindow (physTarget s x.info.world x.info.priv a)
      else physTarget s x.info.world x.info.priv a := by
  classical
  refine memTarget_of_translate_ok whole canonical outside mapped ?_
  rw [translate_of_leaf outside leaf (needOf_ne_exec _), if_neg admitted]

end
end
end

/-- A place that an atomic reaches too (12 R332). -/
theorem ite_noWindow {atomic : Prop} [Decidable atomic] {r place : Except Cause Target} (found : r = place)
    (reached : noWindow place = place) : (if atomic then noWindow r else r) = place := by
  rw [found, reached, ite_self]

/-- A window is refused to an atomic, busy or not (12 R332; 04 R118, R119). -/
theorem ite_noWindow_window {atomic allowed busy : Bool} {p : WinPart} {r : Except Cause Target}
    (found : r = if allowed = false then .error .windowAccess
      else if busy = true then .error .windowBusy else .ok (.window p)) :
    (if atomic = true then noWindow r else r) =
      if allowed = false ∨ atomic = true then .error .windowAccess
      else if busy = true then .error .windowBusy else .ok (.window p) := by
  subst found
  cases atomic with
  | false => simp only [Bool.false_eq_true, if_false, or_false]
  | true =>
    simp only [if_true, or_true]
    cases allowed with
    | false => rfl
    | true => cases busy <;> rfl

/-- Settles O22, one lemma for each check. -/
theorem accessChecksInOrder : Obligations.AccessChecksInOrder := by
  intro s x scr m o e n p va need plain mapped refused a l here
  refine ⟨memTarget_of_misaligned, memTarget_of_not_canonical,
    fun ⟨whole, canonical⟩ => memTarget_of_local_only whole canonical,
    fun ⟨whole, canonical⟩ => memTarget_of_local_store whole canonical,
    fun ⟨whole, canonical⟩ => memTarget_of_scratchpad whole canonical,
    fun ⟨⟨whole, canonical⟩, outside, reach⟩ no_leaf =>
      memTarget_of_translate_error whole canonical outside reach nofun (translate_of_no_leaf outside no_leaf),
    fun ⟨⟨whole, canonical⟩, outside, reach⟩ => memTarget_of_refused whole canonical outside reach,
    fun ⟨⟨whole, canonical⟩, outside, reach⟩ leaf admitted => ?_⟩
  have place := memTarget_of_admitted (scr := scr) whole canonical outside reach leaf admitted
  rw [place]
  refine ⟨fun here reserved => ite_noWindow (physTarget_of_reserved here reserved) rfl,
    fun here free memory => ite_noWindow (physTarget_of_memory here free memory) rfl,
    fun here free window part => ite_noWindow_window (physTarget_of_window here free window part),
    fun there window => ite_noWindow (physTarget_of_other_window there window) ?other_window,
    fun there memory => ite_noWindow (physTarget_of_other_memory there memory) ?other_memory⟩
  case other_window => exact noWindow_error (by split <;> exact nofun)
  case other_memory =>
    split
    · rfl
    · split <;> rfl

end Sys2Proof.Machine
end

section
/-! The words of the V engine that write a vector register or a predicate (09 R242 to R250): what such a word leaves of
its core, said once for each kind of result, and the results of each word. -/

namespace Sys2Proof.Machine

/-! ### The 128 lanes -/

theorem mem_upFrom {a n i : Nat} : i ∈ upFrom a n ↔ a ≤ i ∧ i < a + n := by
  induction n generalizing a with
  | zero => simp only [upFrom, List.not_mem_nil, false_iff]; omega
  | succ n ih => simp only [upFrom, List.mem_cons, ih]; omega

theorem mem_laneNos {l : Nat} : l ∈ laneNos ↔ l < 128 := by
  simp only [laneNos, mem_upFrom, Nat.zero_le, true_and, Nat.zero_add]

theorem length_upFrom (a n : Nat) : (upFrom a n).length = n := by
  induction n generalizing a with
  | zero => rfl
  | succ n ih => rw [upFrom, List.length_cons, ih]

theorem length_laneNos : laneNos.length = 128 := length_upFrom 0 128

/-- Some lane is not active where fewer than all 128 are (09 R244). -/
theorem any_not_active (on : Nat → Bool) : (laneNos.any fun l => !on l) = ((laneNos.filter on).length != 128) := by
  have all_active : laneNos.all on = ((laneNos.filter on).length == 128) := by
    rw [← length_laneNos, Bool.eq_iff_iff, beq_iff_eq, List.length_filter_eq_length_iff, List.all_eq_true]
  rw [← List.not_all_eq_any_not, all_active, bne]

/-- Lane `l` of a vector register, after lanes of one are written. -/
theorem mapGet_setLanes (v : Nat → Nat) {n l p : Nat} (lane : l < 128) {ls : List Nat} (lanes : ∀ j ∈ ls, j < 128)
    (r : Map (BitVec 32)) :
    mapGet 0 (setLanes r p (ls.map fun j => (j, v j))) (128 * n + l) =
      if n = p ∧ l ∈ ls then BitVec.ofNat 32 (v l) else mapGet 0 r (128 * n + l) := by
  induction ls generalizing r with
  | nil => simp only [List.map_nil, setLanes, List.not_mem_nil, and_false, if_false]
  | cons j rest ih =>
    have small : j < 128 := lanes j (List.mem_cons_self ..)
    rw [List.map_cons, setLanes, ih fun i later => lanes i (List.mem_cons_of_mem _ later)]
    by_cases same : n = p ∧ l = j
    · obtain ⟨rfl, rfl⟩ := same
      simp only [mapGet_mapSet_same, ite_self, List.mem_cons, true_or, and_true, if_true]
    · have other : 128 * n + l ≠ 128 * p + j := by omega
      have later : n = p ∧ l ∈ j :: rest ↔ n = p ∧ l ∈ rest := by
        rw [List.mem_cons]
        exact and_congr_right fun here => or_iff_right fun eq => same ⟨here, eq⟩
      simp only [mapGet_mapSet_other _ other, later]

theorem testBit_add_two_pow {acc a : Nat} (small : acc < 2 ^ a) (i : Nat) :
    (acc + 2 ^ a).testBit i = (acc.testBit i || decide (a = i)) := by
  have disjoint := Nat.two_pow_add_eq_or_of_lt small 1
  rw [Nat.mul_one] at disjoint
  rw [Nat.add_comm, disjoint, Nat.testBit_or, Nat.testBit_two_pow, Bool.or_comm]

/-- Bits set from `a` upwards, above a number that has none there. -/
theorem testBit_foldl_upFrom (f : Nat → Bool) {n a acc : Nat} (small : acc < 2 ^ a) (i : Nat) :
    ((upFrom a n).foldl (fun v l => if f l then v + 2 ^ l else v) acc).testBit i =
      (acc.testBit i || decide (a ≤ i ∧ i < a + n) && f i) := by
  induction n generalizing a acc with
  | zero =>
    have outside : ¬(a ≤ i ∧ i < a + 0) := by omega
    simp only [upFrom, List.foldl_nil, outside, decide_false, Bool.false_and, Bool.or_false]
  | succ n ih =>
    have next : (if f a then acc + 2 ^ a else acc) < 2 ^ (a + 1) := by split <;> omega
    have head : (if f a then acc + 2 ^ a else acc).testBit i = (acc.testBit i || decide (a = i) && f a) := by
      split
      · next set => rw [testBit_add_two_pow small, set, Bool.and_true]
      · next clear => rw [Bool.not_eq_true] at clear; rw [clear, Bool.and_false, Bool.or_false]
    rw [upFrom, List.foldl_cons, ih next, head, Bool.or_assoc]
    congr 1
    by_cases here : a = i
    · subst here
      have above : ¬(a + 1 ≤ a ∧ a < a + 1 + n) := by omega
      have inside : a ≤ a ∧ a < a + (n + 1) := by omega
      simp only [above, inside, decide_true, decide_false, and_self, Bool.true_and, Bool.false_and, Bool.or_false]
    · have rest : (a + 1 ≤ i ∧ i < a + 1 + n) ↔ (a ≤ i ∧ i < a + (n + 1)) := by omega
      simp only [here, decide_false, Bool.false_and, Bool.false_or, rest]

theorem getLsbD_predOf (f : Nat → Bool) {l : Nat} (lane : l < 128) : (predOf f).getLsbD l = f l := by
  rw [predOf, BitVec.getLsbD_ofNat, laneNos, testBit_foldl_upFrom f (by decide)]
  have inside : 0 ≤ l ∧ l < 0 + 128 := by omega
  simp only [lane, inside, decide_true, and_self, Bool.true_and, Nat.zero_testBit, Bool.false_or]

/-! ### Words that one task issues -/

theorem vectorWord_done {s s1 : State} {x : Issuer} {f : Issuer → ArrayCore → State → Issue}
    (issued : s.issuer .V = some x) (array : x.kind = .array) (done : f x (s.array x.core) s = .done s1) :
    vectorWord s f = .next (x.passed .V s1) :=
  unitWord_done issued (by simp only [array, done])

/-- A V word that replaces its own core leaves the other cores, and passes the word. -/
theorem vectorWord_setArray {s : State} {x : Issuer} {f : Issuer → ArrayCore → State → Issue} {k : ArrayCore}
    (issued : s.issuer .V = some x) (array : x.kind = .array)
    (done : f x (s.array x.core) s = .done (s.setArray x.core k)) :
    ∃ t, vectorWord s f = .next t ∧ s.onlyArray t x.core ∧
      t.array x.core = { k with task := k.task.map fun y => y.pass .V (x.pc + 4) } := by
  refine ⟨_, vectorWord_done issued array done, ⟨?_, fun c other => ?_⟩, ?_⟩
  · simp only [Issuer.passed, array]
    rfl
  · simp only [Issuer.passed, array, array_setArray_other _ other]
  · simp only [Issuer.passed, array, array_setArray_same]

/-! ### Words that write a vector register -/

/-- A word has written the results `f` of the lanes active under `m` to v[d], from the registers `srcs`, and its task is
past it (09 R242 to R244). -/
def State.WritesLanes (s : State) (x : Issuer) (d : BitVec 6) (answer : Answer) (m : BitVec 4) (srcs : List (BitVec 6))
    (f : Nat → Nat × Flag) : Prop :=
  let k := s.array x.core
  let on (l : Nat) : Bool := active x k m l
  ∃ t, answer = .next t ∧ s.onlyArray t x.core ∧
    let k1 := t.array x.core
    (∀ l, l < 128 → k1.vlane (rotV x.base d.toNat) l =
      if on l then BitVec.ofNat 32 (f l).1 else k.vlane (rotV x.base d.toNat) l) ∧
    (∀ n l, l < 128 → n ≠ rotV x.base d.toNat → k1.vlane n l = k.vlane n l) ∧
    (∀ n, mapGet false k1.vpoison n =
      if n = rotV x.base d.toNat then srcs.any (vpoisoned x k) || mapGet false k.vpoison n && laneNos.any fun l => !on l
      else mapGet false k.vpoison n) ∧
    k1 = { k with
      vregs := k1.vregs, vpoison := k1.vpoison,
      th := k.th.raise (laneNos.foldl (fun n l => if on l then n ||| (f l).2 else n) noFlag),
      task := k.task.map fun y => y.pass .V (x.pc + 4) }

section
variable {s : State} {x : Issuer} {d a b : BitVec 6} {m : BitVec 4} (issued : s.issuer .V = some x)
  (array : x.kind = .array)
include issued array

theorem writesLanes_of_writeLanes {g : Issuer → ArrayCore → State → Issue} {srcs : List (BitVec 6)}
    {f : Nat → Nat × Flag} (work : g x (s.array x.core) s = writeLanes s x (s.array x.core) d m srcs f) :
    s.WritesLanes x d (vectorWord s g) m srcs f := by
  obtain ⟨t, next, only, core⟩ := vectorWord_setArray issued array work
  simp only [List.map_map, Function.comp_def, List.foldl_map, List.foldl_filter] at core
  have written {n l : Nat} (lane : l < 128) : (t.array x.core).vlane n l =
      if n = rotV x.base d.toNat ∧ active x (s.array x.core) m l then BitVec.ofNat 32 (f l).1
      else (s.array x.core).vlane n l := by
    have lanes : ∀ j ∈ laneNos.filter (active x (s.array x.core) m), j < 128 :=
      fun j listed => mem_laneNos.1 (List.mem_filter.1 listed).1
    rw [core]
    refine (mapGet_setLanes (fun j => (f j).1) lane lanes _).trans ?_
    simp only [List.mem_filter, mem_laneNos, lane, true_and]
    rfl
  refine ⟨t, next, only, fun l lane => ?_, fun n l lane other => ?_, fun n => ?_, ?_⟩
  · simp only [written lane, true_and]
  · simp only [written lane, other, false_and, if_false]
  · rw [core, any_not_active]
    by_cases here : n = rotV x.base d.toNat
    · subst here
      simp only [ArrayCore.raise, mapGet_mapSet_same, if_true]
      rw [Bool.or_comm, Bool.and_comm]
    · simp only [ArrayCore.raise, mapGet_mapSet_other _ here, here, if_false]
  · rw [core]
    rfl

theorem writesLanes_of_laneWord (f : Nat → Nat → Nat → Nat × Flag) :
    s.WritesLanes x d (laneWord d a b m s f) m [a, b] fun l =>
      f (rmOf (s.array x.core).th.fpstat) (vget x (s.array x.core) a l) (vget x (s.array x.core) b l) :=
  writesLanes_of_writeLanes issued array rfl

theorem writesLanes_of_laneWord1 (f : Nat → Nat × Flag) :
    s.WritesLanes x d (laneWord1 d a m s f) m [a] fun l => f (vget x (s.array x.core) a l) :=
  writesLanes_of_writeLanes issued array rfl

/-- A function of one vector is rounded to nearest, whatever the mode (09 R246). -/
theorem writesLanes_of_funWord (g : VFun) :
    s.WritesLanes x d (funWord g d a m s) m [a] fun l =>
      fpRounded .f32 0 (vfunF g (decodeF fp32 (vget x (s.array x.core) a l))) :=
  writesLanes_of_laneWord1 issued array _

theorem writesLanes_of_reduceWord (identity : Nat) (f : Nat → Nat → Nat → Nat × Flag) :
    s.WritesLanes x d (reduceWord d a m s identity f) 0 [a] fun _ =>
      let r := treeReduce (f (rmOf (s.array x.core).th.fpstat)) 7
        (laneNos.map fun l => if active x (s.array x.core) m l then some (vget x (s.array x.core) a l) else none) noFlag
      (r.1.getD identity, r.2) :=
  writesLanes_of_writeLanes issued array rfl

end

/-! ### Words that write a predicate -/

/-- A word has written the results `f` of the elements active under `m` to p[d], 0 to the others, and its task is past
it (09 R242). -/
def State.WritesPred (s : State) (x : Issuer) (d : BitVec 6) (m : BitVec 4) (answer : Answer) (f : Nat → Bool × Flag) :
    Prop :=
  let k := s.array x.core
  ∃ t, answer = .next t ∧ s.onlyArray t x.core ∧
    let k1 := t.array x.core
    (∀ l, l < 128 → (k1.pred (rotP x.base d.toNat)).getLsbD l = (active x k m l && (f l).1)) ∧
    (∀ n, n ≠ rotP x.base d.toNat → k1.pred n = k.pred n) ∧
    k1 = { k with
      preds := k1.preds,
      th := k.th.raise (laneNos.foldl (fun n l => if active x k m l then n ||| (f l).2 else n) noFlag),
      task := k.task.map fun y => y.pass .V (x.pc + 4) }

theorem isPred6_of_lt {f : BitVec 6} (small : f.toNat < 16) : isPred6 f = true := decide_eq_true small

section
variable {s : State} {x : Issuer} {d a b : BitVec 6} {m : BitVec 4} (issued : s.issuer .V = some x)
  (array : x.kind = .array) (dest : d.toNat < 16)
include issued array

theorem writesPred_of_writePred {g : Issuer → ArrayCore → State → Issue} {f : Nat → Bool × Flag}
    (work : g x (s.array x.core) s = writePred s x (s.array x.core) d m f) :
    s.WritesPred x d m (vectorWord s g) f := by
  obtain ⟨t, next, only, core⟩ := vectorWord_setArray issued array work
  refine ⟨t, next, only, fun l lane => ?_, fun n other => ?_, ?_⟩
  · rw [core, ArrayCore.pred]
    simp only [ArrayCore.raise, mapGet_mapSet_same, getLsbD_predOf _ lane]
  · rw [core, ArrayCore.pred]
    exact mapGet_mapSet_other _ other ..
  · rw [core]
    rfl

include dest

theorem writesPred_of_cmpWord (f : Nat → Nat → Bool × Flag) :
    s.WritesPred x d m (cmpWord d a b m s f) fun l => f (vget x (s.array x.core) a l) (vget x (s.array x.core) b l) :=
  writesPred_of_writePred issued array (if_pos (isPred6_of_lt dest))

theorem writesPred_of_predWord (source_a : a.toNat < 16) (source_b : b.toNat < 16) (f : Bool → Bool → Bool) :
    s.WritesPred x d m (predWord d a b m s f) fun l =>
      (f (((s.array x.core).pred (rotP x.base a.toNat)).getLsbD l)
        (((s.array x.core).pred (rotP x.base b.toNat)).getLsbD l), noFlag) :=
  writesPred_of_writePred issued array (if_pos (by
    simp only [isPred6_of_lt dest, isPred6_of_lt source_a, isPred6_of_lt source_b, Bool.and_self]))

end

/-- What holds of words that are listed where a condition fails. -/
theorem forall_mem_ite_nil {α : Type} {c : Prop} [Decidable c] {l : List α} {p : α → Prop}
    (all : ¬c → ∀ a ∈ l, p a) : ∀ a ∈ if c then [] else l, p a := by
  split
  · exact fun a none_there => absurd none_there (List.not_mem_nil)
  · next outside => exact all outside

/-- Settles O38: each word writes the lanes that stand beside it. -/
theorem vectorWordsComplete : Obligations.VectorWordsComplete := by
  intro s x d a b m issued array k rm u fp w lane32 rounded nearest tree p listed
  change s.WritesLanes x d (exec p.1 s) p.2.1 p.2.2.1 p.2.2.2
  revert p
  simp only [List.forall_mem_append]
  refine ⟨⟨⟨?always, forall_mem_ite_nil fun selects => ?select⟩, forall_mem_ite_nil fun small => ?broadcast⟩,
    forall_mem_ite_nil fun small => ?slide⟩ <;>
    simp only [List.forall_mem_cons, List.not_mem_nil, false_implies, implies_true, and_true] <;> dsimp only [exec]
  case always =>
    have lane (f) := writesLanes_of_laneWord (d := d) (a := a) (b := b) (m := m) issued array f
    have lane1 (f) := writesLanes_of_laneWord1 (d := d) (a := a) (m := m) issued array f
    have nearest (g) := writesLanes_of_funWord (d := d) (a := a) (m := m) issued array g
    have reduce (i f) := writesLanes_of_reduceWord (d := d) (a := a) (m := m) issued array i f
    exact ⟨lane _, lane _, lane _, writesLanes_of_writeLanes issued array rfl, lane _, lane _, lane1 _, lane1 _,
      lane _, lane _, lane _, lane _, lane _, lane _, lane _, lane _,
      nearest _, nearest _, nearest _, nearest _, nearest _,
      writesLanes_of_writeLanes issued array rfl, lane1 _, writesLanes_of_writeLanes issued array rfl,
      reduce _ _, reduce _ _, reduce _ _, reduce _ _, reduce _ _, reduce _ _⟩
  case select => exact writesLanes_of_writeLanes issued array (if_neg selects)
  case broadcast =>
    exact writesLanes_of_writeLanes issued array (if_pos (isScalar6_of_lt (Nat.lt_of_not_le small)))
  case slide =>
    have scalar := isScalar6_of_lt (Nat.lt_of_not_le small)
    exact ⟨writesLanes_of_writeLanes issued array (if_pos scalar), writesLanes_of_writeLanes issued array (if_pos scalar)⟩

/-- Settles O39: the compares, and the words on predicates where their operands are such. -/
theorem predicateWordsComplete : Obligations.PredicateWordsComplete := by
  intro s x d a b m issued array dest k u fp bit p listed
  change s.WritesPred x d m (exec p.1 s) p.2
  revert p
  have compare (f) := writesPred_of_cmpWord (a := a) (b := b) (m := m) issued array dest f
  simp only [List.forall_mem_append]
  refine ⟨⟨?compares, forall_mem_ite_nil fun small => ?not⟩, forall_mem_ite_nil fun small => ?logic⟩ <;>
    simp only [List.forall_mem_cons, List.not_mem_nil, false_implies, implies_true, and_true] <;> dsimp only [exec]
  case compares =>
    exact ⟨compare _, compare _, compare _, compare _, compare _, compare _, compare _, compare _⟩
  case not => exact writesPred_of_predWord issued array dest (by omega) (by omega) fun p _ => !p
  case logic =>
    have combine := writesPred_of_predWord (m := m) issued array dest (a := a) (b := b) (by omega) (by omega)
    exact ⟨combine and, combine or, combine bne⟩

end Sys2Proof.Machine
end

section
/-! The loop words of an array task (09 R255 to R259; 07 R193): how each ends at a level of 0 to 5, where each faults, and
what a cursor does at a word that stands where the loops allow none. -/

namespace Sys2Proof.Machine

section
variable {s : State} {c : Nat} {k : ArrayCore} {t : Task} {lvl : BitVec 3} (sel : s.sel = .array c .S)
  (running : runningTask s c .S = some (k, t))
include sel running

/-! ### How a loop word ends -/

theorem loopWord_of_large (large : 6 ≤ lvl.toNat) (f : Nat → Word → ArrayCore → Task → LoopOut) :
    loopWord lvl s f = .next (arrayException s c .S .illegalOperand 0 0 0 t.cursors.s.pc) := by
  have no_level : isLevel lvl = false := decide_eq_false (by omega)
  simp only [loopWord, sel, running, no_level, Bool.false_eq_true, if_false]

variable (small : lvl.toNat < 6)
include small

section
variable {f : Nat → Word → ArrayCore → Task → LoopOut} {cause : Cause} {k1 : ArrayCore} {t1 : Task} {base : Nat}
  {addr : Word}

theorem loopWord_fault (out : f lvl.toNat t.cursors.s.pc k t = .fault cause) :
    loopWord lvl s f = .next (arrayException s c .S cause 0 0 0 t.cursors.s.pc) := by
  have level : isLevel lvl = true := decide_eq_true small
  simp only [loopWord, sel, running, level, if_true, out]

theorem loopWord_pass (out : f lvl.toNat t.cursors.s.pc k t = .pass k1 t1) :
    loopWord lvl s f = .next (s.setArray c { k1 with task := some (t1.pass .S (t.cursors.s.pc + 4)) }) := by
  have level : isLevel lvl = true := decide_eq_true small
  simp only [loopWord, sel, running, level, if_true, out]

theorem loopWord_branch (out : f lvl.toNat t.cursors.s.pc k t = .branch k1 t1 base addr) :
    loopWord lvl s f = .next (s.setArray c { k1 with rotBase := base, task := some (t1.branch base addr) }) := by
  have level : isLevel lvl = true := decide_eq_true small
  simp only [loopWord, sel, running, level, if_true, out]

end

/-! ### `lseq` -/

section
variable {r : BitVec 5} {len : BitVec 8} (rot : Bool)

/-- `lseq` where its body does not lie in the enclosing one, its level is open, or the trip count is too large. -/
theorem lseqWord_of_refused
    (refused : (0 < lvl.toNat ∧ ¬(t.level (lvl.toNat - 1)).active = true) ∨ (t.level lvl.toNat).active = true ∨
      (0 < lvl.toNat ∧
        (t.level (lvl.toNat - 1)).stop.toNat ≤ (t.cursors.s.pc + word (4 * (len.toNat + 1))).toNat) ∨
      2 ^ 32 ≤ (k.th.reg 96 r).toNat) :
    lseqWord rot lvl r len s = .next (arrayException s c .S .loopStructure 0 0 0 t.cursors.s.pc) := by
  refine loopWord_fault sel running small ?_
  obtain not_enclosed | is_open | outside | large := refused
  · simp only [if_pos not_enclosed]
  · simp only [if_pos is_open, ite_self]
  · simp only [if_pos outside, ite_self]
  · simp only [if_pos large, ite_self]

/-- `lseq` of a closed level whose body lies in the enclosing one (09 R255): the trip count decides. -/
theorem lseqWord_of_fits
    (fits : lvl.toNat = 0 ∨ (t.level (lvl.toNat - 1)).active = true ∧
      (t.cursors.s.pc + word (4 * (len.toNat + 1))).toNat < (t.level (lvl.toNat - 1)).stop.toNat)
    (closed : (t.level lvl.toNat).active = false) :
    let count := (k.th.reg 96 r).toNat
    let pc := t.cursors.s.pc
    let stop := pc + word (4 * (len.toNat + 1))
    let branch (t1 : Task) (addr : Word) : State :=
      s.setArray c { k with rotBase := t.cursors.s.base, task := some (t1.branch t.cursors.s.base addr) }
    (count = 0 → lseqWord rot lvl r len s = .next (branch t (stop + 4))) ∧
    (0 < count → count < 2 ^ 32 → lseqWord rot lvl r len s = .next (branch (t.setLevel lvl.toNat
      { t.level lvl.toNat with active := true, trip := count, iter := 0, rotate := rot, start := pc + 4, stop := stop })
      (pc + 4))) ∧
    (2 ^ 32 ≤ count → lseqWord rot lvl r len s = .next (arrayException s c .S .loopStructure 0 0 0 pc)) := by
  have enclosed : ¬(0 < lvl.toNat ∧ ¬(t.level (lvl.toNat - 1)).active = true) := fun ⟨inner, none_open⟩ =>
    fits.elim (fun outermost => by omega) (fun inside => none_open inside.1)
  have inside : ¬(0 < lvl.toNat ∧
      (t.level (lvl.toNat - 1)).stop.toNat ≤ (t.cursors.s.pc + word (4 * (len.toNat + 1))).toNat) := by omega
  have is_closed : ¬(t.level lvl.toNat).active = true := Bool.not_eq_true _ ▸ closed
  refine ⟨fun zero => loopWord_branch sel running small ?_, fun some_trips bounded => loopWord_branch sel running small ?_,
    fun large => lseqWord_of_refused sel running small rot (.inr (.inr (.inr large)))⟩
  · have counts : ¬2 ^ 32 ≤ (k.th.reg 96 r).toNat := by omega
    simp only [if_neg enclosed, if_neg is_closed, if_neg inside, if_neg counts, if_pos zero]
    rfl
  · simp only [if_neg enclosed, if_neg is_closed, if_neg inside, if_neg (Nat.not_le.2 bounded),
      if_neg (Nat.ne_of_gt some_trips)]
    rfl

end

/-! ### `lend` and `lbrk` -/

/-- `lend` at the end of the innermost level (09 R256, R257): its strides are applied, and it goes back or closes. -/
theorem execLend_at_end (is_open : (t.level lvl.toNat).active = true)
    (innermost : (t.level (lvl.toNat + 1)).active = false) (at_end : t.cursors.s.pc = (t.level lvl.toNat).stop) :
    let l := t.level lvl.toNat
    let base := if l.rotate then (t.cursors.s.base + 31) % 32 else t.cursors.s.base
    let branch (t1 : Task) (addr : Word) : State := s.setArray c
      { k with th := l.slots.foldl applyStride k.th, rotBase := base, task := some (t1.branch base addr) }
    (l.iter + 1 < l.trip →
      execLend lvl s = .next (branch (t.setLevel lvl.toNat { l with iter := l.iter + 1 }) l.start)) ∧
    (l.trip ≤ l.iter + 1 → execLend lvl s = .next (branch (t.setLevel lvl.toNat l.close) (t.cursors.s.pc + 4))) := by
  have fits : ¬((!(t.level lvl.toNat).active || (t.level (lvl.toNat + 1)).active ||
      t.cursors.s.pc != (t.level lvl.toNat).stop) = true) := by
    simp only [is_open, innermost, at_end, bne_self_eq_false, Bool.not_true, Bool.or_self, Bool.false_eq_true,
      not_false_eq_true]
  refine ⟨fun again => loopWord_branch sel running small (k1 := { k with th := _ }) ?_,
    fun last => loopWord_branch sel running small (k1 := { k with th := _ }) ?_⟩
  · simp only [if_neg fits, if_pos again]
    rfl
  · simp only [if_neg fits, if_neg (Nat.not_lt.2 last)]
    rfl

theorem execLend_of_refused (refused : (t.level lvl.toNat).active = false ∨ (t.level (lvl.toNat + 1)).active = true ∨
      t.cursors.s.pc ≠ (t.level lvl.toNat).stop) :
    execLend lvl s = .next (arrayException s c .S .loopStructure 0 0 0 t.cursors.s.pc) := by
  refine loopWord_fault sel running small (if_pos ?_)
  obtain is_closed | inner_open | elsewhere := refused
  · simp only [is_closed, Bool.not_false, Bool.true_or]
  · simp only [inner_open, Bool.or_true, Bool.true_or]
  · simp only [bne_iff_ne.2 elsewhere, Bool.or_true]

theorem execLbrk_of_open {r : BitVec 5} (is_open : (t.level lvl.toNat).active = true) :
    let branch (t1 : Task) (addr : Word) : State :=
      s.setArray c { k with rotBase := t.cursors.s.base, task := some (t1.branch t.cursors.s.base addr) }
    ((k.th.reg 96 r).toNat = 0 → execLbrk lvl r s = .next (branch t (t.cursors.s.pc + 4))) ∧
    ((k.th.reg 96 r).toNat ≠ 0 → execLbrk lvl r s =
      .next (branch { t with levels := closeFrom lvl.toNat t.levels } ((t.level lvl.toNat).stop + 4))) := by
  refine ⟨fun zero => loopWord_branch sel running small ?_, fun leaves => loopWord_branch sel running small ?_⟩
  · have is_zero : k.th.reg 96 r = 0 := BitVec.eq_of_toNat_eq zero
    simp only [is_open, Bool.not_true, Bool.false_eq_true, if_false, if_pos is_zero]
    rfl
  · have not_zero : ¬k.th.reg 96 r = 0 := fun zero => leaves (congrArg BitVec.toNat zero)
    simp only [is_open, Bool.not_true, Bool.false_eq_true, if_false, if_neg not_zero]
    rfl

theorem execLbrk_of_closed {r : BitVec 5} (is_closed : (t.level lvl.toNat).active = false) :
    execLbrk lvl r s = .next (arrayException s c .S .loopStructure 0 0 0 t.cursors.s.pc) :=
  loopWord_fault sel running small (by simp only [is_closed, Bool.not_false, if_true])

/-! ### Marks -/

section
variable {m : BitVec 8} (last : Bool)

theorem markWord_inside (counts : m ≠ 0) (is_open : (t.level lvl.toNat).active = true)
    (inside : t.cursors.s.pc.toNat + 4 * m.toNat < (t.level lvl.toNat).stop.toNat) :
    markWord last lvl m s = .next (s.setArray c
      { k with task := some ((t.mark .S lvl.toNat last (m.toNat + 1)).pass .S (t.cursors.s.pc + 4)) }) := by
  have before_end : decide ((t.level lvl.toNat).stop.toNat ≤ t.cursors.s.pc.toNat + 4 * m.toNat) = false :=
    decide_eq_false (by omega)
  exact loopWord_pass sel running small (by
    simp only [if_neg counts, is_open, before_end, Bool.not_true, Bool.or_self, Bool.false_eq_true, if_false])

theorem markWord_of_zero : markWord last lvl 0 s =
    .next (arrayException s c .S .illegalOperand 0 0 0 t.cursors.s.pc) :=
  loopWord_fault sel running small (if_pos rfl)

theorem markWord_of_refused (counts : m ≠ 0) (refused : (t.level lvl.toNat).active = false ∨
      (t.level lvl.toNat).stop.toNat ≤ t.cursors.s.pc.toNat + 4 * m.toNat) :
    markWord last lvl m s = .next (arrayException s c .S .loopStructure 0 0 0 t.cursors.s.pc) := by
  refine loopWord_fault sel running small ((if_neg counts).trans (if_pos ?_))
  obtain is_closed | to_end := refused
  · simp only [is_closed, Bool.not_false, Bool.true_or]
  · simp only [decide_eq_true to_end, Bool.or_true]

end

/-! ### Strides -/

section
variable {h : BitVec 1} {r : BitVec 5} {stride : BitVec 16}

/-- `lstride` of a level that is not active (09 R257). -/
theorem execLstride_of_closed (is_closed : (t.level lvl.toNat).active = false) :
    let l := t.level lvl.toNat
    let rest := l.slots.filter fun y => !(y.1 == (h == 1) && y.2.1 == r.toNat)
    let pass (t1 : Task) : State := s.setArray c { k with task := some (t1.pass .S (t.cursors.s.pc + 4)) }
    (stride = 0 → execLstride lvl h r stride s = .next (pass (t.setLevel lvl.toNat { l with slots := rest }))) ∧
    (stride ≠ 0 → rest.length < 4 → execLstride lvl h r stride s =
      .next (pass (t.setLevel lvl.toNat { l with slots := rest ++ [(h == 1, r.toNat, stride)] }))) := by
  have not_open : ¬(t.level lvl.toNat).active = true := Bool.not_eq_true _ ▸ is_closed
  refine ⟨fun removes => loopWord_pass sel running small ?_, fun sets room => loopWord_pass sel running small ?_⟩
  · simp only [if_neg not_open, if_pos removes]
  · simp only [if_neg not_open, if_neg sets, if_neg (Nat.not_le.2 room)]

theorem execLstride_of_refused (refused : (t.level lvl.toNat).active = true ∨ stride ≠ 0 ∧
      4 ≤ ((t.level lvl.toNat).slots.filter fun y => !(y.1 == (h == 1) && y.2.1 == r.toNat)).length) :
    execLstride lvl h r stride s = .next (arrayException s c .S .loopStructure 0 0 0 t.cursors.s.pc) := by
  refine loopWord_fault sel running small ?_
  obtain is_open | ⟨sets, full⟩ := refused
  · exact if_pos is_open
  · simp only [if_neg sets, if_pos full, ite_self]

end

end

/-- Settles O36, one lemma for each word. -/
theorem loopWordsComplete : Obligations.LoopWordsComplete := by
  intro s c k t lvl r len m h stride sel running small n pc base l count stop branch pass
  simp only [List.forall_mem_cons, List.not_mem_nil, false_implies, implies_true, and_true]
  dsimp only [exec]
  exact ⟨⟨lseqWord_of_fits sel running small false, lseqWord_of_fits sel running small true⟩,
    execLend_at_end sel running small, ⟨markWord_inside sel running small false, markWord_inside sel running small true⟩,
    execLstride_of_closed sel running small, execLbrk_of_open sel running small⟩

/-- No lane core has an L engine (07 R180). -/
theorem loopWord_of_lane {s u : State} {lvl : BitVec 3} (lane : ∀ c cur, s.sel ≠ .array c cur)
    (faulted : s.faulted .S (refusing .engineAbsent) = some u) (f : Nat → Word → ArrayCore → Task → LoopOut) :
    loopWord lvl s f = .next u := by
  unfold loopWord
  split
  case h_1 sel => exact absurd sel (lane _ _)
  case h_2 sel => exact absurd sel (lane _ _)
  case h_3 => exact scalarWord_refused (fun _ _ => rfl) faulted

/-- The loop words are `loopWord` of what each does on an array core. -/
theorem exec_loopWord (s : State) (lvl : BitVec 3) (r : BitVec 5) (len m : BitVec 8) (h : BitVec 1) (stride : BitVec 16) :
    ∀ i ∈ ([.lseq lvl r len, .lseqRot lvl r len, .lend lvl, .lfirst lvl m, .llast lvl m, .lstride lvl h r stride,
      .lbrk lvl r] : List Instr), ∃ f, exec i s = loopWord lvl s f := by
  simp only [List.forall_mem_cons, List.not_mem_nil, false_implies, implies_true, and_true]
  dsimp only [exec, execLseq, execLseqRot, lseqWord, execLend, execLfirst, execLlast, markWord, execLstride, execLbrk]
  exact ⟨⟨_, rfl⟩, ⟨_, rfl⟩, ⟨_, rfl⟩, ⟨_, rfl⟩, ⟨_, rfl⟩, ⟨_, rfl⟩, ⟨_, rfl⟩⟩

/-- A word that stands where the loops allow none faults at its place on the path (09 R256, R258). -/
theorem moveOf_of_badPlace {s : State} {c : Nat} {k : ArrayCore} {t : Task} {cur : Cursor} {e : PathEntry} {i : Instr}
    (is_word : notAWord .array e.raw = none) (free : behindWcnt t e.step = false) (inside : inWindowLimit k t cur = true)
    (decoded : decodeWord e.raw = .ok i) (allowed : failedRow t.info.priv e.raw i = none)
    (bad : badPlace t cur e = true) : moveOf s c k t cur e = .fault .loopStructure := by
  simp only [moveOf, is_word, free, inside, decoded, bad, allowed, Bool.not_true, Bool.or_self, Bool.false_eq_true, if_false,
    Bool.true_or, if_true]

/-- Settles O37: the lane core, levels 6 and 7, each word in its order, and the place on the path. -/
theorem loopWordsRefused : Obligations.LoopWordsRefused := by
  intro s u c k t lvl r len m h stride words
  refine ⟨fun lane faulted i listed => ?absent, fun sel running => ?refused,
    fun cur e i is_word free inside decoded allowed bad => ?bad_place⟩
  case absent =>
    obtain ⟨f, word⟩ := exec_loopWord s lvl r len m h stride i listed
    exact word.trans (loopWord_of_lane lane faulted f)
  case refused =>
    have opens (small) (refused) := And.intro
      (lseqWord_of_refused (r := r) (len := len) sel running (lvl := lvl) small false refused)
      (lseqWord_of_refused (r := r) (len := len) sel running (lvl := lvl) small true refused)
    have marks (small) (counts : m ≠ 0) (refused) := And.intro
      (markWord_of_refused sel running (lvl := lvl) small false counts refused)
      (markWord_of_refused sel running (lvl := lvl) small true counts refused)
    refine ⟨fun large i listed => ?level, fun small inner closed => ?not_enclosed, fun small is_open => ?is_open,
      fun small is_closed => ⟨?_, ?_, fun counts => ?_⟩, fun small zero => ?zero, fun small inner _ outside => ?outside,
      fun small large => ?trips, fun small refused => ?lend, fun small sets full => ?full,
      fun small counts to_end => ?to_end⟩
    case level =>
      obtain ⟨f, word⟩ := exec_loopWord s lvl r len m h stride i listed
      exact word.trans (loopWord_of_large sel running large f)
    case not_enclosed => exact opens small (.inl ⟨inner, Bool.not_eq_true _ ▸ closed⟩)
    case is_open =>
      have ⟨seq, rot⟩ := opens small (.inr (.inl is_open))
      exact ⟨seq, rot, execLstride_of_refused sel running small (.inl is_open)⟩
    · exact execLend_of_refused sel running small (.inl is_closed)
    · exact execLbrk_of_closed sel running small is_closed
    · exact marks small counts (.inl is_closed)
    case zero =>
      subst zero
      exact ⟨markWord_of_zero sel running small false, markWord_of_zero sel running small true⟩
    case outside => exact opens small (.inr (.inr (.inl ⟨inner, outside⟩)))
    case trips => exact opens small (.inr (.inr (.inr large)))
    case lend => exact execLend_of_refused sel running small (.inr refused)
    case full => exact execLstride_of_refused sel running small (.inr ⟨sets, full⟩)
    case to_end => exact marks small counts (.inr to_end)
  case bad_place =>
    refine moveOf_of_badPlace is_word free inside decoded allowed (Bool.or_eq_true_iff.2 (bad.imp ?_ ?_))
    · rintro ⟨taken, ends⟩
      simp only [taken, ends, beq_self_eq_true, Bool.and_self]
    · rintro ⟨rfl, marked, refused⟩
      simp only [beq_self_eq_true, bne_iff_ne.2 marked, Bool.or_eq_true_iff.2 refused, Bool.and_self]

end Sys2Proof.Machine
end

section
/-! The row moves between a vector register and a tile or an accumulator (09 R251 to R253), where the tile passes their
checks. -/

namespace Sys2Proof.Machine

theorem checked_of_allPass {cs : List Check} (pass : cs.all (·.ok) = true) (r : Issue) : checked cs r = r := by
  induction cs with
  | nil => rfl
  | cons k rest ih =>
    obtain ⟨passes, later⟩ := Bool.and_eq_true_iff.1 pass
    simp only [checked, passes, if_true, ih later]

/-- A row is written into a ready tile that no operation reads (09 R252). -/
theorem pickRow_of_unread {s : State} {x : Issuer} {h n : Nat} (picked : pickHandle s x h = .ok n)
    (unread : (x.entry s n).readers = 0) : pickRow s x h = .ok n := by
  simp only [pickRow, picked, unread, if_true]

/-- Settles O40: the checks of each move pass, and its row is read or written. -/
theorem rowMovesComplete : Obligations.RowMovesComplete := by
  intro s s1 x vd ta tb slot h n a issued array small k r c0 e hd img plain f
  have scalar := isScalar6_of_lt small
  refine ⟨fun handle picked => ⟨fun pass row => ?read, fun pass row => ?readConverted, fun unread pass row => ?write,
    fun unread pass admits same_fmt row => ?writeConverted⟩, fun acc below right row => ?readAcc⟩
  case read =>
    show execVtrd vd ta tb s = _
    refine vectorWord_done issued array ?_
    simp only [handle, scalar, picked, Pick.bind]
    exact (checked_of_allPass pass _).trans row
  case readConverted =>
    show execVtrdc vd ta tb s = _
    refine vectorWord_done issued array ?_
    simp only [handle, scalar, picked, Pick.bind]
    exact (checked_of_allPass pass _).trans row
  case write =>
    show execVtwr ta vd tb s = _
    refine vectorWord_done issued array ?_
    simp only [handle, scalar, pickRow_of_unread picked unread, Pick.bind]
    exact (checked_of_allPass pass _).trans row
  case writeConverted =>
    have slot_passes : (f.admits 1 && f.fmt == hd.fmt) = true := Bool.and_eq_true_iff.2 ⟨admits, beq_iff_eq.2 same_fmt⟩
    show execVtwrc ta vd tb slot s = _
    refine vectorWord_done issued array ?_
    simp only [handle, scalar, pickRow_of_unread picked unread, Pick.bind]
    refine (checked_of_allPass ?_ _).trans row
    rw [List.all_append, Bool.and_eq_true_iff]
    exact ⟨pass, Bool.and_eq_true_iff.2 ⟨slot_passes, rfl⟩⟩
  case readAcc =>
    have in_range : (decide (r ≤ 127) && decide (c0 ≤ 127)) = true :=
      Bool.and_eq_true_iff.2 ⟨decide_eq_true below, decide_eq_true right⟩
    show execVtrd vd ta tb s = _
    refine vectorWord_done issued array ?_
    simp only [acc, scalar]
    refine (checked_of_allPass ?_ _).trans row
    exact Bool.and_eq_true_iff.2 ⟨in_range, rfl⟩

end Sys2Proof.Machine
end

section
/-! The matrix words where they complete (10 R268 to R282): the operands are picked, the checks pass, and the word issues its
operation. -/

namespace Sys2Proof.Machine

section Words
variable {s s1 : State} {x : Issuer} {td ta tb : BitVec 6} {slot : BitVec 3} {n ea eb h key o : Nat}
  {f : Issuer → State → Issue} (issued : s.issuer .M = some x) (free : unitFull s x = false)
include issued free

/-! ### Any matrix word -/

theorem matrixWord_done (done : f x s = .done s1) : matrixWord s f = .next (x.passed .M s1) :=
  unitWord_done issued (by simp only [free, Bool.false_eq_true, if_false, done])

/-- A word whose work is its checks completes where they all pass (03 R104). -/
theorem matrixWord_of_allPass {cs : List Check} (pass : allPass cs = true) (work : f x s = checked cs (.done s1)) :
    matrixWord s f = .next (x.passed .M s1) :=
  matrixWord_done issued free (work.trans (checked_of_allPass pass _))

/-! ### Products -/

/-- `mma.z` adds to a cleared accumulator, `mma` to the one that stands (10 R268). -/
theorem mmaWord_of_allPass (clear : Bool) (acc : accOf s x td = some key)
    (source_a : pickSource s x (tileName x.kind ta) = .ok ea) (source_b : pickSource s x (tileName x.kind tb) = .ok eb)
    (pass : allPass (mmaChecks s x (x.fslot slot) (tileName x.kind ta) (tileName x.kind tb) ea eb
      (if clear then Acc.blank else getAcc s x key)) = true) :
    mmaWord clear td ta tb slot s = .next (x.passed .M (mmaIssue s x key (tileName x.kind ta) (tileName x.kind tb) ea eb
      (if clear then Acc.blank else getAcc s x key))) := by
  unfold mmaWord
  exact matrixWord_of_allPass issued free pass (by
    simp only [isDest_of_pickSource source_a, isDest_of_pickSource source_b, Bool.and_self, acc, source_a, source_b,
      Pick.bind])

theorem execMclr_of_acc (acc : accOf s x td = some key) :
    execMclr td s =
      .next (x.passed .M (issueOp (setAcc s x key Acc.blank) x (TileOp.blank x s.nextId .matrix))) := by
  unfold execMclr
  exact matrixWord_done issued free (by simp only [acc])

/-! ### Words that produce tiles -/

theorem execMout_of_allPass (tile : (tileName x.kind td).isDest = true) (acc : accOf s x ta = some key)
    (dest : pickDest s x (tileName x.kind td) = .ok n)
    (pass : allPass (moutChecks s x (x.fslot slot) (tileName x.kind td) n (getAcc s x key)) = true) :
    execMout td ta slot s = .next (x.passed .M
      (issueBuilt s x (tileName x.kind td) n [] (moutTile s x (x.fslot slot) (getAcc s x key)))) := by
  unfold execMout
  exact matrixWord_of_allPass issued free pass (by simp only [tile, acc, dest, Pick.bind])

section TwoTiles
variable (tile_d : (tileName x.kind td).isDest = true) (tile_a : (tileName x.kind ta).isDest = true)
  (source : pickSource s x (tileName x.kind ta) = .ok ea) (dest : pickDest s x (tileName x.kind td) = .ok n)
include tile_d tile_a source dest

theorem execTcvt_of_allPass
    (pass : allPass (tcvtChecks s x (x.fslot slot) (tileName x.kind td) (tileName x.kind ta) n ea) = true) :
    execTcvt td ta slot s = .next (x.passed .M
      (issueBuilt s x (tileName x.kind td) n [(tileName x.kind ta, ea)] (tcvtTile s x (x.fslot slot) ea))) := by
  unfold execTcvt
  exact matrixWord_of_allPass issued free pass (by
    simp only [tile_d, tile_a, Bool.and_self, if_true, source, dest, Pick.bind])

theorem execMtr_of_allPass (pass : allPass (mtrChecks s x (tileName x.kind td) (tileName x.kind ta) n ea) = true) :
    let b := transpose (x.entry s ea).header ((x.tiles s).image (x.entry s ea))
    execMtr td ta s = .next (x.passed .M
      (issueOp s x (resultOp s x (tileName x.kind td) n [(tileName x.kind ta, ea)] b.hdr.word b.image))) := by
  unfold execMtr
  exact matrixWord_of_allPass issued free pass (by
    simp only [tile_d, tile_a, Bool.and_self, if_true, source, dest, Pick.bind])

end TwoTiles

theorem execTzero_of_allPass (tile : (tileName x.kind td).isDest = true) (handle : tileName x.kind ta = .handle h)
    (source : pickHandle s x h = .ok ea) (dest : pickDest s x (tileName x.kind td) = .ok n)
    (pass : allPass (tzeroChecks s x (x.fslot slot) (tileName x.kind td) n ea) = true) :
    let b := zeroTile (x.fslot slot) (x.entry s ea).header.rows (x.entry s ea).header.cols
    execTzero td ta slot s = .next (x.passed .M
      (issueOp s x (resultOp s x (tileName x.kind td) n [(tileName x.kind ta, ea)] b.hdr.word b.image))) := by
  unfold execTzero
  exact matrixWord_of_allPass issued free pass (by simp only [tile, handle, source, dest, Pick.bind])

/-! ### Headers and codebooks -/

theorem execThdrRd_inside (tile : (tileName x.kind ta).isDest = true) (small : tb.toNat < 32)
    (source : pickSource s x (tileName x.kind ta) = .ok ea) (inside : localAt s x 32 32 (x.reg6 tb) = .ok o) :
    execThdrRd ta tb s = .next (x.passed .M (issueOp s x { TileOp.blank x s.nextId .matrix with
      imageAt := o, image := bytesOfNat 32 (x.entry s ea).hdr.toNat })) := by
  unfold execThdrRd
  exact matrixWord_done issued free (by
    simp only [tile, isScalar6_of_lt small, Bool.and_self, if_true, source, Pick.bind, inside])

theorem execThdrWr_of_allPass (handle : tileName x.kind td = .handle h) (small : tb.toNat < 32)
    (dest : pickFill s x h = .ok n) (inside : localAt s x 32 32 (x.reg6 tb) = .ok o)
    (pass : allPass (thdrChecks s x n (natOfBytes (readCore s x.kind x.core o 32))) = true) :
    let hd := retyped (natOfBytes (readCore s x.kind x.core o 32))
    execThdrWr td tb s = .next (x.passed .M (issueOp s x (resultOp s x (tileName x.kind td) n [] hd.word hd.bytes))) := by
  unfold execThdrWr
  exact matrixWord_of_allPass issued free pass (by
    simp only [handle, isScalar6_of_lt small, dest, Pick.bind, inside])

theorem execCbld_inside (array : x.kind = .array) (small : ta.toNat < 32) (named : slot ≠ 0)
    (inside : localAt s x 128 1024 (x.reg6 ta) = .ok o) :
    execCbld ta slot s =
      .next (x.passed .M (issueOp (loadBook s x slot o) x (TileOp.blank x s.nextId .matrix))) := by
  unfold execCbld
  exact matrixWord_done issued free (by
    simp only [array, isScalar6_of_lt small, bne_iff_ne.2 named, Bool.and_self, if_true, inside])

end Words

/-- Settles O41: `mma` and `mma.z` are one word, with the accumulator as it stands or cleared. -/
theorem productsComplete : Obligations.ProductsComplete := by
  intro s x td ta tb slot key ea eb issued free acc na nb
  simp only [List.forall_mem_cons, List.not_mem_nil, false_implies, implies_true, and_true]
  refine ⟨fun source_a source_b => ⟨?add, ?start⟩, execMclr_of_acc issued free acc⟩
  case add => exact mmaWord_of_allPass issued free false acc source_a source_b
  case start => exact mmaWord_of_allPass issued free true acc source_a source_b

/-- Settles O42, one lemma for each word. -/
theorem tileWordsComplete : Obligations.TileWordsComplete := by
  intro s x td ta tb slot tbl key n ea h issued free f d a hdr img stored
  refine ⟨execMout_of_allPass issued free, fun tile_d tile_a source dest => ⟨?convert, ?transpose⟩,
    execTzero_of_allPass issued free, fun o => execThdrRd_inside issued free, fun o => execThdrWr_of_allPass issued free,
    fun o => execCbld_inside issued free⟩
  case convert => exact execTcvt_of_allPass issued free tile_d tile_a source dest
  case transpose => exact execMtr_of_allPass issued free tile_d tile_a source dest

end Sys2Proof.Machine
end

section
/-! The copy words (11 R292 to R306). Where its operands are right, a word is its checks in the order of R292, said once for
each word: what it does where they pass and where one fails follow from that. -/

namespace Sys2Proof.Machine

/-! ### What a word answers -/

/-- What a word answers depends on what its agent's issue gives. -/
theorem unitWord_eq {s : State} {cur : Cursor} {x : Issuer} {f : Issuer → State → Issue} {r : Issue}
    (issued : s.issuer cur = some x) (work : f x s = r) : unitWord s cur f = unitWord s cur fun _ _ => r := by
  cases r with
  | done t => rw [unitWord_done issued work, unitWord_done issued rfl]
  | fault c a code => rw [unitWord_fault issued work, unitWord_fault issued rfl]
  | stay t => rw [unitWord_stay issued work, unitWord_stay issued rfl]
  | wait => rw [unitWord_wait issued work, unitWord_wait issued rfl]

theorem allPass_cons {k : Check} {cs : List Check} (passes : k.ok = true) (later : allPass cs = true) :
    allPass (k :: cs) = true :=
  Bool.and_eq_true_iff.2 ⟨passes, later⟩

section Ranges
variable {s : State} {x : Issuer} {gs : List Seg} {c : Cause} {adr : Nat}

theorem ranged_of_pass (pass : rangesPass s x gs) (r : Issue) : ranged s x gs r = r := by
  obtain ⟨few, pages, apertures, fit⟩ := pass
  simp only [ranged, if_neg (Nat.not_lt.2 few), pages, apertures, if_neg (Nat.not_lt.2 fit)]

theorem ranged_of_fault (bad : rangeFault s x gs = some (c, adr)) (r : Issue) : ranged s x gs r = .fault c adr 0 := by
  unfold rangeFault at bad
  unfold ranged
  split at bad
  next many =>
    cases bad
    exact if_pos many
  next few =>
    rw [if_neg few]
    cases pages : firstFault (pagePlace s x.info) (gs.filter fun g => g.page.isSome) with
    | some p =>
      obtain rfl : p = (c, adr) := by simpa only [pages, Option.some_or, Option.some.injEq] using bad
      rfl
    | none =>
      have apertures : firstFault (aperturePlace s x) (gs.filter fun g => g.page.isNone) = some (c, adr) := by
        simpa only [pages, Option.none_or] using bad
      simp only [apertures]

theorem ranged_checked_of_pass {cs : List Check} (pass : rangesPass s x gs) (good : allPass cs = true) (r : Issue) :
    ranged s x gs (checked cs r) = r :=
  (ranged_of_pass pass _).trans (checked_of_allPass good r)

theorem ranged_checked_of_firstBad {cs : List Check} {ck : Check} (pass : rangesPass s x gs)
    (bad : firstBad cs = some ck) (r : Issue) : ranged s x gs (checked cs r) = .fault ck.cause 0 ck.code :=
  (ranged_of_pass pass _).trans (checked_of_firstBad bad r)

section Lists
variable {need : Need} {base list : Word} {hd : Hdr} {off : Nat}

theorem listed_of_outside (outside : localAt s x 4 (4 * hd.rows) list = .error c) (f : Nat → List Seg → Issue) :
    listed s x need base list hd f = .fault c list.toNat 0 := by
  simp only [listed, outside]

theorem listed_of_inside (inside : localAt s x 4 (4 * hd.rows) list = .ok off) (f : Nat → List Seg → Issue) :
    let gs := rowSegs s x need base (rowBytes hd) (rowList s x off hd.rows)
    listed s x need base list hd f = ranged s x gs (f off gs) := by
  simp only [listed, inside]

end Lists

end Ranges

/-! ### Each word past its operands -/

section Words
variable {s : State} {x : Issuer} {d a b : BitVec 5} {td ta tb : BitVec 6} {n h off : Nat} {scope : BitVec 3} {c : Cause}
  (issued : s.issuer .D = some x)
include issued

theorem execTld_of_dest (small : ta.toNat < 32) (dest : pickDest s x (tileName x.kind td) = .ok n) :
    let va := (x.reg6 ta).toNat
    let cap := (x.entry s n).cap.toNat
    let q := (tileName x.kind td).sendQ
    let gs := segsOf s x.info .read va cap
    execTld td ta s = unitWord s .D fun _ _ =>
      if va % 32 ≠ 0 then .fault .alignment va 0
      else if cap = 0 then .no .tileCapacity
      else ranged s x gs (.done (issueCopy (startFill s x n q) x (.tld n q)
        (piecesOf (runsAt s x gs) [(.core (imageAt s x n), cap)]) (pinsOf s x gs) false)) := by
  unfold execTld
  exact unitWord_eq issued (by simp only [isScalar6_of_lt small, dest, Pick.bind]; rfl)

theorem tstWord_of_source (free : Bool) (small : ta.toNat < 32) (source : pickSource s x (tileName x.kind td) = .ok n) :
    let name := tileName x.kind td
    let va := (x.reg6 ta).toNat
    let e := x.entry s n
    let gs := segsOf s x.info .both va e.header.tlen
    tstWord free td ta s = unitWord s .D fun _ _ =>
      if va % 32 ≠ 0 then .fault .alignment va 0
      else ranged s x gs (checked [⟨check1 e.hdr.toNat, .headerIntegrity, name.code⟩,
          ⟨e.header.check3, .headerMismatch, name.code⟩, ⟨(x.tiles s).inRange e, .tileCapacity, name.code⟩]
        (.done (issueCopy (startDrain s x n name.sendQ) x (.tst n free name.sendQ)
          (piecesOf [(.core (imageAt s x n), e.header.tlen)] (runsAt s x gs)) (pinsOf s x gs) false))) := by
  unfold tstWord
  exact unitWord_eq issued (by simp only [isScalar6_of_lt small, source, Pick.bind]; rfl)

section Rows
variable (handle : tileName x.kind td = .handle h) (small_a : ta.toNat < 32) (small_b : tb.toNat < 32)
  (picked : pickHandle s x h = .ok n)
include handle small_a small_b picked

theorem execTgat_of_handle (unread : (x.entry s n).readers = 0) :
    let e := x.entry s n
    execTgat td ta tb s = unitWord s .D fun _ _ =>
      listed s x .read (x.reg6 ta) (x.reg6 tb) e.header fun off gs =>
        checked [⟨check1 e.hdr.toNat, .headerIntegrity, 0⟩, ⟨rowsAllowed e.header, .unsupportedCombination, 0⟩,
            ⟨(x.tiles s).fits e e.header.tlen, .tileCapacity, 0⟩]
          (.done (issueCopy (startFill s x n none) x (.tgat n) (rowPieces s x true .read (x.reg6 ta) (rowBytes e.header)
            (imageAt s x n) (rowList s x off e.header.rows)) (pinsOf s x gs) false)) := by
  unfold execTgat
  exact unitWord_eq issued (by
    simp only [handle, isScalar6_of_lt small_a, isScalar6_of_lt small_b, picked, Pick.bind, unread]
    rfl)

theorem execTsct_of_handle :
    let e := x.entry s n
    execTsct tb td ta s = unitWord s .D fun _ _ =>
      listed s x .write (x.reg6 ta) (x.reg6 tb) e.header fun off gs =>
        checked [⟨check1 e.hdr.toNat, .headerIntegrity, 0⟩, ⟨rowsAllowed e.header, .unsupportedCombination, 0⟩,
            ⟨e.header.check3, .headerMismatch, 0⟩, ⟨(x.tiles s).inRange e, .tileCapacity, 0⟩]
          (.done (issueCopy (startDrain s x n none) x (.tsct n) (rowPieces s x false .write (x.reg6 ta) (rowBytes e.header)
            (imageAt s x n) (rowList s x off e.header.rows)) (pinsOf s x gs) false)) := by
  unfold execTsct
  exact unitWord_eq issued (by
    simp only [handle, isScalar6_of_lt small_a, isScalar6_of_lt small_b, picked, Pick.bind]
    rfl)

end Rows

theorem execDcpy_of_length (some_bytes : (x.reg b).toNat ≠ 0) :
    let src := segsOf s x.info .read (x.reg a).toNat (x.reg b).toNat
    let dst := segsOf s x.info .write (x.reg d).toNat (x.reg b).toNat
    execDcpy d a b s = unitWord s .D fun _ _ => ranged s x (src ++ dst)
      (.done (issueCopy s x .dcpy (piecesOf (runsAt s x src) (runsAt s x dst)) (pinsOf s x (src ++ dst)) false)) :=
  unitWord_eq issued (if_neg some_bytes)


theorem lineWord_of_length (k : CopyKind) (some_bytes : (x.reg b).toNat ≠ 0) :
    let first := (x.reg a).toNat / 128 * 128
    let gs := segsOf s x.info .read first (((x.reg a).toNat + (x.reg b).toNat + 127) / 128 * 128 - first)
    lineWord k a b s = unitWord s .D fun _ _ => ranged s x gs
      (.done (issueCopy s x k (piecesOf (runsAt s x gs) [(.zero, ((runsAt s x gs).map (·.2)).sum)]) (pinsOf s x gs) false)) :=
  unitWord_eq issued (if_neg some_bytes)

/-- A word on rows takes the fault of its list, of its rows, or of the first of its checks that fails (11 R292, R296). -/
theorem unitWord_listed_fault {need : Need} {base list : Word} {hd : Hdr} {cs : List Check} {done : Nat → List Seg → Issue}
    {adr : Nat} {ck : Check} {answer : Answer}
    (word : answer = unitWord s .D fun _ _ => listed s x need base list hd fun off gs => checked cs (done off gs)) :
    let gs := rowSegs s x need base (rowBytes hd) (rowList s x off hd.rows)
    (localAt s x 4 (4 * hd.rows) list = .error c → answer = .next (x.trapped .D s c list.toNat 0)) ∧
    (localAt s x 4 (4 * hd.rows) list = .ok off →
      (rangeFault s x gs = some (c, adr) → answer = .next (x.trapped .D s c adr 0)) ∧
      (rangesPass s x gs → firstBad cs = some ck → answer = .next (x.trapped .D s ck.cause 0 ck.code))) := by
  subst word
  refine ⟨fun outside => ?list, fun inside => ⟨fun bad => ?rows, fun pass bad => ?checks⟩⟩
  case list => exact unitWord_fault issued (listed_of_outside outside _)
  case rows => exact unitWord_fault issued ((listed_of_inside inside _).trans (ranged_of_fault bad _))
  case checks => exact unitWord_fault issued ((listed_of_inside inside _).trans (ranged_checked_of_firstBad pass bad _))

/-! ### Nothing to copy, and operands of a wrong kind -/

theorem execDcpy_of_empty (no_bytes : (x.reg b).toNat = 0) : execDcpy d a b s = .next (x.passed .D (issueEmpty s x)) :=
  unitWord_done issued (if_pos no_bytes)

theorem lineWord_of_empty (k : CopyKind) (no_bytes : (x.reg b).toNat = 0) :
    lineWord k a b s = .next (x.passed .D (issueEmpty s x)) :=
  unitWord_done issued (if_pos no_bytes)

theorem execTld_of_large (large : 32 ≤ ta.toNat) : execTld td ta s = .next (x.trapped .D s .illegalOperand 0 0) :=
  unitWord_fault issued (by simp only [isScalar6_of_le large]; rfl)

theorem tstWord_of_large (free : Bool) (large : 32 ≤ ta.toNat) :
    tstWord free td ta s = .next (x.trapped .D s .illegalOperand 0 0) :=
  unitWord_fault issued (by simp only [isScalar6_of_le large]; rfl)

section RowOperands
variable (wrong : 32 ≤ ta.toNat ∨ 32 ≤ tb.toNat ∨ ∀ m, tileName x.kind td ≠ .handle m)
include wrong

theorem execTgat_of_operand : execTgat td ta tb s = .next (x.trapped .D s .illegalOperand 0 0) := by
  unfold execTgat
  refine unitWord_fault issued ?_
  cases name : tileName x.kind td with
  | queue | acc | none => simp only [Issue.no]
  | handle m =>
    obtain large | large | no_handle := wrong
    · simp only [isScalar6_of_le large]; rfl
    · simp only [isScalar6_of_le large, Bool.not_false, Bool.or_true]; rfl
    · exact absurd name (no_handle m)

theorem execTsct_of_operand : execTsct tb td ta s = .next (x.trapped .D s .illegalOperand 0 0) := by
  unfold execTsct
  refine unitWord_fault issued ?_
  cases name : tileName x.kind td with
  | queue | acc | none => simp only [Issue.no]
  | handle m =>
    obtain large | large | no_handle := wrong
    · simp only [isScalar6_of_le large, Bool.not_false, Bool.or_true]; rfl
    · simp only [isScalar6_of_le large]; rfl
    · exact absurd name (no_handle m)

end RowOperands

/-! ### Flags -/

/-- `dflag` has the scopes `.dev` and `.sys` (11 R302). -/
theorem execDflag_of_scope (dev : scope ≠ 4) (sys : scope ≠ 5) :
    execDflag d a scope s = .next (x.trapped .D s .illegalOperand 0 0) :=
  unitWord_fault issued (if_pos (by simp only [beq_eq_false_iff_ne.2 dev, beq_eq_false_iff_ne.2 sys]; rfl))

section Flags
variable (named : scope = 4 ∨ scope = 5)
include named

omit issued in
theorem dflagScope_named : ¬(!(scope == 4 || scope == 5)) = true := by
  obtain rfl | rfl := named <;> decide

theorem execDflag_of_misaligned (misaligned : (x.reg d).toNat % 8 ≠ 0) :
    execDflag d a scope s = .next (x.trapped .D s .alignment (x.reg d).toNat 0) :=
  unitWord_fault issued ((if_neg (dflagScope_named named)).trans (if_pos misaligned))

variable (aligned : (x.reg d).toNat % 8 = 0)
include aligned

theorem execDflag_of_rangeFault {adr : Nat}
    (bad : rangeFault s x (segsOf s x.info .write (x.reg d).toNat 8) = some (c, adr)) :
    execDflag d a scope s = .next (x.trapped .D s c adr 0) :=
  unitWord_fault issued
    ((if_neg (dflagScope_named named)).trans ((if_neg (not_not_intro aligned)).trans (ranged_of_fault bad _)))

end Flags

end Words

/-- Settles O44: each word past its operands, its ranges and its checks. -/
theorem tileCopiesComplete : Obligations.TileCopiesComplete := by
  intro s x td ta tb n h off issued d va e cap tlen image rows rb
  refine ⟨fun small dest aligned room pass => ?load, fun small source aligned pass integrity dims in_range => ?store,
    fun handle small_a small_b picked integrity allowed inside => ⟨fun unread fits pass => ?gather,
      fun dims in_range pass => ?scatter⟩⟩
  case load =>
    refine (execTld_of_dest issued small dest).trans (unitWord_done issued ?_)
    exact (if_neg (not_not_intro aligned)).trans ((if_neg room).trans (ranged_of_pass pass _))
  case store =>
    have stores (free : Bool) := (tstWord_of_source issued free small source).trans (unitWord_done issued
      ((if_neg (not_not_intro aligned)).trans (ranged_checked_of_pass pass
        (allPass_cons integrity (allPass_cons dims (allPass_cons in_range rfl))) _)))
    exact List.forall_mem_cons.2 ⟨stores false, List.forall_mem_singleton.2 (stores true)⟩
  case gather =>
    refine (execTgat_of_handle issued handle small_a small_b picked unread).trans (unitWord_done issued ?_)
    exact (listed_of_inside inside _).trans (ranged_checked_of_pass pass
      (allPass_cons integrity (allPass_cons allowed (allPass_cons fits rfl))) _)
  case scatter =>
    refine (execTsct_of_handle issued handle small_a small_b picked).trans (unitWord_done issued ?_)
    exact (listed_of_inside inside _).trans (ranged_checked_of_pass pass
      (allPass_cons integrity (allPass_cons allowed (allPass_cons dims (allPass_cons in_range rfl)))) _)

/-- Settles O45: the commands past their ranges, and the words on batches by the state of their batch. -/
theorem copiesAndBatchesComplete : Obligations.CopiesAndBatchesComplete := by
  intro s x d a b scope issued len src dst va flag first lines batch num
  refine ⟨fun some_bytes pass => ?copy, fun no_bytes => ?empty, fun named aligned pass => ?flag,
    fun some_bytes pass => ?lines, fun few => ?closes, fun many => ?full, fun known => ?wait, fun numbered unknown => ?unknown⟩
  case copy => exact (execDcpy_of_length issued some_bytes).trans (unitWord_done issued (ranged_of_pass pass _))
  case empty =>
    simp only [List.forall_mem_cons, List.not_mem_nil, false_implies, implies_true, and_true]
    exact ⟨execDcpy_of_empty issued no_bytes, lineWord_of_empty issued .cflush no_bytes,
      lineWord_of_empty issued .cinval no_bytes⟩
  case flag =>
    show execDflag d a scope s = _
    exact unitWord_done issued
      ((if_neg (dflagScope_named named)).trans ((if_neg (not_not_intro aligned)).trans (ranged_of_pass pass _)))
  case lines =>
    have completes (k : CopyKind) :=
      (lineWord_of_length issued k some_bytes).trans (unitWord_done issued (ranged_of_pass pass _))
    exact ⟨completes .cflush, completes .cinval⟩
  case closes =>
    show execDseal d s = _
    exact unitWord_done issued (if_neg (Nat.not_le.2 few))
  case full =>
    show execDseal d s = _
    exact unitWord_wait issued (if_pos many)
  case wait =>
    have not_refused : ¬(num ≠ 0 ∧ (!batch.names num) = true) := by
      rintro ⟨numbered, unknown⟩
      simp only [known.resolve_left numbered, Bool.not_true, Bool.false_eq_true] at unknown
    intro place
    show execDwait a s = _
    by_cases complete : batch.doneTo place = true
    · rw [if_pos complete]
      exact unitWord_done issued ((if_neg not_refused).trans (if_pos complete))
    · rw [if_neg complete]
      exact unitWord_wait issued ((if_neg not_refused).trans (if_neg complete))
  case unknown =>
    show execDwait a s = _
    exact unitWord_fault issued (if_pos ⟨numbered, congrArg not unknown⟩)

/-- Settles O46: each word past its operands takes the fault of the first of its checks that fails. -/
theorem copyFaultsArePrecise : Obligations.CopyFaultsArePrecise := by
  intro s x d a b td ta tb scope n h off c adr ck issued len src dst va_d flag first lines name va e hd trap list rows rowsOf
    image
  refine ⟨fun some_bytes bad => ?copy, fun some_bytes bad => ?lines, execDflag_of_scope issued,
    execDflag_of_misaligned issued, fun named aligned => execDflag_of_rangeFault issued named aligned,
    fun small dest => ?load, fun small source => ?store, fun handle small_a small_b picked => ?rows, fun large => ?large,
    fun wrong => ?operand⟩
  case copy => exact (execDcpy_of_length issued some_bytes).trans (unitWord_fault issued (ranged_of_fault bad _))
  case lines =>
    have faults (k : CopyKind) :=
      (lineWord_of_length issued k some_bytes).trans (unitWord_fault issued (ranged_of_fault bad _))
    exact ⟨faults .cflush, faults .cinval⟩
  case load =>
    refine ⟨fun misaligned => ?_, fun aligned empty => ?_, fun aligned room bad => ?_⟩ <;>
      refine (execTld_of_dest issued small dest).trans (unitWord_fault issued ?_)
    · exact if_pos misaligned
    · exact (if_neg (not_not_intro aligned)).trans (if_pos empty)
    · exact (if_neg (not_not_intro aligned)).trans ((if_neg room).trans (ranged_of_fault bad _))
  case store =>
    intro gs i listed
    have words : ∀ i ∈ ([.tst td ta, .tstF td ta] : List Instr), ∃ free, exec i s = tstWord free td ta s :=
      List.forall_mem_cons.2 ⟨⟨false, rfl⟩, List.forall_mem_singleton.2 ⟨true, rfl⟩⟩
    obtain ⟨free, word⟩ := words i listed
    rw [word, tstWord_of_source issued free small source]
    refine ⟨fun misaligned => ?_, fun aligned bad => ?_, fun aligned pass bad => ?_⟩ <;> refine unitWord_fault issued ?_
    · exact if_pos misaligned
    · exact (if_neg (not_not_intro aligned)).trans (ranged_of_fault bad _)
    · exact (if_neg (not_not_intro aligned)).trans (ranged_checked_of_firstBad pass bad _)
  case rows =>
    refine List.forall_mem_cons.2 ⟨fun unread => ?gather, List.forall_mem_singleton.2 fun _ => ?scatter⟩
    case gather =>
      exact unitWord_listed_fault issued (execTgat_of_handle issued handle small_a small_b picked (unread rfl))
    case scatter => exact unitWord_listed_fault issued (execTsct_of_handle issued handle small_a small_b picked)
  case large =>
    simp only [List.forall_mem_cons, List.not_mem_nil, false_implies, implies_true, and_true]
    exact ⟨execTld_of_large issued large, tstWord_of_large issued false large, tstWord_of_large issued true large,
      execTgat_of_operand issued (.inl large), execTsct_of_operand issued (.inl large)⟩
  case operand =>
    exact List.forall_mem_cons.2 ⟨execTgat_of_operand issued (.inr wrong),
      List.forall_mem_singleton.2 (execTsct_of_operand issued (.inr wrong))⟩

end Sys2Proof.Machine
end

section
/-! The queue words (11 R308 to R318) of an array core: what each does where its queue, its descriptor and its tile pass their
checks, and the fault of the first that fails. -/

namespace Sys2Proof.Machine

/-! ### Checks on a queue -/

section Checks
variable {s : State} {x : Issuer} {q : Nat} {c : Cause} (free : unbinding (s.array x.core) q = false)
include free

theorem pickSend_of_sendCheck (bad : sendCheck ((s.array x.core).queue q) = some c) : pickSend s x q = .fault c q := by
  simp only [pickSend, free, Bool.false_eq_true, if_false, bad]

theorem pickHead_of_receiveCheck (bad : receiveCheck (s.array x.core) ((s.array x.core).queue q) = some c) :
    pickHead s x q = .fault c q := by
  simp only [pickHead, free, Bool.false_eq_true, if_false, bad]

end Checks

theorem sendCheck_eq (b : Binding) :
    sendCheck b = if b.dir = .unbound then some .queueUnbound else if b.dir = .receive then some .queueDirection
      else if b.xoff = true then some (stopCause b) else none := by
  unfold sendCheck
  cases b.dir <;> rfl

/-- A binding takes one number of the module; the entries of its pool take none (05 R134). -/
theorem bindQueue_nextId (s : State) (c q : Nat) (dir : Dir) (d : QDesc) :
    (bindQueue s c q dir d).nextId = s.nextId + 1 := by
  have kept (f : Nat → TileEntry → TileEntry) (ks : List Nat) (u : State) :
      (ks.foldl (fun s k => onTile s .array c 0 (d.base + k) (f k)) u).nextId = u.nextId := by
    induction ks generalizing u with
    | nil => rfl
    | cons k rest ih => exact ih _
  exact kept _ _ _

theorem isWidth_of_mem {w : BitVec 4} (one_of : w.toNat ∈ [1, 2, 4, 8]) : isWidth w = true := by
  revert w
  decide

/-! ### Each word past its operands -/

section Words
variable {s : State} {x : Issuer} {tq ta tt : BitVec 6} {width : BitVec 4} {h n src o code : Nat} {c : Cause}
  (issued : s.issuer .Q = some x) (array : x.kind = .array) (low : 32 ≤ tq.toNat) (high : tq.toNat < 48)
include issued array low high

theorem queueWord_eq {g : Issuer → Nat → State → Issue} {r : Issue} (work : g x (tq.toNat - 32) s = r) :
    queueWord s tq g = unitWord s .Q fun _ _ => r :=
  unitWord_eq issued (by
    simp only [array, isQueue, decide_eq_true low, decide_eq_true high, Bool.and_self, if_true, work])

theorem queueWord_done {g : Issuer → Nat → State → Issue} {t : State} (work : g x (tq.toNat - 32) s = .done t) :
    queueWord s tq g = .next (x.passed .Q t) :=
  (queueWord_eq issued array low high work).trans (unitWord_done issued rfl)

theorem queueWord_fault {g : Issuer → Nat → State → Issue} {a : Nat} (work : g x (tq.toNat - 32) s = .fault c a code) :
    queueWord s tq g = .next (x.trapped .Q s c a code) :=
  (queueWord_eq issued array low high work).trans (unitWord_fault issued rfl)

/-! ### Tiles through queues -/

section Tiles
variable (handle : tileName x.kind tt = .handle h)
include handle

theorem qsendWord_of_handle (source : pickHandle s x h = .fault c code) (free : Bool) :
    qsendWord free tq tt s = .next (x.trapped .Q s c 0 code) :=
  queueWord_fault issued array low high (by simp only [handle, source, Pick.bind])

theorem qsendWord_of_queue (source : pickHandle s x h = .ok src) (dest : pickSend s x (tq.toNat - 32) = .fault c code)
    (free : Bool) : qsendWord free tq tt s = .next (x.trapped .Q s c 0 code) :=
  queueWord_fault issued array low high (by simp only [handle, source, dest, Pick.bind])

theorem qsendWord_of_entries (source : pickHandle s x h = .ok src) (dest : pickSend s x (tq.toNat - 32) = .ok n)
    (free : Bool) :
    let q := tq.toNat - 32
    let e := x.entry s src
    qsendWord free tq tt s = unitWord s .Q fun _ _ =>
      checked [⟨check1 e.hdr.toNat, .headerIntegrity, 0⟩, ⟨e.header.check3, .headerMismatch, 0⟩,
          ⟨(x.tiles s).inRange e && fitsDest s x (.queue q) n e.header.tlen, .tileCapacity, 0⟩]
        (.done (issueOp s x { resultOp s x (.queue q) n [] e.hdr
          (readCore s .array x.core e.lsoff.toNat e.header.tlen) with drain := some (src, free) })) :=
  queueWord_eq issued array low high (by simp only [handle, source, dest, Pick.bind])

theorem execQrecv_of_queue (source : pickHead s x (tq.toNat - 32) = .fault c code) :
    execQrecv tt tq s = .next (x.trapped .Q s c 0 code) :=
  queueWord_fault issued array low high (by simp only [handle, source, Pick.bind])

theorem execQrecv_of_handle (source : pickHead s x (tq.toNat - 32) = .ok src) (dest : pickFill s x h = .fault c code) :
    execQrecv tt tq s = .next (x.trapped .Q s c 0 code) :=
  queueWord_fault issued array low high (by simp only [handle, source, dest, Pick.bind])

theorem execQrecv_of_entries (source : pickHead s x (tq.toNat - 32) = .ok src) (dest : pickFill s x h = .ok n) :
    let q := tq.toNat - 32
    let e := x.entry s src
    execQrecv tt tq s = unitWord s .Q fun _ _ =>
      checked [⟨check1 e.hdr.toNat, .headerIntegrity, q⟩, ⟨e.header.check3, .headerMismatch, q⟩,
          ⟨(x.tiles s).inRange e && fitsDest s x (.handle h) n e.header.tlen, .tileCapacity, q⟩]
        (.done (issueOp s x (resultOp s x (.handle h) n [(.queue q, src)] e.hdr
          (readCore s .array x.core e.lsoff.toNat e.header.tlen)))) :=
  queueWord_eq issued array low high (by simp only [handle, source, dest, Pick.bind])

end Tiles

theorem qsendWord_of_no_handle (no_handle : ∀ m, tileName x.kind tt ≠ .handle m) (free : Bool) :
    qsendWord free tq tt s = .next (x.trapped .Q s .illegalOperand 0 0) := by
  cases name : tileName x.kind tt with
  | handle m => exact absurd name (no_handle m)
  | queue | acc | none => exact queueWord_fault issued array low high (by simp only [name, Issue.no])

theorem execQrecv_of_no_handle (no_handle : ∀ m, tileName x.kind tt ≠ .handle m) :
    execQrecv tt tq s = .next (x.trapped .Q s .illegalOperand 0 0) := by
  cases name : tileName x.kind tt with
  | handle m => exact absurd name (no_handle m)
  | queue | acc | none => exact queueWord_fault issued array low high (by simp only [name, Issue.no])

/-! ### The queue itself -/

section Bound
variable (free : unbinding (s.array x.core) (tq.toNat - 32) = false)
include free

section Descriptor
variable (dir : Dir) (small : ta.toNat < 32)
include small

theorem qbindWord_of_outside (outside : localAt s x 16 16 (x.reg6 ta) = .error c) :
    qbindWord dir tq ta s = .next (x.trapped .Q s c (x.reg6 ta).toNat 0) :=
  queueWord_fault issued array low high (by
    simp only [isScalar6_of_lt small, free, outside, Bool.not_true, Bool.false_eq_true, if_false])

section Read
variable (inside : localAt s x 16 16 (x.reg6 ta) = .ok o)
include inside

theorem qbindWord_of_unbindable
    (unbindable : bindable s x.core (tq.toNat - 32) (qdescOf (natOfBytes (readCore s .array x.core o 16))) = false) :
    qbindWord dir tq ta s = .next (x.trapped .Q s .illegalOperand 0 0) :=
  queueWord_fault issued array low high (by
    simp only [isScalar6_of_lt small, free, inside, unbindable, Bool.not_true, Bool.not_false, Bool.false_eq_true, if_false,
      if_true, Issue.no])

variable (fits : bindable s x.core (tq.toNat - 32) (qdescOf (natOfBytes (readCore s .array x.core o 16))) = true)
include fits

theorem qbindWord_of_absent (absent : channelReady s (qdescOf (natOfBytes (readCore s .array x.core o 16))) = false) :
    qbindWord dir tq ta s = .next (x.trapped .Q s .peerUnreachable 0 (tq.toNat - 32)) :=
  queueWord_fault issued array low high (by
    simp only [isScalar6_of_lt small, free, inside, fits, absent, Bool.not_true, Bool.not_false, Bool.false_eq_true, if_false,
      if_true])

theorem qbindWord_of_ready (ready : channelReady s (qdescOf (natOfBytes (readCore s .array x.core o 16))) = true) :
    let bound := bindQueue s x.core (tq.toNat - 32) dir (qdescOf (natOfBytes (readCore s .array x.core o 16)))
    qbindWord dir tq ta s = .next (x.passed .Q (issueOp bound x (TileOp.blank x bound.nextId .matrix))) :=
  queueWord_done issued array low high (by
    simp only [isScalar6_of_lt small, free, inside, fits, ready, Bool.not_true, Bool.false_eq_true, if_false])

end Read

end Descriptor

section Whole
variable (whole : forming (s.array x.core) ((s.array x.core).queue (tq.toNat - 32)) = false)
include whole

theorem execQunbind_of_unbound (unbound : ((s.array x.core).queue (tq.toNat - 32)).dir = .unbound) :
    execQunbind tq s = .next (x.trapped .Q s .queueUnbound 0 (tq.toNat - 32)) :=
  queueWord_fault issued array low high (by
    simp only [free, whole, unbound, Bool.or_self, Bool.false_eq_true, if_false, if_true])

theorem execQunbind_of_send (send : ((s.array x.core).queue (tq.toNat - 32)).dir = .send) :
    let q := tq.toNat - 32
    execQunbind tq s = .next (x.passed .Q
      (issueOp (discardUntaken s x.core q) x (TileOp.blank x s.nextId (.unbind q)))) :=
  queueWord_done issued array low high (by
    simp only [free, whole, send, Bool.or_self, Bool.false_eq_true, reduceCtorEq, if_false, if_true])

theorem execQunbind_of_receive (receive : ((s.array x.core).queue (tq.toNat - 32)).dir = .receive) :
    let q := tq.toNat - 32
    execQunbind tq s = .next (x.passed .Q (issueOp (onQueue s x.core q fun b => { b with fifo := [], filling := none }) x
      (TileOp.blank x s.nextId (.unbind q)))) :=
  queueWord_done issued array low high (by
    simp only [free, whole, receive, Bool.or_self, Bool.false_eq_true, reduceCtorEq, if_false])

theorem execQdrop_of_unbound (unbound : ((s.array x.core).queue (tq.toNat - 32)).dir = .unbound) :
    execQdrop tq s = .next (x.trapped .Q s .queueUnbound 0 (tq.toNat - 32)) :=
  queueWord_fault issued array low high (by
    simp only [free, whole, unbound, Bool.or_self, Bool.false_eq_true, if_false])

theorem execQdrop_of_send (send : ((s.array x.core).queue (tq.toNat - 32)).dir = .send) :
    let q := tq.toNat - 32
    execQdrop tq s = .next (x.passed .Q
      (placeMarks (issueOp (discardUntaken s x.core q) x (TileOp.blank x s.nextId .matrix)) x.core q)) :=
  queueWord_done issued array low high (by simp only [free, whole, send, Bool.or_self, Bool.false_eq_true, if_false])

theorem execQdrop_of_receive (receive : ((s.array x.core).queue (tq.toNat - 32)).dir = .receive) :
    let q := tq.toNat - 32
    let k := s.array x.core
    let ready := (k.queue q).fifo.filter fun i => (mapGet TileEntry.blank k.tiles i).st == .ready
    let emptied := ready.foldl (fun s i => onTile s .array x.core 0 i fun y => { y with st := .empty }) s
    execQdrop tq s = .next (x.passed .Q (issueOp (onQueue emptied x.core q fun b =>
      { b with fifo := b.filling.toList }.giveBack ready.length) x (TileOp.blank x s.nextId .matrix))) :=
  queueWord_done issued array low high (by simp only [free, whole, receive, Bool.or_self, Bool.false_eq_true, if_false])

end Whole

section Stopped
variable (bad : sendCheck ((s.array x.core).queue (tq.toNat - 32)) = some c)
include bad

theorem qmarkWord_of_sendCheck (small : ta.toNat < 32) (isEnd : Bool) :
    qmarkWord isEnd tq ta s = .next (x.trapped .Q s c 0 (tq.toNat - 32)) :=
  queueWord_fault issued array low high (by
    simp only [isScalar6_of_lt small, free, bad, Bool.not_true, Bool.false_eq_true, if_false])

theorem execQwidth_of_sendCheck (one_of : width.toNat ∈ [1, 2, 4, 8]) :
    execQwidth tq width s = .next (x.trapped .Q s c 0 (tq.toNat - 32)) :=
  queueWord_fault issued array low high (by
    simp only [isWidth_of_mem one_of, free, bad, Bool.not_true, Bool.false_eq_true, if_false])

end Stopped

section Sending
variable (good : sendCheck ((s.array x.core).queue (tq.toNat - 32)) = none)
include good

theorem qmarkWord_of_sending (small : ta.toNat < 32) (isEnd : Bool) :
    let q := tq.toNat - 32
    let b := (s.array x.core).queue q
    let mark := (b.parked.length + b.fifo.length + b.taken.length, BitVec.ofNat 16 (x.reg6 ta).toNat, isEnd, false)
    qmarkWord isEnd tq ta s = .next (x.passed .Q (placeMarks (issueOp
      (onQueue s x.core q fun b => { b with marks := b.marks ++ [mark] }) x (TileOp.blank x s.nextId (.mark q)))
      x.core q)) :=
  queueWord_done issued array low high (by
    simp only [isScalar6_of_lt small, free, good, Bool.not_true, Bool.false_eq_true, if_false])

theorem execQwidth_of_sending (one_of : width.toNat ∈ [1, 2, 4, 8]) :
    let q := tq.toNat - 32
    let b := (s.array x.core).queue q
    execQwidth tq width s = .next (x.passed .Q (issueOp
      (if b.paired then s.setChan b.chan { s.chan b.chan with req := width.toNat }
        else onQueue s x.core q fun b => { b with wantWidth := some width.toNat }) x (TileOp.blank x s.nextId .matrix))) :=
  queueWord_done issued array low high (by
    simp only [isWidth_of_mem one_of, free, good, Bool.not_true, Bool.false_eq_true, if_false])

end Sending

theorem execQstat_of_scalar (small : ta.toNat < 32) :
    execQstat ta tq s = .next (x.passed .Q (issueOp (x.setReg s (low5 ta) (qstateShown s x.core (tq.toNat - 32))) x
      (TileOp.blank x s.nextId .matrix))) :=
  queueWord_done issued array low high (by
    simp only [isScalar6_of_lt small, free, Bool.not_true, Bool.false_eq_true, if_false])

end Bound

end Words

/-- Settles O47: each word on a queue that no `qunbind` dissolves, one lemma for each. -/
theorem queueWordsComplete : Obligations.QueueWordsComplete := by
  intro s x tq ta tt width h n src o issued array low high q k b plain e bytes
  refine ⟨fun free small inside fits ready => ?bind,
    fun free whole => ⟨fun send => ⟨?unbindSend, ?dropSend⟩, fun receive => ⟨?unbindReceive, ?dropReceive⟩⟩,
    fun handle integrity dims in_range => ⟨fun source dest room => ?send, fun source dest room => ?receive⟩,
    fun free good => ⟨fun small => ?mark, fun one_of => ?width⟩, execQstat_of_scalar issued array low high⟩
  case bind =>
    have binds (dir : Dir) := qbindWord_of_ready issued array low high free dir small inside fits ready
    have numbers (d : QDesc) : (bindQueue s x.core q .receive d).nextId = (bindQueue s x.core q .send d).nextId :=
      (bindQueue_nextId ..).trans (bindQueue_nextId ..).symm
    exact ⟨numbers _, binds .send, numbers _ ▸ binds .receive⟩
  case unbindSend => exact execQunbind_of_send issued array low high free whole send
  case unbindReceive => exact execQunbind_of_receive issued array low high free whole receive
  case dropSend => exact execQdrop_of_send issued array low high free whole send
  case dropReceive => exact execQdrop_of_receive issued array low high free whole receive
  case send =>
    have sends (free : Bool) := (qsendWord_of_entries issued array low high handle source dest free).trans
      (unitWord_done issued (checked_of_allPass
        (allPass_cons integrity (allPass_cons dims (allPass_cons (Bool.and_eq_true_iff.2 ⟨in_range, room⟩) rfl))) _))
    exact List.forall_mem_cons.2 ⟨sends false, List.forall_mem_singleton.2 (sends true)⟩
  case receive =>
    exact (execQrecv_of_entries issued array low high handle source dest).trans (unitWord_done issued (checked_of_allPass
      (allPass_cons integrity (allPass_cons dims (allPass_cons (Bool.and_eq_true_iff.2 ⟨in_range, room⟩) rfl))) _))
  case mark =>
    have marks := qmarkWord_of_sending issued array low high free good small
    exact List.forall_mem_cons.2 ⟨marks false, List.forall_mem_singleton.2 (marks true)⟩
  case width => exact execQwidth_of_sending issued array low high free good one_of

/-- Settles O48: each word takes the fault of its operands in their order, and then of its first check that fails. -/
theorem queueFaults : Obligations.QueueFaults := by
  intro s x tq ta tt width o h n src code c ck issued array low high q k b e tile free
  refine ⟨sendCheck_eq b, ?unbound, ?sends, fun handle => ⟨?send, ?stopped, ?receive⟩, fun no_handle => ?operand,
    fun small outside => ?outside, fun unbound whole => ⟨?unbind, ?drop⟩, fun bad => ⟨fun small => ⟨?start, ?finish⟩, ?width⟩,
    fun small inside => ?descriptor⟩
  case unbound | sends =>
    intro dir
    simp only [receiveCheck, dir]
  case send =>
    have sends (free' : Bool) := And.intro
      (fun (bad : pickHandle s x h = .fault c code) => qsendWord_of_handle issued array low high handle bad free')
      fun (source : pickHandle s x h = .ok src) => And.intro
        (fun (bad : sendCheck b = some c) =>
          qsendWord_of_queue issued array low high handle source (pickSend_of_sendCheck free bad) free')
        fun (dest : pickSend s x q = .ok n) (bad : firstBad (tile (.queue q) 0) = some ck) =>
          (qsendWord_of_entries issued array low high handle source dest free').trans
            (unitWord_fault issued (checked_of_firstBad bad _))
    exact List.forall_mem_cons.2 ⟨sends false, List.forall_mem_singleton.2 (sends true)⟩
  case stopped =>
    exact fun bad => execQrecv_of_queue issued array low high handle (pickHead_of_receiveCheck free bad)
  case receive =>
    exact fun source => ⟨fun bad => execQrecv_of_handle issued array low high handle source bad,
      fun dest bad => (execQrecv_of_entries issued array low high handle source dest).trans
        (unitWord_fault issued (checked_of_firstBad bad _))⟩
  case operand =>
    simp only [List.forall_mem_cons, List.not_mem_nil, false_implies, implies_true, and_true]
    exact ⟨qsendWord_of_no_handle issued array low high no_handle false,
      qsendWord_of_no_handle issued array low high no_handle true, execQrecv_of_no_handle issued array low high no_handle⟩
  case outside =>
    have faults (dir : Dir) := qbindWord_of_outside issued array low high free dir small outside
    exact List.forall_mem_cons.2 ⟨faults .send, List.forall_mem_singleton.2 (faults .receive)⟩
  case unbind => exact execQunbind_of_unbound issued array low high free whole unbound
  case drop => exact execQdrop_of_unbound issued array low high free whole unbound
  case start => exact qmarkWord_of_sendCheck issued array low high free bad small false
  case finish => exact qmarkWord_of_sendCheck issued array low high free bad small true
  case width => exact execQwidth_of_sendCheck issued array low high free bad
  case descriptor =>
    have faults (dir : Dir) := And.intro (qbindWord_of_unbindable issued array low high free dir small inside)
      (qbindWord_of_absent issued array low high free dir small inside)
    exact List.forall_mem_cons.2 ⟨faults .send, List.forall_mem_singleton.2 (faults .receive)⟩

end Sys2Proof.Machine
end

section
/-! The canonical form of memory and of core storage (04): every word and event keeps it, and so does every step that a cursor
of an array task, an issue group of a lane core, or an event makes. -/

namespace Sys2Proof.Machine

/-! ### Words and events -/

/-- Every word and every event keeps memory and core storage in canonical form: each arm by the law of its own meaning. -/
theorem exec_ok (i : Instr) {s : State} (h : s.MemoryOk) : Kept (exec i s) := by
  cases i <;> simp only [exec] <;> simp [h]

/-! ### Agents -/

theorem stepArray_ok {s : State} (c : Nat) (cur : Cursor) (h : s.MemoryOk) : Kept (stepArray s c cur) := by
  unfold stepArray
  split
  · exact (kept_next _).2 h
  · next k t running =>
    have store : k.localStore.wf = true := by
      split at running
      · exact runningTask_wf h running
      · cases running
    have put (u : Task) : (s.setArray c { k with task := some u }).MemoryOk := setArray_ok h c store
    split
    · exact (kept_next _).2 (arrayException_ok _ _ _ _ _ _ _ h)
    · dsimp only
      split
      case h_6 => exact (kept_next _).2 (arrayException_ok _ _ _ _ _ _ _ (put _))
      case h_7 => exact exec_ok _ (put _)
      all_goals exact (kept_next _).2 (put _)

theorem stepGroup_ok {s : State} (c slot lane : Nat) (h : s.MemoryOk) : Kept (stepGroup s c slot lane) := by
  have faults (group : List Nat) (pc : Word) (fs : List LaneFault) : Kept (.next (laneException s c slot group pc pc fs)) :=
    (kept_next _).2 (laneException_ok _ _ _ _ _ _ h)
  unfold stepGroup
  split
  · exact (kept_next _).2 h
  · dsimp only
    split
    · exact faults _ _ _
    · split
      · exact faults _ _ _
      · split
        · exact faults _ _ _
        · exact (ite_kept _ _ _).2 ⟨fun _ => exec_ok _ h, fun _ => (kept_next _).2 h⟩

theorem selected_ok {s : State} (h : s.MemoryOk) (x : Sel) : ({ s with sel := x } : State).MemoryOk := same_ok h rfl

theorem unage_ok {s : State} (c slot : Nat) (group : List Nat) (h : s.MemoryOk) : (unage s c slot group).MemoryOk :=
  setLane_ok h c (lane_wf h c)

/-- The first aged group that issues keeps it, and so does every one that is tried. -/
theorem firstAged_ok {s : State} (c : Nat) (h : s.MemoryOk) (xs : List (Nat × Nat × Nat)) (r : Answer)
    (first : firstAged s c xs = some r) : Kept r := by
  induction xs with
  | nil => cases first
  | cons x rest ih =>
    have tried := stepGroup_ok c x.2.1 x.2.2 (selected_ok h (.lane c x.2.1 x.2.2))
    unfold firstAged at first
    split at first
    · next t step =>
      split at first
      · cases first
        exact (kept_next _).2 (unage_ok _ _ _ (tried t step))
      · exact ih first
    · cases first
      exact tried

theorem stepLane_ok {s : State} (c slot lane : Nat) (h : s.MemoryOk) : Kept (stepLane s c slot lane) := by
  unfold stepLane
  split
  · next r first => exact firstAged_ok c h _ r first
  · exact stepGroup_ok c slot lane (selected_ok h _)

theorem stepAgent_ok {s : State} (h : s.MemoryOk) : Kept (stepAgent s) := by
  unfold stepAgent
  split
  · exact stepArray_ok _ _ h
  · exact stepLane_ok _ _ _ h

/-! ### The step -/

theorem advanceTime_ok {s : State} (h : s.MemoryOk) : (advanceTime s).MemoryOk := by
  unfold advanceTime
  split
  · exact h
  · exact onHub_ok (same_ok h rfl) fun _ => rfl

theorem chooseAgent_ok {s : State} (h : s.MemoryOk) : (chooseAgent s).MemoryOk := by
  unfold chooseAgent
  split
  · exact h
  · exact same_ok h rfl

theorem step_ok {s : State} (h : s.MemoryOk) : Kept (step s) := by
  have caches := runCaches_ok (advanceTime_ok h)
  unfold step stepMachine
  dsimp only
  split
  · exact (ite_kept _ _ _).2 ⟨fun _ => (kept_next _).2 (same_ok caches rfl), fun _ => exec_ok _ (same_ok caches rfl)⟩
  · exact stepAgent_ok (chooseAgent_ok caches)

/-- Settles O7: `exec_ok` through the step of the agent that is picked or of the event that comes first. -/
theorem stepKeepsMemoryOk : Obligations.StepKeepsMemoryOk := fun _ t h next => step_ok h t next

/-- Settles O6: at reset memory lists no byte, and there is neither a core nor a saved context. -/
theorem resetMemoryOk : Obligations.ResetMemoryOk :=
  ⟨nil_wf, fun _ core => (nomatch core), fun _ core => (nomatch core), fun _ context => (nomatch context)⟩

end Sys2Proof.Machine
end

section
/-! Atomics and reductions (12 R331 to R336): each issues its accesses to plain storage, and what it leaves at its location. -/

namespace Sys2Proof.Machine

/-- Settles O19: each word makes the access that stands beside it, and plain accesses issue. -/
theorem atomicsComplete : Obligations.AtomicsComplete := by
  intro s d a b sc sz qs
  refine ⟨fun scope small p listed asks plain => ?integer, fun scope zero p listed asks plain => ?float⟩
  case integer =>
    rw [exec_of_mem_integerUpdates (isScope_iff.2 scope) small listed]
    exact memWord_plain asks plain
  case float =>
    rw [exec_of_mem_floatUpdates (isScope_iff.2 scope) zero listed]
    exact memWord_plain asks plain

/-- A choice by `<` is the choice by `≤` the other way. -/
theorem ite_lt_eq_ite_le {α β : Type} [LinearOrder α] (i j : α) (x y : β) :
    (if i < j then x else y) = if j ≤ i then y else x := by
  simp only [← not_lt, ite_not]

/-- Settles O23: `amoNew` chooses by a strict order the operand, where the statement chooses by `≤` the old value. -/
theorem atomicUpdates : Obligations.AtomicUpdates := by
  intro n old v cmp
  have least : (if v % 2 ^ n < old % 2 ^ n then v % 2 ^ n else old % 2 ^ n) = Nat.min (old % 2 ^ n) (v % 2 ^ n) :=
    ite_lt_eq_ite_le ..
  have greatest : (if old % 2 ^ n < v % 2 ^ n then v % 2 ^ n else old % 2 ^ n) = Nat.max (old % 2 ^ n) (v % 2 ^ n) := by
    simp only [ite_lt_eq_ite_le, Nat.max_comm (old % 2 ^ n)]
    rfl
  exact ⟨rfl, rfl, rfl, rfl, congrArg (·, noFlag) (ite_lt_eq_ite_le ..), congrArg (·, noFlag) (ite_lt_eq_ite_le ..),
    congrArg (·, noFlag) least, congrArg (·, noFlag) greatest, rfl, rfl, rfl, rfl, rfl, rfl⟩

end Sys2Proof.Machine
end

section
/-! Fences, waits, elections, exchanges, mailboxes, traps, handlers and ends (12 R322, R323, R326, R327, R338 to R344): what
each word of the Y engine answers where it completes, waits or faults. -/

namespace Sys2Proof.Machine

/-! ### Fences and waits -/

section Fences
variable {s : State} {x : Issuer} {scope : BitVec 3} (issued : s.issuer .Y = some x)
include issued

theorem fenceWord_of_free {waitAll : Bool} (holdAll : Bool) (named : scope.toNat < 6)
    (free : (waitAll && matrixBusy s x) = false) :
    fenceWord waitAll holdAll scope s =
      .next (x.passed .Y (appendFences x waitAll holdAll scope.toNat x.agents s).sweep) :=
  unitWord_done issued (by simp only [isScope_iff.2 named, free, Bool.not_true, Bool.false_eq_true, if_false])

theorem fenceWord_of_busy (holdAll : Bool) (named : scope.toNat < 6) (busy : matrixBusy s x = true) :
    fenceWord true holdAll scope s = .next s :=
  unitWord_wait issued (by
    simp only [isScope_iff.2 named, busy, Bool.not_true, Bool.false_eq_true, if_false, Bool.and_self, if_true])

theorem fenceWord_of_no_scope (waitAll holdAll : Bool) (large : 6 ≤ scope.toNat) :
    fenceWord waitAll holdAll scope s = .next (x.trapped .Y s .illegalOperand 0 0) :=
  unitWord_fault issued (if_pos (by simpa [isScope] using large))

theorem execWcnt_of_below {ld st cp tl : BitVec 6}
    (below : (unitCounters s x).ld ≤ ld.toNat ∧ (unitCounters s x).st ≤ st.toNat ∧ (unitCounters s x).cp ≤ cp.toNat ∧
      (unitCounters s x).tl ≤ tl.toNat) : execWcnt ld st cp tl s = .next (x.passed .Y s) :=
  unitWord_done issued (if_pos below)

theorem execWcnt_of_above {ld st cp tl : BitVec 6}
    (above : ld.toNat < (unitCounters s x).ld ∨ st.toNat < (unitCounters s x).st ∨ cp.toNat < (unitCounters s x).cp ∨
      tl.toNat < (unitCounters s x).tl) : execWcnt ld st cp tl s = .next s :=
  unitWord_wait issued (if_neg (by omega))

end Fences

/-- Settles O25: each fence is `fenceWord` of what it waits for and of what it holds. -/
theorem fencesAndWaitsComplete : Obligations.FencesAndWaitsComplete := by
  intro s x scope ld st cp tl issued
  refine ⟨fun named => fenceWord_of_free issued true named rfl,
    fun named idle => ⟨fenceWord_of_free issued false named ?_, fenceWord_of_free issued true named ?_⟩,
    fun named busy => ⟨fenceWord_of_busy issued false named busy, fenceWord_of_busy issued true named busy⟩, fun large => ?scope,
    fun ld_le st_le cp_le tl_le => execWcnt_of_below issued ⟨ld_le, st_le, cp_le, tl_le⟩, execWcnt_of_above issued⟩
  case scope =>
    have faults (waitAll holdAll : Bool) := fenceWord_of_no_scope issued waitAll holdAll large
    simp only [List.forall_mem_cons]
    exact ⟨faults false true, faults true false, faults true true, List.forall_mem_nil _⟩
  all_goals simp only [idle, Bool.and_false]

/-! ### Mailboxes -/

section Mail
variable {s : State} {x : Issuer} (issued : s.issuer .Y = some x)
include issued

theorem execMbxSend_of_target {a : BitVec 5} {tg : Nat × Nat} (target : mailTarget (x.reg a) = some tg)
    (fenced : fencesOpen s x.agent = false) (heard : hubHears s x.agent.port = true) (d b : BitVec 5) :
    execMbxSend d a b s = .next (x.passed .Y
      (x.setReg (sendMail s x.info.world tg (x.reg b)).1 d (word (sendMail s x.info.world tg (x.reg b)).2))) :=
  unitWord_done issued (by simp only [target, fenced, heard, Bool.not_true, Bool.or_self, Bool.false_eq_true, if_false])

theorem execMbxSend_of_no_target {a : BitVec 5} (no_target : mailTarget (x.reg a) = none) (d b : BitVec 5) :
    execMbxSend d a b s = .next (x.trapped .Y s .illegalOperand 0 0) :=
  unitWord_fault issued (by simp only [no_target, Issue.no])

theorem execMbxRecv_array {v : Word} {rest : List Word} (array : x.kind = .array)
    (mail : (s.array x.core).mailbox = v :: rest) (d : BitVec 5) :
    execMbxRecv d s = .next (x.passed .Y
      (x.setReg (s.setArray x.core { s.array x.core with mailbox := rest }) d v)) :=
  unitWord_done issued (by simp only [coreBox, array, mail])

theorem execMbxRecv_lane {v : Word} {rest : List Word} (lane : x.kind = .lane)
    (mail : (s.lane x.core).mailbox = v :: rest) (d : BitVec 5) :
    execMbxRecv d s = .next (x.passed .Y
      (x.setReg (s.setLane x.core { s.lane x.core with mailbox := rest }) d v)) :=
  unitWord_done issued (by simp only [coreBox, lane, mail])

theorem execMbxRecv_of_empty (empty : coreBox s x = []) (d : BitVec 5) : execMbxRecv d s = .next s :=
  unitWord_wait issued (by simp only [empty])

end Mail

/-- An array core without another world, on a chiplet that is not fenced, takes a message while it holds fewer than 16. -/
theorem sendMail_array {s : State} {c w : Nat} (v : Word)
    (own : (s.array c).world = none ∨ (s.array c).world = some w ∨ w = 0) (unfenced : isFenced s .array c = false) :
    sendMail s w (0, c) v =
      if 16 ≤ (s.array c).mailbox.length then (s, 1)
      else (s.setArray c { s.array c with mailbox := (s.array c).mailbox ++ [v] }, 0) := by
  obtain none_there | same | rfl := own
  · simp [sendMail, none_there, unfenced]
  · simp [sendMail, same, unfenced]
  · simp [sendMail, unfenced]

theorem sendMail_array_of_other_world {s : State} {c w u : Nat} (v : Word) (world : (s.array c).world = some u)
    (other : u ≠ w) (isolated : w ≠ 0) : sendMail s w (0, c) v = (s, 2) := by
  simp [sendMail, world, other, isolated]

/-- Settles O29: sending goes by the mailbox that the address names, receiving by whether the core's own holds an entry. -/
theorem mailboxesComplete : Obligations.MailboxesComplete := by
  intro s x d a b issued
  exact ⟨fun _ target fenced heard => execMbxSend_of_target issued target fenced heard d b,
    fun no_target => execMbxSend_of_no_target issued no_target d b,
    fun _ _ array mail => execMbxRecv_array issued array mail d, fun _ _ lane mail => execMbxRecv_lane issued lane mail d,
    fun empty => execMbxRecv_of_empty issued empty d, fun _ _ v own unfenced => sendMail_array v own unfenced,
    fun _ _ _ v world other isolated => sendMail_array_of_other_world v world other isolated⟩

/-! ### Traps -/

/-- The workgroup of a group that runs. -/
theorem runningGroup_workgroup {s : State} {c slot lane : Nat} {k : LaneCore} {w : Warp} {g : Workgroup} {group : List Nat}
    (running : runningGroup s c slot lane = some (k, w, g, group)) : mapGet? w.wg k.wgs = some g := by
  unfold runningGroup at running
  dsimp only at running
  split at running
  case h_1 => cases running
  case h_2 =>
    split at running
    case h_2 => cases running
    case h_1 there _ =>
      split at running
      case isFalse => cases running
      case isTrue =>
        cases running
        exact there

/-- What a word of an issue group knows of its agent: the lowest lane of the group, its thread, and its warp's workgroup. -/
theorem issuer_lane_spec {s : State} {x : Issuer} {cur : Cursor} {w : Warp} (issued : s.issuer cur = some x)
    (lane : x.kind = .lane) (warp : mapGet? x.slot (s.lane x.core).warps = some w) :
    x.group.headD 0 = x.lane ∧ (mapGet? x.lane w.threads).getD Thread.blank = x.th ∧
      ∃ g, mapGet? w.wg (s.lane x.core).wgs = some g ∧ g.info = x.info := by
  unfold State.issuer at issued
  split at issued
  case h_1 c slot l _ =>
    obtain ⟨⟨k, w', g, group⟩, running, rfl⟩ := Option.map_eq_some_iff.1 issued
    obtain ⟨rfl, warp', -⟩ := runningGroup_spec running
    obtain rfl := Option.some.inj (warp'.symm.trans warp)
    exact ⟨rfl, rfl, g, runningGroup_workgroup running, rfl⟩
  case h_2 =>
    split at issued
    · obtain ⟨_, _, rfl⟩ := Option.map_eq_some_iff.1 issued
      cases lane
    · cases issued

/-- The task of an array core past its trap word, its stop pending or not. -/
abbrev trappedTask (s : State) (x : Issuer) (pend : Option Stop) : ArrayCore :=
  { s.array x.core with
      task := ((s.array x.core).task.map fun t => t.pass .Y (x.pc + 4)).map fun t => { t with pend := pend } }

/-- The stop of a trap word. -/
abbrev trapStop (x : Issuer) (cause : Cause) (code : BitVec 12) : Stop :=
  { cause := cause, cls := 1, code := code.setWidth 16, pc := x.pc, lanes := x.group }

theorem arrayTrap_of_unsealed {s : State} {c : Nat} (unsealed : (s.array c).sealing = false) (x : Stop) :
    arrayTrap s c x = arrayException (s.setArray c
      { s.array c with task := (s.array c).task.map fun t => { t with pend := none } }) c .Y x.cause (x.code.setWidth 64)
      x.code.toNat 0 x.pc :=
  if_neg (Bool.eq_false_iff.1 unsealed)

theorem arrayTrap_of_sealed {s : State} {c : Nat} (sealed : (s.array c).sealing = true) (x : Stop) :
    arrayTrap s c x = s.setArray c
      { s.array c with task := (s.array c).task.map fun t => { t with pend := some x } } :=
  if_pos sealed

section Traps
variable {s : State} {x : Issuer} (issued : s.issuer .Y = some x) (cause : Cause) (code : BitVec 12)
include issued

/-- A trap word of an array task leaves what `arrayTrap` does with the task past the word. -/
theorem trapWord_eq_arrayTrap (array : x.kind = .array) :
    trapWord cause code s = .next (arrayTrap (s.setArray x.core
      { s.array x.core with task := (s.array x.core).task.map fun t => t.pass .Y (x.pc + 4) }) x.core
      (trapStop x cause code)) :=
  unitWord_stay issued (by simp only [array])

theorem trapWord_array (array : x.kind = .array) (unsealed : (s.array x.core).sealing = false) :
    trapWord cause code s = .next (arrayException (s.setArray x.core (trappedTask s x none)) x.core .Y cause
      (code.setWidth 64) code.toNat 0 x.pc) := by
  have number : (code.setWidth 16).toNat = code.toNat := BitVec.toNat_setWidth_of_le (by decide)
  have wide : (code.setWidth 16).setWidth 64 = code.setWidth 64 :=
    BitVec.eq_of_toNat_eq (by rw [BitVec.toNat_setWidth, number, BitVec.toNat_setWidth])
  rw [trapWord_eq_arrayTrap issued cause code array, arrayTrap_of_unsealed (by rw [array_setArray_same]; exact unsealed),
    array_setArray_same, setArray_setArray, wide, number]

theorem trapWord_array_sealed (array : x.kind = .array) (sealed : (s.array x.core).sealing = true) :
    trapWord cause code s = .next (s.setArray x.core (trappedTask s x (some (trapStop x cause code)))) := by
  rw [trapWord_eq_arrayTrap issued cause code array, arrayTrap_of_sealed (by rw [array_setArray_same]; exact sealed),
    array_setArray_same, setArray_setArray]

/-- A trap word of an issue group whose thread enters its handler, or whose warp stops past the word. -/
theorem trapWord_lane {w : Warp} (lane : x.kind = .lane) (unsealed : (s.lane x.core).sealing = false)
    (warp : mapGet? x.slot (s.lane x.core).warps = some w) :
    let w1 := if mayEnter x.info.priv x.th then w else advanceGroup w x.pc x.group
    trapWord cause code s = .next (laneException
      (s.setLane x.core { s.lane x.core with warps := mapSet x.slot { w1 with pend := none } (s.lane x.core).warps })
      x.core x.slot x.group x.pc (x.pc + 4)
      [{ lane := x.lane, cause := cause, value := code.setWidth 64, code := code.toNat, addr := 0 }]) := by
  obtain ⟨lowest, thread, g, workgroup, info⟩ := issuer_lane_spec issued lane warp
  have number : (code.setWidth 16).toNat = code.toNat := BitVec.toNat_setWidth_of_le (by decide)
  have value : word code.toNat = code.setWidth 64 := BitVec.eq_of_toNat_eq (by simp [word])
  refine unitWord_stay issued ?_
  simp only [lane, laneTrap, warp, workgroup, info, lowest, thread, trapFault, number, value]
  rw [if_neg (Bool.eq_false_iff.1 unsealed)]

theorem trapWord_lane_sealed {w : Warp} (lane : x.kind = .lane) (sealed : (s.lane x.core).sealing = true)
    (warp : mapGet? x.slot (s.lane x.core).warps = some w) :
    trapWord cause code s = .next (s.setLane x.core { s.lane x.core with
      warps := mapSet x.slot { w with pend := some (trapStop x cause code) } (s.lane x.core).warps }) := by
  refine unitWord_stay issued ?_
  simp only [lane, laneTrap, warp]
  rw [if_pos sealed]

end Traps

/-- Settles O30: `trap`, `svc` and `brk` are `trapWord` of their own cause. -/
theorem trapWordsComplete : Obligations.TrapWordsComplete := by
  intro s x c issued p listed
  have word : exec p.1 s = trapWord p.2 c s := by
    revert p
    simp only [List.forall_mem_cons]
    exact ⟨rfl, rfl, rfl, List.forall_mem_nil _⟩
  rw [word]
  exact ⟨trapWord_array issued p.2 c, trapWord_array_sealed issued p.2 c, fun _ => trapWord_lane issued p.2 c,
    fun _ => trapWord_lane_sealed issued p.2 c⟩

/-! ### Handlers -/

theorem mayEnter_iff (priv : Bool) (u : Thread) :
    mayEnter priv u = true ↔ priv = true ∧ u.evec ≠ 0 ∧ u.inHandler = false := by
  simp [mayEnter, and_assoc]

theorem onlyLane_setLane (s : State) (c : Nat) (k : LaneCore) : s.onlyLane (s.setLane c k) c :=
  ⟨rfl, fun _ other => lane_setLane_other s other k⟩

theorem onlyArray_setArray (s : State) (c : Nat) (k : ArrayCore) : s.onlyArray (s.setArray c k) c :=
  ⟨rfl, fun _ other => array_setArray_other s other k⟩

/-- The warp in which the thread of a lane is replaced and every other one is held. -/
abbrev Warp.entered (w : Warp) (lane : Nat) (th : Thread) : Warp :=
  freezeOthers { w with threads := mapSet lane th w.threads } lane

/-- The lowest faulting thread of a group enters its handler, and every other thread of the warp is held (12 R341, R343). -/
theorem laneException_enters {s : State} {c slot : Nat} {w : Warp} {g : Workgroup} {th : Thread} {f : LaneFault}
    (warp : mapGet? slot (s.lane c).warps = some w) (workgroup : mapGet? w.wg (s.lane c).wgs = some g)
    (thread : mapGet? f.lane w.threads = some th) (enters : mayEnter g.info.priv th = true) (group : List Nat)
    (pc resume : Word) (fs : List LaneFault) :
    laneException s c slot group pc resume (f :: fs) = s.setLane c { s.lane c with
      warps := mapSet slot (w.entered f.lane (th.enter f.cause f.value resume)) (s.lane c).warps } := by
  simp only [laneException, warp, workgroup, thread, enters, if_true]

theorem mapGet?_entered_own (w : Warp) (lane : Nat) (th : Thread) : mapGet? lane (w.entered lane th).threads = some th := by
  simp only [freezeOthers, mapGet?_mapAll, mapGet?_mapSet_same, Option.map_some, if_true]

theorem mapGet?_entered_other {w : Warp} {lane l : Nat} {u : Thread} (other : l ≠ lane) (there : mapGet? l w.threads = some u)
    (th : Thread) : mapGet? l (w.entered lane th).threads = some { u with frozen := true } := by
  simp only [freezeOthers, mapGet?_mapAll, mapGet?_mapSet_other other, there, Option.map_some, if_neg other]

/-- An array task in its handler at `evec`: the stop point held, the loop levels closed (12 R341). -/
abbrev Task.entered (t : Task) (evec : Word) : Task :=
  { t with
      cursors := Cursors.at evec (t.baseAt .S) (itersOf (t.levels.map Level.close)), outq := [], outBase := 0, path := [],
      levels := t.levels.map Level.close, replay := [], limits := [],
      held := some { cursors := t.cursors, outq := t.outq, outBase := t.outBase, path := t.path, levels := t.levels,
                     replay := t.replay, limits := t.limits } }

theorem arrayException_enters {s : State} {c : Nat} {t : Task} (task : (s.array c).task = some t)
    (enters : mayEnter t.info.priv (s.array c).th = true) (cur : Cursor) (cause : Cause) (value : Word) (code addr : Nat)
    (pc : Word) :
    arrayException s c cur cause value code addr pc = s.setArray c { s.array c with
      th := (s.array c).th.enter cause value t.cursors.s.pc, task := some (t.entered (s.array c).th.evec) } := by
  simp only [arrayException, task, enters, if_true]
  rfl

theorem pc_of_mem_cursorsAt {pc : Word} {base : Nat} {iters : List Iter} {x : CursorSt}
    (listed : x ∈ (Cursors.at pc base iters).list) : x.pc = pc := by
  simp only [Cursors.list, Cursors.at, List.mem_cons, List.not_mem_nil, or_false, or_self] at listed
  rw [listed]
  rfl

/-- Settles O31: the entry of a lane thread is `Thread.enter` and `Warp.entered`, that of an array task `Task.entered`. -/
theorem handlerEntry : Obligations.HandlerEntry := by
  intro s c slot w g th group pc resume f fs t cur cause value code addr
  refine ⟨fun u p => mayEnter_iff p u, fun _ => rfl, fun warp workgroup thread enters => ?lane, fun task enters => ?array⟩
  case lane =>
    refine ⟨_, w.entered f.lane (th.enter f.cause f.value resume), laneException_enters warp workgroup thread enters group pc
      resume fs, onlyLane_setLane .., ?_, mapGet?_entered_own .., fun l u other there => mapGet?_entered_other other there _⟩
    rw [lane_setLane_same]
    exact mapGet?_mapSet_same ..
  case array =>
    refine ⟨_, t.entered (s.array c).th.evec, arrayException_enters task enters cur cause value code addr pc,
      onlyArray_setArray .., ?_, ?_, fun _ => pc_of_mem_cursorsAt, rfl, rfl, fun l listed => ?closed⟩
    · rw [array_setArray_same]
    · rw [array_setArray_same]
    case closed =>
      obtain ⟨_, _, rfl⟩ := List.mem_map.1 listed
      rfl

section Eret
variable {s : State} {x : Issuer} (issued : s.issuer .Y = some x)
include issued

theorem execEret_of_user (user : x.info.priv = false) : execEret s = .next (x.trapped .Y s .privilege 0 0) :=
  unitWord_fault issued (by simp only [user, Bool.not_false, if_true, Issue.no])

theorem execEret_outside (priv : x.info.priv = true) (outside : x.th.inHandler = false) :
    execEret s = .next (x.trapped .Y s .illegalOperand 0 0) :=
  unitWord_fault issued (by
    simp only [priv, outside, Bool.not_true, Bool.not_false, Bool.false_eq_true, if_true, if_false, Issue.no])

theorem execEret_lane {w : Warp} (priv : x.info.priv = true) (inside : x.th.inHandler = true) (lane : x.kind = .lane)
    (warp : mapGet? x.slot (s.lane x.core).warps = some w)
    (lives : deadlocked (evalMasks (x.group.foldl laneReturn w)) = false) :
    execEret s = .next (s.setLane x.core (evalBar { s.lane x.core with
      warps := mapSet x.slot (evalMasks (x.group.foldl laneReturn w)) (s.lane x.core).warps } x.wg)) :=
  unitWord_stay issued (by
    simp only [priv, inside, lane, warp, lives, Bool.not_true, Bool.false_eq_true, if_false])

theorem execEret_array {t : Task} (priv : x.info.priv = true) (inside : x.th.inHandler = true) (array : x.kind = .array)
    (task : (s.array x.core).task = some t) (together : gathered t.cursors = true) :
    execEret s = .next (s.setArray x.core (arrayReturn (s.array x.core) t)) :=
  unitWord_stay issued (by
    simp only [priv, inside, array, task, together, Bool.not_true, Bool.false_eq_true, if_true, if_false])

end Eret

/-- A lane thread that returns goes on at EPC, outside its handler and held no more (12 R342, R343). -/
theorem mapGet?_laneReturn {w : Warp} {l : Nat} {th : Thread} (there : mapGet? l w.threads = some th) :
    mapGet? l (laneReturn w l).threads = some { th with pc := th.epc, inHandler := false, frozen := false } := by
  simp only [laneReturn, thawOthers, mapUpdate_of_get there, mapGet?_mapAll, mapGet?_mapSet_same, Option.map_some]

/-- Settles O32, one lemma for each check of `eret` and for each kind of core. -/
theorem handlerReturnComplete : Obligations.HandlerReturnComplete := by
  intro s x issued
  refine ⟨execEret_of_user issued, execEret_outside issued, fun w => execEret_lane issued,
    fun t h priv inside array task together held => ?array, fun w l th => mapGet?_laneReturn⟩
  case array =>
    refine (execEret_array issued priv inside array task together).trans ?_
    simp only [arrayReturn, held]

/-! ### Ends -/

section Halt
variable {s : State} {x : Issuer} (issued : s.issuer .Y = some x)
include issued

theorem execHalt_lane {w : Warp} (lane : x.kind = .lane) (warp : mapGet? x.slot (s.lane x.core).warps = some w)
    (lives : deadlocked (endThreads w x.group) = false) :
    execHalt s = .next (leaveSlot (s.setLane x.core
      ((evalBar { s.lane x.core with warps := mapSet x.slot (endThreads w x.group) (s.lane x.core).warps } x.wg).latch
        x.wg)) x.core x.slot) :=
  unitWord_stay issued (by simp only [lane, warp, lives, Bool.false_eq_true, if_false])

theorem execHalt_array_last {t : Task} (array : x.kind = .array) (task : (s.array x.core).task = some t)
    (last : othersHalted t.cursors = true) :
    execHalt s = .next (endBindings (s.setArray x.core
      { s.array x.core with task := some { t with
          cursors := { t.cursors with y := { t.cursors.y with halted := true } }, ended := true } }) x.core) :=
  unitWord_stay issued (by simp only [array, task, last, if_true])

theorem execHalt_array_waits {t : Task} (array : x.kind = .array) (task : (s.array x.core).task = some t)
    (others : othersHalted t.cursors = false) : execHalt s = .next s :=
  unitWord_wait issued (by simp only [array, task, others, Bool.false_eq_true, if_false])

end Halt

/-- The thread of a lane has ended. -/
def Warp.hasEnded (w : Warp) (l : Nat) : Prop := ∃ th, mapGet? l w.threads = some th ∧ th.run = .ended

/-- Release of a mask register leaves a thread that has ended (01 R25). -/
theorem hasEnded_evalMask {w : Warp} {l : Nat} (ended : w.hasEnded l) (n : Nat) : (evalMask w n).hasEnded l := by
  obtain ⟨th, there, run⟩ := ended
  unfold evalMask
  dsimp only
  split
  · refine ⟨th, ?_, run⟩
    simp [mapGet?_mapAll, there, run]
  · exact ⟨th, there, run⟩

theorem hasEnded_evalMasks {w : Warp} {l : Nat} (ended : w.hasEnded l) : (evalMasks w).hasEnded l := by
  unfold evalMasks
  induction upFrom 0 12 generalizing w with
  | nil => exact ended
  | cons n _ ih => exact ih (hasEnded_evalMask ended n)

theorem hasEnded_endThreads {w : Warp} {group : List Nat} {l : Nat} {th : Thread} (member : l ∈ group)
    (there : mapGet? l w.threads = some th) : (endThreads w group).hasEnded l :=
  hasEnded_evalMasks ⟨th.end_, by simp [mapGet?_mapAll, there, member], rfl⟩

/-- Settles O33; that the threads of the group have ended outlasts the release that follows (`hasEnded_endThreads`). -/
theorem haltComplete : Obligations.HaltComplete := by
  intro s x issued
  exact ⟨fun _ => execHalt_lane issued, fun _ => execHalt_array_last issued, fun _ => execHalt_array_waits issued,
    fun _ _ _ _ => hasEnded_endThreads⟩

end Sys2Proof.Machine
end

section
/-! Elections and exchanges (12 R326, R327): a word that gives each thread of the issue group its own value for s[d]. -/

namespace Sys2Proof.Machine

/-! ### Threads of one warp changed -/

/-- The thread of a lane of a warp. -/
def State.threadAt (s : State) (c slot l : Nat) : Option Thread :=
  (mapGet? slot (s.lane c).warps).bind fun w => mapGet? l w.threads

/-- Two states differ in the threads of one warp alone, each changed by `u` of its lane. -/
structure State.Rewarp (s t : State) (c slot : Nat) (u : Nat → Thread → Thread) : Prop where
  core : s.onlyLane t c
  others : ∀ n, n ≠ slot → mapGet? n (t.lane c).warps = mapGet? n (s.lane c).warps
  thread : ∀ l, t.threadAt c slot l = (s.threadAt c slot l).map (u l)

theorem State.Rewarp.refl (s : State) (c slot : Nat) : s.Rewarp s c slot fun _ th => th :=
  ⟨⟨rfl, fun _ _ => rfl⟩, fun _ _ => rfl, fun _ => Option.map_id'.symm⟩

theorem State.Rewarp.trans {s t r : State} {c slot : Nat} {u v : Nat → Thread → Thread} (first : s.Rewarp t c slot u)
    (second : t.Rewarp r c slot v) : s.Rewarp r c slot fun l th => v l (u l th) where
  core := by
    obtain ⟨rest, cores⟩ := first.core
    obtain ⟨rest', cores'⟩ := second.core
    refine ⟨?_, fun d other => (cores' d other).trans (cores d other)⟩
    rw [rest', rest]
  others n other := (second.others n other).trans (first.others n other)
  thread l := by rw [second.thread, first.thread, Option.map_map]; rfl

theorem mapGet?_mapUpdate {α : Type} (k j : Nat) (f : α → α) (m : Map α) :
    mapGet? j (mapUpdate k f m) = if j = k then (mapGet? j m).map f else mapGet? j m := by
  unfold mapUpdate
  split
  case h_1 a there =>
    by_cases same : j = k
    · rw [if_pos same, same, mapGet?_mapSet_same, there, Option.map_some]
    · rw [if_neg same, mapGet?_mapSet_other same]
  case h_2 absent =>
    by_cases same : j = k
    · rw [if_pos same, same, absent, Option.map_none]
    · rw [if_neg same]

/-- A change of one warp that changes its threads by `u` of their lanes. -/
theorem rewarp_mapUpdate {s : State} {c slot : Nat} {g : Warp → Warp} {u : Nat → Thread → Thread}
    (threads : ∀ w l, mapGet? l (g w).threads = (mapGet? l w.threads).map (u l)) :
    s.Rewarp (s.setLane c { s.lane c with warps := mapUpdate slot g (s.lane c).warps }) c slot u where
  core := ⟨rfl, fun _ other => lane_setLane_other s other _⟩
  others n other := by rw [lane_setLane_same, mapGet?_mapUpdate, if_neg other]
  thread l := by
    simp only [State.threadAt, lane_setLane_same, mapGet?_mapUpdate, if_true]
    cases mapGet? slot (s.lane c).warps with
    | none => rfl
    | some w => exact threads w l

theorem rewarp_onThread (s : State) (c slot m : Nat) (f : Thread → Thread) :
    s.Rewarp (onThread s (.lane c slot m) f) c slot fun l th => if l = m then f th else th :=
  rewarp_mapUpdate fun w l => by
    rw [mapGet?_mapUpdate]
    split
    · rfl
    · rw [Option.map_id']

theorem rewarp_passed {x : Issuer} (lane : x.kind = .lane) (cur : Cursor) (s : State) :
    s.Rewarp (x.passed cur s) x.core x.slot fun l th =>
      if x.group.contains l then { th with pc := x.pc + 4 } else th := by
  simp only [Issuer.passed, lane]
  exact rewarp_mapUpdate fun w l => mapGet?_mapAll ..

/-! ### Values for the threads of a group -/

theorem setPreg_setPreg (th : Thread) (p : Nat) (v : Word) : (th.setPreg p v).setPreg p v = th.setPreg p v := by
  by_cases zero : p = 0
  · simp only [Thread.setPreg, if_pos zero]
  · simp only [Thread.setPreg, if_neg zero, mapSet_mapSet]

/-- A register written twice with one value is written once. -/
theorem setReg_setReg (ring : Nat) (th : Thread) (d : BitVec 5) (v : Word) :
    (th.setReg ring d v).setReg ring d v = th.setReg ring d v := by
  rw [Thread.setReg, Thread.phys_setReg]
  exact setPreg_setPreg th _ v

theorem rewarp_setReg (c slot ring : Nat) (d : BitVec 5) (v : Nat → Word) (group : List Nat) (s : State) :
    s.Rewarp ((group.map fun l => (l, v l)).foldl
        (fun s y => onThread s (.lane c slot y.1) fun t => t.setReg ring d y.2) s) c slot
      fun l th => if group.contains l then th.setReg ring d (v l) else th := by
  induction group generalizing s with
  | nil => exact .refl s c slot
  | cons m rest ih =>
    have both := (rewarp_onThread s c slot m fun t => t.setReg ring d (v m)).trans (ih _)
    refine ⟨both.core, both.others, fun l => (both.thread l).trans (congrArg (Option.map · _) (funext fun th => ?_))⟩
    by_cases here : l = m
    · subst here
      by_cases again : l ∈ rest
      · simp only [List.contains_cons, List.contains_iff_mem.2 again, beq_self_eq_true, Bool.or_self, if_true, setReg_setReg]
      · simp [again]
    · simp [here]

/-- A word that gives each thread of its group a value leaves it in s[d], and the group at the next word. -/
theorem laneValues_spec {s : State} {x : Issuer} {w : Warp} (issued : s.issuer .Y = some x) (lane : x.kind = .lane)
    (warp : mapGet? x.slot (s.lane x.core).warps = some w) (d : BitVec 5) (f : Issuer → Warp → Nat → Word) :
    ∃ t, laneValues d s f = .next t ∧ s.Rewarp t x.core x.slot fun l th =>
      if x.group.contains l then { th.setReg x.ring d (f x w l) with pc := x.pc + 4 } else th := by
  refine ⟨_, laneWordOnly_done issued lane warp rfl, ?_⟩
  have both := (rewarp_setReg x.core x.slot x.ring d (f x w) x.group s).trans (rewarp_passed lane .Y _)
  refine ⟨both.core, both.others, fun l => (both.thread l).trans (congrArg (Option.map · _) (funext fun th => ?_))⟩
  split <;> rfl

/-- The value of an exchange for a lane: s[a] of the source that `src` names by the lane and s[b] (12 R327). -/
def exchanged (a b : BitVec 5) (src : Nat → Nat → Option Nat) (x : Issuer) (w : Warp) (l : Nat) : Word :=
  match src l (laneReg x w l b).toNat with
  | some m => if x.group.contains m then laneReg x w m a else laneReg x w l a
  | none => laneReg x w l a

/-- Settles O27: `elect` and each exchange are `laneValues` of the value that stands beside them. -/
theorem electionAndExchangeComplete : Obligations.ElectionAndExchangeComplete := by
  intro s x w d a b issued lane warp taken n p listed
  have values : ∃ f : Issuer → Warp → Nat → Word, exec p.1 s = laneValues d s f ∧ f x w = p.2 := by
    revert p
    simp only [List.forall_mem_cons]
    exact ⟨⟨fun y _ l => if l = y.lane then 1 else 0, rfl, rfl⟩,
      ⟨exchanged a b fun _ n => some (n % 32), rfl, rfl⟩,
      ⟨exchanged a b fun l n => if n ≤ l then some (l - n) else none, rfl, rfl⟩,
      ⟨exchanged a b fun l n => if l + n ≤ 31 then some (l + n) else none, rfl, rfl⟩,
      ⟨exchanged a b fun l n => some (l ^^^ (n % 32)), rfl, rfl⟩, List.forall_mem_nil _⟩
  obtain ⟨f, word, value⟩ := values
  obtain ⟨t, next, change⟩ := laneValues_spec issued lane warp d f
  refine ⟨t, word.trans next, change.core, change.others, fun l th there => ?_⟩
  have before : s.threadAt x.core x.slot l = some th := by rw [State.threadAt, warp, Option.bind_some, there]
  exact (change.thread l).trans (by rw [before, Option.map_some, value])

end Sys2Proof.Machine
end

section
/-! System registers (12 R345 to R351): which words may name one, what it reads, and what a write of it leaves. -/

namespace Sys2Proof.Machine

/-! ### The words -/

/-- Both words on a system register check it first. -/
theorem exec_eq_sysWord (s : State) (d : BitVec 5) (r : BitVec 12) :
    ∀ i ∈ ([.sysrd d r, .syswr d r] : List Instr), ∃ f, exec i s = sysWord r s f := by
  have read : ∃ f, execSysrd d r s = sysWord r s f := by
    unfold execSysrd
    exact ⟨_, rfl⟩
  have write : ∃ f, execSyswr d r s = sysWord r s f := by
    unfold execSyswr
    exact ⟨_, rfl⟩
  exact List.forall_mem_cons.2 ⟨read, List.forall_mem_singleton.2 write⟩

section Words
variable {s : State} {x : Issuer} {r : BitVec 12} (issued : s.issuer .Y = some x)
include issued

theorem sysWord_of_unassigned (unassigned : assigned x.kind r = false) (f : Issuer → State → Issue) :
    sysWord r s f = .next (x.trapped .Y s .illegalOperand 0 0) :=
  unitWord_fault issued (by simp only [unassigned, Bool.not_false, if_true, Issue.no])

theorem sysWord_of_user (known : assigned x.kind r = true) (handler : isPrivReg r = true) (user : x.info.priv = false)
    (f : Issuer → State → Issue) : sysWord r s f = .next (x.trapped .Y s .privilege 0 0) :=
  unitWord_fault issued (by
    simp only [known, handler, user, Bool.not_true, Bool.not_false, Bool.and_self, Bool.false_eq_true, if_true, if_false,
      Issue.no])

theorem sysWord_done {f : Issuer → State → Issue} {t : State} (known : assigned x.kind r = true)
    (may : isPrivReg r = false ∨ x.info.priv = true) (done : f x s = .done t) : sysWord r s f = .next (x.passed .Y t) := by
  have allowed : (isPrivReg r && !x.info.priv) = false := by
    obtain open_ | priv := may
    · rw [open_, Bool.false_and]
    · rw [priv, Bool.not_true, Bool.and_false]
  exact unitWord_done issued (by simp only [known, allowed, done, Bool.not_true, Bool.false_eq_true, if_false])

theorem execSysrd_of_assigned (known : assigned x.kind r = true) (may : isPrivReg r = false ∨ x.info.priv = true)
    (d : BitVec 5) : execSysrd d r s = .next (x.passed .Y (x.agents.foldl (readSys x d r.toNat) s)) :=
  sysWord_done issued known may rfl

theorem execSyswr_of_other (known : assigned x.kind r = true) (may : isPrivReg r = false ∨ x.info.priv = true)
    (other : r ≠ 0x101) (d : BitVec 5) :
    execSyswr d r s = .next (x.passed .Y (x.agents.foldl (writeSys x d r.toNat) s)) := by
  have number : (r.toNat != 0x101) = true := bne_iff_ne.2 fun same => other (BitVec.eq_of_toNat_eq same)
  exact sysWord_done issued known may (by simp only [number, Bool.true_or, if_true])

/-- A write of ROT_BASE goes on once every cursor stands at it (01 R42). -/
theorem execSyswr_rotBase {t : Task} (array : x.kind = .array) (task : (s.array x.core).task = some t)
    (together : gathered t.cursors = true) (d : BitVec 5) :
    execSyswr d 0x101 s = .next (x.passed .Y (x.agents.foldl (writeSys x d 0x101) s)) := by
  have known : assigned x.kind 0x101 = true := by rw [array]; rfl
  refine sysWord_done issued known (.inl rfl) ?_
  simp only [task, together, Bool.or_true, if_true]
  rfl

end Words

/-! ### Fields that hardware shows -/

theorem shadowed_of_fresh {sh : Map (Word × Word)} {key : Nat} (fresh : mapGet? key sh = none) (mask : Nat) (v : Word) :
    shadowed sh key mask v = v := by
  simp only [shadowed, fresh]

/-- A register all of whose fields are stored reads as it stands. -/
theorem shadowed_of_no_mask (sh : Map (Word × Word)) (key : Nat) (v : Word) : shadowed sh key 0 v = v := by
  unfold shadowed
  split
  · rfl
  · have all : ~~~word 0 = BitVec.allOnes 64 := rfl
    have none_ : word 0 = 0#64 := rfl
    rw [all, none_, BitVec.and_allOnes, BitVec.and_zero, BitVec.and_zero, BitVec.or_zero]
    exact if_pos rfl

/-- A write through the window has left nothing over a register of the issuer's core (log entry 89). -/
structure SysFresh (s : State) (x : Issuer) (n : Nat) : Prop where
  array : x.kind = .array → mapGet? n (s.array x.core).shadow = none
  lane : x.kind = .lane → mapGet? (laneSysBase + n) (s.lane x.core).shadow = none

/-- A register of the issuer's core shows no field of hardware. -/
structure SysStored (s : State) (x : Issuer) (n : Nat) : Prop where
  array : x.kind = .array → arrayMask (s.array x.core) n = 0
  lane : x.kind = .lane → laneMask n = 0

section Values
variable {s : State} {x : Issuer} {n : Nat}

/-- A register reads as it stands where it shows no field of hardware or nothing is written over it. -/
theorem sysValue_array (array : x.kind = .array) (shown : SysStored s x n ∨ SysFresh s x n) (l : Nat) (th : Thread) :
    sysValue s x l th n = if n < 0x100 then sysCommon s x th n else sysArray s x n := by
  simp only [sysValue, array]
  obtain stored | fresh := shown
  · rw [stored.array array, shadowed_of_no_mask]
  · rw [shadowed_of_fresh (fresh.array array)]

theorem sysValue_lane (lane : x.kind = .lane) (shown : SysStored s x n ∨ SysFresh s x n) (l : Nat) (th : Thread) :
    sysValue s x l th n = if n < 0x100 then sysCommon s x th n else sysLane s x l th n := by
  simp only [sysValue, lane]
  obtain stored | fresh := shown
  · rw [stored.lane lane, shadowed_of_no_mask]
  · rw [shadowed_of_fresh (fresh.lane lane)]

/-- A register that both kinds of core have (12 R346). -/
theorem sysValue_common (common : n < 0x100) (shown : SysStored s x n ∨ SysFresh s x n) (l : Nat) (th : Thread) :
    sysValue s x l th n = sysCommon s x th n := by
  cases kind : x.kind with
  | array => rw [sysValue_array kind shown, if_pos common]
  | lane => rw [sysValue_lane kind shown, if_pos common]

/-- An array core's own register. -/
theorem sysValue_own_array (array : x.kind = .array) (own : 0x100 ≤ n) (shown : SysStored s x n ∨ SysFresh s x n) (l : Nat)
    (th : Thread) : sysValue s x l th n = sysArray s x n := by
  rw [sysValue_array array shown, if_neg (Nat.not_lt.2 own)]

/-- The names of queues show no field of the core's own mask (12 R346). -/
theorem arrayMask_of_queue (k : ArrayCore) (queue : 0x110 ≤ n) : arrayMask k n = 0 := by
  unfold arrayMask
  dsimp only
  split
  case h_11 => exact if_neg (by omega)
  all_goals omega

/-- A register of a task shows fields of hardware only while no task is there. -/
theorem sysStored_of_task {m : Nat} (held : x.kind = .lane ∨ (s.array x.core).task.isSome = true)
    (idle : ∀ k : ArrayCore, arrayMask k n = if k.task.isNone then m else 0) (lane : laneMask n = 0) : SysStored s x n where
  array array := by
    have there := held.resolve_left (by rw [array]; nofun)
    rw [idle, if_neg (by rw [← Option.not_isSome, there]; decide)]
  lane _ := lane

end Values

/-! ### Values -/

/-- LSTAT shows each level that is active (09 R254). -/
theorem getLsbD_lstatOf (ls : List Iter) {n : Nat} (level : n < 6) :
    (lstatOf ls).getLsbD n = (nth { active := false, trip := 0, iter := 0 } ls n).active := by
  have addend (v l : Nat) (b : Bool) : v + ofBool b * 2 ^ l = if b then v + 2 ^ l else v := by cases b <;> simp [ofBool]
  have inside : 0 ≤ n ∧ n < 0 + 6 := by omega
  have width : n < 64 := by omega
  simp only [lstatOf, word, BitVec.getLsbD_ofNat, addend]
  rw [testBit_foldl_upFrom _ (by decide)]
  simp only [width, inside, decide_true, and_self, Bool.true_and, Nat.zero_testBit, Bool.false_or]

theorem writeFpstat_eq (old v : Word) : writeFpstat old v =
    (old &&& 0x3F00 &&& ~~~(v &&& 0x3F00)) ||| (if v.toNat % 8 < 5 then v &&& 7 else 0) := by
  have mode : word (v.toNat % 8) = v &&& 7 := BitVec.eq_of_toNat_eq (by
    have low : v.toNat &&& 7 = v.toNat % 8 := Nat.and_two_pow_sub_one_eq_mod v.toNat 3
    have small : v.toNat % 8 < 2 ^ 64 := by omega
    rw [word, BitVec.toNat_ofNat, BitVec.toNat_and, Nat.mod_eq_of_lt small]
    exact low.symm)
  have flags : old &&& ~~~(v &&& 0x3F00) &&& 0x3F00 = old &&& 0x3F00 &&& ~~~(v &&& 0x3F00) := by
    rw [BitVec.and_assoc, BitVec.and_assoc, BitVec.and_comm (~~~(v &&& 0x3F00))]
  unfold writeFpstat
  rw [flags]
  split
  · rw [← mode]
  · rfl

/-- What a write of the generator leaves is never 0 (02 R78). -/
theorem srOf_setSr (s : State) (x : Issuer) (v : BitVec 16) : srOf (setSr s x v) x = v := by
  cases kind : x.kind <;> simp only [srOf, setSr, kind, array_setArray_same, lane_setLane_same]

theorem onThread_task_array (s : State) (c : Nat) (f : Thread → Thread) :
    (onThread s (.task c) f).array c = { s.array c with th := f (s.array c).th } :=
  array_setArray_same ..

/-- Settles O34: the words check the register first, and a register reads as it stands where all its fields are stored or where
nothing is written over it (`sysValue_common`, `sysValue_own_array`, `sysValue_lane`). -/
theorem systemRegistersComplete : Obligations.SystemRegistersComplete := by
  refine ⟨fun s x d r issued => ⟨fun known may => execSysrd_of_assigned issued known may d,
    fun known may other => execSyswr_of_other issued known may other d,
    fun t array task together => execSyswr_rotBase issued array task together d, fun unassigned => ?unassigned,
    fun known handler user => ?user⟩, fun s x l th ra c => ?values⟩
  case unassigned =>
    intro i listed
    obtain ⟨f, word⟩ := exec_eq_sysWord s d r i listed
    exact word.trans (sysWord_of_unassigned issued unassigned f)
  case user =>
    intro i listed
    obtain ⟨f, word⟩ := exec_eq_sysWord s d r i listed
    exact word.trans (sysWord_of_user issued known handler user f)
  case values =>
    intro read fresh
    have shows {n : Nat} (f : fresh n) : SysStored s x n ∨ SysFresh s x n :=
      .inr ⟨fun kind => by simpa only [fresh, kind] using f, fun kind => by simpa only [fresh, kind] using f⟩
    have stored (n : Nat) (array : ∀ k, arrayMask k n = 0) (lane : laneMask n = 0) : SysStored s x n ∨ SysFresh s x n :=
      .inl ⟨fun _ => array _, fun _ => lane⟩
    have common {n : Nat} (below : n < 0x100) (shown : SysStored s x n ∨ SysFresh s x n) : read n = sysCommon s x th n :=
      sysValue_common below shown l th
    have plain (n : Nat) (below : n < 0x100) (array : ∀ k, arrayMask k n = 0) (lane : laneMask n = 0) :
        read n = sysCommon s x th n := common below (stored n array lane)
    refine ⟨plain _ (by decide) (fun _ => rfl) rfl, plain _ (by decide) (fun _ => rfl) rfl,
      plain _ (by decide) (fun _ => rfl) rfl, plain _ (by decide) (fun _ => rfl) rfl, plain _ (by decide) (fun _ => rfl) rfl,
      plain _ (by decide) (fun _ => rfl) rfl, ?task, ?coreNum, fun f => common (by decide) (shows f),
      fun f => common (by decide) (shows f), ?pending, fun f => common (by decide) (shows f),
      plain _ (by decide) (fun _ => rfl) rfl, fun tk array task => ?array, ?fpstat, writeFpstat_eq _, ?generator, ?lane,
      ?handlers, ?unwritable⟩
    case task =>
      intro held
      have shown (n m : Nat) (idle : ∀ k : ArrayCore, arrayMask k n = if k.task.isNone then m else 0)
          (lane : laneMask n = 0) : SysStored s x n ∨ SysFresh s x n := .inl (sysStored_of_task held idle lane)
      exact ⟨common (by decide) (shown _ _ (fun _ => rfl) rfl), common (by decide) (shown _ _ (fun _ => rfl) rfl),
        common (by decide) (shown _ _ (fun _ => rfl) rfl)⟩
    case coreNum =>
      intro f
      refine (common (by decide) (shows f)).trans ?_
      cases kind : x.kind <;> simp [sysCommon, coreNum, kind]
    case pending =>
      intro held
      exact common (by decide) (.inl (sysStored_of_task held (fun _ => rfl) rfl))
    case array =>
      have own {n : Nat} (above : 0x100 ≤ n) (shown : SysStored s x n ∨ SysFresh s x n) : read n = sysArray s x n :=
        sysValue_own_array array above shown l th
      refine ⟨fun f => (own (by decide) (shows f)).trans (by simp only [sysArray, task, curWin, if_true]),
        (own (by decide) (stored _ (fun _ => rfl) rfl)).trans (by simp [sysArray, task]),
        fun f n level => ?levels, fun n level f => ?counts, fun q name => ?queues⟩
      case levels =>
        have value : read 0x102 = lstatOf tk.cursors.y.iters := (own (by decide) (shows f)).trans (by simp [sysArray, task])
        rw [value]
        exact getLsbD_lstatOf _ level
      case counts =>
        refine (own (by omega) (shows f)).trans ?_
        have other : 0x103 + n ≠ 0x100 ∧ 0x103 + n ≠ 0x101 ∧ 0x103 + n ≠ 0x102 ∧ 0x103 + n < 0x110 := by omega
        simp only [sysArray, task, other, if_true, if_false, Nat.add_sub_cancel_left, literOf]
      case queues =>
        have value : sysArray s x (0x110 + q) = qstateShown s x.core q := by
          have other : 0x110 + q ≠ 0x100 ∧ 0x110 + q ≠ 0x101 ∧ 0x110 + q ≠ 0x102 ∧ ¬ 0x110 + q < 0x110 := by omega
          simp only [sysArray, task, other, if_false, Nat.add_sub_cancel_left]
        have shown : SysStored s x (0x110 + q) :=
          ⟨fun _ => arrayMask_of_queue _ (by omega), fun lane => absurd (array.symm.trans lane) (by decide)⟩
        have reads := (own (by omega) (.inl shown)).trans value
        refine ⟨reads, fun f => reads.trans (shadowed_of_fresh ?_ ..)⟩
        simpa only [fresh, array] using f
    case fpstat =>
      rintro - rfl
      exact onThread_task_array ..
    case generator => exact srOf_setSr ..
    case lane =>
      intro lane
      have own {n : Nat} (above : ¬ n < 0x100) (mask : laneMask n = 0) : read n = sysLane s x l th n :=
        (sysValue_lane lane (.inl ⟨fun array => absurd (lane.symm.trans array) (by decide), fun _ => mask⟩) l th).trans (if_neg above)
      exact ⟨own (by decide) rfl, own (by decide) rfl, own (by decide) rfl⟩
    case handlers =>
      rintro - rfl
      exact ⟨onThread_task_array .., onThread_task_array ..⟩
    case unwritable =>
      simp only [List.forall_mem_cons]
      exact ⟨rfl, rfl, rfl, rfl, rfl, rfl, rfl, rfl, rfl, rfl, rfl, List.forall_mem_nil _⟩

end Sys2Proof.Machine
end

section
/-! The events of chiplet isolation and of sealed frames (18 R435 to R439; 19 R443, R444): what each does where it is enabled. -/

namespace Sys2Proof.Machine

section Isolation
variable {s : State} {p : Nat}

/-- A running port whose heartbeat lapses is isolated, or software is told (18 R435). -/
theorem execHeartbeatLapse_of_lapsed (running : (s.port p).st = .running)
    (lapsed : (s.port p).beat + 1000 * s.hub.isoLapse ≤ s.now) :
    execHeartbeatLapse p s = .next (if s.hub.isoAuto then isolate s p else topoEvent s p) := by
  have enabled : ((s.port p).st != .running || decide (s.now < (s.port p).beat + 1000 * s.hub.isoLapse)) = false := by
    simp [running, lapsed]
  simp only [execHeartbeatLapse, enabled, Bool.false_eq_true, if_false]
  split <;> rfl

theorem execIsoCmd_of_port {v : BitVec 64} (port : v.toNat % 32 < 24) :
    execIsoCmd v s = .next (isolate s (v.toNat % 32)) :=
  if_pos port

/-- A fence is drained once no request of the port waits in the hub (18 R436). -/
theorem execFenceDrained_of_drained (fencing : (s.port p).iso = .fencing)
    (drained : ∀ f ∈ s.flight, f.chip = p → f.stage ≠ .queued) :
    execFenceDrained p s = .next (settleRefused (moveIso (loseUnits s p) p .cleaning id)) := by
  have none_queued : (s.flight.any fun f => f.chip == p && f.stage == .queued) = false := by simpa using drained
  simp only [execFenceDrained, fencing, none_queued, bne_self_eq_false, Bool.or_self, Bool.false_eq_true, if_false]

theorem execCleanComplete_of_cleaning (cleaning : (s.port p).iso = .cleaning) :
    execCleanComplete p s = .next (moveIso (dropRegions (s.dir.foldl (cleanLine p) s) p) p .resetting fun y =>
      { y with st := .down, isoAttempt := y.isoAttempt + 1 }) :=
  if_neg (by simp [cleaning])

theorem execChipletResetRelease_of_resetting (resetting : (s.port p).iso = .resetting) :
    execChipletResetRelease p s = .next (toTraining (moveIso s p .retraining fun y =>
      { y with fromIso := true, pstate := 0, waking := false, sealFrom := (0, 0), sealTo := (0, 0) }) p) :=
  if_neg (by simp [resetting])

/-- A link takes a frame where it is trained and, towards the hub, fewer than three in a row have failed (19 R444). -/
structure TakesFrame (s : State) (p : Nat) (toHub : Bool) : Prop where
  up : (s.port p).st ≠ .down
  on : (s.port p).st ≠ .off
  trained : (s.port p).st ≠ .training
  sound : toHub = false ∨ (s.port p).sealRun < 3

theorem TakesFrame.enabled {toHub : Bool} (takes : TakesFrame s p toHub) :
    ((s.port p).st == .down || (s.port p).st == .off || (s.port p).st == .training
      || (toHub && decide (3 ≤ (s.port p).sealRun))) = false := by
  have run : (toHub && decide (3 ≤ (s.port p).sealRun)) = false := by
    simpa [or_iff_not_imp_left] using takes.sound
  simp only [beq_eq_false_iff_ne.2 takes.up, beq_eq_false_iff_ne.2 takes.on, beq_eq_false_iff_ne.2 takes.trained, run,
    Bool.or_self]

theorem execUcieFrameReceive_sound {toHub : Bool} (takes : TakesFrame s p toHub) :
    execUcieFrameReceive p toHub true s = .next (onPort s p fun y =>
      if toHub then { y with sealRun := 0, sealFrom := nextSeal y.sealFrom } else { y with sealTo := nextSeal y.sealTo }) := by
  simp only [execUcieFrameReceive, takes.enabled, Bool.false_eq_true, if_true, if_false]

theorem execUcieFrameReceive_failed {toHub : Bool} (takes : TakesFrame s p toHub) :
    execUcieFrameReceive p toHub false s = .next (onPort s p fun y =>
      { y with sealErr := min (2 ^ 32 - 1) (y.sealErr + 1), sealRun := if toHub then y.sealRun + 1 else y.sealRun }) := by
  simp only [execUcieFrameReceive, takes.enabled, Bool.false_eq_true, if_false]

end Isolation

/-- Settles O55, one lemma for each event of isolation that is guarded. -/
theorem isolationEventsComplete : Obligations.IsolationEventsComplete := by
  intro s p v toHub x
  refine ⟨rfl, execHeartbeatLapse_of_lapsed, rfl, execIsoCmd_of_port, execFenceDrained_of_drained, execCleanComplete_of_cleaning,
    execChipletResetRelease_of_resetting, fun redispatching undone => ?redispatch,
    fun up on trained sound => ⟨execUcieFrameReceive_sound ⟨up, on, trained, sound⟩,
      execUcieFrameReceive_failed ⟨up, on, trained, sound⟩⟩⟩
  case redispatch =>
    have enabled : ¬(x.iso != .redispatching || x.redone) = true := by simp [redispatching, undone]
    exact if_neg enabled

end Sys2Proof.Machine
end

section
/-! The events of the dispatch sequencer (17 R409 to R420; 13 R368): what each does where it is enabled. -/

namespace Sys2Proof.Machine

/-! ### Queues -/

section Doorbell
variable {s : State} {w q : Nat} (world : w < 16) (queue : q < 64)
include world queue

theorem dq_named : ¬(decide (16 ≤ w) || decide (64 ≤ q)) = true := by simp [world, queue]

/-- A doorbell within the ring submits packets (17 R409). -/
theorem execDqDoorbell_within {v : BitVec 64}
    (room : (v.toNat % 2 ^ 32 + 2 ^ 32 - (s.dq w q).rptr) % 2 ^ 32 ≤ 2 ^ (s.dq w q).size) :
    execDqDoorbell w q v s = .next (s.setDq w q ((s.dq w q).submit s (v.toNat % 2 ^ 32))) :=
  (if_neg (dq_named world queue)).trans (if_neg (Nat.not_lt.2 room))

theorem execDqDoorbell_beyond {v : BitVec 64}
    (beyond : 2 ^ (s.dq w q).size < (v.toNat % 2 ^ 32 + 2 ^ 32 - (s.dq w q).rptr) % 2 ^ 32) :
    execDqDoorbell w q v s = .next (s.setDq w q { s.dq w q with overrun := true }) :=
  (if_neg (dq_named world queue)).trans (if_pos beyond)

theorem execDqEnable_of_named (en : Bool) :
    execDqEnable w q en s = .next (s.setDq w q { s.dq w q with en := en, lock := en }) :=
  if_neg (dq_named world queue)

end Doorbell

/-! ### Packets -/

/-- The queue takes the packet at its head: it is enabled, not paused and not empty, and the journal has room (17 R411). -/
structure Accepts (s : State) (w q : Nat) : Prop where
  enabled : (s.dq w q).en = true
  unpaused : (s.dq w q).pause = false
  filled : (s.dq w q).rptr ≠ (s.dq w q).wptr
  journal : journalOpen s = true

section Accept
variable {s : State} {w q : Nat} (accepts : Accepts s w q)
include accepts

theorem Accepts.goes : ¬(!(s.dq w q).en || (s.dq w q).pause || (s.dq w q).rptr == (s.dq w q).wptr || !journalOpen s) = true := by
  simp [accepts.enabled, accepts.unpaused, accepts.filled, accepts.journal]

/-- The queue past its head. -/
abbrev pastHead (s : State) (w q : Nat) : DQueue :=
  { s.dq w q with rptr := ((s.dq w q).rptr + 1) % 2 ^ 32, full := false, records := mapErase (s.dq w q).rptr (s.dq w q).records }

/-- The packet at the head of a queue. -/
abbrev headPacket (s : State) (w q : Nat) : Packet := packetAt s (s.dq w q) (s.dq w q).rptr

theorem execPacketAccept_of_refusal (refused : refusal s w (s.dq w q) (headPacket s w q) ≠ 0) :
    execPacketAccept w q s = .next (settle (refusePacket (s.setDq w q (pastHead s w q)) w q (s.dq w q).rptr
      (headPacket s w q) (refusal s w (s.dq w q) (headPacket s w q)))) :=
  (if_neg accepts.goes).trans (if_pos refused)

theorem execPacketAccept_of_no_room (taken : refusal s w (s.dq w q) (headPacket s w q) = 0)
    (no_room : tableRoom s w (headPacket s w q) = false) :
    execPacketAccept w q s = .next (s.setDq w q { s.dq w q with full := true }) :=
  (if_neg accepts.goes).trans ((if_neg (not_not.2 taken)).trans (if_pos (by rw [no_room]; rfl)))

theorem execPacketAccept_of_room (taken : refusal s w (s.dq w q) (headPacket s w q) = 0)
    (room : tableRoom s w (headPacket s w q) = true) :
    let p := headPacket s w q
    let r := { JRec.blank with kind := 1, world := w, queue := q, launch := p.launch, job := p.job, graph := p.graph,
                               phase := p.phase, index := (s.dq w q).rptr }
    execPacketAccept w q s = .next (settle (applyPacket (journal (s.setDq w q (pastHead s w q)) r) q
      (mapGet? (s.dq w q).rptr (s.dq w q).records) p)) :=
  (if_neg accepts.goes).trans ((if_neg (not_not.2 taken)).trans (if_neg (by simp [room])))

end Accept

/-! ### Launches -/

/-- A launch issues: it waits in its table, every predecessor is complete, and the journal has room (17 R413). -/
structure Issues (s : State) (l : Launch) : Prop where
  waits : l.issued = false
  wanted : l.cancelled = false
  ready : mayIssue s l = true
  journal : journalOpen s = true

theorem Issues.goes {s : State} {l : Launch} (issues : Issues s l) :
    ¬(l.issued || l.cancelled || !mayIssue s l || !journalOpen s) = true := by
  simp [issues.waits, issues.wanted, issues.ready, issues.journal]

section Launch
variable {s : State} {w job launch : Nat} {l : Launch} (found : findLaunch s w job launch = some l)
include found

theorem execLaunchIssue_of_no_record (issues : Issues s l) (refused : issueRecord s l = none) :
    execLaunchIssue w job launch s = .next (settle (finishLaunch s l .refused)) := by
  simp only [execLaunchIssue, found, refused]
  exact if_neg issues.goes

/-- A launch completes: it has issued, no unit of it is left to place or on a core, its effects are performed, and the journal
has room (17 R414). -/
structure Completes (s : State) (l : Launch) : Prop where
  issued : l.issued = true
  placed : l.cancelled = true ∨ l.replayRefused = true ∨ (l.lost = [] ∧ l.nextUnit = l.grid)
  gone : launchResident s l = false
  performed : effectsDone s l = true
  journal : journalOpen s = true

theorem execLaunchComplete_of_completes (completes : Completes s l) :
    execLaunchComplete w job launch s = .next (settle (finishLaunch s l (launchStatus l))) := by
  have placed : (l.cancelled || l.replayRefused || (l.lost.isEmpty && l.nextUnit == l.grid)) = true := by
    simpa [or_assoc] using completes.placed
  simp only [execLaunchComplete, found, placed, completes.issued, completes.gone, completes.performed, completes.journal,
    Bool.not_true, Bool.or_self, Bool.false_eq_true, if_false]

/-- A launch that has placed no unit for 1 ms is aged; no core is reserved for an array launch, nor a second one for a split
(17 R418). -/
theorem execLaunchAged_of_unreserved {r : LaunchRec} (placing : l.placing s = true) (young : l.aged = none)
    (late : l.placedAt + 1000000 ≤ s.time / 65536)
    (unreserved : l.kind = some .array ∨
      (l.rec? = some r ∧ l.kind = some .lane ∧ (mapGet? r.split s.hub.reserved).isSome = true)) :
    execLaunchAged w job launch s = .next (s.onLaunch w job launch fun l => { l with aged := some s.time }) := by
  have goes : ¬(!l.placing s || l.aged.isSome || decide (s.time / 65536 < l.placedAt + 1000000)) = true := by
    simp [placing, young, late]
  obtain array | ⟨record, lane, reserved⟩ := unreserved
  · simp only [execLaunchAged, found, array]
    exact if_neg goes
  · simp only [execLaunchAged, found, record, lane, reserved, Bool.true_or, if_true]
    exact if_neg goes

end Launch

/-! ### Cancels and the journal -/

/-- A cancel of a level that a table holds cancels what it holds, and discards its units (17 R417; 01 R49). -/
theorem execCancel_of_live {s : State} {v : BitVec 64} {lv cw cj ci : Nat} (selected : selectedLevel s = (lv, cw, cj, ci))
    (go : v.getLsbD 0 = true) (live : levelLive s lv cw cj ci = true) :
    let s1 := s.onHub fun h => { h with
      launches := h.launches.map fun y => if inLevel lv cw cj ci y then { y with cancelled := true, lost := [] } else y,
      jobs := h.jobs.map fun j => if j.world = cw ∧ j.num = cj then cancelLevel lv ci j else j }
    let s2 := dropLost s1 fun y => match findLaunch s1 y.1 y.2.1 y.2.2.1 with
      | some z => z.cancelled
      | none => true
    execCancel v s =
      .next (settle (cleanReserved (pruneSaved (discardCancelled (journal s2 (cancelRecord s lv cw cj ci)))))) := by
  have given : ¬(!v.getLsbD 0) = true := by simp [go]
  have lives : ¬(!levelLive s lv cw cj ci) = true := by simp [live]
  simp only [execCancel, selected]
  exact (if_neg given).trans (if_neg lives)

/-- Records below an acknowledged number are free, and what waited for them goes on (17 R420). -/
theorem execJrnlAck_of_next {s : State} {v : BitVec 64} (next : s.hub.jAck ≤ v.toNat) :
    execJrnlAck v s =
      .next (settle (journalDrain s.hub.jPending (s.onHub fun h => { h with jAck := v.toNat }))) :=
  if_neg (Nat.not_lt.2 next)

/-- Settles O56, one lemma for each event under the guard that enables it. -/
theorem sequencerEventsComplete : Obligations.SequencerEventsComplete := by
  intro s w q job launch core n v en l r kind pin x ahead next p
  refine ⟨fun world queue => ⟨execDqDoorbell_within world queue, execDqDoorbell_beyond world queue,
      execDqEnable_of_named world queue en⟩,
    fun enabled unpaused filled open_ => ?packets, fun found waits wanted ready open_ => ?issue,
    fun found issued placed gone performed open_ =>
      execLaunchComplete_of_completes found ⟨issued, placed, gone, performed, open_⟩,
    ?cancel, ?ack, fun found record kind_ next_ placing eligible_ turn => ?place,
    fun found placing young late unreserved => execLaunchAged_of_unreserved found placing young late unreserved⟩
  case packets =>
    have accepts : Accepts s w q := ⟨enabled, unpaused, filled, open_⟩
    exact ⟨execPacketAccept_of_refusal accepts, execPacketAccept_of_no_room accepts, execPacketAccept_of_room accepts⟩
  case issue =>
    have issues : Issues s l := ⟨waits, wanted, ready, open_⟩
    refine ⟨execLaunchIssue_of_no_record found issues, fun record => ?_⟩
    show execLaunchIssue w job launch s = _
    simp only [execLaunchIssue, found, record]
    exact if_neg issues.goes
  case cancel => exact execCancel_of_live rfl
  case ack => exact execJrnlAck_of_next
  case place =>
    have goes : ¬(!l.placing s || !eligible s l core || !hasTurn s l kind core) = true := by
      simp [placing, eligible_, turn]
    show execPlaceUnit w job launch core s = _
    simp only [execPlaceUnit, found, record, kind_, next_]
    exact if_neg goes

end Sys2Proof.Machine
end

section
/-! Unit commands (18 R428, R437): where `Obligations.UnitCommandsComplete` fails. -/

namespace Sys2Proof.Machine

/-- A command on a stopped unit of a fenced chiplet is refused (18 R437). -/
theorem onStopped_of_isFenced (s : State) (f : State → UnitRef → State)
    (fenced : isFenced s (selectedUnit s).kind (selectedUnit s).core = true) :
    onStopped s f = .next (refuseUnit s) :=
  if_neg fun reachable => by simp [fenced] at reachable

theorem execUnitResume_of_isFenced (s : State)
    (fenced : isFenced s (selectedUnit s).kind (selectedUnit s).core = true) :
    execUnitResume s = .next (refuseUnit s) := by
  unfold execUnitResume
  exact onStopped_of_isFenced s _ fenced

/-- The task of the counterexample: a task just started that a `brk` has stopped. -/
def stoppedTask : Task :=
  { startTask placedInfo 0 [] with stop := some { cause := .brk, cls := 1, code := 0, pc := 0, lanes := [] } }

/-- The array core that holds the stopped task. -/
def stoppedCore : ArrayCore := { ArrayCore.blank with task := some stoppedTask }

/-- The counterexample: after reset, array core 0 holds a stopped task and port 6, its chiplet's, is fenced. -/
def fencedStop : State :=
  (State.reset.setArray 0 stoppedCore).setPort 6 { Port.blank 6 with st := .fenced }

theorem selectedUnit_fencedStop : selectedUnit fencedStop = { kind := .array, core := 0, slot := 0 } := by decide

theorem unitState_fencedStop : unitState fencedStop (selectedUnit fencedStop) = 2 := by decide

theorem isFenced_fencedStop :
    isFenced fencedStop (selectedUnit fencedStop).kind (selectedUnit fencedStop).core = true := by decide

/-- Refutes O57: its clauses for a stopped unit leave out that the unit's chiplet is not fenced. No command reaches a fenced
chiplet (18 R437), so there UNIT_RESUME leaves the task stopped and sets UNIT_CMD.ERR, as in `fencedStop`. -/
theorem not_unitCommandsComplete : ¬ Obligations.UnitCommandsComplete := by
  unfold Obligations.UnitCommandsComplete
  intro claim
  let context := contextOf fencedStop 0 0 .array 0 false
  obtain ⟨-, stopped, -⟩ :=
    claim fencedStop .array 0 0 context context stoppedCore (newWarp [] false 0 0) stoppedTask placedInfo
  obtain ⟨arrayUnit, -⟩ := stopped unitState_fencedStop
  obtain ⟨resumes, -⟩ := arrayUnit (by decide) (by decide) rfl
  have refused : exec .unitResume fencedStop = .next (refuseUnit fencedStop) :=
    execUnitResume_of_isFenced fencedStop isFenced_fencedStop
  have same := Host.Outcome.next.inj (refused.symm.trans resumes)
  have flag : (refuseUnit fencedStop).hub.unitErr = fencedStop.hub.unitErr :=
    congrArg (fun s => s.hub.unitErr) same
  exact absurd flag (by decide)

end Sys2Proof.Machine
end

section
/-! The management controller where it answers: sessions, boot and power loss (19 R446 to R453), and the commands on weight
generations (22 R484 to R487). -/

namespace Sys2Proof.Machine

/-! ### Responses and sessions -/

/-- Once boot has measured an image the responder answers (19 R450). -/
theorem respond_of_up {s : State} (up : 2 ≤ s.hub.bootStep) (ws : List Word) :
    respond s ws = { s with reply := some ws } :=
  if_pos (by simpa [responderUp] using up)

theorem onSessions_of_up {s : State} (up : 2 ≤ s.hub.bootStep) (f : Map Session → Map Session) :
    onSessions s f = s.onHub fun h => { h with sessions := f h.sessions } :=
  if_pos (by simpa [responderUp] using up)

/-- What a message that changes the sessions leaves: the sessions and the response. -/
def State.withSessions (s : State) (m : Map Session) (ws : List Word) : State :=
  { s.onHub (fun h => { h with sessions := m }) with reply := some ws }

theorem respond_onSessions_of_up {s : State} (up : 2 ≤ s.hub.bootStep) (f : Map Session → Map Session) (ws : List Word) :
    respond (onSessions s f) ws = s.withSessions (f s.hub.sessions) ws := by
  rw [onSessions_of_up up]
  exact respond_of_up (s := s.onHub fun h => { h with sessions := f h.sessions }) up ws

/-- A message on a session in the state that the message needs. -/
theorem onSession_of_open {s : State} {sid : Nat} {x : Session} {needsUp : Bool} (up : 2 ≤ s.hub.bootStep)
    (found : mapGet? sid s.hub.sessions = some x) (fits : x.up = needsUp) (code : Word) (f : Session → Option Session) :
    onSession s sid needsUp code f = s.withSessions
      (match f x with
        | some y => mapSet sid y s.hub.sessions
        | none => mapErase sid s.hub.sessions) [code, word sid] := by
  have goes : ¬(needsUp != x.up) = true := by simp [fits]
  simp only [onSession, found]
  exact (if_neg goes).trans (respond_onSessions_of_up up _ _)

/-- A message on no open session needs one (19 R448). -/
theorem onSession_of_none {s : State} {sid : Nat} (up : 2 ≤ s.hub.bootStep) (none_ : mapGet? sid s.hub.sessions = none)
    (needsUp : Bool) (code : Word) (f : Session → Option Session) :
    onSession s sid needsUp code f = { s with reply := some sessionRequired } := by
  simp only [onSession, none_]
  exact respond_of_up up _

theorem execNegotiateAlgorithms_of_up {s : State} (up : 2 ≤ s.hub.bootStep) (x : AlgoOffer) :
    execNegotiateAlgorithms x s = .next { s with
      reply := some (if bit x.sign 7 && bit x.hash 1 && bit x.dhe 4 && bit x.aead 1 then [0x63, 0x80, 0x2, 0x10, 0x2]
        else [0x7F, 0x01]) } := by
  rw [execNegotiateAlgorithms, respond_of_up up, chosen]
  cases bit x.sign 7 && bit x.hash 1 && bit x.dhe 4 && bit x.aead 1 <;> rfl

theorem sessionOpen_iff {s : State} {session : Option Nat} :
    sessionOpen s session = true ↔
      session = none ∨ ∃ j, session = some j ∧ (mapGet? j s.hub.sessions).isSome = true := by
  cases session <;> simp [sessionOpen]

theorem execGetMeasurements_of_open {s : State} {session : Option Nat} (up : 2 ≤ s.hub.bootStep)
    (open_ : sessionOpen s session = true) (index : Nat) :
    execGetMeasurements session index s =
      .next { s with reply := some ([0x60, word index, word s.hub.mgen] ++ measurement s index) } := by
  rw [execGetMeasurements, if_pos open_, respond_of_up up]

theorem execPldmPlatformMonitoring_eq (sensor : Nat) (reading : BitVec 64) (s : State) :
    execPldmPlatformMonitoring sensor reading s =
      .next { s with reply := some (if sensor < 46 then [word sensor, 0, reading] else [word sensor, 0x80]) } := by
  simp [execPldmPlatformMonitoring, isSensor]

/-! ### Boot and power loss -/

theorem execBoot_of_halted {s : State} (r : BootReport)
    (halted : bootFuses ((moduleReset s).onHub fun h => { h with bootClear := false }) = none) :
    execBoot r s = .next (writeBoot ((moduleReset s).onHub fun h => { h with bootClear := false })
      fun b => { b with step := 0 }) := by
  simp only [execBoot, halted]

/-- The boot up to its first step: the fuses agree, the boot key is drawn (19 R450). -/
def bootStarted (s1 : State) : State := bootDone (drawBootKey s1) 1 id

/-- The image that a started boot takes: the secondary one when the boot record names it. -/
def takenImage (s2 : State) : FlashImage := if (bootRecord s2).image == 1 then s2.hub.secondary else s2.hub.primary

/-- A boot with a sound image measures it, and goes on with the hardware by the boot record. -/
theorem execBoot_of_sound {s s1 : State} (r : BootReport)
    (fuses : bootFuses ((moduleReset s).onHub fun h => { h with bootClear := false }) = some s1)
    (sound : imageSound (bootStarted s1).hub (takenImage (bootStarted s1)) = true) :
    execBoot r s = .next
      (let s2 := bootStarted s1
       let img := takenImage s2
       let s3 := (raiseCounter s2 img).onHub fun h => { h with measured := (img.hubDigest, img.mcDigest) }
       bootHardware (clearedRecord s.hub.bootClear (bootRecord s2))
         ((bootDone s3 2 id).onHub fun h => { h with bootImage := ofBool ((bootRecord s2).image == 1) }) r) := by
  have goes : ¬(!imageSound (bootStarted s1).hub (takenImage (bootStarted s1))) = true := by simp [sound]
  simp only [execBoot, fuses]
  exact if_neg goes

/-- A boot with an image that is not sound halts; the primary one leaves the record at the secondary. -/
theorem execBoot_of_unsound {s s1 : State} (r : BootReport)
    (fuses : bootFuses ((moduleReset s).onHub fun h => { h with bootClear := false }) = some s1)
    (unsound : imageSound (bootStarted s1).hub (takenImage (bootStarted s1)) = false) :
    execBoot r s = .next (if (bootRecord (bootStarted s1)).image == 1 then writeBoot (bootStarted s1) id
      else writeBoot (bootStarted s1) fun b => { b with image := 1 }) := by
  have halts : (!imageSound (bootStarted s1).hub (takenImage (bootStarted s1))) = true := by simp [unsound]
  simp only [execBoot, fuses]
  exact if_pos halts

/-! ### Generation commands -/

/-- A generation command in the state that it needs. -/
theorem genCommand_of_ok {s : State} {b k : Nat} {ok : WBind → GenSlot → Bool} (f : State → WBind → GenSlot → State)
    (hb : b < 64) (hk : k < 4) (fits : ok (s.wbind b) ((s.wbind b).slot k) = true) :
    genCommand s b k ok f = .next (f s (s.wbind b) ((s.wbind b).slot k)) := by
  have inRange : ¬(64 ≤ b ∨ 4 ≤ k) := by omega
  exact (if_neg inRange).trans (if_pos fits)

theorem execWbStage_of_free {s : State} {b k : Nat} (hb : b < 64) (hk : k < 4) (used : (s.wbind b).id ≠ 0)
    (free : ((s.wbind b).slot k).st = .free) :
    execWbStage b k s = .next (s.setWbind b
      { (s.wbind b).setSlot k
          { (s.wbind b).slot k with st := .staged, gen := ((s.wbind b).maxGen + 1) % 2 ^ 16, digest := 0 } with
        maxGen := ((s.wbind b).maxGen + 1) % 2 ^ 16 }) := by
  have fits : ((s.wbind b).id != 0 && ((s.wbind b).slot k).st == GenSt.free) = true := by
    rw [bne_iff_ne.mpr used, free]
    rfl
  exact genCommand_of_ok _ hb hk fits

theorem execWbMeasure_of_staged {s : State} {b k : Nat} (hb : b < 64) (hk : k < 4)
    (staged : ((s.wbind b).slot k).st = .staged) (imageFits : imageOk s (s.wbind b) ((s.wbind b).slot k) = true) :
    execWbMeasure b k s =
      .next (s.setWbind b ((s.wbind b).setSlot k { (s.wbind b).slot k with st := .measuring })) := by
  have fits : (((s.wbind b).slot k).st == GenSt.staged && imageOk s (s.wbind b) ((s.wbind b).slot k)) = true := by
    simp [staged, imageFits]
  exact genCommand_of_ok _ hb hk fits

theorem execWbDrop_of_unused {s : State} {b k : Nat} (hb : b < 64) (hk : k < 4)
    (unused : ((s.wbind b).slot k).st = .staged ∨ ((s.wbind b).slot k).st = .measured) :
    execWbDrop b k s = .next (s.setWbind b ((s.wbind b).setSlot k { (s.wbind b).slot k with st := .free })) := by
  have fits : (((s.wbind b).slot k).st == GenSt.staged || ((s.wbind b).slot k).st == GenSt.measured) = true := by
    simpa using unused
  exact genCommand_of_ok _ hb hk fits

theorem execWbMeasureComplete_of_measuring {s : State} {b k : Nat}
    (measuring : ((s.wbind b).slot k).st = .measuring) :
    execWbMeasureComplete b k s = .next (s.setWbind b ((s.wbind b).setSlot k
      { (s.wbind b).slot k with
        st := .measured, digest := natOfBytes (sha384 (imageBytes s (s.wbind b) ((s.wbind b).slot k))) })) :=
  if_pos (by simp [measuring])

/-- The binding after a switch leaves its old current slot retiring, and that slot's generation. -/
def WBind.retired (x : WBind) : WBind × Nat :=
  match x.current with
  | some j => (x.setSlot j { x.slot j with st := .retiring }, (x.slot j).gen)
  | none => (x, 0)

theorem execWbSwitch_of_ready {s : State} {b k : Nat} (hb : b < 64) (hk : k < 4)
    (ready : ((s.wbind b).slot k).st = .measured ∨ ((s.wbind b).slot k).st = .staged ∧ (s.wbind b).worlds = 1) :
    execWbSwitch b k s = .next (freeSlots (bumpGen (trace
      (s.setWbind b ((s.wbind b).retired.1.setSlot k { (s.wbind b).slot k with st := .current })) 24 0x0D 3 0xFFFF b
      (((s.wbind b).slot k).gen + 2 ^ 16 * (s.wbind b).retired.2) 0))) := by
  have fits : (((s.wbind b).slot k).st == GenSt.measured ||
      (((s.wbind b).slot k).st == GenSt.staged && (s.wbind b).worlds == 1)) = true := by
    simpa using ready
  rw [execWbSwitch, genCommand_of_ok _ hb hk fits, WBind.retired]
  cases (s.wbind b).current <;> rfl

/-! ### The statement -/

/-- Settles O58: every clause is the event's own lemma above, with its guard decided by the clause's hypotheses. -/
theorem managementEventsComplete : Obligations.ManagementEventsComplete := by
  unfold Obligations.ManagementEventsComplete
  intro s offered slot nonce index sid sensor b k blown session reading img r x midRecord
  refine ⟨fun up => ⟨?_, ?_, ?_, ?_, ?_, ?_, fun hasSession => ?_, ?_, fun found notUp => ?_,
      fun found isUp => ⟨?_, ?_, ?_⟩, fun missing i hi => ?_⟩,
    execPldmPlatformMonitoring_eq sensor reading s, rfl, rfl,
    ⟨execBoot_of_halted r, fun s1 fuses => ⟨execBoot_of_sound r fuses, execBoot_of_unsound r fuses⟩⟩, rfl,
    fun hb hk => ⟨execWbStage_of_free hb hk, execWbMeasure_of_staged hb hk, execWbMeasureComplete_of_measuring,
      fun ready => ⟨fun current => ?_, fun j current => ?_⟩, execWbDrop_of_unused hb hk⟩⟩
  case refine_1 => exact congrArg _ (respond_of_up up _)
  case refine_2 => exact congrArg _ (respond_of_up up _)
  case refine_3 => exact execNegotiateAlgorithms_of_up up offered
  case refine_4 => exact congrArg _ (respond_of_up up _)
  case refine_5 => exact congrArg _ (respond_of_up up _)
  case refine_6 => exact congrArg _ (respond_of_up up _)
  case refine_7 => exact execGetMeasurements_of_open up (sessionOpen_iff.mpr hasSession) index
  case refine_8 => exact congrArg _ (respond_onSessions_of_up up _ _)
  case refine_9 => exact congrArg _ (onSession_of_open up found notUp _ _)
  case refine_10 => exact congrArg _ (onSession_of_open up found isUp _ _)
  case refine_11 => exact congrArg _ (onSession_of_open up found isUp _ _)
  case refine_12 => exact congrArg _ (onSession_of_open up found isUp _ _)
  case refine_13 =>
    revert i
    simp only [List.forall_mem_cons]
    exact ⟨congrArg _ (onSession_of_none up missing _ _ _), congrArg _ (onSession_of_none up missing _ _ _),
      congrArg _ (onSession_of_none up missing _ _ _), congrArg _ (onSession_of_none up missing _ _ _),
      List.forall_mem_nil _⟩
  case refine_14 =>
    refine (execWbSwitch_of_ready hb hk ready).trans ?_
    simp only [WBind.retired, current]
  case refine_15 =>
    refine (execWbSwitch_of_ready hb hk ready).trans ?_
    simp only [WBind.retired, current]

end Sys2Proof.Machine
end

section
/-! The events of channels, optical allowances, fabric time and reach tables (21 R466 to R482). -/

namespace Sys2Proof.Machine

/-! ### Channel states (21 R470, R471) -/

theorem execChanTuned_of_locked {s : State} {c : Nat} (tuning : (s.chan c).st = .tuning)
    (locked : (s.chan c).assigned &&& ~~~(s.chan c).parked &&& ~~~(s.chan c).locked = 0) (allowed : (s.chan c).have_ ≠ 0) :
    execChanTuned c s = .next
      (let x := s.chan c
       let y := x.douse x.parked s.now
       let w := widthFor (y.oldReq.getD y.req) y.usable.length
       let up := marksOver (usePark (moveChan s c
         { y with cur := w, stripe := y.stripeFor w, rr := 0, marker := none, oldReq := none } .up) c) c
       if x.ctl.getLsbD 48 then moveChan up c (up.chan c) .draining else up) := by
  have goes : ¬((s.chan c).st != ChanSt.tuning
      || (s.chan c).assigned &&& ~~~(s.chan c).parked &&& ~~~(s.chan c).locked != 0 || (s.chan c).have_ == 0) = true := by
    rw [beq_eq_false_iff_ne.mpr allowed, locked, tuning]
    decide
  exact if_neg goes

theorem drained_iff {s : State} {c : Nat} :
    drained s c = true ↔ (s.chan c).reqs = [] ∧ (s.chan c).sentFrames = (s.chan c).acked ∧
      ∀ n ∈ namesOver s c, (bindingOf s n).taken = [] := by
  simp [drained, and_assoc]

theorem execChanDrained_of_drained {s : State} {c : Nat} (draining : (s.chan c).st = .draining)
    (empty : drained s c = true) :
    execChanDrained c s = .next
      (let out := moveChan s c ((s.chan c).darkened s.now) .dark
       if (s.chan c).ctl.getLsbD 48 then out else undark out c) := by
  have goes : ¬((s.chan c).st != ChanSt.draining || !drained s c) = true := by simp [draining, empty]
  exact if_neg goes

theorem execChanDrained_of_not_drained {s : State} {c : Nat} (full : ¬drained s c = true) :
    execChanDrained c s = .next s :=
  if_pos (by simp [full])

/-- A frame that stands in the replay buffer of a channel (21 R477). -/
def Channel.holdsFrame (x : Channel) (frame : Nat) : Prop :=
  (x.st = .up ∨ x.st = .draining) ∧ x.acked ≤ frame ∧ frame < x.sentFrames

/-- A negative acknowledgement of a frame of the replay buffer has it sent again, up to four times. -/
theorem execLinkNak_of_holdsFrame {s : State} {c frame : Nat} (held : (s.chan c).holdsFrame frame) :
    execLinkNak c frame s =
      if 4 ≤ mapGet 0 (s.chan c).frames frame then .next (failChannel s c)
      else .next (s.setChan c
        { s.chan c with
          retry := min 65535 ((s.chan c).retry + 1),
          frames := mapSet frame (mapGet 0 (s.chan c).frames frame + 1) (s.chan c).frames }) := by
  obtain ⟨open_, unacked, sent⟩ := held
  have goes : ¬(((s.chan c).st != ChanSt.up && (s.chan c).st != ChanSt.draining) || decide (frame < (s.chan c).acked)
      || decide ((s.chan c).sentFrames ≤ frame)) = true := by
    rcases open_ with st | st <;> simp [st, unacked, sent]
  simp only [execLinkNak]
  exact if_neg (by simpa using goes)

theorem execLinkNak_of_gone {s : State} {c frame : Nat}
    (gone : frame < (s.chan c).acked ∨ (s.chan c).sentFrames ≤ frame) : execLinkNak c frame s = .next s :=
  if_pos (by rcases gone with h | h <;> simp [h])

/-! ### Parking, locking and width markers (21 R468, R473) -/

/-- While a channel is draining or dark a write of PARK waits for the next up. -/
theorem setPark_of_later {s : State} {c : Nat} (park : BitVec 8) (later : (s.chan c).st = .draining ∨ (s.chan c).st = .dark) :
    setPark s c park = s.setChan c { s.chan c with park := park } := by
  rcases later with st | st <;> simp only [setPark, st]

theorem setPark_of_not_later {s : State} {c : Nat} (park : BitVec 8)
    (now : ¬((s.chan c).st = .draining ∨ (s.chan c).st = .dark)) :
    setPark s c park = usePark (s.setChan c { s.chan c with park := park }) c := by
  cases st : (s.chan c).st <;> simp_all only [setPark, reduceCtorEq, or_self, or_true, true_or, not_true_eq_false]

theorem execPositionLocked_of_tuning {s : State} {c i : Nat} (tuning : (s.chan c).st = .tuning) (hi : i < 8)
    (assigned : (s.chan c).assigned.getLsbD i = true) (dark : (s.chan c).locked.getLsbD i = false)
    (works : laserWorks s (s.chan c) i = true) (unparked : (s.chan c).parked.getLsbD i = false) :
    execPositionLocked c i s = .next (s.setChan c ((s.chan c).lock i s.now)) := by
  simp only [execPositionLocked, tuning]
  exact if_pos (by simp only [assigned, dark, works, hi, unparked, decide_true, Bool.not_false, Bool.and_self])

theorem execPositionLocked_of_waking {s : State} {c i : Nat} (open_ : (s.chan c).st = .up ∨ (s.chan c).st = .draining)
    (hi : i < 8) (assigned : (s.chan c).assigned.getLsbD i = true) (dark : (s.chan c).locked.getLsbD i = false)
    (works : laserWorks s (s.chan c) i = true) (waking : (s.chan c).waking.getLsbD i = true)
    (lights : (s.chan c).started.getLsbD i = true ∨ litCount s < s.hub.ceiling) :
    execPositionLocked c i s = .next (lockWoken s c i) := by
  have lights' : ((s.chan c).started.getLsbD i || decide (litCount s < s.hub.ceiling)) = true := by
    rwa [Bool.or_eq_true, decide_eq_true_eq]
  have goes : ((s.chan c).assigned.getLsbD i && !(s.chan c).locked.getLsbD i && laserWorks s (s.chan c) i && decide (i < 8)
      && (s.chan c).waking.getLsbD i && ((s.chan c).started.getLsbD i || decide (litCount s < s.hub.ceiling))) = true := by
    simp only [assigned, dark, works, hi, waking, lights', decide_true, Bool.not_false, Bool.and_self]
  rcases open_ with st | st <;> simp only [execPositionLocked, st] <;> exact if_pos goes

theorem execWidthMarkerPlace_of_due {s : State} {c : Nat} (open_ : (s.chan c).st = .up ∨ (s.chan c).st = .draining)
    (none_ : (s.chan c).marker = none)
    (due : (s.chan c).computed ≠ (s.chan c).cur ∨ (s.chan c).locked &&& (s.chan c).parked ≠ 0) :
    execWidthMarkerPlace c s = .next (s.setChan c
      { s.chan c with marker := some ((s.chan c).computed, (s.chan c).stripeFor (s.chan c).computed) }) := by
  have goes : ¬(((s.chan c).st != ChanSt.up && (s.chan c).st != ChanSt.draining) || (s.chan c).marker.isSome
      || ((s.chan c).computed == (s.chan c).cur && (s.chan c).locked &&& (s.chan c).parked == 0)) = true := by
    have notSettled : ¬((s.chan c).computed == (s.chan c).cur && (s.chan c).locked &&& (s.chan c).parked == 0) = true := by
      rw [Bool.and_eq_true, beq_iff_eq, beq_iff_eq]
      exact fun settled => due.elim (· settled.1) (· settled.2)
    rw [none_]
    rcases open_ with st | st <;> rw [st] <;> exact notSettled
  exact if_neg goes

theorem execWidthMarkerConfirm_of_marker {s : State} {c w : Nat} {m : BitVec 8}
    (marked : ((sendSome s c).chan c).marker = some (w, m)) :
    execWidthMarkerConfirm c s = .next
      (let sent := sendSome s c
       let y := sent.chan c
       let gone := y.locked &&& y.parked &&& ~~~m
       let out := trace (setSending sent c { (y.douse gone sent.now) with cur := w, stripe := m, rr := 0, marker := none })
         (chanBuf c) 0x11 4 0xFFFF c (w + 256 * y.cur) 0
       if gone = 0 then out else trace out (chanBuf c) 0x12 4 0xFFFF c gone.toNat 0) := by
  simp only [execWidthMarkerConfirm, marked]

/-! ### Allowances (21 R472) -/

theorem execAllowanceRequest_of_free {s : State} {c i : Nat} (sender : Nat) (free : (s.rslot (4 * c + i)).grantee = none) :
    execAllowanceRequest c i sender s = .next (grantSlot s (4 * c + i) sender (s.rslot (4 * c + i)).queue) := by
  simp only [execAllowanceRequest, free]

theorem execAllowanceRequest_of_granted {s : State} {c i sender g : Nat}
    (granted : (s.rslot (4 * c + i)).grantee = some g) (new : (s.rslot (4 * c + i)).queue.contains sender = false) :
    execAllowanceRequest c i sender s = .next
      (let n := 4 * c + i
       let out := setSlot s n { s.rslot n with queue := (s.rslot n).queue ++ [sender] }
       if g = sender then nextGrant out n else out) := by
  have goes : ¬(s.rslot (4 * c + i)).queue.contains sender = true := Bool.eq_false_iff.mp new
  simp only [execAllowanceRequest, granted]
  exact if_neg goes

theorem execAllowanceGrant_of_asked {s : State} {c i : Nat} (volume life : Nat)
    (assigned : (s.chan c).assigned.getLsbD i = true) (asked : (s.chan c).asked.getLsbD i = true)
    (open_ : (s.chan c).st = .tuning ∨ (s.chan c).st = .up ∨ (s.chan c).st = .draining) :
    execAllowanceGrant c i volume life s = .next
      (let x := s.chan c
       setSending s c
        { x with have_ := x.have_ ||| BitVec.ofNat 8 (2 ^ i), asked := x.asked &&& ~~~BitVec.ofNat 8 (2 ^ i),
                 volume := mapSet i (16 * volume) x.volume,
                 life := mapSet i (if x.locked.getLsbD i then s.now + life else life) x.life }) := by
  have goes : ¬(!(s.chan c).assigned.getLsbD i || !(s.chan c).asked.getLsbD i || ((s.chan c).st != ChanSt.tuning
      && (s.chan c).st != ChanSt.up && (s.chan c).st != ChanSt.draining)) = true := by
    rcases open_ with st | st | st <;> simp [assigned, asked, st]
  exact if_neg goes

/-- A grant is due for renewal when less than half of its volume or of its lifetime remains. -/
theorem not_enough_iff {volume left : Nat} :
    ¬(decide (512 ≤ volume) && decide (50000 ≤ left)) = true ↔ volume < 512 ∨ left < 50000 := by
  simp only [Bool.and_eq_true, decide_eq_true_eq]
  omega

theorem renewPosition_of_due {s : State} {c i : Nat} (granted : (s.chan c).have_.getLsbD i = true)
    (locked : (s.chan c).locked.getLsbD i = true)
    (due : mapGet 0 (s.chan c).volume i < 512 ∨ mapGet 0 (s.chan c).life i - s.now < 50000) :
    renewPosition s c i = s.setChan c
      { s.chan c with
        volume := mapSet i 1024 (s.chan c).volume, life := mapSet i (s.now + 100000) (s.chan c).life } := by
  have goes : ¬(!(s.chan c).have_.getLsbD i || !(s.chan c).locked.getLsbD i
      || (decide (512 ≤ mapGet 0 (s.chan c).volume i) && decide (50000 ≤ mapGet 0 (s.chan c).life i - s.now))) = true := by
    rw [granted, locked]
    exact not_enough_iff.mpr due
  exact if_neg goes

theorem renewSlot_of_due {s : State} {n m : Nat} (granted : (s.rslot n).grantee = some m)
    (due : (s.rslot n).volume < 512 ∨ (s.rslot n).lapse - s.now < 50000) :
    renewSlot s n =
      if hasSpace s then grantSlot { s with free := s.free + 1 } n m (s.rslot n).queue else { s with free := s.free + 1 } := by
  simp only [renewSlot, granted]
  exact if_neg (not_enough_iff.mpr due)

theorem lapsePosition_of_lapsed {s : State} {c i : Nat} (granted : (s.chan c).have_.getLsbD i = true)
    (locked : ((sendSome s c).chan c).locked.getLsbD i = true) (unparked : ((sendSome s c).chan c).parked.getLsbD i = false)
    (runs : ((sendSome s c).chan c).hold.getLsbD i = false ∨ ((sendSome s c).chan c).st = .up)
    (lapsed : mapGet 0 ((sendSome s c).chan c).life i ≤ (sendSome s c).now) :
    lapsePosition s c i =
      (let sent := sendSome s c
       let y := sent.chan c
       let m : BitVec 8 := BitVec.ofNat 8 (2 ^ i)
       sent.setChan c { y with have_ := y.have_ &&& ~~~m, expired := y.expired ||| m, asking := y.asking ||| m }) := by
  have goes : ¬(!(s.chan c).have_.getLsbD i
      || (!((sendSome s c).chan c).locked.getLsbD i || ((sendSome s c).chan c).parked.getLsbD i
        || (((sendSome s c).chan c).hold.getLsbD i && (((sendSome s c).chan c).st == ChanSt.draining
          || ((sendSome s c).chan c).st == ChanSt.dark)))
      || decide ((sendSome s c).now < mapGet 0 ((sendSome s c).chan c).life i)) = true := by
    rcases runs with h | h <;> simp [granted, locked, unparked, h, lapsed]
  exact if_neg goes

theorem execAllowanceExpiry_receiver_of_lapsed {s : State} {f i : Nat}
    (granted : (s.rslot (4 * f + i)).grantee.isSome = true) (lapsed : (s.rslot (4 * f + i)).lapse ≤ s.now) :
    execAllowanceExpiry (.receiver f) i s = .next (nextGrant s (4 * f + i)) := by
  have goes : ¬((s.rslot (4 * f + i)).grantee.isNone || decide (s.now < (s.rslot (4 * f + i)).lapse)) = true := by
    simp [Option.isSome_iff_ne_none.mp granted, lapsed]
  exact if_neg goes

/-! ### Light and fabric time (21 R466, R475) -/

/-- The lasers of a channel, set to the index of its peer, reach the peer from any module: a position's transmit fibre is one of
the four of the peer's group, and the index is the distance to the peer's member number. -/
theorem routed_laser (x : Channel) (i m : Nat) : (routed m (x.fibreOf i).1 (x.laser m)).1 = x.peer := by
  have plane : ∃ q < 4, (x.fibreOf i).1 = 4 * (x.peer / 128) + q := by
    unfold Channel.fibreOf
    split
    · exact ⟨_, Nat.mod_lt _ (by decide), rfl⟩
    · exact ⟨_, Nat.mod_lt _ (by decide), rfl⟩
  obtain ⟨q, hq, fibre⟩ := plane
  rw [fibre]
  simp only [routed, Channel.laser, laserIndex]
  omega

theorem execPtpSync_of_domain {s : State} {master : PtpTime} (offset : BitVec 32)
    (ours : master.domain % 256 = s.hub.ftDomain) :
    execPtpSync master offset s = .next
      (let far := master.ns * 65536
       let t := if s.hub.synced then s.time else max s.time far
       let hold := if s.hub.synced then s.hub.ftHold else s.time - far
       { s with time := t }.onHub fun h =>
        { h with ftOffset := offset, ftLock := decide (-20 ≤ offset.toInt) && decide (offset.toInt ≤ 20), synced := true,
                 ftHold := hold, lastSync := t - hold }) :=
  if_neg (by simp [ours])

theorem execPtpSync_of_other_domain {s : State} {master : PtpTime} (offset : BitVec 32)
    (other : master.domain % 256 ≠ s.hub.ftDomain) : execPtpSync master offset s = .next s :=
  if_pos (by simp [other])

/-! ### Reduction windows and frames (21 R466, R476, R479) -/

/-- A write of a reduction window that is not in force has no pending entries to write first. -/
theorem execRwinWrite_of_closed {s : State} {link e : Nat} (isLimit : Bool) (v : BitVec 64) (hlink : link < 8) (he : e < 128)
    (closed : (mapGet { base := 0, limit := 0 } s.hub.rwins (128 * link + e)).base.getLsbD 0 = false) :
    execRwinWrite link e isLimit v s = .next
      (let old : RWin := mapGet { base := 0, limit := 0 } s.hub.rwins (128 * link + e)
       let w : RWin := if isLimit then { old with limit := v &&& 0x000003FFFFFFF000 }
         else { old with base := v &&& 0x000003FFFFFFF001 }
       s.onHub fun h => { h with rwins := mapSet (128 * link + e) w h.rwins }) := by
  have inRange : ¬(decide (8 ≤ link) || decide (128 ≤ e)) = true := by simp [hlink, he]
  simp only [execRwinWrite]
  rw [if_neg inRange]
  simp only [closed, Bool.false_and, Bool.false_eq_true, if_false]

/-- A channel hears a frame of its peer that its receive slot hears. -/
def hearsPeer (s : State) (c : Nat) (fr : OpticalFrame) : Prop :=
  (s.chan c).peer = fr.source ∧ hears s fr = true ∧
    ((s.chan c).st = .up ∨ (s.chan c).st = .tuning ∨ (s.chan c).st = .draining)

/-- The guard of `execOpticalFrameReceive` for a frame that the channel does not hear. -/
theorem deaf_iff_not_hearsPeer (s : State) (c : Nat) (fr : OpticalFrame) :
    ((s.chan c).st == ChanSt.off || (s.chan c).st == ChanSt.dark || (s.chan c).st == ChanSt.failed
      || (s.chan c).peer != fr.source || !hears s fr) = true ↔ ¬hearsPeer s c fr := by
  unfold hearsPeer
  cases (s.chan c).st <;> simp [imp_iff_not_or]

theorem execOpticalFrameReceive_of_orbit {s : State} {fr : OpticalFrame} (c : Nat) (sound : Bool)
    (orbit : orbitHears s fr = true) :
    execOpticalFrameReceive c sound fr s =
      .next { s with reply := some [word (if sound then 1 + 4 * ofBool fr.confirms else 2)] } :=
  if_pos orbit

theorem execOpticalFrameReceive_of_deaf {s : State} {c : Nat} {fr : OpticalFrame} (sound : Bool)
    (noOrbit : orbitHears s fr = false) (deaf : ¬hearsPeer s c fr) : execOpticalFrameReceive c sound fr s = .next s := by
  have noOrbit' : ¬orbitHears s fr = true := by simp [noOrbit]
  exact (if_neg noOrbit').trans (if_pos ((deaf_iff_not_hearsPeer s c fr).mpr deaf))

theorem execOpticalFrameReceive_of_heard {s : State} {c : Nat} {fr : OpticalFrame} (noOrbit : orbitHears s fr = false)
    (heard : hearsPeer s c fr) :
    execOpticalFrameReceive c true fr s = .next
      { setSending (useSlot s fr) c
          { (((useSlot s fr).chan c).takeAcks fr.acked) with sealFrom := nextSeal (s.chan c).sealFrom } with
        reply := some [word (1 + 4 * ofBool fr.confirms)] } ∧
    execOpticalFrameReceive c false fr s = .next { s with reply := some [2] } := by
  have noOrbit' : ¬orbitHears s fr = true := by simp [noOrbit]
  have notDeaf := fun guard => (deaf_iff_not_hearsPeer s c fr).mp guard heard
  exact ⟨(if_neg noOrbit').trans (if_neg notDeaf), (if_neg noOrbit').trans (if_neg notDeaf)⟩

/-! ### The statement -/

/-- Settles O60: every clause is the event's own lemma above, with its guard decided by the clause's hypotheses. -/
theorem fabricEventsComplete : Obligations.FabricEventsComplete := by
  unfold Obligations.FabricEventsComplete
  intro s c i f frame sender volume life slot link e v ctl mask offset isLimit master fr
  refine ⟨fun hc => ?enable, rfl, rfl, rfl, execChanTuned_of_locked, fun draining noReqs acked noTiles => ?drained,
    fun unacked => ?undrained, fun open_ unacked sent => ?nak, execLinkNak_of_gone, ⟨fun later => ?later, fun now => ?now⟩,
    execPositionLocked_of_tuning, execPositionLocked_of_waking, execWidthMarkerPlace_of_due,
    fun w m => execWidthMarkerConfirm_of_marker, execAllowanceRequest_of_free sender,
    fun g => execAllowanceRequest_of_granted, execAllowanceGrant_of_asked volume life,
    fun granted locked due => ?renewSender, fun m granted due => ?renewReceiver,
    fun granted locked unparked runs lapsed => ?expirySender, execAllowanceExpiry_receiver_of_lapsed,
    fun locked now => ?orbit, fun unlocked => ?noOrbit, routed_laser _ i,
    ⟨execPtpSync_of_domain offset, execPtpSync_of_other_domain offset⟩, ⟨fun due => ?timeout, fun early => ?early⟩, rfl,
    execRwinWrite_of_closed isLimit ctl, ⟨fun heardInOrbit => ⟨execOpticalFrameReceive_of_orbit c true heardInOrbit,
        execOpticalFrameReceive_of_orbit c false heardInOrbit⟩, execOpticalFrameReceive_of_heard,
      fun noOrbit deaf sound => execOpticalFrameReceive_of_deaf sound noOrbit deaf⟩, rfl⟩
  case enable => exact if_neg (Nat.not_le.mpr hc)
  case drained => exact execChanDrained_of_drained draining (drained_iff.mpr ⟨noReqs, acked, noTiles⟩)
  case undrained =>
    refine execChanDrained_of_not_drained fun all => ?_
    obtain ⟨-, allAcked, -⟩ := drained_iff.mp all
    exact unacked allAcked
  case nak =>
    have sentAgain := execLinkNak_of_holdsFrame ⟨open_, unacked, sent⟩
    exact ⟨fun four => sentAgain.trans (if_pos four), fun fewer => sentAgain.trans (if_neg (Nat.not_le.mpr fewer))⟩
  case later => exact ⟨congrArg _ (setPark_of_later _ later), congrArg _ (setPark_of_later _ later)⟩
  case now => exact ⟨congrArg _ (setPark_of_not_later _ now), congrArg _ (setPark_of_not_later _ now)⟩
  case renewSender => exact congrArg _ (renewPosition_of_due granted locked due)
  case renewReceiver => exact congrArg _ (renewSlot_of_due granted due)
  case expirySender => exact congrArg _ (lapsePosition_of_lapsed granted locked unparked runs lapsed)
  case orbit =>
    have goes : ¬(!s.hub.ftLock || slot != s.now / 250 % 128) = true := by simp [locked, now]
    exact if_neg goes
  case noOrbit => exact if_pos (by simp [unlocked])
  case timeout => exact if_neg (Nat.not_lt.mpr due)
  case early => exact if_pos early

end Sys2Proof.Machine
end
